-- ==== Sys2Proof/Word.lean ====
section
/-! DEFINITION. Bytes, addresses, sparse maps and identifiers: the plain words every other file uses (R11 to R21). -/

namespace Sys2Proof

/-- One byte. -/
abbrev Byte := BitVec 8

/-- A byte of a memory at its address. -/
abbrev Cells := List (Nat × BitVec 8)

/-- A sparse table: keys strictly rising, no entry equal to what the table reads as at an unlisted key. -/
abbrev SMap (α : Type) := List (Nat × α)

/-- Cores 0 to 191 (R11). -/
abbrev CoreIx := Fin 192
/-- Arrays a0 to a3 of a core (R79). -/
abbrev ArrIx := Fin 4
/-- Memory channels 0 to 127 (R12). -/
abbrev ChIx := Fin 128
/-- Submission queues 0 to 1023 (R5). -/
abbrev SqIx := Fin 1024
/-- Completion rings 0 to 1023 (R323). -/
abbrev CqIx := Fin 1024
/-- PCIe functions: 0 the PF, 1 to 32 the VFs (R307). -/
abbrev FnIx := Fin 33
/-- Contexts (R352). -/
abbrev CtxIx := Fin 4096
/-- Settings (R381). -/
abbrev SetIx := Fin 64
/-- Locket slots (R14). -/
abbrev SlotIx := Fin 32
/-- Trebry ports (R13). -/
abbrev PortIx := Fin 12
/-- Mesh halves: 0 west, 1 east (R30). -/
abbrev HalfIx := Fin 2
/-- Copy engines (R13). -/
abbrev CeIx := Fin 4
/-- Fence-table entries (R361). -/
abbrev FenceIx := Fin 65536
/-- Interrupt sources (R528). -/
abbrev SrcIx := Fin 1024
/-- Interrupt targets: 0 to 7 the queue processors, 8 Decrid (R540). -/
abbrev TgtIx := Fin 9
/-- Module IDs (R16). -/
abbrev ModIx := Fin 1024

/-- "No context is named" (R15). -/
def noCtx : Nat := 0xFFFF
/-- "The module itself and not any Locket" (R14). -/
def noLocket : Nat := 0xFF

end Sys2Proof
end

