-- ==== Sys2Proof/Syntax.lean ====
section
/-! DEFINITION. The commands: one constructor of `Instr` for each row of the table of steps. The operands of a row are the
unit it names, the data that comes with it, and what only the environment decides: transmissions that fail, readings, elapsed
times, progress. -/

namespace Sys2Proof

/-- An engine with a range walker slot: cores 0 to 191, copy engines 192 to 195 (R268). -/
abbrev EngIx := Fin 196

/-- What happens on the bond while a request is performed (R202, R203, R205, R208): for each sector in rising address the bits that each
transmission of its read and of its write inverts (512 of data, then 16 of CRC; a missing entry means none), the number of failed
transmissions of its poison command (5 means all failed), the same of the write that a mirror forwards to its destination (R397), and the
single-bit errors that the dies corrected. -/
structure Xmit where
  rdErrs : List (List Nat) := []
  wrErrs : List (List Nat) := []
  poisonFails : List Nat := []
  mirErrs : List (List Nat) := []
  mirPoison : List Nat := []
  corrected : Nat := 0
deriving DecidableEq, Repr

/-- How a message reaches Decrid (R571, R580). -/
inductive Transport where
  | i3c
  | smbus
  | vdm
  | doe
deriving DecidableEq, Repr

/-- What a DMA stall timer watches (R548). -/
inductive StallUnit where
  | tag (core : CoreIx) (tag : Fin 16)
  | job (jid : Nat)
deriving DecidableEq, Repr

/-- Why a descriptor fetch failed (R322, R344): KIND and the Completion Status. -/
structure FetchFail where
  kind : Fin 16
  status : Fin 8
deriving DecidableEq, Repr

/-- A PCIe link as it settles (R303, R351): RATE code, width, flit mode, SRIS in force. -/
structure LinkState where
  rate : Fin 7
  width : Fin 17
  flit : Bool
  sris : Bool
deriving DecidableEq, Repr

/-- A timing-margin monitor (R508, R568): that of core n for n below 192, and 192 to 239 those of the base die. -/
abbrev MonitorIx := Fin 240

/-- The kinds of event that the activity model counts (R518): array cycles by format, vector and tile-memory operations, channel, seam and mesh
bytes, Trebry and PCIe traffic. -/
inductive PowerEvent where
  | arrayCycle (format : Nat)
  | vector | tileMemory | channelByte | seamByte | meshByte | trebry | pcie
deriving DecidableEq, Repr

/-- What a power control step reads: measured power in W (none when the fast sensor gives no valid sample), whether PMBus telemetry is present, and
how many events of each kind the last 1 ms has counted (R504, R518). -/
structure PowerReading where
  meas : Option Nat
  telemetry : Bool
  events : List (PowerEvent × Nat)
deriving DecidableEq, Repr

/-- What the tests of steps 2 to 4 of power-up find (R598, R599, R603): a step that failed, 0 for step 3 and 1 for step 4; whether a loop-back of
Decrid's own buses failed. -/
structure PowerUpTests where
  failedStep : Option (Fin 2) := none
  busFail : Bool := false
deriving DecidableEq, Repr

/-- A message of IDE_KM over secured SPDM (R586): its session and the function whose stream it names. -/
structure IdeMessage where
  sid : Nat
  fn : FnIx
deriving DecidableEq, Repr

/-- The key set that K_SET_GO names, and the key that IDE_KM has programmed into it since the last (R586, log 34). -/
structure IdeKeySet where
  set : Fin 2
  key : Option (BitVec 256) := none
deriving DecidableEq, Repr

/-- Who writes a register: a function through its BAR0, or a target of the interrupt controller through its own port to the INT
registers (R309, R311, R539). -/
inductive Writer where
  | host (fn : FnIx)
  | target
deriving DecidableEq, Repr

/-- The sectors of a request that its home serves now: bit k of `sectors` stands for the sector at place k of the request (R213). -/
structure Part where
  rid : Nat
  sectors : BitVec 4
deriving DecidableEq, Repr

/-- What happens on the two bonds while a move job reads and writes a sector, as in `Xmit`. -/
structure MoveSector where
  sec : Nat
  rdErrs : List Nat := []
  wrErrs : List Nat := []
  poisonFails : Nat := 0
deriving DecidableEq, Repr

/-- How a move job has gone (R208, R398, R408): its duration, the sectors whose transmissions the bonds disturbed, and the single-bit errors that
the source's dies corrected. -/
structure MoveEnd where
  us : BitVec 32
  sectors : List MoveSector := []
  corrected : Nat := 0
deriving DecidableEq, Repr

/-- A function's read of the register of one of several equal sets (R309, R311). -/
structure ReadBy (α : Type) where
  fn : FnIx
  ix : α
deriving DecidableEq, Repr

/-- The commands of the block. -/
inductive Instr where
  /- cores (02, 03, 04) -/
  | bundleIssue (n : CoreIx) (extra : Nat)
  | streamResponse (rid : Nat)
  | farCacheLookup (e : EngIx) (evicted : List (Nat × Nat))
  | rangeWalkStep (e : EngIx) (x : Xmit)
  | tileOccupancyEnd (n : CoreIx) (a : ArrIx)
  | tileSecondPassEnd (n : CoreIx) (a : ArrIx)
  | staggerStep
  | arrayRampComplete (n : CoreIx) (a : ArrIx)
  | arrayIdle (n : CoreIx) (a : ArrIx)
  | arrayRowGate (n : CoreIx) (a : ArrIx)
  | taskStart (tid : Nat)
  | taskCompletion (n : CoreIx)
  | sliceExpiry (n : CoreIx)
  | switchOutStart (n : CoreIx) (progress : List Nat)
  | switchDrainTimeout (n : CoreIx)
  | switchOutComplete (n : CoreIx)
  | switchInStart (n : CoreIx) (tid : Nat)
  | switchInComplete (n : CoreIx)
  | noRetireTimeout (n : CoreIx)
  | dmaStallTimeout (u : StallUnit)
  | coreStop (n : CoreIx)
  | coreResume (n : CoreIx)
  | coreStep (n : CoreIx) (extra : Nat)
  /- memory (05) -/
  | channelRequest (w : Part) (x : Xmit)
  | fenceSignal (rid : Nat) (x : Xmit)
  | channelRefresh (c : ChIx) (bank : Nat)
  | windowAccess (w : Part)
  | windowAccessTimeout (rid : Nat)
  | scrubComplete (c : ChIx) (us : BitVec 32)
  | copyJobComplete (jid : Nat)
  | moveJobComplete (s : SetIx) (i : Fin 128) (e : MoveEnd)
  | swapDrainComplete (s : SetIx)
  | swapUnlock (s : SetIx) (us : BitVec 32)
  /- queues (08) -/
  | doorbell (fn : FnIx) (page off size : Nat) (value : BitVec 32)
  | descriptorFetch (q : SqIx)
  | descriptorArrival (q : SqIx) (idx : BitVec 32) (data : BitVec 512)
  | descriptorFetchError (q : SqIx) (idx : BitVec 32) (err : FetchFail)
  | completionTimeout (q : SqIx) (idx : BitVec 32)
  | nopDescriptor (q : SqIx)
  | task (q : SqIx)
  | codeLoad (q : SqIx)
  | codeLoadComplete (load : Nat)
  | copy (q : SqIx) (ce : CeIx)
  | scrub (q : SqIx)
  | contextCreate (q : SqIx)
  | contextDestroy (q : SqIx)
  | contextAbort (q : SqIx)
  | contextAbortDrained (ctx : CtxIx)
  | rangeInval (q : SqIx)
  | rangeInvalComplete (q : SqIx) (idx : BitVec 32)
  | faultResolveRetry (q : SqIx)
  | faultResolveError (q : SqIx)
  | setSwap (q : SqIx)
  | setSwapLocket (q : SqIx)
  | locketCreate (q : SqIx)
  | locketTeardown (q : SqIx)
  | teardownDrainEnd (l : SlotIx)
  | teardownMemberMissing (l : SlotIx) (m : ModIx)
  | rolePool (q : SqIx)
  | roleCompute (q : SqIx)
  | sqEnable (fn : FnIx) (q : SqIx) (value : BitVec 64)
  | sqDisable (fn : FnIx) (q : SqIx)
  | cqEnable (fn : FnIx) (c : CqIx) (value : BitVec 64)
  | evEnable (fn : FnIx) (value : BitVec 64)
  | fqEnable (fn : FnIx) (l : SlotIx) (value : BitVec 64)
  | cqConsWrite (fn : FnIx) (c : CqIx) (value : BitVec 32)
  | evConsWrite (fn : FnIx) (value : BitVec 32)
  | fqConsWrite (fn : FnIx) (l : SlotIx) (value : BitVec 32)
  | msixModerationTimeout (kind : Fin 3) (ring : Fin 1024)
  | msixUnmask (fn : FnIx) (vec : Fin 2048)
  | queFnMsixWrite (fn : FnIx) (value : BitVec 64)
  /- fences, pool, leases (09, 11) -/
  | fenceCreate (index : FenceIx) (x : Xmit)
  | fenceDestroy (index : FenceIx)
  | fencePoll (q : SqIx) (x : Xmit)
  | alloc (locket : SlotIx) (block : BitVec 19)
  | revoke (block : BitVec 19)
  | free (block : BitVec 19)
  | blockClearDone (block : BitVec 19)
  | accept (block : BitVec 19)
  | grant (block : BitVec 19)
  | release (block : BitVec 19)
  | probe (block : BitVec 19)
  | drop (block : BitVec 19)
  | leaseProbeTimeout
  | inventoryGo (fn : FnIx) (l : SlotIx)
  | inventoryComplete (l : SlotIx)
  /- mesh (01) -/
  | meshRateWrite (h : HalfIx) (rate : BitVec 5)
  | meshRateEffect (h : HalfIx)
  | parkRequest (h : HalfIx)
  | parkComplete (h : HalfIx)
  | unparkRequest (h : HalfIx)
  | unparkComplete (h : HalfIx)
  /- Trebry (13) -/
  | data (p : PortIx) (flit : BitVec 2048) (wait : Nat)
  | nak (p : PortIx) (flit : BitVec 2048) (wait : Nat)
  | idle (p : PortIx) (flit : BitVec 2048) (wait : Nat)
  | hello (p : PortIx) (flit : BitVec 2048)
  | loopFlit (p : PortIx) (flit : BitVec 2048)
  | helloTimer (p : PortIx)
  | replayTimeout (p : PortIx)
  | portEnable (p : PortIx) (value : BitVec 64)
  | portDisable (p : PortIx)
  | portTrained (p : PortIx) (lanes : Fin 4) (slow : Bool)
  | fecLockLoss (p : PortIx)
  | retrainComplete (p : PortIx)
  | retrainTimeout (p : PortIx) (failed : Bool)
  | routeHoldEnd (m : ModIx)
  | read (pid resid : Nat)
  | write (pid resid : Nat)
  | atomic (pid resid : Nat)
  | respData (pid resid : Nat)
  | respAck (pid resid : Nat)
  | fenceQuery (pid resid : Nat)
  | fenceRelease (pid resid : Nat)
  | leaseOperation (pid resid : Nat)
  | remoteLaunch (pid resid : Nat)
  | teardownStep (pid resid : Nat)
  | teardownReport (pid resid : Nat)
  | controlResp (pid resid : Nat)
  | echo (pid resid : Nat)
  | echoResp (pid resid : Nat) (rttNs : BitVec 32)
  | transitForward (pid resid : Nat)
  | requestDeadline (p : PortIx) (reqid : BitVec 16)
  | echoGo (dst : ModIx)
  | retiredClr
  | testGo (p : PortIx) (errors : BitVec 32) (units : BitVec 64)
  /- power (14) -/
  | powerControlStep (r : PowerReading)
  | inputPowerSample (watts : Option Nat)
  | peakSkipRelease
  | setpointTransitionComplete (n : CoreIx)
  | droopTrip (n : CoreIx)
  | droopRecovery (n : CoreIx)
  | brakeAssert
  | brakeDeassert
  | brakeHoldEnd
  | marginSample (n : MonitorIx) (alert : Bool) (margin : Nat)
  | thermalSample (sensor : Fin 232) (eighths : Option Int)
  | throttleReleaseStep
  | voltageSample (monitor : Fin 12) (mv : Nat) (inRange : Bool)
  /- interrupts (15) -/
  | interruptEdge (s : SrcIx)
  | intTgtAck (t : TgtIx)
  | intTgtEoi (t : TgtIx) (source : BitVec 10)
  | intSwtrig (source : BitVec 10)
  | intSrcCfgWrite (s : SrcIx) (value : BitVec 32)
  | intMaskEffect (s : SrcIx)
  /- containment and resets (16) -/
  | progressWatchdog (q : SqIx)
  | overrun (level : Fin 5) (target : Nat) (late : List (Fin 192)) (boundUs : BitVec 32)
  | eccUncorrectable (core : Option CoreIx)
  | coreReset (n : CoreIx)
  | coreResetComplete (n : CoreIx) (us : BitVec 32)
  | locketReset (l : SlotIx)
  | locketResetComplete (l : SlotIx) (us : BitVec 32)
  | moduleReset (cause : Fin 7)
  | moduleResetComplete (failedCores failedChans : List Nat) (us : BitVec 32)
  | powerCycle
  | retireUnit (unit : BitVec 16)
  | decridWatchdog (withinTenSeconds : Bool)
  | logFlush
  | correctedSummary (count : BitVec 64)
  /- power-up and PCIe (18, 19, 08) -/
  | powerUp (tests : PowerUpTests)
  | powerUpComplete (failedCores failedChans : List Nat)
  | inputOutOfRange
  | perstAssert
  | perstDeassert
  | pcieLinkTrained (l : LinkState)
  | pcieLoopback
  | vfFlr (v : SlotIx)
  | pfFlr
  | vfEnable (enable : Bool) (numVfs : Fin 33)
  | configRequest (fn : FnIx) (wr : Bool) (reg : Fin 1024) (value : BitVec 32)
  | bar4Access (off : BitVec 34) (wr : Bool) (len : Nat) (data : List (BitVec 8)) (tag : BitVec 10)
  | selftestGo
  | selftestComplete (meshFail dbusFail : Bool) (unit : BitVec 16)
  | memBistGo
  | memBistChannelDone (c : ChIx) (passed : Bool) (us : BitVec 32)
  /- Decrid (17) -/
  | activate
  | commit (fuseFail : Bool)
  | revert
  | setEndpointId (t : Transport) (eid : BitVec 8)
  | getSensorReading (sensor : BitVec 16)
  | setEventReceiver (t : Transport) (eid : BitVec 8)
  | requestUpdate (t : Transport)
  | requestFirmwareData (off : Nat) (data : List (BitVec 8)) (last : Bool)
  | verifyComplete
  | activateFirmware
  | getVersion (t : Transport)
  | getCapabilities (t : Transport)
  | negotiateAlgorithms (t : Transport) (ok : Bool)
  | getDigests (t : Transport)
  | getCertificate (t : Transport) (slot : Fin 8) (off len : Nat)
  | challenge (t : Transport) (slot : Fin 8) (nonce : BitVec 256)
  | getMeasurements (t : Transport) (index : BitVec 8) (nonce : BitVec 256)
  | keyExchange (t : Transport) (reqId : BitVec 16)
  | finish (sid : Nat) (mutualKey : Option (BitVec 256)) (ok : Bool)
  | heartbeat (sid : Nat)
  | keyUpdate (sid : Nat)
  | endSession (sid : Nat)
  | ownerSet (sid : Nat) (root : BitVec 512) (sig : BitVec 512)
  | keyInstall (sid : Nat) (tag gen : BitVec 16) (key : BitVec 256)
  | keyCommit (sid : Nat) (tag gen : BitVec 16)
  | keyRetireGen (sid : Nat) (tag gen : BitVec 16)
  | logRead (sid : Nat) (first : Nat) (count : Nat)
  | debugNonce (sid : Nat)
  | debugUnlock (sid : Nat) (token : List (BitVec 8)) (pub : BitVec 256)
  | debugLock (sid : Nat)
  | retireLift (sid : Nat) (token : List (BitVec 8)) (pub : BitVec 256)
  | debugLifetimeEnd
  | debugNonceExpiry
  | kSetGo (msg : IdeMessage) (keys : IdeKeySet)
  | ideStreamFailure (fn : FnIx)
  | getTdispVersion (v : SlotIx)
  | getTdispCapabilities (v : SlotIx)
  | lockInterfaceRequest (v : SlotIx)
  | getDeviceInterfaceReport (v : SlotIx)
  | getDeviceInterfaceState (v : SlotIx)
  | startInterfaceRequest (v : SlotIx)
  | stopInterfaceRequest (v : SlotIx)
  | idcode
  | samplePreload (cells : Nat)
  | extest
  | clamp
  | highz
  | extestPulse
  | extestTrain
  | bypass
  | tapReset
  /- reads that clear (all blocks) -/
  | mshHalfStatusRead (h : HalfIx)
  | mshParkedCntRead
  | memChCorrRead (c : ChIx)
  | memChRetryRead (c : ChIx)
  | memChPoisonRead (c : ChIx)
  | xltFqStatusRead (r : ReadBy SlotIx)
  | xltStatusRead
  | queSqStatusRead (r : ReadBy SqIx)
  | queEvStatusRead (r : ReadBy FnIx)
  | fncWaitsRead
  | setStatusRead (s : SetIx)
  | lktLatValRead (r : ReadBy SlotIx)
  | trbPortFecRead (p : PortIx)
  | trbPortLinkRead (p : PortIx)
  | trbPortDropRead (p : PortIx)
  | trbPortTestRead (p : PortIx)
  | pwrStatusRead
  | pwrStaggerRead
  | pwrModelRead
  | pwrCoreStatusRead (n : CoreIx)
  | mgtFwStatusRead
  | mgtLogStatusRead
  | memBistFailRead (high : Bool)
  | registerWrite (w : Writer) (off : Nat) (size : Nat) (value : BitVec 64)
  | badFlit (p : PortIx) (overlap : Fin 5) (flit : BitVec 2048)
  | badpkt (pid resid : Nat)
  | hostReadCompletion (rid : Nat) (ok : Bool) (data : List (BitVec 8))
  | decridRestartComplete
  | noreflectTimeout (p : PortIx)
deriving DecidableEq, Repr

end Sys2Proof
end

