-- ==== Sys2Proof/Config.lean ====
section
/-! DEFINITION. What the manual leaves open or fuses into the part: constants without a body. Nothing in Lean can
evaluate one, so a statement about it holds whatever it is (notes/assumptions/1.md). The functions of cited standards are
computed in Machine/Crypto.lean (log 60). -/

namespace Sys2Proof.Config

/-- The bytes of a DRAM sector that nothing has written whole and no scrub has cleared (R629): channel, sector, byte. -/
opaque dramByte : Nat → Nat → Nat → BitVec 8
/-- Whether such a sector is answered with POISON (R629): channel, sector. -/
opaque dramPoison : Nat → Nat → Bool
/-- The order in which the steps of K are added (R173): the free counter and the number of steps left. -/
opaque tileOrder : Nat → Nat → Nat
/-- The error of one 64-element sum, within one unit in the last place (R173): the free counter. -/
opaque tileError : Nat → Nat
/-- Whether a tile operation sees a store made while it ran (R147): the free counter and the line. -/
opaque tileSees : Nat → Nat → Bool
/-- Which admissible neighbour VRCP, VRSQRT, VSQRT, VEXP2 and VLOG2 answer (R127): the opcode and the operand. -/
opaque approxPick : Nat → Nat → Nat
/-- A byte of the control-state region of a save image (R91): the free counter and the offset. -/
opaque imageByte : Nat → Nat → BitVec 8
/-- What the channel of an abandoned move holds (R400): channel, sector, byte. -/
opaque movedByte : Nat → Nat → Nat → BitVec 8

/-- How long a request waited at an arbiter, in cycles of its clock (R442): the free counter. -/
opaque waitSeen : Nat → Nat
/-- The nanoseconds since an arbiter's last grant (R438): the free counter. -/
opaque arbiterNs : Nat → Nat
/-- The time in 0.1 µs since a flit was last sent, when it is sent again (R465): the free counter and its sequence number. -/
opaque flitHold : Nat → Nat → Nat
/-- Whether the home of a teardown has counted this member as missing or was reset (R453, R455): the free counter. -/
opaque homeGone : Nat → Bool
/-- Whether a crossing found a queue of the seam full (R62): the free counter. -/
opaque seamFull : Nat → Bool
/-- The cycles that a core held a task without issuing a bundle (R101): the free counter. -/
opaque coreWait : Nat → Nat
/-- How long a sequence took, in microseconds (R561): the free counter. -/
opaque elapsedUs : Nat → Nat
/-- Hours of powered operation between two failures that Decrid counts (R559). -/
opaque hoursPassed : Nat → Nat
/-- AON_S, the seconds since this power-up (R569): the free counter. -/
opaque aonSeconds : Nat → Nat
/-- Seconds of debug access left (R597): the free counter. -/
opaque secondsLeft : Nat → Nat
/-- The energy in mJ that the activity model gives to a context's work in one control step (R446, R515): the free counter and the
context. -/
opaque contextEnergy : Nat → Nat → Nat

/-- By how many steps of 25 MHz the fused F_MAX of a core lies above 1.60 GHz, taken modulo 9: 1.60 to 1.80 GHz (R3, R499, R527). -/
opaque fusedFMax : Nat → Nat
/-- The fused full guard band of a compute die in mV (R508). -/
opaque fusedGFull : Nat → Nat
/-- The fused least guard band of a compute die in mV (R508). -/
opaque fusedGMin : Nat → Nat
/-- The fused trim threshold of the margin monitors (R508). -/
opaque fusedTrim : Nat
/-- The fused raise threshold of the margin monitors (R508). -/
opaque fusedRaise : Nat
/-- The fused model gain and its bounds, in 1/1,024 (R518, R526). -/
opaque fusedGain : Nat
opaque fusedGainMin : Nat
opaque fusedGainMax : Nat
/-- The straps SMB_ADDR0 and SMB_ADDR1 on the board (R618). -/
opaque smbAddr0 : Bool
opaque smbAddr1 : Bool
/-- The codewords that a port's decoder corrected in a flit (R463, R498). -/
opaque codewordsCorrected : Nat → Nat
/-- The minimum voltage in mV of core `n` at a setpoint (R500). -/
opaque fusedVMin : Nat → Nat → Nat
/-- The fused limit in mV that a voltage monitor's reading has passed (R572). -/
opaque voltLimit : Nat → Int
/-- The energy coefficient of an event that the activity model counts (R518). -/
opaque eventEnergy : PowerEvent → Nat
/-- The leakage term in W at the temperatures of the sensors and the voltages of the core supplies (R518). -/
opaque fusedLeakage : List Int → List (Option Nat) → Nat
/-- The input power in W that the activity model predicts (R504): the free counter and how far each measure is in force. -/
opaque predictPower : Nat → List Nat → Nat
/-- The serial number (R597). -/
opaque fusedSerial : BitVec 128
/-- Certificate chains of slots 0 and 1 (R579). -/
opaque certificate : Nat → List (BitVec 8)
/-- Digests of the release keys K0 to K3 and of the debug-authority keys D0 to D3 (R575, R592). -/
opaque releaseKeyDigest : Nat → BitVec 512
opaque debugKeyDigest : Nat → BitVec 512
opaque debugKeyRevoked : Nat → Bool
/-- VERSION, SVN and KEY_INDEX of the image the module left manufacture with, and its REVOKE field (R574): 0 to 3. -/
opaque factoryField : Nat → Nat
/-- Digests of the ROM (0) and of the components of that image (1 to 4) (R581). -/
opaque romDigest : Nat → BitVec 512
/-- The words of configuration space, whose layout is not stated (R304): the free counter. -/
opaque configWord : Nat → BitVec 32
/-- Whether a register of the PF's configuration space holds a base address of the VFs (R589). -/
opaque isVfBar : Nat → Bool
/-- Which of their words it is: BAR0 low and high, BAR2 low and high (R307). -/
opaque vfBarWord : Nat → Nat
/-- Whether a register of the PF's configuration space is the SR-IOV control, the SR-IOV word that reports TotalVFs, or the AER status
(R304, R307, R322): where the capabilities lie is not stated. -/
opaque isSriovControl : Nat → Bool
/-- Whether a register of a function's configuration space is the word of its MSI-X Message Control (R345). -/
opaque isMsixControl : Nat → Bool
opaque isTotalVfs : Nat → Bool
opaque isAerStatus : Nat → Bool
/-- What a loop-back test counted that a write to its register stops (R495): the free counter. -/
opaque loopErrors : Nat → Nat
opaque loopUnits : Nat → Nat
/-- What the TAP shifts out of the boundary-scan register (R606): the free counter. -/
opaque scanOut : Nat → Nat
/-- The random bytes of DEBUG_NONCE (R592): the free counter. -/
opaque randomNonce : Nat → BitVec 256

/-- The unique device secret (R566). -/
opaque uds : BitVec 256
/-- How long something waited on this module, in 0.1 µs: a packet in a port's queue or at a port stop, or a request on its way to its home
(R479, R481): the free counter. -/
opaque waitTenths : Nat → Nat
/-- Whether a request in flight had reached its stop when the half began to park (R56): the free counter and the request. -/
opaque atStop : Nat → Nat → Bool
/-- What a running loop-back test has counted since its register was last looked at (R495, R498): the free counter. -/
opaque testUnits : Nat → Nat
opaque testErrors : Nat → Nat

end Sys2Proof.Config
end

