-- ==== Sys2Proof/Machine/SMap.lean ====
section
/-! DEFINITION. Sparse tables in one canonical form (keys strictly rising, no entry equal to the unlisted value), sorted
sets of numbers, and bytes to numbers in the little-endian order of R21. -/

namespace Sys2Proof

/-- What table `m` holds at `k`, where `d` gives the value of an unlisted key. -/
def SMap.get {α : Type} (d : Nat → α) : SMap α → Nat → α
  | [], k => d k
  | (j, v) :: m, k => if j = k then v else SMap.get d m k

/-- Put `v` at `k`, keeping the keys in order. -/
def SMap.ins {α : Type} (k : Nat) (v : α) : SMap α → SMap α
  | [] => [(k, v)]
  | (j, w) :: m =>
    if k < j then (k, v) :: (j, w) :: m
    else if k = j then (k, v) :: m
    else (j, w) :: SMap.ins k v m

/-- Drop the entry of `k`. -/
def SMap.del {α : Type} (k : Nat) (m : SMap α) : SMap α := m.filter (fun e => e.1 != k)

/-- Write `v` at `k`: an entry equal to the unlisted value is not kept. -/
def SMap.set {α : Type} [DecidableEq α] (d : Nat → α) (m : SMap α) (k : Nat) (v : α) : SMap α :=
  if v = d k then SMap.del k m else SMap.ins k v m

/-- Change the value at `k` by `f`. -/
def SMap.upd {α : Type} [DecidableEq α] (d : Nat → α) (m : SMap α) (k : Nat) (f : α → α) : SMap α :=
  SMap.set d m k (f (SMap.get d m k))

/-- Change the values at every key of a list. -/
def SMap.updAll {α : Type} [DecidableEq α] (d : Nat → α) (f : Nat → α → α) : List Nat → SMap α → SMap α
  | [], m => m
  | k :: ks, m => SMap.updAll d f ks (SMap.upd d m k (f k))

/-- The canonical form. -/
def SMap.wf {α : Type} [DecidableEq α] (d : Nat → α) (m : SMap α) : Bool :=
  decide (m.Pairwise (fun a b => a.1 < b.1)) && m.all (fun e => decide (e.2 ≠ d e.1))

/-- Add a number to a sorted set. -/
def setIns (k : Nat) : List Nat → List Nat
  | [] => [k]
  | j :: m => if k < j then k :: j :: m else if k = j then j :: m else j :: setIns k m

/-- Remove a number from a set. -/
def setDel (k : Nat) (m : List Nat) : List Nat := m.filter (· != k)

/-- Put `k` in the set or out of it. -/
def setPut (b : Bool) (k : Nat) (m : List Nat) : List Nat := if b then setIns k m else setDel k m

/-- The unlisted value of a byte memory. -/
def zeroByte : Nat → BitVec 8 := fun _ => 0

/-- One byte of a byte memory. -/
def Cells.read (m : Cells) (a : Nat) : BitVec 8 := SMap.get zeroByte m a

/-- Write one byte. -/
def Cells.write (m : Cells) (a : Nat) (b : BitVec 8) : Cells := SMap.set zeroByte m a b

/-- `n` bytes from `a` upward. -/
def Cells.readN (m : Cells) (a : Nat) : Nat → List (BitVec 8)
  | 0 => []
  | n + 1 => m.read a :: Cells.readN m (a + 1) n

/-- Write a list of bytes from `a` upward. -/
def Cells.writeN (m : Cells) (a : Nat) : List (BitVec 8) → Cells
  | [] => m
  | b :: bs => Cells.writeN (m.write a b) (a + 1) bs

/-- Drop every byte of `[a, a + n)`: those addresses read as zero. -/
def Cells.clear (m : Cells) (a n : Nat) : Cells := m.filter (fun e => decide (e.1 < a) || decide (a + n ≤ e.1))

/-- Keep only the bytes of `[a, a + n)`. -/
def Cells.only (m : Cells) (a n : Nat) : Cells := m.filter (fun e => decide (a ≤ e.1) && decide (e.1 < a + n))

/-- The canonical form of a byte memory. -/
def Cells.wf (m : Cells) : Bool := SMap.wf zeroByte m

/-- A little-endian number from bytes (R21). -/
def leNat : List (BitVec 8) → Nat
  | [] => 0
  | b :: bs => b.toNat + 256 * leNat bs

/-- The `n` little-endian bytes of a number (R21). -/
def leBytes : Nat → Nat → List (BitVec 8)
  | 0, _ => []
  | n + 1, v => BitVec.ofNat 8 v :: leBytes n (v / 256)

/-- Bits [lo + w − 1 : lo] of a number. -/
def bits (v lo w : Nat) : Nat := (v >>> lo) % 2 ^ w

/-- Bit `i` of a number. -/
def bit (v i : Nat) : Bool := v.testBit i

/-- 0 or 1. -/
def b2n (b : Bool) : Nat := if b then 1 else 0

/-- A number of `w` bits read as two's complement. -/
def toSigned (w v : Nat) : Int := if v < 2 ^ (w - 1) then (v : Int) else (v : Int) - (2 ^ w : Nat)

/-- The low `w` bits of an integer. -/
def ofSigned (w : Nat) (i : Int) : Nat := (i % ((2 ^ w : Nat) : Int)).toNat

/-- Add, holding at the largest value of `w` bits. -/
def satAdd (w v n : Nat) : Nat := if v + n < 2 ^ w then v + n else 2 ^ w - 1

/-- The list entry with the given number, or `d`. -/
def nth {α : Type} (l : List α) (i : Nat) (d : α) : α := (l[i]?).getD d

/-- Put a value in place `i` of a list. -/
def setNth {α : Type} (l : List α) (i : Nat) (v : α) : List α := l.set i v

/-- The numbers `0` to `n − 1`. -/
def upto (n : Nat) : List Nat := List.range n

/-- The set bits of a number below `n`, in rising order. -/
def bitList (v n : Nat) : List Nat := (List.range n).filter (fun i => v.testBit i)

/-- A number from a set of bit positions. -/
def ofBitList (l : List Nat) : Nat := l.foldl (fun a i => a ||| (1 <<< i)) 0

/-- How many list entries satisfy `p`. -/
def countP {α : Type} (p : α → Bool) (l : List α) : Nat := (l.filter p).length

/-- Change the entries that satisfy `p`. -/
def mapWhere {α : Type} (p : α → Bool) (f : α → α) (l : List α) : List α := l.map (fun x => if p x then f x else x)

end Sys2Proof
end

