-- ==== Sys2Proof/Machine/Fp.lean ====
section
/-! DEFINITION. Number formats (R154 to R171): layouts, exact values, rounding, and the FP32 operations of the vector
unit and of the atomics. A value is exact until it is rounded once. -/

namespace Sys2Proof.Machine

/-- An exact value: not a number, an infinity, or ± num ÷ den × 2^e. -/
inductive FVal where
  | nan
  | inf (neg : Bool)
  | fin (neg : Bool) (num den : Nat) (e : Int)
deriving DecidableEq, Repr

/-- Which special values a floating-point format has (R158). -/
inductive Specials where
  | ieee | e4m3 | none
deriving DecidableEq, Repr

/-- The parameters of a floating-point format (R158). -/
structure FFmt where
  eb : Nat
  mb : Nat
  bias : Nat
  specials : Specials
deriving DecidableEq, Repr

def fFP32 : FFmt := { eb := 8, mb := 23, bias := 127, specials := .ieee }
def fBF16 : FFmt := { eb := 8, mb := 7, bias := 127, specials := .ieee }
def fFP16 : FFmt := { eb := 5, mb := 10, bias := 15, specials := .ieee }
def fE4M3 : FFmt := { eb := 4, mb := 3, bias := 7, specials := .e4m3 }
def fE5M2 : FFmt := { eb := 5, mb := 2, bias := 15, specials := .ieee }
def fE3M2 : FFmt := { eb := 3, mb := 2, bias := 3, specials := .none }
def fE2M3 : FFmt := { eb := 2, mb := 3, bias := 1, specials := .none }
def fE2M1 : FFmt := { eb := 2, mb := 1, bias := 1, specials := .none }

/-- The bits of the largest finite magnitude (R158). -/
def FFmt.maxBits (f : FFmt) : Nat :=
  match f.specials with
  | .ieee => 2 ^ f.mb * (2 ^ f.eb - 1) - 1
  | .e4m3 => 2 ^ (f.eb + f.mb) - 2
  | .none => 2 ^ (f.eb + f.mb) - 1

/-- The exact value of an encoding (R158). -/
def FFmt.decode (f : FFmt) (v : Nat) : FVal :=
  let neg := v.testBit (f.eb + f.mb)
  let e := bits v f.mb f.eb
  let m := bits v 0 f.mb
  let special : Bool := match f.specials with
    | .ieee => e == 2 ^ f.eb - 1
    | .e4m3 => e == 2 ^ f.eb - 1 && m == 2 ^ f.mb - 1
    | .none => false
  if special then
    (if f.specials = .ieee ∧ m = 0 then .inf neg else .nan)
  else if e = 0 then .fin neg m 1 (1 - (f.bias : Int) - f.mb)
  else .fin neg (2 ^ f.mb + m) 1 ((e : Int) - f.bias - f.mb)

/-- The NaN a format produces (R158); a format without NaN gives +0 (R177). -/
def FFmt.nanBits (f : FFmt) : Nat :=
  match f.specials with
  | .ieee => (2 ^ f.eb - 1) * 2 ^ f.mb + 2 ^ (f.mb - 1)
  | .e4m3 => 2 ^ (f.eb + f.mb) - 1
  | .none => 0

/-- Rounding of a conversion (R176, R178) and the two roundings the quantiser and the tile sums need. -/
inductive Rnd where
  | nearest
  | zero
  | stoch (draw : Nat)
  | up
  | floorOff (k : Int)
deriving DecidableEq, Repr

/-- `n + r/d` units rounded to whole units (r < d), where `exact` is r = 0. -/
def roundUnits (rnd : Rnd) (n r d : Nat) : Nat :=
  match rnd with
  | .nearest => if 2 * r > d ∨ (2 * r = d ∧ n % 2 = 1) then n + 1 else n
  | .zero => n
  | .stoch draw => if r ≠ 0 ∧ r * 65536 / d + draw ≥ 65536 then n + 1 else n
  | .up => if r ≠ 0 then n + 1 else n
  | .floorOff k => ((n : Int) + k).toNat

/-- num ÷ den × 2^e as whole units and the rest, the unit being 2^q. -/
def unitsOf (num den : Nat) (e q : Int) : Nat × Nat × Nat :=
  if q ≤ e then
    let a := num * 2 ^ (e - q).toNat
    (a / den, a % den, den)
  else
    let d := den * 2 ^ (q - e).toNat
    (num / d, num % d, d)

/-- The whole part of log₂ of num ÷ den × 2^e (num and den not zero). -/
def floorLog2 (num den : Nat) (e : Int) : Int :=
  let k : Int := (Nat.log2 num : Int) - Nat.log2 den
  let lt := if 0 ≤ k then decide (num < den * 2 ^ k.toNat) else decide (num * 2 ^ (-k).toNat < den)
  (if lt then k - 1 else k) + e

/-- The magnitude num ÷ den × 2^e rounded to the format, before any test of its range: an encoding that may exceed it. -/
def FFmt.roundMag (f : FFmt) (rnd : Rnd) (num den : Nat) (e : Int) : Nat :=
  if num = 0 then 0
  else
    let emin : Int := 1 - (f.bias : Int)
    let q := max (floorLog2 num den e) emin - f.mb
    let (n, r, d) := unitsOf num den e q
    roundUnits rnd n r d + (q - (emin - f.mb)).toNat * 2 ^ f.mb

/-- Conversion to a floating-point format (R176 to R178). -/
def FFmt.encode (f : FFmt) (rnd : Rnd) (v : FVal) : Nat :=
  let sign (neg : Bool) := if neg then 2 ^ (f.eb + f.mb) else 0
  match v with
  | .nan => f.nanBits
  | .inf neg => sign neg + (if f.specials = .ieee then (2 ^ f.eb - 1) * 2 ^ f.mb else f.maxBits)
  | .fin neg num den e =>
    let m := f.roundMag rnd num den e
    sign neg +
      (if m ≤ f.maxBits then m
       else if f.specials = .ieee ∧ rnd ≠ .zero then (2 ^ f.eb - 1) * 2 ^ f.mb
       else f.maxBits)

/-- The value of FP32 bits. -/
def fp32 (v : Nat) : FVal := fFP32.decode v

/-- Round to FP32, nearest even (R175). -/
def toFp32 (v : FVal) : Nat := fFP32.encode .nearest v

/-- Whether a value is a zero. -/
def FVal.isZero : FVal → Bool
  | .fin _ n _ _ => n = 0
  | _ => false

def FVal.isNaN : FVal → Bool
  | .nan => true
  | _ => false

def FVal.neg : FVal → FVal
  | .nan => .nan
  | .inf n => .inf (!n)
  | .fin n a d e => .fin (!n) a d e

/-- Signed numerator over a common exponent (denominators multiplied out). -/
def signedAt (neg : Bool) (num : Nat) (e q : Int) : Int :=
  let a : Int := (num * 2 ^ (e - q).toNat : Nat)
  if neg then -a else a

/-- Exact sum; the zero of opposite signs is +0 (IEEE 754-2019, round to nearest). -/
def FVal.add (x y : FVal) : FVal :=
  match x, y with
  | .nan, _ => .nan
  | _, .nan => .nan
  | .inf a, .inf b => if a = b then .inf a else .nan
  | .inf a, _ => .inf a
  | _, .inf b => .inf b
  | .fin n1 a1 d1 e1, .fin n2 a2 d2 e2 =>
    let q := min e1 e2
    let s := signedAt n1 (a1 * d2) e1 q + signedAt n2 (a2 * d1) e2 q
    if s = 0 then .fin (n1 && n2) 0 1 0
    else .fin (s < 0) s.natAbs (d1 * d2) q

/-- Exact product. -/
def FVal.mul (x y : FVal) : FVal :=
  match x, y with
  | .nan, _ => .nan
  | _, .nan => .nan
  | .inf a, .inf b => .inf (a != b)
  | .inf a, .fin b n _ _ => if n = 0 then .nan else .inf (a != b)
  | .fin a n _ _, .inf b => if n = 0 then .nan else .inf (a != b)
  | .fin n1 a1 d1 e1, .fin n2 a2 d2 e2 => .fin (n1 != n2) (a1 * a2) (d1 * d2) (e1 + e2)

/-- Exact quotient by a finite non-zero value. -/
def FVal.div (x y : FVal) : FVal :=
  match x, y with
  | .nan, _ => .nan
  | _, .nan => .nan
  | .inf _, .inf _ => .nan
  | .inf a, .fin b _ _ _ => .inf (a != b)
  | .fin a _ _ _, .inf b => .fin (a != b) 0 1 0
  | .fin n1 a1 d1 e1, .fin n2 a2 d2 e2 =>
    if a2 = 0 then (if a1 = 0 then .nan else .inf (n1 != n2))
    else .fin (n1 != n2) (a1 * d2) (d1 * a2) (e1 - e2)

/-- Order of two values that are not NaN: −1, 0 or 1; −0 equals +0. -/
def FVal.cmp (x y : FVal) : Int :=
  match x, y with
  | .inf a, .inf b => if a = b then 0 else if a then -1 else 1
  | .inf a, _ => if a then -1 else 1
  | _, .inf b => if b then 1 else -1
  | .fin n1 a1 d1 e1, .fin n2 a2 d2 e2 =>
    let q := min e1 e2
    let s := signedAt n1 (a1 * d2) e1 q - signedAt n2 (a2 * d1) e2 q
    if s < 0 then -1 else if s = 0 then 0 else 1
  | _, _ => 0

def FVal.isNeg : FVal → Bool
  | .nan => false
  | .inf n => n
  | .fin n _ _ _ => n

/-! FP32 on bit patterns (R174, R175). -/

def fAdd (a b : Nat) : Nat := toFp32 ((fp32 a).add (fp32 b))
def fSub (a b : Nat) : Nat := toFp32 ((fp32 a).add (fp32 b).neg)
def fMul (a b : Nat) : Nat := toFp32 ((fp32 a).mul (fp32 b))
/-- vA × B + vC, one rounding. -/
def fFma (a b c : Nat) : Nat := toFp32 (((fp32 a).mul (fp32 b)).add (fp32 c))
def fFms (a b c : Nat) : Nat := toFp32 (((fp32 a).mul (fp32 b)).add (fp32 c).neg)
def fFnma (a b c : Nat) : Nat := toFp32 ((fp32 c).add ((fp32 a).mul (fp32 b)).neg)

/-- minimumNumber (R175): a NaN yields the other operand, −0 lies below +0. -/
def fMin (a b : Nat) : Nat :=
  let x := fp32 a
  let y := fp32 b
  if x.isNaN then (if y.isNaN then fFP32.nanBits else b)
  else if y.isNaN then a
  else
    let c := x.cmp y
    if c < 0 then a else if c > 0 then b else if x.isNeg then a else b

/-- maximumNumber (R175). -/
def fMax (a b : Nat) : Nat :=
  let x := fp32 a
  let y := fp32 b
  if x.isNaN then (if y.isNaN then fFP32.nanBits else b)
  else if y.isNaN then a
  else
    let c := x.cmp y
    if c < 0 then b else if c > 0 then a else if x.isNeg then b else a

/-- vA = B; false if either is NaN. -/
def fEq (a b : Nat) : Bool :=
  let x := fp32 a
  let y := fp32 b
  !x.isNaN && !y.isNaN && x.cmp y == 0

/-- vA < B; false if either is NaN. -/
def fLt (a b : Nat) : Bool :=
  let x := fp32 a
  let y := fp32 b
  !x.isNaN && !y.isNaN && decide (x.cmp y < 0)

/-- The exact sum of a list of values (VRFSUM; DEDUCED, log 8). -/
def fSumAll (l : List Nat) : Nat :=
  match l with
  | [] => 0
  | x :: xs => toFp32 (xs.foldl (fun a b => a.add (fp32 b)) (fp32 x))

/-- The whole square root, by bisection on `n` bits. -/
def isqrtStep (v : Nat) : Nat → Nat → Nat
  | 0, r => r
  | k + 1, r => let t := r + 2 ^ k; if t * t ≤ v then isqrtStep v k t else isqrtStep v k r

/-- ⌊√v⌋. -/
def isqrt (v : Nat) : Nat := isqrtStep v (Nat.log2 v / 2 + 1) 0

/-- The square root of a non-negative value as a value whose floor in any FP32 unit is that of the exact root: 80 bits of
it, and a sticky bit below them. -/
def sqrtVal (num den : Nat) (e : Int) : FVal :=
  -- √(num ÷ den × 2^e) = √(num × den × 2^(e mod 2) × 2^200) ÷ den × 2^((e − e mod 2) ÷ 2 − 100)
  let odd := e % 2
  let big := num * den * 2 ^ odd.toNat * 2 ^ 200
  let r := isqrt big
  let sticky := if r * r = big then 0 else 1
  .fin false (2 * r + sticky) (2 * den) ((e - odd) / 2 - 100)

/-- The encoding `m` steps from zero, on the side of `neg` (a negative `m` lies on the other side). -/
def fp32Step (neg : Bool) (m : Int) : Nat := (if neg != decide (m < 0) then 2 ^ 31 else 0) + m.natAbs

/-- Whether the encoding `m` steps from zero lies within 2 units in the last place of the exact value `v`, whose magnitude `lo` is the
encoding at or below: the unit is that of the binade of `v`. The step after the largest finite number stands for 2^128. -/
def within2Of (neg : Bool) (v : FVal) (lo : Nat) (m : Int) : Bool :=
  let y := if m = fFP32.maxBits + 1 then .fin neg 1 1 128 else fp32 (fp32Step neg m)
  let d := y.add v.neg
  let two : FVal := .fin false 1 1 ((max 1 (lo / 2 ^ 23) : Nat) - 149)
  decide (d.cmp two ≤ 0) && decide (d.neg.cmp two ≤ 0)

/-- An answer within 2 units in the last place of an exact value (R127): a free one of the encodings that are, or the rounded value
where the exact one lies beyond FP32. -/
def within2 (op x : Nat) (v : FVal) : Nat :=
  match v with
  | .fin neg num den e =>
    if num = 0 then toFp32 v
    else
      let lo := fFP32.roundMag .zero num den e
      let cand : List Int := (upto 7).map (fun (k : Nat) => (lo : Int) + (k : Int) - 4)
      let near : List Int := cand.filter (fun (m : Int) => decide (m ≤ (fFP32.maxBits : Int) + 1) && within2Of neg v lo m)
      match near[Config.approxPick op x % near.length]? with
      | some m => fp32Step neg m
      | none => toFp32 v
  | other => toFp32 other

/-- 2^f scaled by 2^p, where `f` holds the next `n` bits of a fraction (`f` < 2^n) and `r` is the power of 2 of the bit before them, scaled
alike; each of the `n` factors is cut to `p` bits. -/
def exp2Bits (p : Nat) : Nat → Nat → Nat → Nat → Nat
  | 0, _, _, acc => acc
  | n + 1, r, f, acc =>
    let r1 := isqrt (r * 2 ^ p)
    if 2 ^ n ≤ f then exp2Bits p n r1 (f - 2 ^ n) (acc * r1 / 2 ^ p) else exp2Bits p n r1 f acc

/-- 2^x of a finite value, as a value whose floor in any FP32 unit is that of the exact power: 250 bits of it, and a sticky bit below them,
since 2^x is irrational wherever x is not whole. Beyond ±1,000 every power lies outside FP32. -/
def exp2Val (neg : Bool) (num : Nat) (e : Int) : FVal :=
  let w : Int := signedAt neg num e (-160)
  let n : Int := max (-1000) (min 1000 (w / 2 ^ 160))
  let f := (w % 2 ^ 160).toNat
  if f = 0 then .fin false 1 1 n else .fin false (2 * exp2Bits 250 160 (2 * 2 ^ 250) f (2 ^ 250) + 1) 1 (n - 251)

/-- The next `n` bits of log₂ of `m` ÷ 2^p (1 ≤ m ÷ 2^p < 2), after those in `acc`: the number is squared for each. -/
def log2Bits (p : Nat) : Nat → Nat → Nat → Nat
  | 0, _, acc => acc
  | n + 1, m, acc =>
    let s := m * m / 2 ^ p
    if 2 * 2 ^ p ≤ s then log2Bits p n (s / 2) (2 * acc + 1) else log2Bits p n s (2 * acc)

/-- log₂ of a positive value num × 2^e: 200 bits below the point, and a sticky bit below them, since it is irrational wherever it is not
whole. -/
def log2Val (num : Nat) (e : Int) : FVal :=
  let k := Nat.log2 num
  let whole : Int := (k : Int) + e
  if num = 2 ^ k then .fin (whole < 0) whole.natAbs 1 0
  else
    let t : Int := whole * 2 ^ 201 + (2 * log2Bits 256 200 (num * 2 ^ 256 / 2 ^ k) 0 + 1 : Nat)
    .fin (t < 0) t.natAbs 1 (-201)

/-- VRCP, VRSQRT, VSQRT, VEXP2, VLOG2 on one lane (R127). Zeros, infinities, NaNs and negative operands follow IEEE
754-2019 (DEDUCED, log 8). -/
def fApprox (op x : Nat) : Nat :=
  let v := fp32 x
  match op, v with
  | _, .nan => fFP32.nanBits
  | 0x70, v => within2 op x ((FVal.fin false 1 1 0).div v)
  | 0x71, .inf neg => if neg then fFP32.nanBits else 0
  | 0x71, .fin neg num den e =>
    if num = 0 then toFp32 (.inf neg)
    else if neg then fFP32.nanBits
    else within2 op x ((FVal.fin false 1 1 0).div (sqrtVal num den e))
  | 0x72, .inf neg => if neg then fFP32.nanBits else toFp32 (.inf false)
  | 0x72, .fin neg num den e =>
    if num = 0 then x else if neg then fFP32.nanBits else within2 op x (sqrtVal num den e)
  | 0x73, .inf neg => if neg then 0 else toFp32 (.inf false)
  | 0x74, .inf neg => if neg then fFP32.nanBits else toFp32 (.inf false)
  | 0x73, .fin neg num _ e => within2 op x (exp2Val neg num e)
  | 0x74, .fin neg num _ e =>
    if num = 0 then toFp32 (.inf true) else if neg then fFP32.nanBits else within2 op x (log2Val num e)
  | _, v => toFp32 v

/-! Format codes (R154). -/

/-- What an element of a format is. -/
inductive Elem where
  | flt (f : FFmt)
  | int (w : Nat) (scale : Int)
  | k3 | k2 | kt
deriving DecidableEq, Repr

/-- A row of the table of R154. -/
structure FmtInfo where
  elem : Elem
  width : Nat          -- bits per element; 0 for KT, packed five to a byte
  block : Nat          -- 0: no block scale
  e4m3Scale : Bool     -- the block scale is E4M3 (else E8M0)
  tensorScale : Bool
  escape : Bool
  tile : Bool
  vcvt : Bool
  vqnt : Bool
  slow : Nat           -- occupancy in quarter cycles per element of K (R81)
  emax : Nat           -- of R182
deriving DecidableEq, Repr

/-- The formats by code (R154, R81). -/
def fmtInfo (code : Nat) : Option FmtInfo :=
  let flt (f : FFmt) (ts tile vcvt : Bool) (slow : Nat) : FmtInfo :=
    { elem := .flt f, width := 1 + f.eb + f.mb, block := 0, e4m3Scale := false, tensorScale := ts, escape := false,
      tile := tile, vcvt := vcvt, vqnt := false, slow := slow, emax := 0 }
  let int (w : Nat) (ts tile : Bool) (slow : Nat) : FmtInfo :=
    { elem := .int w 0, width := w, block := 0, e4m3Scale := false, tensorScale := ts, escape := false,
      tile := tile, vcvt := true, vqnt := false, slow := slow, emax := 0 }
  let mx (el : Elem) (w : Nat) (esc : Bool) (slow emax : Nat) : FmtInfo :=
    { elem := el, width := w, block := 32, e4m3Scale := false, tensorScale := false, escape := esc,
      tile := true, vcvt := false, vqnt := true, slow := slow, emax := emax }
  let kf (el : Elem) (w blk : Nat) (ts : Bool) (slow : Nat) : FmtInfo :=
    { elem := el, width := w, block := blk, e4m3Scale := true, tensorScale := ts, escape := true,
      tile := true, vcvt := false, vqnt := true, slow := slow, emax := 0 }
  match code with
  | 0x01 => some (flt fFP32 false false true 0)
  | 0x02 => some (flt fBF16 false true true 8)
  | 0x03 => some (flt fFP16 false true true 8)
  | 0x04 => some (flt fE4M3 true true true 4)
  | 0x05 => some (flt fE5M2 true true true 4)
  | 0x06 => some (flt fE2M1 true true true 2)
  | 0x08 => some (int 8 true true 4)
  | 0x09 => some (int 4 true true 2)
  | 0x0A => some (int 32 false false 0)
  | 0x10 => some (mx (.flt fE4M3) 8 false 4 8)
  | 0x11 => some (mx (.flt fE5M2) 8 false 4 15)
  | 0x12 => some (mx (.flt fE3M2) 6 false 4 4)
  | 0x13 => some (mx (.flt fE2M3) 6 false 4 2)
  | 0x14 => some (mx (.flt fE2M1) 4 true 2 2)
  | 0x15 => some (mx (.int 8 (-6)) 8 false 4 0)
  | 0x20 => some (kf .k3 3 16 true 2)
  | 0x21 => some (kf .kt 0 64 false 1)
  | 0x22 => some (kf .k2 2 32 false 1)
  | _ => none

/-- An integer as an exact value. -/
def ofInt (i : Int) (e : Int) : FVal := .fin (i < 0) i.natAbs 1 e

/-- The value of an element code (R158, R160 to R163). For KT the code is the digit. The K3 escape code reads as zero
where no pair names it (R161). -/
def elemValue (el : Elem) (code : Nat) : FVal :=
  match el with
  | .flt f => f.decode code
  | .int w s => ofInt (toSigned w code) s
  | .k3 => if code = 4 then ofInt 0 0 else ofInt (toSigned 3 code) 0
  | .k2 => ofInt (toSigned 2 code) 0
  | .kt => ofInt ((code : Int) - 1) 0

/-- Round an exact value to a whole number (R176) and hold it in a range (R177). -/
def toIntSat (rnd : Rnd) (lo hi : Int) (e : Int) (v : FVal) : Int :=
  match v with
  | .nan => 0
  | .inf neg => if neg then lo else hi
  | .fin neg num den ex =>
    let (n, r, d) := unitsOf num den ex e
    let m : Int := roundUnits rnd n r d
    let s := if neg then -m else m
    if s < lo then lo else if hi < s then hi else s

/-- The code of an element that takes a value (R177, R182). -/
def elemEncode (el : Elem) (rnd : Rnd) (v : FVal) : Nat :=
  match el with
  | .flt f => f.encode rnd v
  | .int w s => ofSigned w (toIntSat rnd (-(2 ^ (w - 1) : Nat)) ((2 ^ (w - 1) : Nat) - 1) s v)
  | .k3 => ofSigned 3 (toIntSat rnd (-3) 3 0 v)
  | .k2 => ofSigned 2 (toIntSat rnd (-2) 1 0 v)
  | .kt => (toIntSat rnd (-1) 1 0 v + 1).toNat

/-- An element that saturates in an MX format (R168): infinity out of range becomes the largest finite element. -/
def elemEncodeMx (el : Elem) (rnd : Rnd) (v : FVal) : Nat :=
  match el with
  | .flt f =>
    match v with
    | .fin neg num den e =>
      let m := f.roundMag rnd num den e
      (if neg then 2 ^ (f.eb + f.mb) else 0) + (if m ≤ f.maxBits then m else f.maxBits)
    | other => f.encode rnd other
  | other => elemEncode other rnd v

/-- The code of zero. -/
def elemZero (el : Elem) : Nat :=
  match el with
  | .kt => 1
  | _ => 0

/-- Element `k` of packed bytes read as one number (R164). -/
def elemAt (fi : FmtInfo) (packed k : Nat) : Nat :=
  match fi.elem with
  | .kt =>
    let b := bits packed (8 * (k / 5)) 8
    if b < 243 then (b / 3 ^ (k % 5)) % 3 else 1
  | _ => bits packed (fi.width * k) fi.width

/-- Pack a list of element codes from bit 0 upward (R164). -/
def packElems (fi : FmtInfo) (codes : List Nat) : Nat :=
  match fi.elem with
  | .kt => ((codes.zipIdx).map (fun p => p.1 * 3 ^ (p.2 % 5) * 2 ^ (8 * (p.2 / 5)))).foldl (· + ·) 0
  | _ => ((codes.zipIdx).map (fun p => p.1 * 2 ^ (fi.width * p.2))).foldl (· + ·) 0

/-- The value of a block scale byte (R166). -/
def scaleValue (fi : FmtInfo) (b : Nat) : FVal :=
  if fi.e4m3Scale then fE4M3.decode b
  else if b = 0xFF then .nan else .fin false 1 1 ((b : Int) - 127)

/-- Bytes of one row of K elements (R164). -/
def rowBytes (fi : FmtInfo) (k : Nat) : Nat :=
  match fi.elem with
  | .kt => (k + 4) / 5
  | _ => (fi.width * k + 7) / 8

/-- Whether a code is a full-scale code of its format (R183). -/
def fullScale (el : Elem) (code : Nat) : Bool :=
  match el with
  | .flt f =>
    let m := bits code 0 (f.eb + f.mb)
    m = f.maxBits || (f.specials = .ieee && m = f.maxBits + 1)
  | .int w _ => code = 2 ^ (w - 1) || code = 2 ^ (w - 1) - 1
  | .k3 => code = 3 || code = 5
  | .k2 => code = 2
  | .kt => false

end Sys2Proof.Machine
end

