-- ==== Sys2Proof/Machine/Alu.lean ====
section
/-! DEFINITION. What each scalar, predicate, vector and tile operation computes (R120 to R129, R161 to R194): functions
of their operands, without the core. -/

namespace Sys2Proof.Machine

/-- The scalar opcodes 0x01 to 0x2B that write gD (R120, R121). -/
def scalarOp (op : Nat) (a b : BitVec 64) : Option (BitVec 64) :=
  let sh := b.toNat % 64
  let flag (c : Bool) : BitVec 64 := if c then 1 else 0
  match op with
  | 0x01 => some (a + b)
  | 0x02 => some (a - b)
  | 0x03 => some (a &&& b)
  | 0x04 => some (a ||| b)
  | 0x05 => some (a ^^^ b)
  | 0x06 => some (a <<< sh)
  | 0x07 => some (a >>> sh)
  | 0x08 => some (a.sshiftRight sh)
  | 0x09 => some (if a.slt b then a else b)
  | 0x0A => some (if a.slt b then b else a)
  | 0x0B => some (if a.ult b then a else b)
  | 0x0C => some (if a.ult b then b else a)
  | 0x0D => some (flag (a == b))
  | 0x0E => some (flag (a.slt b))
  | 0x0F => some (flag (a.ult b))
  | 0x10 => some b
  | 0x11 => some (BitVec.ofNat 64 (if a = 0 then 64 else 63 - Nat.log2 a.toNat))
  | 0x12 => some (BitVec.ofNat 64 (countP (fun i => a.toNat.testBit i) (upto 64)))
  | 0x13 => some (((a + b).setWidth 32).signExtend 64)
  | 0x20 => some (a * b)
  | 0x21 => some (BitVec.ofInt 64 (a.toInt * b.toInt / (2 ^ 64 : Nat)))
  | 0x22 => some (BitVec.ofNat 64 (a.toNat * b.toNat / 2 ^ 64))
  | 0x28 => some (if b = 0 then BitVec.allOnes 64 else BitVec.ofInt 64 (Int.tdiv a.toInt b.toInt))
  | 0x29 => some (if b = 0 then BitVec.allOnes 64 else BitVec.ofNat 64 (a.toNat / b.toNat))
  | 0x2A => some (if b = 0 then a else BitVec.ofInt 64 (Int.tmod a.toInt b.toInt))
  | 0x2B => some (if b = 0 then a else BitVec.ofNat 64 (a.toNat % b.toNat))
  | _ => none

/-- The predicate opcodes 0x30 to 0x35 that write pD (R120). -/
def predOp (op : Nat) (a b : BitVec 256) : Option (BitVec 256) :=
  match op with
  | 0x30 => some (a &&& b)
  | 0x31 => some (a ||| b)
  | 0x32 => some (a ^^^ b)
  | 0x33 => some (~~~a)
  | 0x34 => some (BitVec.allOnes 256)
  | 0x35 => some 0
  | _ => none

/-- The conditions of BRC on general registers and on a predicate (R110). -/
def brcHolds (cond : Nat) (a b : BitVec 64) (p : BitVec 256) : Bool :=
  match cond with
  | 0x0 => a == b
  | 0x1 => a != b
  | 0x2 => a.slt b
  | 0x3 => !a.slt b
  | 0x4 => a.ult b
  | 0x5 => !a.ult b
  | 0x8 => p != 0
  | 0x9 => p == BitVec.allOnes 256
  | 0xA => p == 0
  | _ => false

/-! Vector lanes, numbered from byte 0 upward (R126). -/

/-- Bits of a lane by TYPE (R124). -/
def laneWidth (ty : Nat) : Nat := if ty = 0 then 32 else if ty = 1 then 16 else 8

/-- The lanes of a vector register. -/
def lanes (w : Nat) (v : Nat) : List Nat := (upto (2048 / w)).map (fun i => bits v (w * i) w)

/-- A register from its lanes. -/
def ofLanes (w : Nat) : List Nat → Nat
  | [] => 0
  | x :: xs => x % 2 ^ w + 2 ^ w * ofLanes w xs

/-- One lane broadcast to every lane. -/
def splat (w v : Nat) : Nat := ofLanes w (List.replicate (2048 / w) (v % 2 ^ w))

/-- Lane-wise operation of two lanes of `w` bits (R126, opcodes 0x01 to 0x0C and 0x40 to 0x42, 0x46, 0x47). VSHR and VSAR take their amount
modulo the lane width, as the table says of VSHL (DESIGN CHOICE, log 59). -/
def laneOp (op w a b : Nat) : Option Nat :=
  let sa := toSigned w a
  let sb := toSigned w b
  match op with
  | 0x01 => some ((a + b) % 2 ^ w)
  | 0x02 => some ((a + 2 ^ w - b) % 2 ^ w)
  | 0x03 => some (a &&& b)
  | 0x04 => some (a ||| b)
  | 0x05 => some (a ^^^ b)
  | 0x06 => some ((a <<< (b % w)) % 2 ^ w)
  | 0x07 => some (a >>> (b % w))
  | 0x08 => some (ofSigned w (sa / (2 ^ (b % w) : Nat)))
  | 0x09 => some (if sa < sb then a else b)
  | 0x0A => some (if sa < sb then b else a)
  | 0x0B => some (min a b)
  | 0x0C => some (max a b)
  | 0x0D => some b
  | 0x40 => some (fAdd a b)
  | 0x41 => some (fSub a b)
  | 0x42 => some (fMul a b)
  | 0x46 => some (fMin a b)
  | 0x47 => some (fMax a b)
  | _ => none

/-- Three-operand lanes (R126, opcodes 0x43 to 0x45). -/
def laneOp3 (op a b c : Nat) : Option Nat :=
  match op with
  | 0x43 => some (fFma a b c)
  | 0x44 => some (fFms a b c)
  | 0x45 => some (fFnma a b c)
  | _ => none

/-- Compares (R126, opcodes 0x10 to 0x14). -/
def laneCmp (op w a b : Nat) : Option Bool :=
  match op with
  | 0x10 => some (a == b)
  | 0x11 => some (decide (toSigned w a < toSigned w b))
  | 0x12 => some (decide (a < b))
  | 0x13 => some (fEq a b)
  | 0x14 => some (fLt a b)
  | _ => none

/-- Reductions (R126, R127, opcodes 0x60 to 0x65): the value of lane 0. -/
def laneReduce (op w : Nat) (l : List Nat) : Option Nat :=
  let fold (f : Nat → Nat → Nat) : Nat := match l with | [] => 0 | x :: xs => xs.foldl f x
  match op with
  | 0x60 => some (l.foldl (· + ·) 0 % 2 ^ w)
  | 0x61 => some (fSumAll l)
  | 0x62 => some (fold (fun a b => if toSigned w a < toSigned w b then b else a))
  | 0x63 => some (fold (fun a b => if toSigned w a < toSigned w b then a else b))
  | 0x64 => some (fold fMax)
  | 0x65 => some (fold fMin)
  | _ => none

/-- The predicate bits of a compare: every bit of a lane's bytes is its result (one bit per byte, R65; DEDUCED, log 9). -/
def predOfLanes (w : Nat) (l : List Bool) : Nat :=
  ofLanes (w / 8) (l.map (fun b => if b then 2 ^ (w / 8) - 1 else 0))

/-- Whether the guard lets lane `i` be written: the predicate bit of its lowest byte (R125). -/
def guardBit (p : BitVec 256) (w i : Nat) : Bool := p.toNat.testBit (i * (w / 8))

/-- Keep the old lanes where the guard is 0 (R125). -/
def guardLanes (pge : Bool) (p : BitVec 256) (w : Nat) (old new : List Nat) : List Nat :=
  if pge then (new.zip old).zipIdx.map (fun x => if guardBit p w x.2 then x.1.1 else x.1.2) else new

/-! Stochastic rounding (R178, R179). -/

/-- One step of the generator. -/
def seedStep (s : BitVec 64) : BitVec 64 :=
  let s := s ^^^ (s <<< 13)
  let s := s ^^^ (s >>> 7)
  s ^^^ (s <<< 17)

/-- `n` steps: the draws in order, four to a step, and the state after. -/
def seedDraws : Nat → BitVec 64 → List Nat × BitVec 64
  | 0, s => ([], s)
  | n + 1, s =>
    let s' := seedStep s
    let v := s'.toNat
    let (ds, t) := seedDraws n s'
    (bits v 0 16 :: bits v 16 16 :: bits v 32 16 :: bits v 48 16 :: ds, t)

/-- Rounding of element `e` under RMODE. -/
def rndOf (rmode : Nat) (draws : List Nat) (e : Nat) : Rnd :=
  if rmode = 0 then .nearest else if rmode = 1 then .zero else .stoch (nth draws e 0)

/-- VCVT (R126, R128, R176, R177): 64 packed elements. -/
def vcvt (src dst : FmtInfo) (rmode : Nat) (draws : List Nat) (va : Nat) : Nat :=
  packElems dst ((upto 64).map (fun e =>
    elemEncode dst.elem (rndOf rmode draws e) (elemValue src.elem (elemAt src va e))))

/-! Escape words (R170, R171). -/

/-- The pairs of an escape word that apply, later ones taking precedence, and the escape overflows it counts. -/
def escPairs (block w : Nat) : List (Nat × Nat) × Nat :=
  let count := bits w 28 2
  let ps := (if count ≥ 1 then [(bits w 0 6, bits w 6 8)] else []) ++ (if count ≥ 2 then [(bits w 14 6, bits w 20 8)] else [])
  let good := ps.filter (fun p => decide (p.1 < block))
  (good, (if count = 3 then 1 else 0) + (ps.length - good.length) + (if bits w 30 2 ≠ 0 then 1 else 0))

/-- The outlier value that names an index, pair 1 over pair 0 (R171). -/
def escFind (ps : List (Nat × Nat)) (i : Nat) : Option Nat :=
  match ps.reverse.find? (fun p => p.1 == i) with
  | some p => some p.2
  | none => none

/-! VQNT and VDQNT (R181, R182). -/

/-- Magnitude of a finite value. -/
def FVal.abs : FVal → FVal
  | .fin _ n d e => .fin false n d e
  | .inf _ => .inf false
  | .nan => .nan

/-- The index of the largest magnitude among the indexes of a list, the lowest among equals. -/
def argMax (vs : List FVal) (is : List Nat) : Option Nat :=
  match is with
  | [] => none
  | i :: rest => some (rest.foldl (fun b j =>
      if ((nth vs b .nan).abs).cmp (nth vs j .nan).abs < 0 then j else b) i)

/-- The four largest magnitudes' indexes (R182). -/
def topFour (vs : List FVal) (is : List Nat) : Nat → List Nat
  | 0 => []
  | n + 1 =>
    match argMax vs is with
    | none => []
    | some i => i :: topFour vs (is.filter (· != i)) n

/-- A whole number times a value. -/
def FVal.times (q : Nat) (v : FVal) : FVal := (FVal.fin false q 1 0).mul v

/-- What VQNT makes of one block: scale byte, element codes, escape word. -/
def quantBlock (fi : FmtInfo) (q rmode : Nat) (draws : List Nat) (base : Nat) (vs : List FVal) : Nat × List Nat × Nat :=
  let none0 := elemZero fi.elem
  if vs.any (fun v => match v with | .fin .. => false | _ => true) then
    ((if fi.e4m3Scale then 0x7F else 0xFF), vs.map (fun _ => none0), 0)
  else
    let z : FVal := .fin false 0 1 0
    let top := topFour vs (upto vs.length) 4
    let a (i : Nat) : FVal := match top[i]? with | some j => (nth vs j z).abs | none => z
    let gt (x y : FVal) : Bool := decide (0 < x.cmp y)
    let esc := fi.escape && decide (q ≠ 0)
    let k := if esc && gt (a 1) (FVal.times q (a 2)) && gt (a 2) z then 2
             else if esc && gt (a 0) (FVal.times q (a 1)) && gt (a 1) z then 1 else 0
    let above := k == 2 && gt (a 2) (FVal.times q (a 3)) && gt (a 3) z
    let outs := top.take k
    let rest := (upto vs.length).filter (fun i => !outs.contains i)
    let largest (l : List FVal) : FVal := l.foldl (fun b v => if b.cmp v < 0 then v else b) z
    let maxAbs := largest (rest.map (fun i => (nth vs i z).abs))
    let maxPos := largest ((rest.map (fun i => nth vs i z)).filter (fun v => !v.isNeg))
    let maxNeg := largest (((rest.map (fun i => nth vs i z)).filter (fun v => v.isNeg)).map FVal.abs)
    let quot (x : FVal) (n : Nat) : FVal := fp32 (toFp32 (x.div (.fin false n 1 0)))
    let upE4 (x : FVal) : Nat :=
      match x with
      | .fin _ n d e => min (fE4M3.roundMag .up n d e) fE4M3.maxBits
      | _ => fE4M3.maxBits
    let mxExp : Int :=
      match maxAbs with
      | .fin _ n d e => if n = 0 then -127 else max (-127) (min 127 (floorLog2 n d e - fi.emax))
      | _ => 127
    let sByte : Nat :=
      match fi.elem with
      | .k3 => upE4 (quot maxAbs 3)
      | .kt => upE4 (quot maxAbs 1)
      | .k2 => upE4 (let p := quot maxPos 1; let n := quot maxNeg 2; if p.cmp n < 0 then n else p)
      | _ => (mxExp + 127).toNat
    let s := scaleValue fi sByte
    let scaled (v : FVal) : FVal := if s.isZero then (if v.isNeg then .fin true 0 1 0 else z) else v.div s
    let code (i : Nat) : Nat :=
      if outs.contains i then (if fi.elem = .k3 then 4 else none0)
      else elemEncodeMx fi.elem (rndOf rmode draws (base + i)) (scaled (nth vs i z))
    let outRnd : Rnd := if rmode = 1 then .zero else .nearest
    let pair (j : Nat) : Nat :=
      match outs[j]? with
      | some i => i + 2 ^ 6 * fE4M3.encode outRnd (scaled (nth vs i z))
      | none => 0
    (sByte, (upto vs.length).map code,
      pair 0 + 2 ^ 14 * pair 1 + 2 ^ 28 * (if above then 3 else k))

/-- VQNT (R181, R182): the register of elements and the register of scales and escape words. -/
def vqnt (fi : FmtInfo) (q rmode : Nat) (draws : List Nat) (va : Nat) : Nat × Nat :=
  let vs := (lanes 32 va).map fp32
  let nb := if fi.block = 0 then 0 else 64 / fi.block
  let blocks := (upto nb).map (fun b =>
    quantBlock fi q rmode draws (b * fi.block) ((vs.drop (b * fi.block)).take fi.block))
  (packElems fi (blocks.flatMap (fun b => b.2.1)),
   ofLanes 8 (blocks.map (fun b => b.1)) + 2 ^ 512 * ofLanes 32 (if fi.escape then blocks.map (fun b => b.2.2) else []))

/-- VDQNT (R181). -/
def vdqnt (fi : FmtInfo) (va vb : Nat) : Nat :=
  ofLanes 32 ((upto 64).map (fun e =>
    let b := e / fi.block
    let s := scaleValue fi (bits vb (8 * b) 8)
    let ps := if fi.escape then (escPairs fi.block (bits vb (512 + 32 * b) 32)).1 else []
    let v := match escFind ps (e % fi.block) with
      | some o => fE4M3.decode o
      | none => elemValue fi.elem (elemAt fi va e)
    toFp32 (v.mul s)))

/-! Tile operations (R79 to R81, R155, R161 to R174, R183 to R186). -/

/-- One operand of a pass: where it lies and how it is read. -/
structure TileSide where
  fmt : Nat
  off : Nat
  stride : Nat
  scale : Nat
  esc : Nat
  tscale : Nat     -- FP32
  fscale : Nat     -- E8M0 of a fallback copy; 127 (1.0) otherwise
deriving DecidableEq, Repr

/-- A tile descriptor (R80) with its guard word (R184) and fallbacks (R185). -/
structure TileDesc where
  kb : Nat
  a : TileSide
  b : TileSide
  acc : Bool
  satTh : Nat
  uflTh : Nat
  escTh : Nat
  adapt : Bool
  fbA : Nat
  fbB : Nat
deriving DecidableEq, Repr

/-- The side that a fallback field names (R185). -/
def fallbackSide (fb : Nat) : TileSide :=
  { fmt := bits fb 32 8, off := bits fb 0 22, stride := bits fb 40 16, scale := 0, esc := 0,
    tscale := 0x3F800000, fscale := bits fb 56 8 }

/-- Read a descriptor from its 64 bytes (as one number). -/
def TileDesc.ofWord (d : Nat) : TileDesc :=
  let at8 (byte n : Nat) : Nat := bits d (8 * byte) (8 * n)
  { kb := at8 2 2
    a := { fmt := at8 0 1, off := at8 4 4, stride := at8 12 2, scale := at8 16 4, esc := at8 24 4, tscale := at8 32 4,
           fscale := 127 }
    b := { fmt := at8 1 1, off := at8 8 4, stride := at8 14 2, scale := at8 20 4, esc := at8 28 4, tscale := at8 36 4,
           fscale := 127 }
    acc := bit d 320
    satTh := at8 44 1, uflTh := at8 45 1, escTh := at8 46 1, adapt := bit d 376
    fbA := at8 48 8, fbB := at8 56 8 }

/-- 4 MiB (R65). -/
def tmSize : Nat := 0x400000

/-- Whether one operand of a descriptor breaks R155 (or a range of R80) at K = 64 × kb. -/
def tileSideBad (kb : Nat) (s : TileSide) : Bool :=
  match fmtInfo s.fmt with
  | none => true
  | some fi =>
    let k := 64 * kb
    let row := rowBytes fi k
    let lines := (row + 63) / 64
    let nblk := if fi.block = 0 then 0 else k / fi.block
    !fi.tile
    || decide (2 ^ 22 ≤ s.off) || decide (2 ^ 22 ≤ s.scale) || decide (2 ^ 22 ≤ s.esc)
    || decide (s.off % 64 ≠ 0) || decide (s.stride < lines)
    || decide ((s.scale = 0) ≠ (fi.block = 0))
    || (!fi.escape && decide (s.esc ≠ 0))
    || (!fi.tensorScale && decide (s.tscale ≠ 0x3F800000))
    || decide (s.scale % 64 ≠ 0) || decide (s.esc % 64 ≠ 0)
    || decide (tmSize < s.off + 63 * s.stride * 64 + row)
    || (decide (s.scale ≠ 0) && decide (tmSize < s.scale + 64 * nblk))
    || (decide (s.esc ≠ 0) && decide (tmSize < s.esc + 256 * nblk))

/-- Whether a fallback field breaks R185. -/
def fallbackBad (kb : Nat) (orig : TileSide) (fb : Nat) : Bool :=
  if fb = 0 then false
  else
    let s := fallbackSide fb
    match fmtInfo s.fmt, fmtInfo orig.fmt with
    | some fi, some fo =>
      let row := rowBytes fi (64 * kb)
      decide (bits fb 22 10 ≠ 0) || decide (s.off = 0) || decide (s.off % 64 ≠ 0)
      || !([0x02, 0x03, 0x04, 0x05, 0x08].contains s.fmt)
      || decide (s.stride < (row + 63) / 64) || decide (s.fscale = 0xFF)
      || decide (fi.width ≤ (if fo.elem = .kt then 1 else fo.width))
      || decide (tmSize < s.off + 63 * s.stride * 64 + row)
    | _, _ => true

/-- Whether a descriptor raises cause 0x04 (R131, R155, R184, R185). -/
def tileDescBad (d : Nat) : Bool :=
  let t := TileDesc.ofWord d
  decide (t.kb = 0) || decide (256 < t.kb)
  || tileSideBad t.kb t.a || tileSideBad t.kb t.b
  || decide (bits d 321 31 ≠ 0) || decide (bits d 377 7 ≠ 0)
  || fallbackBad t.kb t.a t.fbA || fallbackBad t.kb t.b t.fbB

/-- The occupancy in core cycles of a pass over two formats (R81). -/
def tileOccupancy (kb fa fb : Nat) : Nat :=
  let slow (c : Nat) : Nat := match fmtInfo c with | some fi => fi.slow | none => 0
  64 * kb * max (slow fa) (slow fb) / 4

/-- Element `k` of row `i` of a side: its bits. -/
def sideCode (rd : Nat → Nat) (s : TileSide) (fi : FmtInfo) (i k : Nat) : Nat :=
  let base := s.off + i * s.stride * 64
  match fi.elem with
  | .kt =>
    let b := rd (base + k / 5)
    if b < 243 then (b / 3 ^ (k % 5)) % 3 else 1
  | _ =>
    let lo := fi.width * k
    let w := rd (base + lo / 8) + 256 * rd (base + lo / 8 + 1)
    bits w (lo % 8) fi.width

/-- The escape word of block `b` of row `i` (R165). -/
def sideEsc (rd : Nat → Nat) (s : TileSide) (nblk i b : Nat) : Nat :=
  let a := s.esc + 4 * (i * nblk + b)
  rd a + 256 * rd (a + 1) + 65536 * rd (a + 2) + 16777216 * rd (a + 3)

/-- The block factor (R167): block scale × tensor scale in FP32. -/
def sideFactor (rd : Nat → Nat) (s : TileSide) (fi : FmtInfo) (nblk i b : Nat) : FVal :=
  fp32 (toFp32 ((scaleValue fi (rd (s.scale + i * nblk + b))).mul (fp32 s.tscale)))

/-- The value of element `k` of row `i` (R161, R163, R167, R171, R185). -/
def sideValue (rd : Nat → Nat) (s : TileSide) (kk i k : Nat) : FVal :=
  match fmtInfo s.fmt with
  | none => .nan
  | some fi =>
    let code := sideCode rd s fi i k
    if fi.block = 0 then
      ((elemValue fi.elem code).mul (fp32 s.tscale)).mul (.fin false 1 1 ((s.fscale : Int) - 127))
    else
      let nblk := kk / fi.block
      let b := k / fi.block
      let f := sideFactor rd s fi nblk i b
      let ps := if s.esc = 0 then [] else (escPairs fi.block (sideEsc rd s nblk i b)).1
      match escFind ps (k % fi.block) with
      | some o => (fE4M3.decode o).mul f
      | none => (elemValue fi.elem code).mul f

/-- The three guard counts of an operand: saturations, scale underflows, escape overflows (R183), each held at 0xFFFF. -/
def sideCounts (rd : Nat → Nat) (s : TileSide) (kk : Nat) : Nat × Nat × Nat :=
  match fmtInfo s.fmt with
  | none => (0, 0, 0)
  | some fi =>
    let nblk := if fi.block = 0 then 0 else kk / fi.block
    let pairs (i b : Nat) := if s.esc = 0 then ([], 0) else escPairs fi.block (sideEsc rd s nblk i b)
    let out (i k : Nat) : Option Nat := if fi.block = 0 then none else escFind (pairs i (k / fi.block)).1 (k % fi.block)
    let cells := (upto 64).flatMap (fun i => (upto kk).map (fun k => (i, k)))
    let blocks := (upto 64).flatMap (fun i => (upto nblk).map (fun b => (i, b)))
    let sat := countP (fun c =>
      match out c.1 c.2 with
      | some o => o % 128 == 0x7E
      | none => fullScale fi.elem (sideCode rd s fi c.1 c.2)) cells
    let tiny (v : FVal) : Bool := decide (bits (toFp32 v) 23 8 = 0)
    let ufl := countP (fun c =>
      tiny (sideFactor rd s fi nblk c.1 c.2) &&
        (decide ((pairs c.1 c.2).1 ≠ []) || (upto fi.block).any (fun j =>
          !(elemValue fi.elem (sideCode rd s fi c.1 (c.2 * fi.block + j))).isZero))) blocks
    let words := (blocks.map (fun c => (pairs c.1 c.2).2)).foldl (· + ·) 0
    let k3 := if fi.elem = .k3 then
        countP (fun c => sideCode rd s fi c.1 c.2 == 4 && (out c.1 c.2).isNone) cells else 0
    let ktBytes := (upto 64).flatMap (fun i => ((upto ((kk + 4) / 5)).filter (fun j =>
        decide (243 ≤ rd (s.off + i * s.stride * 64 + j)))).map (fun j =>
          -- one count for each block that the byte touches (R163)
          (min (kk - 1) (5 * j + 4)) / 64 - (5 * j) / 64 + 1))
    let kt := if fi.elem = .kt then ktBytes.foldl (· + ·) 0 else 0
    (min 0xFFFF sat, min 0xFFFF ufl, min 0xFFFF (words + k3 + kt))

/-- Whether a count exceeds its threshold (R184). -/
def exceeds (count th : Nat) : Bool := decide (th ≠ 0xFF) && decide (th < count)

/-- One 64-element sum within one unit in the last place of the exact sum (R173). -/
def stepSum (free : Nat) (products : List FVal) : Nat :=
  match products.foldl FVal.add (.fin false 0 1 0) with
  | .fin neg num den e =>
    if num = 0 then toFp32 (.fin neg num den e)
    else
      let lo := fFP32.roundMag .zero num den e
      let exact := fFP32.roundMag .up num den e = lo
      let k : Int := if exact then (Config.tileError free % 3 : Nat) - 1 else (Config.tileError free % 2 : Nat)
      let m := ((lo : Int) + k).toNat
      (if neg then 2 ^ 31 else 0) + (if m ≤ fFP32.maxBits then m else fFP32.maxBits + 1)
  | other => toFp32 other

/-- The steps of K in the order they are added (R173: not fixed), and so the first ones when a switch cuts them short. -/
def stepOrder (free : Nat) : Nat → List Nat → List Nat
  | 0, _ => []
  | n + 1, l =>
    match l[Config.tileOrder free l.length % l.length]? with
    | none => []
    | some k => k :: stepOrder free n (l.filter (· != k))

/-- Add the given steps of K to one element of the accumulator, in order (R173). -/
def addSteps (rdA rdB : Nat → Nat) (a b : TileSide) (kk i j free : Nat) : List Nat → Nat → Nat
  | [], acc => acc
  | st :: rest, acc =>
    let prods := (upto 64).map (fun x => (sideValue rdA a kk i (64 * st + x)).mul (sideValue rdB b kk j (64 * st + x)))
    addSteps rdA rdB a b kk i j free rest (fAdd acc (stepSum (free + 4096 * (64 * i + j) + st) prods))

/-- The 64 rows of an accumulator after the given steps (C = A × B added to `old`, "Layout in tile memory"). -/
def tileRows (rd : Nat → Nat) (a b : TileSide) (kk free : Nat) (steps : List Nat) (old : Nat → Nat) : List Nat :=
  (upto 64).map (fun i =>
    let row := old i
    ofLanes 32 ((upto 64).map (fun j => addSteps rd rd a b kk i j free steps (bits row (32 * j) 32))))

end Sys2Proof.Machine
end

