-- ==== Sys2Proof/Machine/State.lean ====
section
/-! DEFINITION. The state of the block: every register, buffer, queue, counter, mode and pin of the module, grouped by block
of R24, and the queue of waiting commands. A field's value before `deriving` is its value in `State.reset`. Sparse tables list
only what differs from the value the table's reader gives for an unlisted key. -/

namespace Sys2Proof.Machine

/-- Why the block could stop. No command of this block stops it: every error of the manual is a status, a cause, an event or a
refused descriptor, and execution goes on. -/
inductive Fault where
  /-- Raised by nobody; kept so that the type names a reason. Safe: a run never ends in it. -/
  | stopped
deriving DecidableEq, Repr

/-- Why a command has no meaning. -/
inductive Refusal where
  /-- Raised by an arm of `exec` whose command is not modelled yet. Safe: the run ends. -/
  | notModelled (mnemonic : String)
deriving DecidableEq, Repr

/-! ## Mesh (01) -/

/-- One half of the mesh (R60, R61). `STATE`: 0 RUN, 1 PARKING, 2 PARKED, 3 UNPARKING. -/
structure Half where
  rate : Nat := 16
  park : Bool := false
  rateEff : Nat := 16
  state : Nat := 0
  err : Nat := 0
  boundUnit : Nat := 0
  heldPark : Option Bool := none      -- a write to PARK held during a park or unpark (R58)
  want : Option Nat := none           -- a requested mesh clock not yet in force (R52)
  wantCause : Nat := 0                -- CAUSE of SEAM_RATE for it (R53)
  lowered : Nat := 0                  -- sixteenths taken by the power controller (R504)
  heatLowered : Nat := 0              -- sixteenths taken by throttle (R520)
deriving DecidableEq, Repr

/-- The mesh block. -/
structure Mesh where
  west : Half := {}
  east : Half := {}
  cap : Nat := 3072                   -- MSH_SEAM_STATUS.CAP (R62)
  weFull : Bool := false
  ewFull : Bool := false
  parkedCnt : Nat := 0                -- MSH_PARKED_CNT (R62)
  parkedUnit : Option Nat := none     -- the source that the last PARKED error named (R57): the model's own observable
deriving DecidableEq, Repr

/-! ## Cores (02, 03, 04) -/

/-- An active hardware loop, its counter, the start of its body and of its last bundle (R77, R113). -/
structure Loop where
  lc : Nat
  start : Nat
  stop : Nat
deriving DecidableEq, Repr

/-- Phase of a tensor array (R82, R83, R188, R512). -/
inductive ArrPhase where
  | idle
  | waiting      -- for the stagger
  | ramping
  | first        -- first pass
  | second       -- escalated second pass
  | direct       -- direct execution
  | ended        -- rows clocked with null operands
  | gated        -- rows gated, not yet idle
deriving DecidableEq, Repr

/-- A tile operation on an array: its descriptor word, the pass it runs, what is left of K, and tile memory as it stood when
the pass began (R147). -/
structure TileOp where
  desc : Nat
  off : Nat                           -- tile-descriptor offset, part of the history key (R191)
  pc : Nat
  pass : ArrPhase := .first
  useA : Bool := false                -- A comes from its fallback copy
  useB : Bool := false
  left : List Nat := []               -- 64-element steps of K not yet added (R92)
  started : Bool := false             -- some step of this pass has been added
  free : Nat := 0                     -- the free counter its results are drawn from
  snap : Cells := []
  cntA : Nat × Nat × Nat := (0, 0, 0) -- saturation, underflow, escape counts (R183)
  cntB : Nat × Nat × Nat := (0, 0, 0)
  endAt : Nat := 0                    -- the core cycle in which the occupancy ends
deriving DecidableEq, Repr

/-- One tensor array. -/
structure Arr where
  phase : ArrPhase := .idle
  op : Option TileOp := none
  accAt : Nat := 0                    -- first core cycle in which the accumulator is readable (R84)
  freeAt : Nat := 0                   -- the core cycle in which its last occupancy ended
deriving DecidableEq, Repr

/-- An entry of the precision guard's history (R191, R192), most recently used first in its list. -/
structure HistEntry where
  arr : Nat
  off : Nat
  fbA : Nat
  fbB : Nat
  streak : Nat
  directs : Nat                       -- consecutive direct executions
deriving DecidableEq, Repr

/-- The guard summary of a task (R190). -/
structure GuardSum where
  tileOps : Nat := 0
  escalated : Nat := 0
  direct : Nat := 0
  exceeded : Nat := 0
  firstCount : Nat := 0
  first : Nat := 0                    -- bytes 28 to 31
deriving DecidableEq, Repr

/-- The part of a core that a save image holds (R65, R91). -/
structure Arch where
  g : SMap (BitVec 64) := []
  v : SMap (BitVec 2048) := []
  p : SMap (BitVec 256) := []
  acc : SMap (BitVec 2048) := []      -- row r of array a at 64 a + r (R66)
  lc : SMap (BitVec 32) := []
  loops : List Loop := []             -- innermost first
  pc : Nat := 0
  winBase : Nat := 0
  winLimit : Nat := 0
  live : BitVec 64 := BitVec.allOnes 64
  seed : BitVec 64 := 1
  guard : GuardSum := {}
deriving DecidableEq, Repr

/-- A range entry held by a near range buffer or a far range cache with its context (R265, R269). -/
structure RangeEnt where
  ctx : Nat
  lo : Nat                            -- bytes 0 to 7
  hi : Nat                            -- bytes 8 to 15
  pos : Nat := 0                      -- its index in its bucket
deriving DecidableEq, Repr

/-- CORE_FAULT (R102). -/
structure CoreFault where
  cause : Nat := 0
  slot : Nat := 0
  ctx : Nat := 0xFFFF
  pc : Nat := 0
deriving DecidableEq, Repr

/-- One core. -/
structure Core where
  arch : Arch := {}
  tm : Cells := []                    -- tile memory; a segment marked clear lists nothing (R95)
  im : Cells := []                    -- instruction memory
  loaded : List Nat := []             -- loaded 1 KiB blocks (R554)
  stop : Bool := false                -- CORE_CTL.STOP
  cycle : Nat := 0                    -- CORE_CYCLE
  retire : Nat := 0                   -- CORE_RETIRE
  fault : CoreFault := {}
  now : Nat := 0                      -- first core cycle in which the next bundle may issue
  ready : SMap Nat := []              -- the cycle in which each register is readable (R75)
  units : SMap Nat := []              -- the cycle in which each slot's group is free (R74)
  crw : List (Nat × Nat × BitVec 64) := []   -- CRW effects: cycle, register, value (R123)
  arrays : SMap Arr := []
  hist : List HistEntry := []
  near : List RangeEnt := []          -- most recently used first (R269)
  pend : Option Nat := none           -- pending-fault slot: the held fault's number (R281)
  task : Option Nat := none           -- the task on the core
  phase : Nat := 0                    -- 0 none, 1 running, 2 to be switched out, 3 switching in, 4 END issued, 5 switching out
  drained : Bool := false             -- D_dma has ended (R92)
  parked : Bool := false              -- powered down with its half, for the pool role or by a trip
  resetting : Bool := false           -- a core reset runs (R554)
  rstCause : Nat := 0                 -- of it: 0 request, 1 automatic, 2 escalation (R561)
  ownFault : Bool := false            -- it is caused by the core's own failure (R559)
  taken : Bool := false               -- its Locket's reset took it over (R549)
deriving DecidableEq, Repr

/-! ## Requests -/

/-- A stop of the Filigree (R31 to R34). -/
structure Stop where
  col : Nat
  row : Nat
deriving DecidableEq, Repr

/-- Who sent a request and where its answer goes. -/
inductive Src where
  | op (tid seq row off : Nat)        -- a piece of a task's stream operation
  | jobRead (jid pos : Nat)
  | jobWrite (jid pos : Nat)
  | desc (q idx : Nat)                -- a descriptor's fence signal or error (R329)
  | remote (port reqid mod budget : Nat) (ctx : Nat) (tag : Nat)   -- arrived over Trebry
  | bar4 (bid pos : Nat)              -- a piece of a host access through PF BAR4 (R312)
deriving DecidableEq, Repr

/-- What a request does. -/
inductive ReqKind where
  | read
  | write (poison : Bool)
  | atom (op size : Nat) (a b : BitVec 64)
  | signal (value : BitVec 64) (handle : Nat)   -- handle 0: the fence is named by its value word
  | error (handle code ctx : Nat)
deriving DecidableEq, Repr

/-- Where a request was mapped (R46, R199, R200). -/
inductive Place where
  | chan (c off : Nat)
  | window (core off : Nat)
  | mmio (off : Nat)
  | away
deriving DecidableEq, Repr

/-- A request in flight inside this module (R36). -/
structure Req where
  rid : Nat
  src : Src
  kind : ReqKind
  place : Place
  dpa : Nat
  len : Nat
  data : List (BitVec 8) := []
  locket : Nat := 0xFF
  ctx : Nat := 0xFFFF
  facet : Nat := 0
  source : Stop                       -- the stop it comes from
  dest : Stop                         -- the stop it goes to
  set : Nat := 64                     -- the Setting whose map chose the channel; 64 none
  epoch : Nat := 0
  via : Nat × Nat := (0, 0)           -- the range entry it was translated through
  dropped : Bool := false             -- its answer is discarded (R92, R374, R548)
  accepted : Bool := false            -- its stop had accepted it when the half began to park (R56)
  parts : List (Nat × List (BitVec 8)) := []  -- sectors performed, by place in the request, and what they returned (R213)
  bad : Option Nat := none            -- the first error that one of them met
deriving DecidableEq, Repr

/-- An answer on its way back to a core (R36): it returns the labels of its request unchanged. -/
structure Answer where
  req : Req
  status : Nat
  data : List (BitVec 8) := []
  unit : Option Nat := none           -- the unit that a PARKED error names as its source (R57)
  from' : Stop                        -- the stop that sends it
deriving DecidableEq, Repr

/-! ## Tasks (02, 09, 12) -/

/-- A stream operation of a task that has issued and not completed (R86, R133, R226). -/
structure StreamOp where
  seq : Nat
  op : Nat
  pc : Nat
  slot : Nat
  va : Nat
  size : Nat := 0                     -- bytes
  sx : Bool := false
  dst : Nat := 0
  tag : Nat := 16
  tmOff : Nat := 0
  rows : Nat := 1
  rowBytes : Nat := 0
  vaStride : Int := 0
  tmStride : Nat := 0
  a : BitVec 64 := 0
  b : BitVec 64 := 0
  row : Nat := 0                      -- the next request to send
  off : Nat := 0
  redo : List (Nat × Nat) := []       -- requests recorded for sending again (R92, R94)
  out : List (Nat × Nat) := []        -- requests sent and unanswered
deriving DecidableEq, Repr

/-- Where a task stands (R355, R444, R275, R284). -/
inductive TaskState where
  | waiting       -- launched, for a save slot and a core
  | runnable      -- switched out, may be switched in
  | onCore
  | faulted       -- a waiter of an outstanding or held fault
  | deferred      -- until the pending-fault slot of its core is empty
deriving DecidableEq, Repr

/-- Who launched a task. -/
inductive Launcher where
  | desc (q idx : Nat)
  | remote (mod port reqid : Nat) (budget : Nat)
deriving DecidableEq, Repr

/-- A task. -/
structure Task where
  tid : Nat
  launcher : Launcher
  idx : Nat                           -- g2 (R331)
  count : Nat
  ctx : Nat
  locket : Nat
  set : Nat
  vcore : Nat                         -- 0xFFFF until the scheduler has chosen
  priv : Bool
  facet : Nat
  prio : Nat
  pf : Bool                           -- from a PF kernel queue (R310)
  st : TaskState := .waiting
  slot : Option Nat := none           -- save slot
  core : Nat := 0xFFFF                -- the core it is on or was last on
  arch : Arch := {}                   -- its start values or its saved state
  arrOps : List (Nat × TileOp) := []  -- tile operations in progress at the switch-out
  image : List (Nat × Nat × List (BitVec 8)) := []  -- image as written: DPA runs (check word, R91)
  imageBad : Bool := false            -- a write of the image failed (R356)
  ops : List StreamOp := []
  nextSeq : Nat := 0
  hold : Bool := false                -- sends wait for earlier acknowledgements (R93, R240)
  ended : Bool := false               -- END has issued
  err : Option (Nat × Nat × Nat × Nat) := none -- status, PC, slot, VA of the first stream error (R89)
  since : Nat := 0                    -- when it became runnable
  deferOn : Nat := 0xFFFF             -- the engine whose pending-fault slot it waits for
  faultOp : Nat × Nat × Nat := (0, 0, 0)  -- PC, slot and VA of the operation whose translation faulted last (R291)
deriving DecidableEq, Repr

/-! ## Memory (05, 11, 18) -/

/-- A channel (R229 to R231). STATE: 0 unheld, 1 in service, 2 scrubbing or BIST, 3 parked, 4 failed, 5 retired. -/
structure Chan where
  inj : Nat := 0
  injRd : Bool := false
  refresh2x : Bool := false
  state : Nat := 0
  hot : Nat := 0                      -- row of R209 in force by temperature: 0, 1, 2
  cap : Nat := 0xF0
  temp : Nat := 0
  corr : Nat := 0
  retry : Nat := 0
  poison : Nat := 0
  last : Nat := 0
  lastWr : Bool := false
  initiator : Option Nat := none      -- of the scrub that runs (R233)
  bist : Bool := false
  clean : Bool := false               -- LKT_CLEAN (R434)
  retired : Bool := false
  mem : Cells := []                   -- bytes written
  scrubbed : Bool := false            -- every byte not listed is zero (R220); else undefined until written whole (R629)
  written : List Nat := []            -- sectors written whole since
  marks : List Nat := []              -- sectors with the poison mark
  fences : List Nat := []             -- sectors with the fence mark (R364)
deriving DecidableEq, Repr

/-- A copy job (R217, R219). Kinds of side: 0 VA, 1 host, 2 DPA. -/
structure Job where
  jid : Nat
  ce : Nat
  q : Nat
  idx : Nat
  ctx : Nat
  locket : Nat
  set : Nat
  facet : Nat
  priv : Bool
  fn : Nat
  srcKind : Nat
  dstKind : Nat
  src : Nat
  dst : Nat
  len : Nat
  pos : Nat := 0                      -- start of the 4 KiB piece in progress
  sent : Nat := 0                     -- bytes of the piece whose reads have been sent
  reads : List Nat := []              -- positions of reads outstanding
  writes : List Nat := []             -- positions of writes outstanding
  ready : List (Nat × List (BitVec 8) × Bool × Stop) := []  -- sectors read and not yet written: position, data, poison, stop
  tr : List RangeEnt := []            -- entries its 4 KiB piece was translated by
  written : Nat := 0
  skipped : Option Nat := none        -- first destination a poisoned source kept from being written (R207)
  err : Option Nat := none            -- the first error met
  halt : Bool := false                -- an error other than POISON has stopped it (R207, R291)
  busy : Bool := false                -- its engine serves its 4 KiB piece (R217)
  paused : Bool := false              -- on a fault (R274)
  deferred : Bool := false
  code : Bool := false                -- the read of a CODE_LOAD source (R332)
  got : List (BitVec 8) := []         -- its image so far
  fetchId : Nat := 0                  -- its read of host memory in progress
deriving DecidableEq, Repr

/-- A mirror and move of a swap (R397, R399). -/
structure Move where
  set : Nat
  index : Nat
  src : Nat
  dst : Nat
  facet : Nat := 0                    -- of the SET_SWAP descriptor (R398)
  ce : Nat := 0                       -- the copy engine of its move job
  done : Bool := false
deriving DecidableEq, Repr

/-- A home record of a state block (R416). STATE: 0 FREE, 1 UNOWNED, 2 OWNED, 3 GRANTING, 4 CLEARING, 5 RESERVED. -/
structure HomeRec where
  owner : Nat := 0
  locket : Nat := 0
  state : Nat := 0
  gen : Nat := 0
  pend : Nat := 0
deriving DecidableEq, Repr

/-- An entry of the lease table (R418). State: 0 VALID, 1 GRANTING, 2 LOST, 3 ORPHANED. -/
structure Lease where
  pool : Nat
  block : Nat
  locket : Nat
  gen : Nat
  state : Nat
deriving DecidableEq, Repr

/-- A lease command in progress (R421, R424): waiting to send, sent, or its PROBE sent. -/
structure LeaseCmd where
  op : Nat
  block : Nat
  pool : Nat
  locket : Nat
  target : Nat
  stage : Nat := 0                    -- 0 waiting for answers, 1 operation sent, 2 PROBE sent
  reqid : Nat := 0
  port : Nat := 0
deriving DecidableEq, Repr

/-- The pool role and the lease table (R427, R428). STATE: 0 COMPUTE, 1 ENTERING, 2 POOL, 3 LEAVING. -/
structure Pool where
  gran : Nat := 2
  genBase : Nat := 1
  genFirst : Nat := 1                 -- GEN_BASE when the region was formed (R416)
  state : Nat := 0
  chans : List Nat := []              -- the list L of the pool region (R415)
  busy : Bool := false
  result : Nat := 0
  record : Nat := 0
  recs : SMap HomeRec := []
  clearing : Option Nat := none       -- a block being cleared for a FREE command
  revoking : Option Nat := none       -- a block whose REVOKE waits for requests that passed under the old GEN (R422)
  freeCmds : List Nat := []           -- blocks being cleared for a teardown
  role : Option (Nat × Nat) := none   -- the ROLE descriptor in progress
  probeUs : Nat := 8
  argPool : Nat := 0
  argLocket : Nat := 0
  argTarget : Nat := 0
  lbusy : Bool := false
  lresult : Nat := 0
  lgen : Nat := 0
  leases : List Lease := []
  cmd : Option LeaseCmd := none
deriving DecidableEq, Repr

/-- The memory block. -/
structure Mem where
  chans : SMap Chan := []
  inflight : List Req := []           -- requests on their way to a home, oldest first
  held : List Req := []               -- requests held at a move destination (R399)
  answers : List Answer := []
  jobs : List Job := []
  moves : List Move := []
  bistSel : BitVec 128 := 0
  bistErr : Bool := false
  bistLeft : Nat := 0
  bistFail : BitVec 128 := 0
deriving DecidableEq, Repr

/-! ## Translation (07) -/

/-- What a ring keeps (R278, R299, R347, R350). -/
structure Ring where
  base : Nat := 0                     -- ADDR, a multiple of 4 KiB
  enable : Bool := false
  size : Nat := 6
  vector : Nat := 0
  modCount : Nat := 0
  modDelay : Nat := 0
  prod : BitVec 32 := 0
  cons : BitVec 32 := 0
  consErr : Bool := false
  since : Nat := 0                    -- records since the last message
deriving DecidableEq, Repr

/-- The fault queue of a slot (R299, R300). -/
structure FqRing where
  ring : Ring := { size := 8 }
  overflow : Bool := false
  deferred : Nat := 0
deriving DecidableEq, Repr

/-- Who waits on a fault (R275). -/
inductive Waiter where
  | task (tid : Nat)
  | job (jid : Nat)
deriving DecidableEq, Repr

/-- A fault (R276, R285). -/
structure FaultRec where
  fid : Nat                           -- the model's own number
  engine : Nat                        -- 0 to 191 cores, 192 to 195 copy engines
  who : Waiter
  ctx : Nat
  locket : Nat
  kind : Nat
  access : Nat
  priv : Bool
  va : Nat
  pos : Nat                           -- index of the entry found at or below VA; 0xFFFF none
  key : Nat × Nat × Nat × Nat         -- the place of the fault (R285)
  pc : Nat
deriving DecidableEq, Repr

/-- An entry of the outstanding table (R285). -/
structure OutEnt where
  entry : Nat
  gen : Nat
  fault : FaultRec
  waiters : List Waiter
deriving DecidableEq, Repr

/-- Stage of an engine's translation (R267, R268). -/
inductive WalkStage where
  | lookup
  | level1
  | probe (bucket count lo hi : Nat) (hit : Option Nat) (seen : List (Nat × List (BitVec 8)))
deriving DecidableEq, Repr

/-- A translation in progress. -/
structure Walk where
  stage : WalkStage
  va : Nat
  who : Waiter
  ctx : Nat
  access : Nat := 0                   -- of the request that waits: 0 read, 1 write, 2 atomic
  stale : Bool := false               -- its result is not kept (an invalidation came after it began)
deriving DecidableEq, Repr

/-- The translation block. -/
structure Xlt where
  fqs : SMap FqRing := []
  stale : Nat := 0
  merged : Nat := 0
  outst : List OutEnt := []           -- by entry number
  gens : SMap Nat := []               -- the generation of each entry; unlisted 1
  heldQueue : List (Nat × Nat) := []  -- entries of the table whose record is held for a full queue: engine, entry
  heldTable : List FaultRec := []     -- faults held for a full table (R287)
  farWest : List RangeEnt := []
  farEast : List RangeEnt := []
  pendJob : SMap (Option Nat) := []   -- pending-fault slots of the copy engines
  walks : SMap (Option Walk) := []
deriving DecidableEq, Repr

/-! ## Queues (08) -/

/-- Where a fetched descriptor stands (R318, R329). -/
inductive DescPhase where
  | fetched
  | checking      -- a remote fence is being queried (R372)
  | checked
  | registered    -- its wait is registered (R369)
  | polling       -- a registration found the table full (R371)
  | querying      -- a remote registration is under way
  | ready         -- its wait is satisfied
  | running
  | signalling    -- its fence operation is on the way
deriving DecidableEq, Repr

/-- A descriptor fetched and not completed. -/
structure Desc where
  idx : Nat
  data : BitVec 512
  phase : DescPhase := .fetched
  status : Nat := 0                   -- the first error met, or the refusal
  refused : Bool := false
  left : Nat := 0                     -- tasks or channels not yet ended
  detail : BitVec 128 := 0
  checks : List Nat := []             -- control requests outstanding for it: request numbers
  begun : Bool := false
  firstIdx : Nat := 0xFFFFFFFF        -- the task whose FIRST fields the summary holds (R331)
  sigRec : Nat := 0                   -- DPA of a remote SIGNAL_FENCE's record, from its check (R372)
  scrubs : List Nat := []             -- channels a SCRUB or ROLE waits for
deriving DecidableEq, Repr

/-- A submission queue (R349). STATE: 0 disabled, 1 running, 2 draining, 3 error. -/
structure Sq where
  base : Nat := 0
  enable : Bool := false
  size : Nat := 6
  kernel : Bool := false
  cq : Nat := 0
  ctx : Nat := 0xFFFF
  func : Nat := 0
  slot : Nat := 0
  qp : Nat := 0
  prod : BitVec 32 := 0
  cons : BitVec 32 := 0
  state : Nat := 0
  dbBad : Bool := false
  fetchErr : Bool := false
  dbIgnored : Nat := 0
  cwbEn : Bool := false
  cwbAddr : Nat := 0
  fetches : List (Nat × Option (BitVec 512)) := []   -- fetches sent, with data that has arrived out of order
  descs : List Desc := []             -- in ring order
  after : List Nat := []              -- BAR4 writes outstanding when its last doorbell was taken (R294)
deriving DecidableEq, Repr

/-- A completion ring (R350). -/
structure CqRing where
  ring : Ring := {}
  func : Nat := 0
  slot : Nat := 0
  stalled : Bool := false
  reserved : Nat := 0
deriving DecidableEq, Repr

/-- A record without its ring's PHASE and SEQ (R276, R340). -/
structure Record where
  type : Nat
  sev : Nat := 0
  locket : Nat := 0xFF
  ctx : Nat := 0xFFFF
  source : Nat := 0
  object : Nat := 0
  detail : BitVec 128 := 0
deriving DecidableEq, Repr

/-- An event ring (R350). -/
structure EvRing where
  ring : Ring := {}
  mirror : Bool := false
  overflow : Bool := false
  lost : Nat := 0                     -- QUE_EV_STATUS.LOST
  lostSince : Nat := 0                -- events lost since the last EVENT_LOST
  firstLost : Nat := 0
deriving DecidableEq, Repr

/-- What the module writes on the PCIe link, in order (R248, R305). -/
inductive HostOut where
  | record (fn addr seq : Nat) (phase : Bool) (r : Record)
  | cons (fn addr : Nat) (value : BitVec 32)
  | data (fn addr : Nat) (bytes : List (BitVec 8))
  | msi (fn vector addr data : Nat)
  | fetch (fn addr len : Nat)
deriving DecidableEq, Repr

/-- A code load of this module's cores: a descriptor's own or one that another module sent (R69, R332, R405). -/
structure CodeLoad where
  lid : Nat
  launcher : Launcher
  cores : List Nat
  off : Nat
  len : Nat
  ctx : Nat
  locket : Nat
deriving DecidableEq, Repr

/-- A task that has ended with an error and whose writes are still on their way: its completion waits for them (R248). -/
structure Ending where
  tid : Nat
  launcher : Launcher
  idx : Nat
  ctx : Nat
  locket : Nat
  status : Nat
  guard : GuardSum
deriving DecidableEq, Repr

/-- A host access through PF BAR4 whose requests are not all answered (R312). -/
structure Bar4Op where
  bid : Nat
  tag : Nat := 0                      -- the tag of the host's request
  wr : Bool
  left : Nat                          -- requests unanswered
  got : List (BitVec 8)               -- what a read has returned so far
  status : Nat := 0                   -- the first error met
deriving DecidableEq, Repr

/-- The queue block. -/
structure Que where
  loads : List CodeLoad := []
  ending : List Ending := []
  bar4 : List Bar4Op := []
  sqs : SMap Sq := []
  cqs : SMap CqRing := []
  evs : SMap EvRing := []
  pfHold : Bool := true               -- the PF event ring has not been enabled since the last reset (R633)
  held : List Record := []
  msixBase : SMap Nat := []
  msixCount : SMap Nat := []
  unmasked : List (Nat × Nat) := []   -- vectors whose mask bit is clear: function, vector
  msixPend : List (Nat × Nat) := []
  msixAddr : SMap Nat := []           -- message address of vector v of function f, at 2,048 f + v
  msixData : SMap Nat := []
  vfEnable : Bool := false
  numVfs : Nat := 0
  sris : Nat := 0                     -- PCX_LINK_CFG
  link : LinkState := { rate := 0, width := 0, flit := false, sris := false }
  degraded : Bool := false
  loopback : Bool := false            -- a loop-back at depth 3 has taken the link down (R603)
  ansTag : Nat := 0                   -- the tag of the BAR4 read answered last
  ansStatus : Nat := 0                -- how the last configuration or BAR4 request was answered: the model's own observable
  ansBytes : List (BitVec 8) := []
  bar4Base : Nat := 0
  vfMse : Bool := false               -- Memory Space Enable of the VFs (R307)
  vfBars : SMap Nat := []             -- the words of the VFs' BARs: BAR0 low and high, BAR2 low and high (R307, R587)
  aer : List Nat := []                -- fetch errors logged under AER, oldest first, by KIND (R322)
  lastFetch : SMap Nat := []          -- the queue that each queue processor served last (R315)
  out : List (HostOut × Option Nat) := []
deriving DecidableEq, Repr

/-! ## Contexts and fences (09) -/

/-- The counters of R446. -/
structure Acct where
  time : Nat := 0
  energy : Nat := 0
  dram : Nat := 0
  seam : Nat := 0
  trb : Nat := 0
  pcie : Nat := 0
deriving DecidableEq, Repr

/-- A context (R352, R353). State: 0 FREE, 1 ACTIVE, 2 ABORTING, 3 ABORTED. -/
structure Ctx where
  state : Nat := 0
  locket : Nat := 0
  set : Nat := 0
  root : BitVec 64 := 0
  saveVa : Nat := 0
  saveN : Nat := 0
  used : List Nat := []               -- save slots taken (R355)
  acct : Acct := {}
deriving DecidableEq, Repr

/-- An abort in progress (R374): the counts of its completion record and the descriptors that wait for it. -/
structure Abort where
  ctx : Nat
  waiters : List (Nat × Nat) := []    -- queue and descriptor
  tasks : Nat := 0
  descs : Nat := 0
  faults : Nat := 0
  reqs : Nat := 0
  cause : Nat := 1                    -- of RESET_DONE (R561)
  takers : List Nat := []             -- cores whose resets took it over, still running (R549)
  drained : Bool := false             -- its step 5 has ended while such a reset ran
deriving DecidableEq, Repr

/-- An entry of the fence table (R379). -/
structure Fence where
  valid : Bool := false
  gen : Nat := 0
  locket : Nat := 0
  sigValid : Bool := false
  sigCtx : Nat := 0
  recOff : Nat := 0                   -- local offset of the record
  home : Nat × Nat := (0, 0)          -- the channel and sector of its mark (R364)
deriving DecidableEq, Repr

/-- FNC_CMD_ARG and FNC_CMD_INIT as a command found them (R379). -/
structure FenceArg where
  locket : Nat := 0
  sigValid : Bool := false
  sigCtx : Nat := 0
  recOff : Nat := 0                   -- local offset of the record
  init : BitVec 64 := 0
deriving DecidableEq, Repr

/-- A create or destroy command that waits, its record lying at a move destination that holds requests (R399). -/
inductive FenceCmd where
  | create (index : Nat) (arg : FenceArg) (x : Xmit)
  | destroy (index : Nat)
deriving DecidableEq, Repr

/-- Who has registered a wait (R369). -/
inductive WaitFor where
  | desc (q idx : Nat)
  | remote (mod : Nat) (token : Nat) (tag : Nat)   -- under the tag its message carried
deriving DecidableEq, Repr

/-- A registration of the fence table (R371). -/
structure Wait where
  index : Nat
  value : BitVec 64
  who : WaitFor
deriving DecidableEq, Repr

/-- A RANGE_INVAL in progress (R297): its queue, descriptor and the requests and walks it waits for. -/
structure Inval where
  q : Nat
  idx : Nat
  ctx : Nat
  reqs : List Nat                     -- request numbers
  walks : List Nat                    -- engines
  ops : List (Nat × Nat × Nat × Nat)  -- task and piece that waited to be translated
deriving DecidableEq, Repr

/-- The fence and context block. -/
structure Fnc where
  ctxs : SMap Ctx := []
  aborts : List Abort := []
  fences : SMap Fence := []
  argLocket : Nat := 0
  argSigValid : Bool := false
  argSigCtx : Nat := 0
  argRec : Nat := 0                   -- bits [39:4] as written
  cmdInit : BitVec 64 := 0
  cmd : Option FenceCmd := none       -- FNC_CMD_STATUS.BUSY while one is held
  result : Nat := 0
  handle : Nat := 0
  waits : List Wait := []
  full : Nat := 0
  invals : List Inval := []
deriving DecidableEq, Repr

/-! ## Settings (10) -/

/-- One copy of a Setting's tables as raw register values (R385 to R387); unlisted entries are 0. -/
structure SetCopy where
  hdr : BitVec 64 := 0
  rgn : BitVec 64 := 0
  chan : SMap (BitVec 8) := []
  link : SMap (BitVec 16) := []
  qset : List Nat := []
  core : SMap (BitVec 32) := []
deriving DecidableEq, Repr

/-- A swap in progress (R396). -/
structure Swap where
  q : Nat
  idx : Nat
  qp : Nat := 0
  moves : Nat := 0
  us : Nat := 0
  tasks : Nat := 0
  drained : Nat := 0
  mirrorsOff : Bool := false
  stepFour : Bool := false
deriving DecidableEq, Repr

/-- A Setting (R381, R388). -/
structure Setting where
  active : SetCopy := {}
  shadow : SetCopy := {}
  epoch : Nat := 0
  phase : Nat := 0
  shLock : Bool := false
  shIgnored : Nat := 0
  swap : Option Swap := none
deriving DecidableEq, Repr

/-! ## Lockets (12) -/

/-- One copy of a slot's tables (R458). -/
structure LktCopy where
  valid : Bool := false
  tag : Nat := 0
  home : Nat := 0
  slice : Nat := 0x3E8
  preempt : Bool := false
  switchClass : Nat := 0
  qp : Nat := 0
  cores : BitVec 192 := 0
  chans : BitVec 128 := 0
  facet : BitVec 48 := 0
  floor : SMap Nat := []
  share : SMap Nat := []              -- kind k, class c at 8 k + c
  member : List Nat := []
deriving DecidableEq, Repr

/-- A teardown in progress (R451, R452). -/
structure Teardown where
  desc : Option (Nat × Nat) := none   -- the LOCKET_TEARDOWN descriptor
  home : Bool := false                -- the home's teardown, which runs on every member
  msgHome : Option Nat := none        -- the home that ordered it
  tag : Nat := 0
  step : Nat := 2
  members : List Nat := []            -- members the home waits for
  reported : List Nat := []
  done8 : List Nat := []
  missing : Nat := 0
  reqs : Nat := 0
  scrubs : List Nat := []             -- channels being scrubbed for it
  tdi : Bool := false                 -- started by STOP_INTERFACE
deriving DecidableEq, Repr

/-- A Locket slot (R431, R458, R459). STATE: 0 FREE, 1 ACTIVE, 2 FENCED, 3 DRAINING, 4 KEY_RETIRE, 5 SCRUBBING. -/
structure Slot where
  active : LktCopy := {}
  shadow : LktCopy := {}
  state : Nat := 0
  keygen : Nat := 0
  acct : Acct := {}
  acctSel : Nat := 0xFFFF
  latUnit : Nat := 0
  latClass : Nat := 0
  latDir : Nat := 0
  lat : SMap Nat := []                -- longest waits by unit, class and direction (R442)
  nonce0 : BitVec 64 := 0
  nonce1 : BitVec 64 := 0
  invBusy : Bool := false
  invReady : Bool := false
  invSeq : Nat := 0
  invRec : List (BitVec 8) := []
  teardown : Option Teardown := none
  resetting : Bool := false           -- a Locket reset runs (R555)
  rstCause : Nat := 0                 -- of it: 0 request, 1 automatic, 2 escalation (R561)
deriving DecidableEq, Repr

/-- The arbiter of a shared resource in one direction (R438): credit counters of its pairs in bytes, grants modulo 16, and the pairs with the
last granted first. -/
structure Arb where
  credit : SMap Int := []             -- unlisted: at the cap of 4,096
  grants : Nat := 0
  turn : List Nat := []
deriving DecidableEq, Repr

/-- The Locket block. -/
structure Lkt where
  slots : SMap Slot := []
  arbs : SMap Arb := []               -- by 2 × unit identifier + direction
  floorSeam : Nat := 64
  floorPort : Nat := 64
  floorPcie : Nat := 64
deriving DecidableEq, Repr

/-! ## Trebry (13) -/

/-- A packet with its header fields (R474), before protection or after it has been opened. -/
structure Packet where
  pkind : Nat
  enc : Bool := true
  kg : Nat := 0
  dst : Nat
  src : Nat
  tag : Nat := 0
  budget : Nat := 0
  facet : Nat := 0
  reqid : Nat := 0
  ctx : Nat := 0xFFFF
  status : Nat := 0
  size : Nat := 0
  lease : Bool := false
  ivp : Nat := 0
  addr : Nat := 0
  gen : Nat := 0
  poison : Bool := false
  nonce : Nat := 0
  rest : Nat := 0                     -- the reserved bits of the header, in place
  payload : List (BitVec 8) := []     -- as carried: ciphertext when enc is set
  auth : BitVec 128 := 0
deriving DecidableEq, Repr

/-- A packet that has arrived whole at a port and waits to be handled. -/
structure Arrived where
  pid : Nat
  port : Nat
  vc : Nat
  hold : Nat                          -- the largest HOLD of its flits (R481)
  units : Nat
  pkt : Packet
  stale : Bool := false               -- its port's link has started anew since: its credits have been given back (R490)
deriving DecidableEq, Repr

/-- A packet in a port's queue. -/
structure Queued where
  vc : Nat
  fresh : Bool                        -- it has not yet left this module: residence is subtracted at departure
  rest : List (BitVec 8)              -- bytes not yet sent
  budget : Nat                        -- BUDGET before the subtraction
  pair : Nat                          -- the pair it is charged to at the port (R441)
  resid : Nat := 0                    -- its residence on this module when it came into the queue, in 0.1 µs (R481)
  waited : Bool := false              -- it has waited in the queue since
  begun : Bool := false
deriving DecidableEq, Repr

/-- What a request's answer is for. -/
inductive Purpose where
  | access (r : Req)                  -- READ, WRITE or ATOMIC of an engine of this module
  | fenceCheck (q idx : Nat)
  | fenceWait (q idx : Nat)
  | fenceSignal (q idx : Nat)
  | leaseOp
  | launch (q idx : Nat) (count : Nat)
  | teardown (slot mod step : Nat)
  | echo
  | notice                            -- a message whose answer changes nothing
deriving DecidableEq, Repr

/-- An entry of a port's tracker (R479). -/
structure Tracked where
  reqid : Nat
  dst : Nat
  no : Nat := 0                       -- its place in the order in which this module sent its requests (R239)
  purpose : Purpose
  pkt : Packet                        -- as built, before it is protected
deriving DecidableEq, Repr

/-- A DATA flit in the replay buffer (R468). -/
structure Replay where
  seq : Nat
  vc : Nat
  start : Nat
  body : List (BitVec 8)
  sends : Nat := 1
  age : Nat := 0                      -- 0.1 µs from its first sending to its last (R465)
deriving DecidableEq, Repr

/-- A receive buffer of a virtual channel while a packet is being assembled. -/
structure Assembly where
  bytes : List (BitVec 8) := []
  hold : Nat := 0
deriving DecidableEq, Repr

/-- The link layer of a port (R468 to R472). -/
structure LinkState13 where
  nextSeq : Nat := 1                  -- the last SEQ given and the last taken start at 0 (R490; log 60)
  expect : Nat := 1
  nakSent : Bool := false
  replay : List Replay := []
  credits : SMap Nat := []            -- units granted by the partner so far, by VC
  sent : SMap Nat := []               -- units sent so far, by VC
  returned : SMap Nat := []           -- credits returned to the partner, by VC
  asm : SMap Assembly := []
  queue : List Queued := []
  helloIn : Bool := false             -- the partner's HELLO has been received
deriving DecidableEq, Repr

/-- A Trebry port (R498). -/
structure Port where
  en : Bool := false
  auto : Bool := true
  reflect : Bool := false
  loop : Nat := 0
  maxLanes : Nat := 2
  slow : Bool := false
  dly : Nat := 2
  state : Nat := 0
  lanes : Nat := 0
  rate : Nat := 0
  reason : Nat := 0
  nbrMod : Nat := 0
  nbrPort : Nat := 0
  nbrValid : Bool := false
  fecCorr : Nat := 0
  fecUncorr : Nat := 0
  lnkCrc : Nat := 0
  lnkReplay : Nat := 0
  lnkRetrain : Nat := 0
  lnkBadpkt : Nat := 0
deriving DecidableEq, Repr

/-- What a port in loop-back sends (R495). -/
inductive TestPattern where
  | none
  | loops                             -- LOOP flits, until one of them comes back
  | flits (next : Nat)                -- DATA flits with counted SEQ
  | prbs31                            -- PRBS31 per lane
deriving DecidableEq, Repr

/-- Drop and test counters of a port, and its traffic state (R498). -/
structure PortDyn where
  auth : Nat := 0
  expired : Nat := 0
  discard : Nat := 0
  late : Nat := 0
  marked : Nat := 0                   -- flits to come that an uncorrectable codeword overlaps (R463)
  testBusy : Bool := false
  testResult : Nat := 3
  testErrors : Nat := 0
  testUnits : BitVec 64 := 0
  testBad : Bool := false             -- the test has counted an error
  pattern : TestPattern := .none      -- what a loop-back test sends (R495)
  good : Nat := 0                     -- good flits in a row while delineation is sought, 8 once it is found (step 5 of R490)
  link : LinkState13 := {}
  nextReqid : Nat := 0
  tracker : List Tracked := []
  waiting : List Tracked := []        -- requests for which the tracker has no free entry (R479)
  sentFlits : List (BitVec 2048) := []  -- what the port has sent, in order: the model's own observable
deriving DecidableEq, Repr

/-- An installed key generation (R584): generation and key. -/
structure Key where
  gen : Nat
  key : BitVec 256
deriving DecidableEq, Repr

/-- The keys of a tag (R487). -/
structure TagKeys where
  cur : Option Key := none
  other : Option Key := none          -- the next generation, or the former one kept for receipt
  otherNext : Bool := false
deriving DecidableEq, Repr

/-- The Trebry block. -/
structure Trb where
  idModule : Nat := 0
  kxM1 : Nat := 0
  kyM1 : Nat := 0
  kzM1 : Nat := 0
  parure : Nat := 0
  deadline : Nat := 16
  lock : Bool := false
  hold : List Nat := []               -- destinations in a hold (R478)
  retired : List Nat := []            -- tags, oldest first
  echoDst : Nat := 0
  echoBusy : Bool := false
  echoResult : Nat := 0
  echoResponder : Nat := 0
  echoIngress : Nat := 0
  echoRtt : Nat := 0
  ports : SMap Port := []
  dyn : SMap PortDyn := []
  arrived : List Arrived := []
  keys : SMap TagKeys := []
  staged : List (Nat × Key) := []
  ivs : SMap Nat := []                -- counter of port, tag and generation (R484)
deriving DecidableEq, Repr

/-! ## Power (14) -/

/-- A core's power registers and loops (R527). -/
structure PCore where
  fmin : Nat := 0x20
  fmax : Nat := 0x48
  pin : Bool := false
  fSet : Nat := 0x28
  want : Option Nat := none           -- a setpoint chosen and not yet in force (R501)
  base : Nat := 0x28                  -- the setpoint that R503 and R504 give, before throttle lowers it (R520)
  fUp : Nat := 0                      -- F_MAX above its fused value, in steps (R508)
  skip : Nat := 0                     -- SKIP that R504 sets
  ovr : Bool := false
  err : Bool := false
  droops : Nat := 0
  heatSteps : Nat := 0                -- steps taken by throttle (R520): clock first, then SKIP
  heatSkip : Nat := 0
  stretched : Bool := false
  monRun : Nat := 0                   -- samples at F_MAX with margin above the raise threshold in a row (R508)
  trimRun : Nat := 0                  -- samples with margin above the trim threshold in a row (R508)
  block : Nat := 0                    -- samples before the guard band of its die may fall again (R508)
  samples : Nat := 0                  -- samples since the die was powered up (R509)
  episode : Bool := false             -- a PIN_OVERRIDDEN episode runs (R506)
deriving DecidableEq, Repr

/-- The guard band of a compute die (R508): how far it lies below G_full, in mV. -/
structure Die where
  down : Nat := 0
deriving DecidableEq, Repr

/-- The power block. -/
structure Pwr where
  capW : Nat := 0x230
  peakW : Nat := 0x334
  ageMode : Bool := false
  lock : Bool := false
  pMeas : Option Nat := some 0        -- none: missing
  pEst : Nat := 0
  limit : Nat := 0x230
  err : Nat := 0
  budget : Nat := 0x18
  budgetNow : Nat := 0x18             -- BUDGET as the current step took it (R526)
  held : Nat := 0
  admitted : Nat := 0
  stepUsed : Nat := 0                 -- admissions made in the current step
  requests : List (Nat × Nat) := []   -- core and array, in counted order
  throttleC : Nat := 0x64
  temps : SMap Int := []              -- last readings in 1/8 degree; unlisted 0
  sFailed : List Nat := []
  hotSensors : List Nat := []         -- sensors that throttle
  gain : Option Nat := none           -- recalibrated gain; the fused one otherwise
  drifts : Nat := 0
deriving DecidableEq, Repr

/-- How far each measure of R504 is in force: the common level, the steps below FMIN, the steps of 16 GB/s, the SKIP of the
unpinned cores, the setpoint steps and the SKIP of the pinned cores, the sixteenths of the mesh clocks. -/
structure Measures where
  level : Nat := 0x28
  below : Nat := 0
  caps : Nat := 0
  skip : Nat := 0
  pinLow : Nat := 0
  pinSkip : Nat := 0
  mesh : Nat := 0
deriving DecidableEq, Repr

/-- The loops of the power block. -/
structure PwrDyn where
  cores : SMap PCore := []
  dies : SMap Die := []
  meas : Measures := {}
  peak : Bool := false
  peakSkip : Nat := 0
  brake : Bool := false               -- the pin, after its filter
  brakeHold : Bool := false
  trip : Bool := false
  fallback : Bool := false
  fbCause : Nat := 0
  overRun : Nat := 0                  -- steps with P_meas above 1.40 P_est
  missRun : Nat := 0
  driftRun : Nat := 0
  driftMeas : Nat := 0                -- sums over the steps of the run (R518)
  driftRaw : Nat := 0
  driftLeak : Nat := 0
  agree : Nat := 0
  window : List Nat := []             -- the last 100 steps
  fast : List Nat := []               -- the last 100 samples of 1 µs
  meshOvr : List Nat := []            -- halves in a PIN_OVERRIDDEN episode
deriving DecidableEq, Repr

/-! ## Interrupts (15) -/

/-- A source (R541). -/
structure IntSrc where
  prio : Nat := 0xFF
  target : Nat := 8
  enable : Bool := false
  pend : Bool := false
  active : Bool := false
  newCfg : Option (Nat × Nat × Bool) := none   -- PRIO, TARGET, ENABLE written and not yet in force (R536, R537)
deriving DecidableEq, Repr

/-- A target (R541): its active sources with the PRIO each was acknowledged at, the most recent first. -/
structure IntTgt where
  prigroup : Nat := 0
  enable : Bool := false
  stack : List (Nat × Nat) := []
  eoiErr : Bool := false
deriving DecidableEq, Repr

/-- The interrupt controller. -/
structure Intr where
  srcs : SMap IntSrc := []
  tgts : SMap IntTgt := []
deriving DecidableEq, Repr

/-! ## Resets and self-test (16, 18) -/

/-- The reset block (R564, R608). -/
structure Rst where
  busy : Bool := false
  level : Nat := 0
  lastLevel : Nat := 0
  escalated : Bool := false
  duration : Nat := 0
  queueMs : Nat := 2000
  retireLog2 : Nat := 30
  dmaUs : Nat := 1000
  cause : Nat := 0
  count : Nat := 0
  retiredCores : List Nat := []
  running : Bool := false             -- a module reset runs
  curEsc : Bool := false              -- it was reached by escalation
  jtag : Bool := false                -- fenced for boundary scan until a module reset (R607)
  failTimes : SMap (List Nat) := []   -- when each unit failed by its own failure, in hours (R559)
  clock : Nat := 0                    -- Decrid's count of powered operation in hours (R559)
  lifted : List Nat := []             -- retirements lifted, to return at the next module reset (R595)
deriving DecidableEq, Repr

/-- RST_SELFTEST (R608). -/
structure SelfTest where
  busy : Bool := false
  err : Bool := false
  meshFail : Bool := false
  dbusFail : Bool := false
  pcieFail : Bool := false
  sramFail : Bool := false
  coresFailed : Nat := 0
  chansFailed : Nat := 0
  failUnit : Nat := 0
deriving DecidableEq, Repr

/-! ## Decrid (17) and pins (19) -/

/-- State of a firmware image in the boot header (R577). -/
inductive ImgState where
  | empty
  | valid
  | pending
  | trial
  | committing
  | active
  | failed
deriving DecidableEq, Repr

/-- A firmware image (R567, R574): its bytes as received. The image the module left manufacture with is `none` of bytes and
taken as valid (log 6): `factory`. -/
structure Image where
  st : ImgState := .empty
  bytes : List (BitVec 8) := []
  factory : Bool := false
deriving DecidableEq, Repr

/-- Firmware and its update (R574 to R578). -/
structure Fw where
  a : Image := { st := .active, factory := true }
  b : Image := {}
  booted : Bool := false              -- 0 image A, 1 image B
  trialBoots : Nat := 0
  svnCnt : Nat := 0
  revoked : List Nat := []            -- release keys
  update : Nat := 0                   -- UPDATE
  agent : Option Transport := none
  err : Nat := 0
  restarting : Bool := false
  recovery : Bool := false
  thenReset : Bool := false           -- a module reset follows the restart (step 5 of R578)
  applied : Bool := false
deriving DecidableEq, Repr

/-- An SPDM session (R580). -/
structure Session where
  sid : Nat
  transport : Transport
  finished : Bool := false
  key : Option (BitVec 256) := none   -- of the requester, when it was mutually authenticated (R583)
  keyPhase : Nat := 0
deriving DecidableEq, Repr

/-- A log entry (R569). -/
structure LogEnt where
  lseq : Nat
  boot : Nat := 1
  aon : Nat := 0
  kind : Nat
  sev : Nat := 0
  code : Nat := 0
  unit : Nat := 0
  value : Nat := 0
  event : Option Record := none
deriving DecidableEq, Repr

/-- Decrid (R565 to R597). -/
structure Mgt where
  fw : Fw := {}
  dbgState : Nat := 0
  dbgScope : Nat := 0
  dbgKey : Nat := 0
  dbgLeft : Nat := 0
  nonce : Option (BitVec 256) := none
  tdi : SMap Nat := []
  ide : SMap (Option Nat) := []       -- the key set of a function's enabled stream
  tdiReport : SMap (List (BitVec 8)) := []
  buffer : List LogEnt := []
  flash : List LogEnt := []
  nextLseq : Nat := 0
  boots : Nat := 1                    -- power-ups since manufacture
  lost : Nat := 0
  logSel : BitVec 64 := 0
  owner : Option (BitVec 512) := none
  sessions : List Session := []
  nextSid : Nat := 1
  debugId : Bool := false             -- the debug identity is in use (R579)
  spdm : SMap Nat := []               -- how far a transport's negotiation has come: 1 version, 2 capabilities, 3 algorithms
  eids : SMap Nat := []
  udsOpen : Bool := false             -- the UDS can be read: no firmware has started since the power cycle (R566)
  ideKeys : SMap (Option (BitVec 256)) := []   -- the keys that IDE_KM has programmed, by 2 fn + key set (R586)
deriving DecidableEq, Repr

/-- What a PlatformEventMessage tells (R573): a reading that has passed a threshold of its sensor, a state sensor that has changed, or an event. -/
inductive PlatformMsg where
  | crossing (sensor : Nat) (reading threshold : Int)
  | change (sensor value : Nat)
  | event (r : Record)
deriving DecidableEq, Repr

/-- Decrid's other state and the pins (R573, R606, R618). -/
structure Mgt2 where
  receiver : Option (Transport × Nat) := none
  events : List (Transport × Nat × PlatformMsg) := []   -- PlatformEventMessages in the order sent: the model's own observable
  tap : Nat := 1                      -- TAP instruction
  cells : Nat := 0                    -- boundary-scan cells preloaded
  drive : Nat := 0                    -- the instruction that holds the pins; 0 none
  perst : Bool := false               -- PERST_N asserted
  trayReq : Bool := false             -- TRAY_PWR_REQ_N asserted
  thermTrip : Bool := false           -- THERMTRIP_N asserted
  smbAlert : Bool := false
  power : Nat := 1                    -- 0 off, 1 running, 2 powering up, 3 stopped at a failed step (R599)
  reply : List (BitVec 8) := []       -- the last answer of Decrid: the model's own observable
  code : Nat := 0                     -- its result code
  voltages : SMap Nat := []           -- last readings in mV
  voltBad : List Nat := []            -- monitors out of range
  margins : SMap Nat := []            -- last readings of the base die's margin monitors (R508)
  watts : Option Nat := some 0        -- P_meas as the sensor interface last gave it (R565, R572)
deriving DecidableEq, Repr

/-! ## The whole state -/

/-- The state of the block. -/
structure State where
  mesh : Mesh := {}
  cores : SMap Core := []
  tasks : List Task := []
  mem : Mem := {}
  pool : Pool := {}
  xlt : Xlt := {}
  que : Que := {}
  fnc : Fnc := {}
  sets : SMap Setting := []
  lkt : Lkt := {}
  trb : Trb := {}
  pwr : Pwr := {}
  pdyn : PwrDyn := {}
  int : Intr := {}
  rst : Rst := {}
  test : SelfTest := {}
  mgt : Mgt := {}
  mgt2 : Mgt2 := {}
  lastRead : Nat := 0                 -- the value last returned to a read: the model's own observable
  freeCtr : Nat := 0                  -- the model's own: the counter that free values are applied to
  nextId : Nat := 0                   -- the model's own: names of requests, tasks, jobs and packets
  pending : List Instr := []          -- commands that wait, first in first out
deriving DecidableEq, Repr

/-- The RESET_DONE record of power-up, the first of the PF event hold and of the log (R561, R570, R600, R633). -/
def resetDoneRecord : Record :=
  { type := 0x0223, source := 0x02F0, object := 3 }

/-- The machine after step 8 of power-up (R598, R601): every register at its reset value, PERST_N deasserted, the PCIe link not
yet trained, RESET_DONE held for the PF event ring. -/
def State.reset : State :=
  { que := { held := [resetDoneRecord] }, mgt := { buffer := [{ lseq := 0, kind := 0, event := some resetDoneRecord }], nextLseq := 1 } }

end Sys2Proof.Machine
end

