-- ==== Sys2Proof/Machine/Base.lean ====
section
/-! DEFINITION. The accessors: what each table of the state reads as at an unlisted key, and one read, one write and one update
for each kind of unit. -/

namespace Sys2Proof.Machine

/-! Values at an unlisted key: the reset values of R60 to R608. -/

/-- CORE_SEED of core n is n + 1 after reset (R101). -/
def coreD (n : Nat) : Core := { arch := { seed := BitVec.ofNat 64 (n + 1) } }
def chanD (_ : Nat) : Chan := {}
def ctxD (_ : Nat) : Ctx := {}
def fenceD (_ : Nat) : Fence := {}
def settingD (_ : Nat) : Setting := {}
def slotD (_ : Nat) : Slot := {}
def portD (_ : Nat) : Port := {}
def portDynD (_ : Nat) : PortDyn := {}
/-- QUE_SQ_CFG.QP of queue q is q mod 8 after reset (R349). -/
def sqD (q : Nat) : Sq := { qp := q % 8 }
def cqD (_ : Nat) : CqRing := {}
def evD (_ : Nat) : EvRing := {}
def fqD (_ : Nat) : FqRing := {}
def intSrcD (_ : Nat) : IntSrc := {}
def intTgtD (_ : Nat) : IntTgt := {}
def pcoreD (_ : Nat) : PCore := {}
def dieD (_ : Nat) : Die := {}
def arrD (_ : Nat) : Arr := {}
def keysD (_ : Nat) : TagKeys := {}
def asmD (_ : Nat) : Assembly := {}
def homeD (p : Pool) (b : Nat) : HomeRec :=
  if p.state = 2 then
    if b < (9 * p.chans.length + 511) / 512 then { state := 5, gen := p.genFirst } else { gen := p.genFirst }
  else {}
def zeroD (_ : Nat) : Nat := 0
def noneD {α : Type} (_ : Nat) : Option α := none
/-- QUE_FN_MSIX.COUNT: 64 for the PF, 0 for the VFs (R350). -/
def msixCountD (f : Nat) : Nat := if f = 0 then 64 else 0

/-! Reads, writes and updates of one unit. -/

def State.core (s : State) (n : Nat) : Core := SMap.get coreD s.cores n
def State.setCore (s : State) (n : Nat) (c : Core) : State := { s with cores := SMap.set coreD s.cores n c }
def State.updCore (s : State) (n : Nat) (f : Core → Core) : State := s.setCore n (f (s.core n))

def State.chan (s : State) (c : Nat) : Chan := SMap.get chanD s.mem.chans c
def State.setChan (s : State) (c : Nat) (x : Chan) : State := { s with mem := { s.mem with chans := SMap.set chanD s.mem.chans c x } }
def State.updChan (s : State) (c : Nat) (f : Chan → Chan) : State := s.setChan c (f (s.chan c))

def State.ctx (s : State) (n : Nat) : Ctx := SMap.get ctxD s.fnc.ctxs n
def State.setCtx (s : State) (n : Nat) (c : Ctx) : State := { s with fnc := { s.fnc with ctxs := SMap.set ctxD s.fnc.ctxs n c } }
def State.updCtx (s : State) (n : Nat) (f : Ctx → Ctx) : State := s.setCtx n (f (s.ctx n))

def State.fence (s : State) (i : Nat) : Fence := SMap.get fenceD s.fnc.fences i
def State.setFence (s : State) (i : Nat) (x : Fence) : State :=
  { s with fnc := { s.fnc with fences := SMap.set fenceD s.fnc.fences i x } }

def State.setting (s : State) (i : Nat) : Setting := SMap.get settingD s.sets i
def State.setSetting (s : State) (i : Nat) (x : Setting) : State := { s with sets := SMap.set settingD s.sets i x }
def State.updSetting (s : State) (i : Nat) (f : Setting → Setting) : State := s.setSetting i (f (s.setting i))

def State.slot (s : State) (l : Nat) : Slot := SMap.get slotD s.lkt.slots l
def State.setSlot (s : State) (l : Nat) (x : Slot) : State := { s with lkt := { s.lkt with slots := SMap.set slotD s.lkt.slots l x } }
def State.updSlot (s : State) (l : Nat) (f : Slot → Slot) : State := s.setSlot l (f (s.slot l))

def State.port (s : State) (p : Nat) : Port := SMap.get portD s.trb.ports p
def State.setPort (s : State) (p : Nat) (x : Port) : State := { s with trb := { s.trb with ports := SMap.set portD s.trb.ports p x } }
def State.updPort (s : State) (p : Nat) (f : Port → Port) : State := s.setPort p (f (s.port p))

def State.dyn (s : State) (p : Nat) : PortDyn := SMap.get portDynD s.trb.dyn p
def State.setDyn (s : State) (p : Nat) (x : PortDyn) : State := { s with trb := { s.trb with dyn := SMap.set portDynD s.trb.dyn p x } }
def State.updDyn (s : State) (p : Nat) (f : PortDyn → PortDyn) : State := s.setDyn p (f (s.dyn p))

def State.sq (s : State) (q : Nat) : Sq := SMap.get sqD s.que.sqs q
def State.setSq (s : State) (q : Nat) (x : Sq) : State := { s with que := { s.que with sqs := SMap.set sqD s.que.sqs q x } }
def State.updSq (s : State) (q : Nat) (f : Sq → Sq) : State := s.setSq q (f (s.sq q))

def State.cq (s : State) (c : Nat) : CqRing := SMap.get cqD s.que.cqs c
def State.setCq (s : State) (c : Nat) (x : CqRing) : State := { s with que := { s.que with cqs := SMap.set cqD s.que.cqs c x } }
def State.updCq (s : State) (c : Nat) (f : CqRing → CqRing) : State := s.setCq c (f (s.cq c))

def State.ev (s : State) (f : Nat) : EvRing := SMap.get evD s.que.evs f
def State.setEv (s : State) (f : Nat) (x : EvRing) : State := { s with que := { s.que with evs := SMap.set evD s.que.evs f x } }

def State.fq (s : State) (l : Nat) : FqRing := SMap.get fqD s.xlt.fqs l
def State.setFq (s : State) (l : Nat) (x : FqRing) : State := { s with xlt := { s.xlt with fqs := SMap.set fqD s.xlt.fqs l x } }
def State.updFq (s : State) (l : Nat) (f : FqRing → FqRing) : State := s.setFq l (f (s.fq l))

def State.intSrc (s : State) (i : Nat) : IntSrc := SMap.get intSrcD s.int.srcs i
def State.setIntSrc (s : State) (i : Nat) (x : IntSrc) : State := { s with int := { s.int with srcs := SMap.set intSrcD s.int.srcs i x } }

def State.intTgt (s : State) (t : Nat) : IntTgt := SMap.get intTgtD s.int.tgts t
def State.setIntTgt (s : State) (t : Nat) (x : IntTgt) : State := { s with int := { s.int with tgts := SMap.set intTgtD s.int.tgts t x } }

def State.pcore (s : State) (n : Nat) : PCore := SMap.get pcoreD s.pdyn.cores n
def State.setPcore (s : State) (n : Nat) (x : PCore) : State :=
  { s with pdyn := { s.pdyn with cores := SMap.set pcoreD s.pdyn.cores n x } }
def State.updPcore (s : State) (n : Nat) (f : PCore → PCore) : State := s.setPcore n (f (s.pcore n))

def State.die (s : State) (d : Nat) : Die := SMap.get dieD s.pdyn.dies d
def State.setDie (s : State) (d : Nat) (x : Die) : State := { s with pdyn := { s.pdyn with dies := SMap.set dieD s.pdyn.dies d x } }

/-- What a core's power loops start with when its die is powered up (R509, R522, R601); PWR_CORE_CTL and what its status register
counts stay. -/
def PCore.poweredUp (p : PCore) : PCore :=
  { fmin := p.fmin, fmax := p.fmax, pin := p.pin, ovr := p.ovr, err := p.err, droops := p.droops }
def State.powerUpCore (s : State) (n : Nat) : State :=
  ((s.updCore n (fun c => { c with parked := false })).updPcore n PCore.poweredUp).setDie (n / 48) {}

/-- Half `h`: 0 west, 1 east (R30). -/
def State.half (s : State) (h : Nat) : Half := if h = 0 then s.mesh.west else s.mesh.east
def State.setHalf (s : State) (h : Nat) (x : Half) : State :=
  if h = 0 then { s with mesh := { s.mesh with west := x } } else { s with mesh := { s.mesh with east := x } }
def State.updHalf (s : State) (h : Nat) (f : Half → Half) : State := s.setHalf h (f (s.half h))

def Core.array (c : Core) (a : Nat) : Arr := SMap.get arrD c.arrays a
def Core.setArray (c : Core) (a : Nat) (x : Arr) : Core := { c with arrays := SMap.set arrD c.arrays a x }
def State.updArr (s : State) (n a : Nat) (f : Arr → Arr) : State := s.updCore n (fun c => c.setArray a (f (c.array a)))

def State.homeRec (s : State) (b : Nat) : HomeRec := SMap.get (homeD s.pool) s.pool.recs b
def State.setHomeRec (s : State) (b : Nat) (x : HomeRec) : State :=
  { s with pool := { s.pool with recs := SMap.set (homeD s.pool) s.pool.recs b x } }

def State.tagKeys (s : State) (t : Nat) : TagKeys := SMap.get keysD s.trb.keys t
def State.setTagKeys (s : State) (t : Nat) (x : TagKeys) : State := { s with trb := { s.trb with keys := SMap.set keysD s.trb.keys t x } }

def State.walk (s : State) (e : Nat) : Option Walk := SMap.get noneD s.xlt.walks e
def State.setWalk (s : State) (e : Nat) (w : Option Walk) : State :=
  { s with xlt := { s.xlt with walks := SMap.set noneD s.xlt.walks e w } }

def State.tdi (s : State) (l : Nat) : Nat := SMap.get zeroD s.mgt.tdi l
def State.setTdi (s : State) (l v : Nat) : State := { s with mgt := { s.mgt with tdi := SMap.set zeroD s.mgt.tdi l v } }

def State.msixBaseOf (s : State) (f : Nat) : Nat := SMap.get zeroD s.que.msixBase f
def State.msixCountOf (s : State) (f : Nat) : Nat := SMap.get msixCountD s.que.msixCount f

/-- Take the next number of the model's own names. -/
def State.fresh (s : State) : Nat × State := (s.nextId, { s with nextId := s.nextId + 1 })

/-- Take the next free value. -/
def State.takeFree (s : State) : Nat × State := (s.freeCtr, { s with freeCtr := s.freeCtr + 1 })

/-! Tasks, jobs and descriptors by number. -/

def State.task? (s : State) (tid : Nat) : Option Task := s.tasks.find? (fun t => t.tid == tid)
def State.updTask (s : State) (tid : Nat) (f : Task → Task) : State :=
  { s with tasks := mapWhere (fun t => t.tid == tid) f s.tasks }
def State.dropTask (s : State) (tid : Nat) : State := { s with tasks := s.tasks.filter (fun t => t.tid != tid) }
/-- The task on core `n`. -/
def State.coreTask (s : State) (n : Nat) : Option Task :=
  match (s.core n).task with
  | some tid => s.task? tid
  | none => none
/-- The core a task is on now. -/
def State.onCore (s : State) (tid : Nat) : Option Nat :=
  match s.task? tid with
  | some t => if t.core < 192 && (s.core t.core).task == some tid then some t.core else none
  | none => none

def State.job? (s : State) (jid : Nat) : Option Job := s.mem.jobs.find? (fun j => j.jid == jid)
def State.updJob (s : State) (jid : Nat) (f : Job → Job) : State :=
  { s with mem := { s.mem with jobs := mapWhere (fun j => j.jid == jid) f s.mem.jobs } }
def State.dropJob (s : State) (jid : Nat) : State :=
  { s with mem := { s.mem with jobs := s.mem.jobs.filter (fun j => j.jid != jid) } }

def Sq.desc? (q : Sq) (idx : Nat) : Option Desc := q.descs.find? (fun d => d.idx == idx)
def State.desc? (s : State) (q idx : Nat) : Option Desc := (s.sq q).desc? idx
def State.updDesc (s : State) (q idx : Nat) (f : Desc → Desc) : State :=
  s.updSq q (fun x => { x with descs := mapWhere (fun d => d.idx == idx) f x.descs })

/-- Run a step for every element of a list. -/
def State.forAll {α : Type} (s : State) : List α → (State → α → State) → State
  | [], _ => s
  | x :: xs, f => State.forAll (f s x) xs f

/-! Unit identifiers and places (R13, R11, R12, R30, R34). -/

def chanUnit (c : Nat) : Nat := 0x0100 + c
def portUnit (p : Nat) : Nat := 0x0200 + p
def qpUnit (q : Nat) : Nat := 0x0290 + q
def halfUnit (h : Nat) : Nat := 0x02A2 + h
def ceUnit (e : Nat) : Nat := 0x02B0 + e
def decridUnit : Nat := 0x02F0
def pcieUnit : Nat := 0x0280
/-- Whether a unit identifier names a unit (R13); the other codes are reserved. -/
def unitNamed (u : Nat) : Bool :=
  decide (u < 0xC0) || (decide (0x100 ≤ u) && decide (u < 0x180)) || (decide (0x200 ≤ u) && decide (u < 0x20C)) || u == 0x280
  || (decide (0x290 ≤ u) && decide (u < 0x298)) || (decide (0x2A0 ≤ u) && decide (u < 0x2A4)) || (decide (0x2B0 ≤ u) && decide (u < 0x2B4))
  || u == 0x2F0

/-- The stop of core `n` (R11, R32). -/
def coreStop (n : Nat) : Stop :=
  { col := n % 48 % 8 + 1 + 10 * (n / 96), row := 6 * (n / 48 % 2) + n % 48 / 8 }
/-- The rows of the memory stops of an edge column, west to east and north to south (R33). -/
def memRow (k : Nat) : Nat := nth [0, 1, 3, 4, 7, 8, 10, 11] k 0
def edgeCol (k : Nat) : Nat := nth [0, 9, 10, 19] k 0
/-- The memory stop of channel `c` (R12, R33). -/
def chanStop (c : Nat) : Stop := { col := edgeCol (c / 32), row := memRow (c / 16 % 2 * 4 + c % 16 / 4) }
/-- The stop of a Trebry port (R34). -/
def portStop (p : Nat) : Stop :=
  nth ([⟨0, 2⟩, ⟨0, 9⟩, ⟨9, 2⟩, ⟨9, 5⟩, ⟨9, 6⟩, ⟨9, 9⟩, ⟨10, 2⟩, ⟨10, 5⟩, ⟨10, 6⟩, ⟨10, 9⟩, ⟨19, 2⟩, ⟨19, 9⟩] : List Stop) p ⟨19, 9⟩
def pcieStop : Stop := ⟨0, 5⟩
def queueStop : Stop := ⟨0, 6⟩
def copyStop : Stop := ⟨19, 6⟩
def decridStop : Stop := ⟨19, 5⟩
/-- The half of a stop (R31). -/
def Stop.half (t : Stop) : Nat := if t.col < 10 then 0 else 1

/-- The half of core `n` (R11, R30). -/
def coreHalf (n : Nat) : Nat := if n / 48 < 2 then 0 else 1
/-- The half of channel `c` (R12). -/
def chanHalf (c : Nat) : Nat := if c / 16 < 4 then 0 else 1
/-- The half of a Trebry port (R34): columns 0 and 9 are west. -/
def portHalf (p : Nat) : Nat := if p < 6 then 0 else 1
/-- The unit identifier of an engine of translation. -/
def engineUnit (e : Nat) : Nat := if e < 192 then e else ceUnit (e - 192)
/-- The half whose far cache and walker an engine uses (R268). -/
def engineHalf (e : Nat) : Nat := if e < 192 then coreHalf e else 1

/-! Status codes (R342). -/

def stOK : Nat := 0x00
def stRSVD : Nat := 0x01
def stOPCODE : Nat := 0x02
def stPRIV : Nat := 0x03
def stSETTING : Nat := 0x04
def stCONTEXT : Nat := 0x05
def stFENCE : Nat := 0x06
def stARG : Nat := 0x07
def stBUSY : Nat := 0x08
def stSTALE : Nat := 0x09
def stWAITERR : Nat := 0x0A
def stABORTED : Nat := 0x0B
def stFAULTED : Nat := 0x10
def stPOISON : Nat := 0x11
def stCHFAIL : Nat := 0x12
def stNOREGION : Nat := 0x13
def stSCRUBBING : Nat := 0x14
def stPARKED : Nat := 0x15
def stNOTASK : Nat := 0x16
def stTMBUSY : Nat := 0x17
def stDENIED : Nat := 0x18
def stNOROUTE : Nat := 0x19
def stOWNLOST : Nat := 0x1A
def stDEADLINE : Nat := 0x1B
def stXLT : Nat := 0x1C
def stHOSTERR : Nat := 0x1D

/-- DETAIL of a record from (byte, bytes, value) fields; bytes not listed are zero. -/
def detail (l : List (Nat × Nat × Nat)) : BitVec 128 :=
  BitVec.ofNat 128 (l.foldl (fun a f => a + (f.2.2 % 2 ^ (8 * f.2.1)) <<< (8 * (f.1 - 16))) 0)

/-! The tables of a Setting and of a Locket. -/

def SetCopy.valid (c : SetCopy) : Bool := c.hdr.getLsbD 0
def SetCopy.locket (c : SetCopy) : Nat := bits c.hdr.toNat 8 5
def SetCopy.ncore (c : SetCopy) : Nat := bits c.hdr.toNat 16 11
def SetCopy.rgnValid (c : SetCopy) : Bool := c.rgn.getLsbD 0
def SetCopy.first (c : SetCopy) : Nat := bits c.rgn.toNat 1 7
def SetCopy.nM1 (c : SetCopy) : Nat := bits c.rgn.toNat 8 7
def SetCopy.granCode (c : SetCopy) : Nat := bits c.rgn.toNat 16 2
def SetCopy.chanAt (c : SetCopy) (i : Nat) : BitVec 8 := SMap.get (fun _ => 0) c.chan i
def SetCopy.ch (c : SetCopy) (i : Nat) : Nat := bits (c.chanAt i).toNat 0 7
def SetCopy.move (c : SetCopy) (i : Nat) : Bool := (c.chanAt i).getLsbD 7
def SetCopy.linkAt (c : SetCopy) (p : Nat) : BitVec 16 := SMap.get (fun _ => 0) c.link p
def SetCopy.share (c : SetCopy) (p : Nat) : Nat := bits (c.linkAt p).toNat 0 11
def SetCopy.coreAt (c : SetCopy) (v : Nat) : BitVec 32 := SMap.get (fun _ => 0) c.core v
def SetCopy.coreValid (c : SetCopy) (v : Nat) : Bool := (c.coreAt v).getLsbD 31
def SetCopy.coreNum (c : SetCopy) (v : Nat) : Nat := bits (c.coreAt v).toNat 0 8
def SetCopy.coreModule (c : SetCopy) (v : Nat) : Nat := bits (c.coreAt v).toNat 8 10
def SetCopy.corePeer (c : SetCopy) (v : Nat) : Nat := bits (c.coreAt v).toNat 18 6
/-- The channel list L of the region (R198). -/
def SetCopy.list (c : SetCopy) : List Nat := if c.rgnValid then (upto (c.nM1 + 1)).map c.ch else []
/-- The valid entries of the core map. -/
def SetCopy.entries (c : SetCopy) : List Nat := (upto c.ncore).filter c.coreValid
/-- Interleave granule in bytes (R232). -/
def granBytes (g : Nat) : Nat := if g = 0 then 256 else if g = 1 then 1024 else if g = 2 then 4096 else 65536
/-- Whether virtual core `v` is a local entry (R387). -/
def State.localEntry (s : State) (c : SetCopy) (v : Nat) : Bool :=
  decide (v < c.ncore) && c.coreValid v && c.coreModule v == s.trb.idModule
/-- The local cores that a copy names; an invalid copy binds nothing (R384). -/
def State.localCores (s : State) (c : SetCopy) : List Nat :=
  if c.valid then ((upto c.ncore).filter (s.localEntry c)).map c.coreNum else []

/-- LKT_FLOOR and LKT_CLASS of a slot (R458). -/
def LktCopy.floorAt (c : LktCopy) (r : Nat) : Nat := SMap.get zeroD c.floor r
def LktCopy.shareAt (c : LktCopy) (k i : Nat) : Nat := SMap.get zeroD c.share (8 * k + i)

/-- The Settings that exist or are swapping, by number. -/
def State.settingIds (s : State) : List Nat := s.sets.map (fun e => e.1)
/-- The slots with contents. -/
def State.slotIds (s : State) : List Nat := s.lkt.slots.map (fun e => e.1)

/-- The binding maps of a Setting (R384): the active map, the previous map until SWAP_DONE, the pending map of an accepted swap.
Both of the latter stand in the shadow copy while a swap runs past its checks. -/
def Setting.binding (x : Setting) : List SetCopy :=
  x.active :: (if x.swap.isSome then [x.shadow] else [])

/-- Whether slot `l` holds a Locket. -/
def State.holdsLocket (s : State) (l : Nat) : Bool := (s.slot l).active.valid
/-- The slot that holds core `n`. -/
def State.coreOwner (s : State) (n : Nat) : Option Nat :=
  s.slotIds.find? (fun l => (s.slot l).active.valid && (s.slot l).active.cores.getLsbD n)
/-- The slot that holds channel `c`. -/
def State.chanOwner (s : State) (c : Nat) : Option Nat :=
  s.slotIds.find? (fun l => (s.slot l).active.valid && (s.slot l).active.chans.getLsbD c)
/-- The slot whose tag is `t` (R429). -/
def State.slotOfTag (s : State) (t : Nat) : Option Nat :=
  s.slotIds.find? (fun l => (s.slot l).active.valid && (s.slot l).active.tag == t)
/-- The Setting that binds core `n` (R384). -/
def State.coreSetting (s : State) (n : Nat) : Option Nat :=
  s.settingIds.find? (fun i => (s.setting i).binding.any (fun c => (s.localCores c).contains n))
/-- The Setting that binds channel `c` (R384). -/
def State.chanSetting (s : State) (c : Nat) : Option Nat :=
  s.settingIds.find? (fun i => (s.setting i).binding.any (fun m => m.valid && m.list.contains c)
    || s.mem.moves.any (fun m => m.set == i && m.dst == c))
/-- Whether core `n` is retired (R560). -/
def State.coreRetired (s : State) (n : Nat) : Bool := s.rst.retiredCores.contains n
/-- The module does not work: it has no power or is powering up, a module reset runs, the TAP has fenced it, or it waits for the
tray (R550, R556, R598, R607, R621). -/
def State.moduleFenced (s : State) : Bool := s.rst.running || s.rst.jtag || s.mgt2.trayReq || s.mgt2.power != 1
/-- Configuration requests are answered with Request Retry Status: the module is fenced, or Decrid is in recovery (R556, R577, R598). -/
def State.retryStatus (s : State) : Bool := s.moduleFenced || s.mgt.fw.recovery
/-- The PF answers its BAR0: the module is powered, no module reset runs, and Decrid is not in recovery (R303, R556, R577, R598). -/
def State.pfAnswers (s : State) : Bool := !s.retryStatus && !s.mgt2.perst
/-- The key set under which a function's IDE stream runs; none when it is not enabled (R586). -/
def State.ideOf (s : State) (f : Nat) : Option Nat := SMap.get noneD s.mgt.ide f
/-- A pool region exists (R412 to R414). -/
def State.inPool (s : State) : Bool := s.pool.state != 0

end Sys2Proof.Machine
end

