-- ==== Sys2Proof/Machine/Operands.lean ====
section
/-! DEFINITION. Operand forms: the fields of descriptors (R328, R330 to R337, R289, R296), their checks in the order of R338, and
fence handles and records (R361, R362). -/

namespace Sys2Proof.Machine

/-! ## Fence handles and records -/

def handleIndex (h : Nat) : Nat := bits h 0 16
def handleGen (h : Nat) : Nat := bits h 16 6
def handleModule (h : Nat) : Nat := bits h 22 10
/-- The handle of a local fence (R361). -/
def State.handleOf (s : State) (i : Nat) : Nat := i + (s.fence i).gen * 2 ^ 16 + s.trb.idModule * 2 ^ 22

/-- Whether a handle of this module is valid (R361). -/
def State.handleValid (s : State) (h : Nat) : Bool :=
  handleModule h == s.trb.idModule && (s.fence (handleIndex h)).valid && (s.fence (handleIndex h)).gen == handleGen h

/-- A fence record (R362). -/
structure FenceRec where
  v : Nat
  state : Nat
  regress : Bool
  err : Nat
  index : Nat
  gen : Nat
  errCtx : Nat
deriving DecidableEq, Repr

def FenceRec.decode (l : List (BitVec 8)) : FenceRec :=
  let w := leNat (l.take 16)
  { v := bits w 0 64, state := bits w 64 2, regress := bit w 66, err := bits w 72 8, index := bits w 80 16, gen := bits w 96 6
    errCtx := bits w 112 16 }

def FenceRec.encode (r : FenceRec) : List (BitVec 8) :=
  leBytes 16 (r.v + r.state <<< 64 + b2n r.regress <<< 66 + r.err <<< 72 + r.index <<< 80 + r.gen <<< 96 + r.errCtx <<< 112)

/-- The terminal value (R363). -/
def terminal : Nat := 2 ^ 64 - 1

/-! ## Descriptor fields -/

/-- `n` bytes from byte `b` of a descriptor. -/
def Desc.f (d : Desc) (b n : Nat) : Nat := bits d.data.toNat (8 * b) (8 * n)
def Desc.op (d : Desc) : Nat := d.f 0 1
def Desc.flag (d : Desc) (i : Nat) : Bool := bit (d.f 1 1) i
def Desc.hasWait (d : Desc) : Bool := d.flag 0
def Desc.hasSignal (d : Desc) : Bool := d.flag 1
def Desc.ordered (d : Desc) : Bool := d.flag 2
def Desc.priv (d : Desc) : Bool := d.flag 3
def Desc.nocomp (d : Desc) : Bool := d.flag 4
def Desc.irq (d : Desc) : Bool := d.flag 5
def Desc.setting (d : Desc) : Nat := d.f 2 2
def Desc.waitFence (d : Desc) : Nat := d.f 4 4
def Desc.waitValue (d : Desc) : Nat := d.f 8 8
def Desc.sigFence (d : Desc) : Nat := d.f 16 4
def Desc.facet (d : Desc) : Nat := bits (d.f 20 4) 0 4
def Desc.prio (d : Desc) : Nat := bits (d.f 20 4) 8 4
def Desc.sigValue (d : Desc) : Nat := d.f 24 8
def Desc.context (d : Desc) : Nat := d.f 32 2
def Desc.vcore (d : Desc) : Nat := d.f 34 2
def Desc.count (d : Desc) : Nat := d.f 36 2 + 1

/-- Bits of bytes `b` to `b + n − 1`. -/
def maskOf (b n : Nat) : Nat := (2 ^ (8 * n) - 1) <<< (8 * b)
/-- Bits [lo + w − 1 : lo] of the field at byte `b`. -/
def maskBits (b lo w : Nat) : Nat := (2 ^ w - 1) <<< (8 * b + lo)

/-- The bits that the skeleton uses (R328). -/
def skeletonMask : Nat :=
  maskOf 0 1 ||| maskBits 1 0 6 ||| maskOf 2 2 ||| maskOf 4 4 ||| maskOf 8 8 ||| maskOf 16 4 ||| maskBits 20 0 4 ||| maskBits 20 8 4
  ||| maskOf 24 8

/-- The bits that an operation's layout uses; none when the opcode is not defined (R330 to R337, R289, R296). -/
def layoutMask (op : Nat) : Option Nat :=
  match op with
  | 0x00 => some 0
  | 0x01 => some (maskOf 32 6 ||| maskBits 40 0 18 ||| maskBits 44 0 18 ||| maskBits 48 0 19 ||| maskOf 56 8)
  | 0x02 => some (maskOf 32 6 ||| maskBits 38 0 1 ||| maskOf 40 8 ||| maskBits 48 0 18 ||| maskBits 52 0 19)
  | 0x08 => some (maskOf 32 2 ||| maskBits 34 0 4 ||| maskOf 40 16 ||| maskBits 56 0 40)
  | 0x09 => some (maskOf 32 16)
  | 0x10 => some (maskOf 32 2 ||| maskBits 40 0 1 ||| maskBits 40 4 56 ||| maskBits 48 0 56 ||| maskOf 56 2)
  | 0x11 => some (maskOf 32 2)
  | 0x12 => some (maskOf 32 2)
  | 0x18 => some (maskOf 32 2 ||| maskBits 34 0 1 ||| maskOf 40 8)
  | 0x19 => some (maskOf 32 4 ||| maskBits 36 0 2)
  | 0x20 => some (maskBits 32 0 1 ||| maskOf 33 1)
  | 0x28 => some (maskOf 32 1)
  | 0x29 => some (maskOf 32 1)
  | 0x2A => some (maskBits 32 0 1)
  | _ => none

/-- Step 1 of R338. -/
def Desc.reservedSet (d : Desc) : Bool :=
  let used := match layoutMask d.op with
    | some m => skeletonMask ||| m
    | none => skeletonMask ||| maskOf 32 32
  decide (d.data.toNat &&& used ≠ d.data.toNat)

/-- The slot of the Locket whose VF owns a queue; 0xFF for the PF (R340). -/
def Sq.locket (q : Sq) : Nat := if q.func = 0 then 0xFF else q.func - 1
/-- A kernel queue of the PF. -/
def Sq.pfKernel (q : Sq) : Bool := q.kernel && q.func == 0

/-- Whether an opcode names a context. -/
def opHasContext (op : Nat) : Bool := [0x01, 0x02, 0x08, 0x10, 0x11, 0x12, 0x18].contains op
/-- Whether an opcode needs a Setting. -/
def Desc.needsSetting (d : Desc) : Bool :=
  [0x01, 0x02, 0x08, 0x10].contains d.op || (d.op == 0x20 && d.f 32 1 == 0)

/-- The context of a descriptor's records: the one it names, else that of the queue it comes from, also where its opcode names none, such as a
NOP on a user queue (R15 leaves this open; DESIGN CHOICE, log 57). -/
def Desc.recordCtx (d : Desc) (q : Sq) : Nat :=
  if opHasContext d.op then d.context else if q.kernel then noCtx else q.ctx

/-- A TDI is locked (R588). -/
def State.tdiClosed (s : State) (l : Nat) : Bool := s.tdi l == 1 || s.tdi l == 2

/-- A Locket is being torn down or reset (R455, R550). -/
def State.fenced (s : State) (l : Nat) : Bool := decide (2 ≤ (s.slot l).state) || (s.slot l).resetting

/-- Step 3 of R338. -/
def Desc.privBad (d : Desc) (s : State) (q : Sq) : Bool :=
  let kernelOnly := !([0x00, 0x01, 0x08].contains d.op)
  let pfOnly := [0x09, 0x28, 0x29, 0x2A].contains d.op || (d.op == 0x20 && d.f 32 1 == 1)
  (kernelOnly && !q.kernel) || (pfOnly && !q.pfKernel) || (d.priv && !q.kernel)
  || (d.op == 0x08 && !q.kernel && (bits (d.f 34 1) 0 2 == 2 || bits (d.f 34 1) 2 2 == 2))
  || (d.op == 0x20 && d.f 32 1 == 1 && s.tdiClosed (d.f 33 1))

/-- The Locket of a Setting that a descriptor names: the active copy's, or for SET_SWAP of an invalid one the shadow copy's (R394). -/
def State.settingLocket (s : State) (op i : Nat) : Option Nat :=
  let x := s.setting i
  if x.active.valid then some x.active.locket else if op = 0x20 then some x.shadow.locket else none

/-- Step 4 of R338 with R389, R455 and R588. -/
def Desc.settingBad (d : Desc) (s : State) (q : Sq) (qn : Nat) : Bool :=
  if !d.needsSetting then d.setting != 0xFFFF
  else if 64 ≤ d.setting then true
  else
    match s.settingLocket d.op d.setting with
    | none => true
    | some l =>
      (q.func != 0 && l != q.locket)
      || (q.func == 0 && s.tdiClosed l)
      || s.fenced l
      || ([0x01, 0x02, 0x08].contains d.op && q.func != 0 && !(s.setting d.setting).active.qset.contains qn)

/-- Step 5 of R338 with R335, R353, R455 and R588. -/
def Desc.contextBad (d : Desc) (s : State) (q : Sq) : Bool :=
  if !opHasContext d.op then false
  else
    let n := d.context
    let c := s.ctx n
    if !q.kernel && n != q.ctx then true
    else if d.op = 0x10 then decide (n < 4096) && c.state != 0
    else if 4096 ≤ n then true
    else
      let ok := if d.op = 0x11 ∨ d.op = 0x12 then c.state != 0 else c.state == 1
      !ok || (q.func != 0 && c.locket != q.locket) || (q.func == 0 && s.tdiClosed c.locket) || s.fenced c.locket

/-- Step 6 of R338 for a fence of this module. -/
def fenceBad (s : State) (q : Sq) (h : Nat) : Bool :=
  let x := s.fence (handleIndex h)
  !s.handleValid h || (q.func != 0 && x.locket != q.locket) || (q.func == 0 && s.tdiClosed x.locket)

/-- The remote fences that a descriptor names (R372). -/
def Desc.remoteFences (d : Desc) (s : State) : List Nat :=
  ((if d.hasWait then [d.waitFence] else []) ++ (if d.hasSignal then [d.sigFence] else [])).filter
    (fun h => handleModule h != s.trb.idModule)

/-- Step 7 of R338 with R328 and R372. -/
def Desc.argBad (d : Desc) (s : State) : Bool :=
  let nc := if d.setting < 64 then (s.setting d.setting).active.ncore else 0
  let tail :=
    match d.op with
    | 0x01 =>
      let pc := d.f 40 4; let wb := d.f 44 4; let wl := d.f 48 4
      (s.ctx d.context).set != d.setting
      || (d.vcore != 0xFFFF && decide (nc < d.vcore + d.count))
      || pc % 16 != 0 || wb % 16 != 0 || wl % 16 != 0 || decide (wl ≤ wb) || decide (0x40000 < wl) || decide (pc < wb) || decide (wl ≤ pc)
    | 0x02 =>
      let n := d.f 52 4
      decide (nc < d.vcore + d.count) || d.f 40 8 % 16 != 0 || d.f 48 4 % 16 != 0 || n % 16 != 0 || n == 0
      || decide (0x40000 < d.f 48 4 + n)
    | 0x08 =>
      let n := d.f 56 5
      (s.ctx d.context).set != d.setting || bits (d.f 34 1) 0 2 == 3 || bits (d.f 34 1) 2 2 == 3
      || d.f 40 8 % 64 != 0 || d.f 48 8 % 64 != 0 || n % 64 != 0 || n == 0
      || (bits (d.f 34 1) 0 4 == 0 && decide (d.f 40 8 < d.f 48 8 + n) && decide (d.f 48 8 < d.f 40 8 + n))
    | 0x10 => decide (4096 ≤ d.context) || d.f 48 8 % 65536 != 0 || d.f 56 2 == 0
    | 0x19 => decide (1 < d.f 36 1)
    | 0x20 => if d.f 32 1 = 1 then decide (32 ≤ d.f 33 1) else d.f 33 1 != 0
    | 0x28 => decide (32 ≤ d.f 32 1)
    | 0x29 => decide (32 ≤ d.f 32 1)
    | _ => false
  (!d.hasWait && (d.waitFence != 0 || d.waitValue != 0)) || (!d.hasSignal && (d.sigFence != 0 || d.sigValue != 0))
  || (d.hasWait && d.waitValue == terminal) || tail

/-- Steps 1 to 6 of R338, remote fences apart: the status of the first check that fails, 0 when none does. -/
def Desc.check6 (d : Desc) (s : State) (q : Sq) (qn : Nat) : Nat :=
  if d.reservedSet then 0x01
  else if (layoutMask d.op).isNone then 0x02
  else if d.privBad s q then 0x03
  else if d.settingBad s q qn then 0x04
  else if d.contextBad s q then 0x05
  else if (d.hasWait && handleModule d.waitFence == s.trb.idModule && fenceBad s q d.waitFence)
      || (d.hasSignal && handleModule d.sigFence == s.trb.idModule && fenceBad s q d.sigFence) then 0x06
  else 0

/-- Step 7 of R338. -/
def Desc.check7 (d : Desc) (s : State) : Nat := if d.argBad s then 0x07 else 0

end Sys2Proof.Machine
end

