-- ==== Sys2Proof/Machine/Account.lean ====
section
/-! DEFINITION. Shared resources (R435 to R442): classes, capacities, guarantees, the credit counters of the arbiters and the latency
monitors; the counters of contexts and Lockets (R446). -/

namespace Sys2Proof.Machine

/-! ## Accounting (R446) -/

/-- Change the counters of a Locket. -/
def chargeLocket (s : State) (l : Nat) (f : Acct → Acct) : State :=
  if l < 32 && s.holdsLocket l then s.updSlot l (fun x => { x with acct := f x.acct }) else s

/-- Change the counters of a context of this module and of its Locket; work of no context of Locket `l` counts for the Locket alone. -/
def charge (s : State) (ctx l : Nat) (f : Acct → Acct) : State :=
  let mine := decide (ctx < 4096) && (s.ctx ctx).state != 0 && (s.ctx ctx).locket == l
  chargeLocket (if mine then s.updCtx ctx (fun c => { c with acct := f c.acct }) else s) l f

def countDram (s : State) (ctx l n : Nat) : State := charge s ctx l (fun a => { a with dram := satAdd 64 a.dram n })
def countSeam (s : State) (ctx l n : Nat) : State := charge s ctx l (fun a => { a with seam := satAdd 64 a.seam n })
def countTrb (s : State) (ctx l n : Nat) : State := charge s ctx l (fun a => { a with trb := satAdd 64 a.trb n })
/-- Bytes of a context on the host link. -/
def countPcie (s : State) (ctx n : Nat) : State :=
  if ctx < 4096 then charge s ctx (s.ctx ctx).locket (fun a => { a with pcie := satAdd 64 a.pcie n }) else s

/-! ## Resources and guarantees (R436, R437, R441) -/

/-- The resources by unit identifier (R13, R458): channels, seam by direction, ports, PCIe. -/
inductive Resource where
  | chan (c : Nat)
  | seam
  | port (p : Nat)
  | pcie
deriving DecidableEq, Repr

def resourceOf (unit : Nat) : Resource :=
  if unit < 0x200 then .chan (unit - 0x100) else if unit < 0x280 then .port (unit - 0x200) else if unit = 0x280 then .pcie else .seam

/-- CAP in 0.1 GB/s (R464, R498): lanes and rate. -/
def portCap (lanes rate : Nat) : Nat :=
  let units := (if lanes = 3 then 4 else if lanes = 2 then 2 else if lanes = 1 then 1 else 0) * (if rate = 0 then 2 else 1)
  if units = 8 then 992 else if units = 4 then 496 else if units = 2 then 248 else if units = 1 then 124 else 0

/-- A port is up when its STATE is UP or RETRAIN (R476). -/
def Port.isUp (p : Port) : Bool := p.state == 3 || p.state == 7

/-- Capacity in force: that of the lanes while the port is up. -/
def Port.cap (p : Port) : Nat := if p.isUp then portCap p.lanes p.rate else 0

/-- The capacity of the host link in 0.1 GB/s: 100 GB/s at 64 GT/s and 16 lanes (R436). -/
def linkCap (l : LinkState) : Nat :=
  1000 * nth [0, 25, 50, 80, 160, 320, 640] l.rate.val 0 * l.width.val / (640 * 16)

/-- Capacity of a resource in one direction, in bytes per millisecond (R436). -/
def State.capacity (s : State) : Resource → Nat
  | .chan c => (s.chan c).cap * 1000000
  | .seam => s.mesh.cap * 1000000
  | .port p => (s.port p).cap * 100000
  | .pcie => linkCap s.que.link * 100000

/-- F_X of a Locket at a resource (R437). -/
def State.floorOf (s : State) (l : Nat) : Resource → Nat
  | .chan c => if s.chanOwner c == some l then 1024
      else if (s.pool.state == 2 || s.pool.state == 3) && s.pool.chans.contains c then (s.slot l).active.floorAt 14 else 0
  | .seam => (s.slot l).active.floorAt 0
  | .port p => (s.slot l).active.floorAt (p + 1)
  | .pcie => (s.slot l).active.floorAt 13

/-- The floor of the module class at a resource (R437); it has none at a channel. -/
def State.moduleFloor (s : State) : Resource → Nat
  | .chan _ => 0
  | .seam => s.lkt.floorSeam
  | .port _ => s.lkt.floorPort
  | .pcie => s.lkt.floorPcie

def Resource.kind : Resource → Nat
  | .chan _ => 0
  | .seam => 1
  | .port _ => 2
  | .pcie => 3

/-- The guarantee G of class `k` of Locket `l`, in bytes per millisecond (R437). -/
def State.guarantee (s : State) (l k : Nat) (x : Resource) : Nat :=
  s.capacity x * s.floorOf l x * (s.slot l).active.shareAt x.kind k / 1048576

/-- The guarantee of the module class (R437). -/
def State.moduleGuarantee (s : State) (x : Resource) : Nat := s.capacity x * s.moduleFloor x / 1024

/-- What stands for a Facet in the labels of a switch's own traffic, which goes in the class SWITCH_CLASS (R445, R458). -/
def switchTraffic : Nat := 16

/-- The class of a Locket's Facet (R435), or of its switch traffic. -/
def State.classOf (s : State) (l f : Nat) : Nat :=
  if f = switchTraffic then (s.slot l).active.switchClass else bits (s.slot l).active.facet.toNat (3 * f) 3

/-- The Settings of a Locket that have a share of a port (R441). -/
def State.sharers (s : State) (l p : Nat) : List Nat :=
  s.settingIds.filter (fun i => (s.setting i).active.valid && (s.setting i).active.locket == l && (s.setting i).active.share p != 0)

/-- The number of the module class among the pairs of an arbiter. -/
def modulePair : Nat := 256

/-- The pair that a request is charged to at an arbiter (R435, R438, R441): 8 l + c for class c of Locket l; 1,024 + 8 i + c for the
sub-guarantee of Setting i at an outbound port. -/
def State.pairOf (s : State) (l f set unit dir : Nat) : Nat :=
  if l < 32 && s.holdsLocket l then
    let k := s.classOf l f
    match resourceOf unit with
    | .port p => if dir = 0 && (s.sharers l p).contains set then 1024 + 8 * set + k else 8 * l + k
    | _ => 8 * l + k
  else modulePair

/-- The rate at which a pair's credit rises, in bytes per millisecond (R438, R441): 0 where the pair has no guarantee. -/
def State.pairRate (s : State) (pair unit dir : Nat) : Nat :=
  let x := resourceOf unit
  if pair = modulePair then s.moduleGuarantee x
  else if pair < 256 then
    let g := s.guarantee (pair / 8) (pair % 8) x
    match x with
    | .port p => if dir = 0 then
        g * (1024 - ((s.sharers (pair / 8) p).map (fun i => (s.setting i).active.share p)).foldl (· + ·) 0) / 1024
      else g
    | _ => g
  else
    match x with
    | .port p =>
      let m := (s.setting ((pair - 1024) / 8)).active
      s.guarantee m.locket (pair % 8) x * m.share p / 1024
    | _ => 0

/-! ## Arbiters (R438) -/

/-- The cap of a credit counter; a counter starts there (R438, the table of reset states). -/
def creditCap : Int := 4096
def creditD (_ : Nat) : Int := creditCap
def arbD (_ : Nat) : Arb := {}

def State.arb (s : State) (unit dir : Nat) : Arb := SMap.get arbD s.lkt.arbs (2 * unit + dir)
def State.setArb (s : State) (unit dir : Nat) (a : Arb) : State :=
  { s with lkt := { s.lkt with arbs := SMap.set arbD s.lkt.arbs (2 * unit + dir) a } }

/-- The credit counters of an arbiter after `ns` nanoseconds: each has risen at its rate, in whole bytes, and is held at the cap. -/
def State.creditsAfter (s : State) (unit dir ns : Nat) : SMap Int :=
  let c := (s.arb unit dir).credit
  SMap.updAll creditD (fun k v => min creditCap (v + (s.pairRate k unit dir * ns / 1000000 : Nat))) (c.map (fun e => e.1)) c

/-- Let the credit counters of an arbiter rise for `ns` nanoseconds. -/
def ageCredits (s : State) (unit dir ns : Nat) : State :=
  s.setArb unit dir { s.arb unit dir with credit := s.creditsAfter unit dir ns }

/-- A grant of `n` bytes to a pair: its counter falls, to −4,096 at least; a pair with no guarantee keeps none. -/
def grantBytes (s : State) (unit dir pair n ns : Nat) : State :=
  let a := s.arb unit dir
  let c := s.creditsAfter unit dir ns
  s.setArb unit dir
    { credit := if s.pairRate pair unit dir = 0 then SMap.del pair c else SMap.upd creditD c pair (fun v => max (-creditCap) (v - n))
      grants := (a.grants + 1) % 16
      turn := pair :: a.turn.filter (· != pair) }

/-- Whether a pair is within budget (R438). -/
def State.within (s : State) (unit dir pair : Nat) : Bool :=
  s.pairRate pair unit dir != 0 && decide (0 < SMap.get creditD (s.arb unit dir).credit pair)

/-- Rotation among pairs: of those that wait, the one whose last grant is the longest ago; among pairs never granted, the first to wait.
A request is given by its place. -/
def rotate (turn : List Nat) (waiting : List (Nat × Nat)) : Option Nat :=
  waiting.foldl (fun best w =>
    match best with
    | none => some w
    | some b => if turn.findIdx (· == b.2) < turn.findIdx (· == w.2) then some w else some b) none |>.map (fun w => w.1)

/-- R438: which of the requests that wait at an arbiter is granted, as (place, pair) in the order of arrival. `aged` says whether the
oldest of rank 2 has waited 1,024 cycles. -/
def State.arbitrate (s : State) (unit dir : Nat) (aged : Bool) (waiting : List (Nat × Nat)) : Option Nat :=
  let a := s.arb unit dir
  let rank1 := waiting.filter (fun w => s.within unit dir w.2)
  let rank2 := waiting.filter (fun w => !s.within unit dir w.2)
  if a.grants = 15 && aged && !rank2.isEmpty then rank2.head?.map (fun w => w.1)
  else if rank1.isEmpty then rotate a.turn rank2
  else rotate a.turn rank1

/-- Whether the host link serves more than configuration space and PF BAR0 (R303). -/
def State.linkFetches (s : State) : Bool := decide (4 ≤ s.que.link.rate.val) && decide (8 ≤ s.que.link.width.val)

/-! ## Monitors (R442) -/

/-- Key of a latency monitor (R442). -/
def latKey (unit cls dir : Nat) : Nat := (unit * 8 + cls) * 2 + dir

/-- The Locket and the class of a pair; none for the module class, whose waits no register shows. -/
def State.pairClass (s : State) (pair : Nat) : Option (Nat × Nat) :=
  if pair < 256 then some (pair / 8, pair % 8)
  else if 1024 ≤ pair then some ((s.setting ((pair - 1024) / 8)).active.locket, pair % 8)
  else none

/-- A grant of `n` bytes to a pair at a resource. Its monitor holds the longest wait seen, and its arbiter's counters move. The model keeps
no time, so a wait and the time since the last grant are free values. -/
def grantPair (s : State) (pair unit dir n : Nat) : State :=
  let (k, s1) := s.takeFree
  let s2 := grantBytes s1 unit dir pair n (Config.arbiterNs k)
  match s2.pairClass pair with
  | some (l, c) =>
    if s2.holdsLocket l then
      s2.updSlot l (fun x => { x with
        lat := SMap.upd zeroD x.lat (latKey unit c dir) (fun v => max v (min 0xFFFFFFFF (Config.waitSeen k))) })
    else s2
  | none => s2

/-- A grant to a request of Locket `l` and Facet `f`, charged to Setting `set` where the resource is an outbound port. -/
def noteGrant (s : State) (l f set unit dir n : Nat) : State := grantPair s (s.pairOf l f set unit dir) unit dir n

/-- Traffic of `n` bytes between two halves (R30, R47, R436): the seam's arbiter and counters; whether one of its queues was full is free
(R62). -/
def crossSeam (s : State) (l f ctx from' to' n : Nat) : State :=
  if from' = to' then s
  else
    let (k, s1) := s.takeFree
    let m := s1.mesh
    let full := Config.seamFull k
    let s2 := { s1 with mesh := { m with
      weFull := m.weFull || (from' == 0 && full), ewFull := m.ewFull || (from' != 0 && full) } }
    noteGrant (countSeam s2 ctx l n) l f 64 (0x02A0 + from') 0 n

/-- The Setting of a context of Locket `l`; 64 when it is no context of this module. -/
def State.setOfCtx (s : State) (l ctx : Nat) : Nat :=
  if ctx < 4096 && (s.ctx ctx).state != 0 && (s.ctx ctx).locket == l then (s.ctx ctx).set else 64

/-- Bytes of a context on the host link: its counter and the arbiter of the link. -/
def notePcie (s : State) (l f ctx dir n : Nat) : State := noteGrant (countPcie s ctx n) l f 64 0x0280 dir n

end Sys2Proof.Machine
end

