-- ==== Sys2Proof/Machine/Flags.lean ====
section
/-! DEFINITION. What the module reports: interrupt edges (R528, R529), the Decrid log (R570), ring records with their MSI-X
messages (R278, R279, R340, R347) and events (R326, R327, R633). -/

namespace Sys2Proof.Machine

/-- Whether a source number is assigned; a reserved source never becomes pending (R528). -/
def intAssigned (i : Nat) : Bool :=
  decide (i < 0x158) || decide (i = 0x160) || decide (i = 0x161) || (decide (0x170 ≤ i) && decide (i < 0x174))
  || (decide (0x178 ≤ i) && decide (i < 0x17B)) || decide (i = 0x180) || decide (i = 0x181) || decide (i = 0x188)
  || (decide (0x190 ≤ i) && decide (i < 0x199)) || decide (i = 0x1A0) || (decide (0x200 ≤ i) && decide (i < 0x2A1))
  || (decide (0x3F0 ≤ i) && decide (i < 0x400))

/-- An edge at a source sets its pending bit (R529, R530). -/
def raise (s : State) (i : Nat) : State :=
  if intAssigned i then s.setIntSrc i { s.intSrc i with pend := true } else s

/-- Put an entry in the log buffer; a full buffer drops its oldest entry of SEV below 4 (R570). -/
def logEntry (s : State) (kind sev code unit value : Nat) (r : Option Record) : State :=
  let e : LogEnt := { lseq := s.mgt.nextLseq, boot := s.mgt.boots, aon := Config.aonSeconds s.freeCtr, kind := kind, sev := sev, code := code, unit := unit, value := value, event := r }
  let full := decide (4096 ≤ s.mgt.buffer.length)
  let dropOne : List LogEnt → List LogEnt := fun l =>
    match l.findIdx? (fun x => decide (x.sev < 4)) with
    | some i => l.eraseIdx i
    | none => l.drop 1
  { s with freeCtr := s.freeCtr + 1, mgt := { s.mgt with
      buffer := (if full then dropOne s.mgt.buffer else s.mgt.buffer) ++ [e]
      lost := if full then satAdd 16 s.mgt.lost 1 else s.mgt.lost
      nextLseq := s.mgt.nextLseq + 1 } }

/-- A PlatformEventMessage goes to the event receiver, when one is set (R573); SMB_ALERT_N is asserted while one waits for a
receiver on SMBus (R618). -/
def platformEvent (s : State) (m : PlatformMsg) : State :=
  match s.mgt2.receiver with
  | some (t, eid) => { s with mgt2 := { s.mgt2 with events := s.mgt2.events ++ [(t, eid, m)], smbAlert := s.mgt2.smbAlert || t == .smbus } }
  | none => s

/-- The function in whose stream a message travels. -/
def HostOut.fn : HostOut → Nat
  | .record f .. => f
  | .cons f .. => f
  | .data f .. => f
  | .msi f .. => f
  | .fetch f .. => f

/-- The module writes on the PCIe link, in the IDE stream of the function when it is enabled (R305, R586). -/
def hostSend (s : State) (m : HostOut) : State := { s with que := { s.que with out := s.que.out ++ [(m, s.ideOf m.fn)] } }

/-- Send the message of vector `v` of function `f` (R346, R347): nothing when the vector is not below the function's COUNT, its
pending bit when it is masked. -/
def sendMsi (s : State) (f v : Nat) : State :=
  if s.msixCountOf f ≤ v then s
  else if s.que.unmasked.contains (f, v) then hostSend s (.msi f v (SMap.get zeroD s.que.msixAddr (2048 * f + v)) (SMap.get zeroD s.que.msixData (2048 * f + v)))
  else if s.que.msixPend.contains (f, v) then s
  else { s with que := { s.que with msixPend := s.que.msixPend ++ [(f, v)] } }

/-- Records in a ring (R278). -/
def Ring.used (r : Ring) : Nat := (r.prod - r.cons).toNat
/-- Slots of a ring. -/
def Ring.slots (r : Ring) : Nat := 2 ^ r.size
/-- Whether a record fits; a ring that is not enabled counts as full (R280, R324). -/
def Ring.room (r : Ring) : Bool := r.enable && decide (r.used < r.slots)
/-- PHASE of the next record (R279). -/
def Ring.phase (r : Ring) : Bool := decide (r.prod.toNat / r.slots % 2 = 0)
/-- Address of the next record. -/
def Ring.addr (r : Ring) : Nat := r.base + r.prod.toNat % r.slots * 32

/-- Whether a record of this severity sends its message at once (R347). -/
def Ring.sends (r : Ring) (sev : Nat) (irq : Bool) : Bool :=
  irq || decide (3 ≤ sev) || decide (r.modCount ≤ 1) || decide (r.modCount ≤ r.since + 1)

/-- The ring after a record. -/
def Ring.push (r : Ring) (sev : Nat) (irq : Bool) : Ring :=
  { r with prod := r.prod + 1, since := if r.sends sev irq then 0 else r.since + 1 }

/-- Write one record to a ring of function `f` in host memory and send the message that is due (R248, R340, R347): a grant of the host link,
and bytes of the record's context (R442, R446). An event has no work whose Facet it could carry: it goes under Facet 0 (log 39). -/
def emit (s0 : State) (f : Nat) (r : Ring) (irq : Bool) (x : Record) (facet : Nat := 0) : State :=
  let s := notePcie s0 x.locket facet x.ctx 0 32
  let s1 := hostSend s (.record f r.addr r.prod.toNat r.phase x)
  if r.sends x.sev irq then sendMsi s1 f r.vector else s1

/-- Write a record to the event ring of function `f`. -/
def emitEv (s : State) (f : Nat) (x : Record) : State :=
  let e := s.ev f
  emit (s.setEv f { e with ring := e.ring.push x.sev false }) f e.ring false x

/-- Whether an ordinary event fits: the last slot is kept for EVENT_LOST, and a loss not yet reported comes first (R327). -/
def EvRing.takes (e : EvRing) : Bool :=
  e.ring.enable && decide (e.ring.used + 1 < e.ring.slots) && decide (e.lostSince = 0)

/-- Count a lost event (R327, R633). -/
def loseEv (s : State) (f : Nat) (x : Record) : State :=
  let e := s.ev f
  s.setEv f { e with
    overflow := true
    lost := satAdd 16 e.lost 1
    lostSince := e.lostSince + 1
    firstLost := if e.lostSince = 0 then x.type else e.firstLost }

/-- An event for the event ring of function `f`. The PF hold takes events until the ring is first enabled; the held records are then
written ahead of any later event, so that a ring with records still held is full (R633). -/
def putEv (s : State) (f : Nat) (x : Record) : State :=
  if f = 0 && s.que.pfHold then
    if s.que.held.length < 1024 then { s with que := { s.que with held := s.que.held ++ [x] } } else loseEv s f x
  else if (s.ev f).takes && (decide (f ≠ 0) || s.que.held.isEmpty) then emitEv s f x
  else loseEv s f x

/-- Write held records as slots allow (R633). -/
def flushHeld (s : State) : Nat → State
  | 0 => s
  | n + 1 =>
    match s.que.held with
    | [] => s
    | x :: rest =>
      let e := s.ev 0
      if e.ring.enable && decide (e.ring.used + 1 < e.ring.slots) then
        flushHeld (emitEv { s with que := { s.que with held := rest } } 0 x) n
      else s

/-- When space has freed: the held records first, then EVENT_LOST, of which the PF ring gets a copy while MIRROR is 1 (R326, R327,
R633, R344). -/
def flushEv (s : State) (f : Nat) : State :=
  let s1 := if f = 0 && !s.que.pfHold then flushHeld s s.que.held.length else s
  let e := s1.ev f
  if decide (e.lostSince ≠ 0) && e.ring.room && (decide (f ≠ 0) || s1.que.held.isEmpty) then
    let x : Record :=
      { type := 0x0204, sev := 1, locket := if f = 0 then 0xFF else f - 1, source := pcieUnit, object := f
        detail := detail [(16, 4, e.lostSince), (20, 4, e.firstLost)] }
    let s2 := emitEv (s1.setEv f { e with lostSince := 0, firstLost := 0 }) f x
    if f ≠ 0 && (s2.ev 0).mirror then putEv s2 0 x else s2
  else s1

/-- Post an event (R326): to the ring of the Locket's VF, and to the PF ring for the module's own, for severities 4 and 5 and
while MIRROR is 1. Severities 3 and more go to the Decrid log as well, with UNIT_RETIRED and module-level RESET_DONE (R327, R570);
severities 4 and more to the event receiver (R573). -/
def postEvent (s : State) (x : Record) : State :=
  let s1 := if x.locket = 0xFF then putEv s 0 x else putEv s (x.locket + 1) x
  let s2 := if x.locket ≠ 0xFF && (decide (4 ≤ x.sev) || (s1.ev 0).mirror) then putEv s1 0 x else s1
  let logged := decide (3 ≤ x.sev) || decide (x.type = 0x0222) || (decide (x.type = 0x0223) && decide (bits x.object 0 3 = 3))
  let s3 := if logged then logEntry s2 0 x.sev 0 0 0 (some x) else s2
  if 4 ≤ x.sev then platformEvent s3 (.event x) else s3

/-- Post a copy of an event to the ring of one more Locket (R53, R523, R561). -/
def postCopy (s : State) (x : Record) (l : Nat) : State := putEv s (l + 1) { x with locket := l }

/-- Set a read-to-clear counter's value aside as the answer of a read. -/
def answerRead (s : State) (v : Nat) : State := { s with lastRead := v }

/-- An answer of Decrid with its result code (R583). -/
def reply (s : State) (code : Nat) (bytes : List (BitVec 8)) : State :=
  { s with mgt2 := { s.mgt2 with code := code, reply := bytes } }

end Sys2Proof.Machine
end

