-- ==== Sys2Proof/Machine/Memory.lean ====
section
/-! DEFINITION. The local map (R197 to R201, R390), the sectors of a channel with their marks (R205, R364, R629), the bond with
its CRC and re-sends (R202 to R206, R631), and the operations a home performs (R212 to R215). -/

namespace Sys2Proof.Machine

/-! ## The map -/

/-- Bytes of a slot, and of a channel (R196, R197). -/
def slotBytes : Nat := 0x120000000
/-- First local offset beyond DRAM (R20). -/
def dramEnd : Nat := 0x9000000000
/-- The tile-memory windows (R20). -/
def windowBase : Nat := 0x30000000000
def windowSize : Nat := 0x400000
def windowEnd : Nat := windowBase + 192 * windowSize
/-- The module MMIO region (R20, R310). -/
def mmioBase : Nat := 0x3F000000000
def mmioSize : Nat := 0x4000000

/-- What lies at a local offset (R20). -/
inductive LocalPlace where
  | dram (a : Nat)
  | window (core off : Nat)
  | mmio (off : Nat)
  | reserved
deriving DecidableEq, Repr

def localPlace (a : Nat) : LocalPlace :=
  if a < dramEnd then .dram a
  else if windowBase ≤ a ∧ a < windowEnd then .window ((a - windowBase) / windowSize) ((a - windowBase) % windowSize)
  else if mmioBase ≤ a ∧ a < mmioBase + mmioSize then .mmio (a - mmioBase)
  else .reserved

/-- R199: the channel and channel offset of an offset `o` within a region of list `l` and granule `g`. -/
def interleave (l : List Nat) (g o : Nat) : Nat × Nat :=
  let u := o / g
  let n := l.length
  (nth l (u % n) 0, u / n * g + o % g)

/-- Whether a region covers local offset `a` (R198). -/
def SetCopy.covers (c : SetCopy) (a : Nat) : Bool :=
  c.valid && c.rgnValid && decide (slotBytes * c.first ≤ a) && decide (a < slotBytes * (c.first + c.nM1 + 1))

/-- A mapped DRAM offset: channel, channel offset, Setting (64 for the pool region) and epoch (R200, R390). -/
structure Mapped where
  c : Nat
  off : Nat
  set : Nat := 64
  epoch : Nat := 0
deriving DecidableEq, Repr

/-- The map of this module's DRAM: the active copy of the Setting whose region covers the offset, or the pool region. -/
def State.mapDram (s : State) (a : Nat) : Option Mapped :=
  match s.settingIds.find? (fun i => (s.setting i).active.covers a) with
  | some i =>
    let x := s.setting i
    let r := interleave x.active.list (granBytes x.active.granCode) (a - slotBytes * x.active.first)
    some { c := r.1, off := r.2, set := i, epoch := x.epoch }
  | none =>
    if s.pool.state = 2 && decide (a < slotBytes * s.pool.chans.length) then
      let r := interleave s.pool.chans (granBytes s.pool.gran) a
      some { c := r.1, off := r.2 }
    else none

/-! ## Sectors -/

/-- Whether the bytes of a sector are defined: written whole or scrubbed (R629). -/
def Chan.defined (ch : Chan) (sec : Nat) : Bool := ch.scrubbed || ch.written.contains sec

/-- The bytes of a sector. -/
def Chan.sector (ch : Chan) (c sec : Nat) : List (BitVec 8) :=
  if ch.defined sec then ch.mem.readN (64 * sec) 64 else (upto 64).map (Config.dramByte c sec)

/-- Whether a sector answers POISON: its mark is set, or it is undefined and happens to (R205, R629). -/
def Chan.marked (ch : Chan) (c sec : Nat) : Bool :=
  ch.marks.contains sec || (!ch.defined sec && Config.dramPoison c sec)

/-- Store a whole sector; the write clears its mark, or sets it for poisoned data (R206, R207). -/
def Chan.store (ch : Chan) (sec : Nat) (bytes : List (BitVec 8)) (poison : Bool) : Chan :=
  { ch with
    mem := ch.mem.writeN (64 * sec) bytes
    written := if ch.scrubbed then ch.written else setIns sec ch.written
    marks := setPut poison sec ch.marks }

/-- A channel with every sector zero and every mark clear (R220). -/
def Chan.scrubbedClean (ch : Chan) : Chan :=
  { ch with mem := [], scrubbed := true, written := [], marks := [], fences := [] }

/-- A channel whose content is undefined (R400, R629). -/
def Chan.undefine (ch : Chan) : Chan :=
  { ch with mem := [], scrubbed := false, written := [], marks := [], fences := [] }

/-! ## The CRC of the bond (R202) -/

/-- One bit of the CRC with generator 0x8BB7. -/
def crc16Bit (r : Nat) (b : Bool) : Nat :=
  let top := Nat.testBit r 15 != b
  let r2 := (2 * r) % 65536
  if top then r2 ^^^ 0x8BB7 else r2

/-- One byte, most significant bit first. -/
def crc16Byte (r : Nat) (b : BitVec 8) : Nat := [7, 6, 5, 4, 3, 2, 1, 0].foldl (fun a i => crc16Bit a (b.getLsbD i)) r

/-- The CRC of a byte string from the initial value 0xFFFF. -/
def crc16 (l : List (BitVec 8)) : Nat := l.foldl crc16Byte 0xFFFF

/-- The CRC of a sector that crosses the bond: its 64 bytes, then the sector index with the direction in bit 31 (R202). -/
def bondCrc (data : List (BitVec 8)) (sec : Nat) (toController : Bool) : Nat :=
  crc16 (data ++ leBytes 4 (sec % 2 ^ 27 + (if toController then 2 ^ 31 else 0)))

/-! ## Transmissions (R202 to R205, R631) -/

/-- What the receiver takes of a sector that crosses the bond with its CRC, where `err` is the bits that the bond inverts: the data, its
first bit lowest, and from bit 512 the CRC. A sector whose CRC does not fit is not taken; one that nothing inverts carries its own CRC. -/
def bondTake (data : List (BitVec 8)) (sec : Nat) (toController : Bool) (err : Nat) : Option (List (BitVec 8)) :=
  if err = 0 then some data
  else
    let got := (leNat data + bondCrc data sec toController <<< 512) ^^^ err
    let data' := leBytes 64 got
    if bits got 512 16 = bondCrc data' sec toController then some data' else none

/-- Send a sector until it is taken: the number of transmissions that failed, five at most, and what was taken. The first `forced` fail. -/
def bondSend (data : List (BitVec 8)) (sec : Nat) (toController : Bool) : Nat → Nat → List Nat → Nat × Option (List (BitVec 8))
  | 0, _, _ => (0, none)
  | n + 1, forced, errs =>
    match forced, bondTake data sec toController (errs.headD 0) with
    | 0, some got => (0, some got)
    | k, _ => let r := bondSend data sec toController n (k - 1) errs.tail; (r.1 + 1, r.2)

/-- INJ used by a request's lowest sector (R229, R631): the channel with INJ cleared, and the transmissions that it makes fail. -/
def Chan.inject (ch : Chan) (reading first : Bool) : Chan × Nat :=
  if first && ch.inj != 0 && ch.injRd == reading then ({ ch with inj := 0 }, min 5 ch.inj) else (ch, 0)

/-- Count the re-sends of one sector: at most four (R203). -/
def Chan.resent (ch : Chan) (fails : Nat) : Chan := { ch with retry := satAdd 32 ch.retry (min fails 4) }

/-- How one sector's transfer ends. -/
inductive Xfer where
  | ok
  | bond        -- the fifth transmission failed (R204)
  | mark        -- the sector is poisoned (R206)
  | failed      -- the poison command failed too: the channel fails (R205)
deriving DecidableEq, Repr

/-- Read sector `sec` over the bond, the one at place `i` of its request. -/
def readSector (c : Nat) (x : Xmit) (ch : Chan) (sec i : Nat) : Chan × Xfer × List (BitVec 8) :=
  let (ch1, forced) := ch.inject true (i == 0)
  let (f, got) := bondSend (ch1.sector c sec) sec true 5 forced (nth x.rdErrs i [])
  let ch2 := ch1.resent f
  match got with
  | none => (ch2, .bond, [])
  | some data => if ch2.marked c sec then (ch2, .mark, []) else (ch2, .ok, data)

/-- Write a sector over the bond: after five failures the controller marks it with a poison command (R204, R205). -/
def writeSector (x : Xmit) (ch : Chan) (sec i : Nat) (bytes : List (BitVec 8)) (poison : Bool) : Chan × Xfer :=
  let (ch1, forced) := ch.inject false (i == 0)
  let (f, got) := bondSend bytes sec false 5 forced (nth x.wrErrs i [])
  let ch2 := ch1.resent f
  match got with
  | some data => (ch2.store sec data poison, .ok)
  | none =>
    let pf := nth x.poisonFails i 0
    let ch3 := ch2.resent pf
    if 5 ≤ pf then (ch3, .failed) else ({ ch3 with marks := setIns sec ch3.marks }, .bond)

/-! ## Atomics (R214) -/

/-- The value an atomic stores; operations by the stream opcodes of R133. -/
def atomResult (op w : Nat) (old a b : Nat) : Nat :=
  let so := toSigned w old
  let sa := toSigned w a
  match op with
  | 0x20 => (old + a) % 2 ^ w
  | 0x21 => (old + a) % 2 ^ w
  | 0x22 => fAdd old a
  | 0x23 => if sa < so then a else old
  | 0x24 => if so < sa then a else old
  | 0x25 => min old a
  | 0x26 => max old a
  | 0x27 => a
  | 0x28 => if old = a then b else old
  | _ => old

/-! ## What a request's outcome leaves -/

/-- Count a POISON answer (R231). -/
def Chan.countPoison (ch : Chan) (sec : Nat) (wr : Bool) : Chan :=
  { ch with poison := satAdd 16 ch.poison 1, last := sec, lastWr := wr }

/-- What the memory events and counters say of the request that a sector is performed for (R204, R231, R233). -/
structure Cause where
  ctx : Nat := 0xFFFF
  dpa : Nat := 0                      -- as it arrived; 0 for the own read of a copy or move job
  access : Nat := 0                   -- 0 read, 1 write, 2 partial write, 3 atomic, 4 copy or move job
  wr : Bool := false                  -- the request was a write
  counted : Bool := false             -- it has already been answered POISON for another of its sectors
  accepted : Bool := false            -- its stop had accepted it when the half began to park (R56)
deriving DecidableEq, Repr

/-- The MEM_POISON event (R204, R233). -/
def poisonEvent (s : State) (c sec : Nat) (w : Cause) : State :=
  postEvent s
    { type := 0x0230, sev := 3, locket := (s.chanOwner c).getD 0xFF, ctx := w.ctx, source := chanUnit c
      object := sec % 2 ^ 27 + (if w.wr then 2 ^ 31 else 0)
      detail := detail [(16, 8, w.dpa), (24, 1, 5), (25, 1, w.access)] }

/-- A channel fails (R205): CHANNEL_FAILED, and its interrupt (R528). The Locket reset that R542 gives is the caller's. -/
def failChannel (s : State) (c sec : Nat) : State :=
  let ch := s.chan c
  let s1 := s.setChan c { ch with state := 4 }
  raise (postEvent s1
    { type := 0x0231, sev := 4, locket := (s.chanOwner c).getD 0xFF, source := chanUnit c, object := c
      detail := detail [(16, 4, sec), (20, 1, ch.state)] }) (0x0C0 + c)

/-- Whether the half of a unit answers PARKED (R57, R521): while the half begins to park, not to what its stops had accepted (step 2 of R56). -/
def State.halfClosed (s : State) (h : Nat) (accepted : Bool := false) : Bool :=
  decide ((s.half h).state ≠ 0 ∧ ¬(accepted = true ∧ (s.half h).state = 1)) || s.pdyn.trip

/-- A request is answered with PARKED: the error names `unit` as its source, and MSH_PARKED_CNT counts it (R57, R62). -/
def countParked (s : State) (unit : Nat) : State :=
  { s with mesh := { s.mesh with parkedCnt := satAdd 32 s.mesh.parkedCnt 1, parkedUnit := some unit } }

/-- The error that a channel's state gives every request (R205, R221, R560), if any. -/
def State.chanError (s : State) (c : Nat) (accepted : Bool := false) : Option Nat :=
  let ch := s.chan c
  if s.halfClosed (chanHalf c) accepted then some stPARKED
  else if ch.state = 4 || ch.state = 5 then some stCHFAIL
  else if ch.state = 2 then some stSCRUBBING
  else none

/-- The outcome of an access at its home. -/
structure HomeOutcome where
  status : Nat
  data : List (BitVec 8) := []
  failed : List Nat := []             -- the channels that failed while it was performed
deriving DecidableEq, Repr

/-- A request meets the error that its channel's state gives. -/
def chanAnswers (s : State) (c st : Nat) : State × HomeOutcome :=
  (if st = stPARKED then countParked s (chanUnit c) else s, { status := st })

/-- Give the outcome of one sector's transfer: POISON is counted, and posted when the bond failed (R204, R206); a channel whose poison
command failed answers CHFAIL (R205). -/
def settleXfer (s : State) (c sec : Nat) (ch : Chan) (e : Xfer) (data : List (BitVec 8)) (w : Cause) : State × HomeOutcome :=
  let s1 := s.setChan c ch
  let s2 := if w.counted then s1 else s1.updChan c (fun x => x.countPoison sec w.wr)
  match e with
  | .ok => (s1, { status := stOK, data := data })
  | .mark => (raise s2 (0x0C0 + c), { status := stPOISON })
  | .bond => (raise (poisonEvent s2 c sec w) (0x0C0 + c), { status := stPOISON })
  | .failed => (failChannel s1 c sec, { status := stCHFAIL, failed := [c] })

/-- Replace `n` bytes at `at` of a list. -/
def patch (l : List (BitVec 8)) (pos : Nat) (new : List (BitVec 8)) : List (BitVec 8) :=
  l.take pos ++ new ++ l.drop (pos + new.length)

/-- The sectors of a run of bytes. -/
def sectorsOf (off len : Nat) : List Nat := (upto ((off % 64 + len + 63) / 64)).map (fun i => off / 64 + i)

/-- The place within its sector at which byte `off` + 64 `i` of a run from `off` begins, and the bytes of the run in that sector. -/
def sectorSpan (off len i : Nat) : Nat × Nat :=
  let lo := if i = 0 then off % 64 else 0
  (lo, min (64 - lo) (len - (64 * i - (if i = 0 then 0 else off % 64))))

/-- The mirrors of a source whose destination holds what the source holds, by destination (R397). -/
def State.mirrors (s : State) (c : Nat) : List Nat :=
  (s.mem.moves.filter (fun m => m.src == c && m.done && (s.chan m.dst).state != 4 && (s.chan m.dst).state != 5)).map (fun m => m.dst)

/-- Forward a sector that a mirror's source has written or marked, at place `i` of its request, to its destination: a sector write of the
destination's controller, its poison mark with it (R397, R631). A sector whose bytes nothing has defined has its mark set or cleared alone. -/
def forwardTo (c sec i : Nat) (x : Xmit) (w : Cause) (r : State × List Nat) (d : Nat) : State × List Nat :=
  let src := r.1.chan c
  let dst := r.1.chan d
  if src.defined sec then
    let o := writeSector { wrErrs := x.mirErrs, poisonFails := x.mirPoison } dst sec i (src.sector c sec) (src.marks.contains sec)
    let e := settleXfer r.1 d sec o.1 o.2 [] { w with counted := false }
    (e.1, r.2 ++ e.2.failed)
  else
    (r.1.setChan d { dst with written := setDel sec dst.written, marks := setPut (src.marks.contains sec) sec dst.marks }, r.2)

def forward (s : State) (c sec i : Nat) (x : Xmit) (w : Cause) : State × List Nat :=
  (s.mirrors c).foldl (forwardTo c sec i x w) (s, [])

/-- Set or clear the fence mark of a sector, and of its mirrors (R364, R397). -/
def markFence (s : State) (c sec : Nat) (b : Bool) : State :=
  s.forAll (c :: s.mirrors c) (fun s c => s.updChan c (fun h => { h with fences := setPut b sec h.fences }))

/-- The outcome of a sector's write, and its way to the mirrors of its channel. -/
def settleWrite (s : State) (c sec i : Nat) (ch : Chan) (e : Xfer) (ret : List (BitVec 8)) (x : Xmit) (w : Cause) : State × HomeOutcome :=
  let o := settleXfer s c sec ch e ret w
  let f := forward o.1 c sec i x w
  (f.1, { o.2 with failed := o.2.failed ++ f.2 })

/-! ## One sector at its home (R206, R212 to R215) -/

/-- Count what the dies correct during an access (R208). -/
def Chan.correct (ch : Chan) (x : Xmit) : Chan := { ch with corr := satAdd 32 ch.corr x.corrected }

/-- Read a sector: the one at place `i` of its request. -/
def homeRead (s : State) (c sec i : Nat) (x : Xmit) (w : Cause) : State × HomeOutcome :=
  match s.chanError c w.accepted with
  | some st => chanAnswers s c st
  | none =>
    let (ch1, e, bytes) := readSector c x ((s.chan c).correct x) sec i
    settleXfer s c sec ch1 e bytes w

/-- Write a whole sector. -/
def homeWrite (s : State) (c sec i : Nat) (bytes : List (BitVec 8)) (poison : Bool) (x : Xmit) (w : Cause) : State × HomeOutcome :=
  match s.chanError c w.accepted with
  | some st => chanAnswers s c st
  | none =>
    if (s.chan c).fences.contains sec then (s, { status := stDENIED })
    else
      let (ch1, e) := writeSector x ((s.chan c).correct x) sec i bytes poison
      settleWrite s c sec i ch1 e [] x w

/-- Read a sector, change it and write it back: the change gives the new bytes and what is returned; none leaves the sector as it was. -/
def modifySector (s : State) (c sec i : Nat) (fn : List (BitVec 8) → Option (List (BitVec 8)) × List (BitVec 8)) (x : Xmit) (w : Cause) :
    State × HomeOutcome :=
  let (ch1, r, bytes) := readSector c x ((s.chan c).correct x) sec i
  match r with
  | .ok =>
    match fn bytes with
    | (none, ret) => (s.setChan c ch1, { status := stOK, data := ret })
    | (some new, ret) =>
      let (ch2, e) := writeSector x ch1 sec i new false
      settleWrite s c sec i ch2 e ret x w
  | e => settleXfer s c sec ch1 e [] w

/-- A partial write or an atomic of a sector (R206, R214). -/
def homeModify (s : State) (c sec i : Nat) (fn : List (BitVec 8) → List (BitVec 8) × List (BitVec 8)) (x : Xmit) (w : Cause) :
    State × HomeOutcome :=
  match s.chanError c w.accepted with
  | some st => chanAnswers s c st
  | none =>
    if (s.chan c).fences.contains sec then (s, { status := stDENIED })
    else modifySector s c sec i (fun l => (some (fn l).1, (fn l).2)) x w

/-- Store bytes that lie within one sector, from `lo` of it: a whole-sector write or a partial one (R206). -/
def homeStore (s : State) (c sec i lo : Nat) (bytes : List (BitVec 8)) (poison : Bool) (x : Xmit) (w : Cause) : State × HomeOutcome :=
  if bytes.length = 64 then homeWrite s c sec i bytes poison x w
  else homeModify s c sec i (fun l => (patch l lo bytes, [])) x { w with access := if w.access = 1 then 2 else w.access }

/-- Perform an atomic on the bytes from `lo` of a sector (R214). -/
def homeAtom (s : State) (c sec lo op size : Nat) (a b : BitVec 64) (x : Xmit) (w : Cause) : State × HomeOutcome :=
  homeModify s c sec 0 (fun l =>
    let old := (l.drop lo).take size
    let v := 8 * size
    (patch l lo (leBytes size (atomResult op v (leNat old) (a.toNat % 2 ^ v) (b.toNat % 2 ^ v))), old)) x w

/-! ## Move destinations (R399) -/

/-- Whether requests under the current map to channel `c` wait at it: it is a move destination whose mirror still runs. -/
def State.holdsNew (s : State) (c set : Nat) : Bool :=
  s.mem.moves.any (fun m => m.dst == c && m.set == set) && decide (2 ≤ (s.setting set).phase)

/-- Whether an access of this module's own to a local DRAM offset has to wait at a move destination. -/
def State.heldAt (s : State) (a : Nat) : Bool :=
  match s.mapDram a with
  | some m => s.holdsNew m.c m.set
  | none => false

end Sys2Proof.Machine
end

