-- ==== Sys2Proof/Machine/Translate.lean ====
section
/-! DEFINITION. Range translation (R259 to R273): range entries, buffers and caches, the walk and its checks; faults, their
records, the outstanding table and the fault queues (R274 to R293). -/

namespace Sys2Proof.Machine

/-! ## Range entries (R263 to R265) -/

def RangeEnt.vaGran (e : RangeEnt) : Nat := bits e.lo 0 40
def RangeEnt.lenM1 (e : RangeEnt) : Nat := bits e.lo 40 24
def RangeEnt.dpaGran (e : RangeEnt) : Nat := bits e.hi 0 36
def RangeEnt.locket (e : RangeEnt) : Nat := bits e.hi 40 5
/-- R, W or A for access 0 read, 1 write, 2 atomic. -/
def RangeEnt.allows (e : RangeEnt) (access : Nat) : Bool := bit e.hi (36 + access)
def RangeEnt.priv (e : RangeEnt) : Bool := bit e.hi 39
/-- The granule of a VA (R260). -/
def vaGranule (va : Nat) : Nat := bits va 16 40
def vaSlice (va : Nat) : Nat := bits va 40 16
def RangeEnt.covers (e : RangeEnt) (va : Nat) : Bool :=
  decide (e.vaGran ≤ vaGranule va) && decide (vaGranule va ≤ e.vaGran + e.lenM1)
/-- Whether an entry overlaps the run of granules from `g`, `m` + 1 long. -/
def RangeEnt.overlaps (e : RangeEnt) (g m : Nat) : Bool := decide (e.vaGran ≤ g + m) && decide (g ≤ e.vaGran + e.lenM1)
/-- The last line of R267. -/
def RangeEnt.dpa (e : RangeEnt) (va : Nat) : Nat := 65536 * (e.dpaGran + (vaGranule va - e.vaGran)) + va % 65536

/-- The module and the local offset of a DPA (R17). -/
def dpaModule (d : Nat) : Nat := bits d 42 10
def dpaLocal (d : Nat) : Nat := d % 2 ^ 42

/-- The conditions of R266 on one range entry of slice `slice`. -/
def RangeEnt.wellFormed (e : RangeEnt) (slice : Nat) : Bool :=
  decide (e.vaGran / 2 ^ 24 = slice) && decide ((e.vaGran + e.lenM1) / 2 ^ 24 = slice)
  && decide (e.dpaGran % 2 ^ 26 + e.lenM1 + 1 ≤ 2 ^ 26) && decide (bits e.hi 45 19 = 0)

/-! ## The walk (R267) -/

/-- How far a walk has come. -/
inductive WalkOut where
  | need (stage : WalkStage)
  | found (e : RangeEnt)
  | fault (kind pos : Nat)
deriving DecidableEq, Repr

/-- Entry `i` of a bucket, if its sector has been read. -/
def seenEntry (ctx : Nat) (seen : List (Nat × List (BitVec 8))) (i : Nat) : Option RangeEnt :=
  match seen.find? (fun x => x.1 == i / 4) with
  | none => none
  | some (_, bytes) =>
    let w := leNat ((bytes.drop (16 * (i % 4))).take 16)
    some { ctx := ctx, lo := w % 2 ^ 64, hi := w / 2 ^ 64, pos := i }

/-- Probe as long as the sectors needed have been read. `hi` is one above the last index in question. -/
def probeLoop (ctx va bucket count : Nat) : Nat → Nat → Nat → Option Nat → List (Nat × List (BitVec 8)) → WalkOut
  | 0, _, _, hit, _ => .fault 5 (hit.getD 0xFFFF)
  | n + 1, lo, hi, hit, seen =>
    let g := vaGranule va
    if hi ≤ lo then
      match hit with
      | none => .fault 1 0xFFFF
      | some h =>
        match seenEntry ctx seen h with
        | none => .fault 5 h
        | some e => if e.vaGran + e.lenM1 < g then .fault 1 h else .found e
    else
      let mid := (lo + hi - 1) / 2
      match seenEntry ctx seen mid with
      | none => .need (.probe bucket count lo hi hit seen)
      | some e =>
        let under := match hit.bind (seenEntry ctx seen) with | some h => decide (h.vaGran + h.lenM1 < e.vaGran) | none => true
        let above := if hi < count then
            match seenEntry ctx seen hi with | some u => decide (e.vaGran + e.lenM1 < u.vaGran) | none => true
          else true
        if !(e.wellFormed (vaSlice va) && under && above) then .fault 5 (hit.getD 0xFFFF)
        else if e.vaGran ≤ g then probeLoop ctx va bucket count n (mid + 1) hi (some mid) seen
        else probeLoop ctx va bucket count n lo mid hit seen

/-- What the root word decides (R263, R267). -/
def rootOut (root va : Nat) : Option WalkOut :=
  if !bit root 0 then some (.fault 8 0xFFFF)
  else if bits root 44 16 < vaSlice va then some (.fault 1 0xFFFF)
  else if bits root 1 3 ≠ 0 ∨ bits root 60 4 ≠ 0 then some (.fault 5 0xFFFF)
  else none

/-- DPA of the level-1 entry of a VA. -/
def level1Dpa (root va : Nat) : Nat := bits root 4 40 * 4096 + 8 * vaSlice va

/-- What a level-1 entry decides (R264). -/
def level1Out (w : Nat) : WalkOut :=
  if bits w 10 2 ≠ 0 ∨ bits w 52 12 ≠ 0 ∨ 256 < bits w 1 9 then .fault 5 0xFFFF
  else if !bit w 0 || decide (bits w 1 9 = 0) then .fault 1 0xFFFF
  else .need (.probe (bits w 12 40) (bits w 1 9) 0 (bits w 1 9) none [])

/-- The channel and channel offset of a table sector: in this module's DRAM, in a region of a Setting of the Locket (R266). -/
def State.tablePlace (s : State) (locket dpa : Nat) : Option (Nat × Nat) :=
  if dpaModule dpa ≠ s.trb.idModule then none
  else
    match localPlace (dpaLocal dpa) with
    | .dram a =>
      match s.mapDram a with
      | some m => if m.set < 64 && (s.setting m.set).active.locket == locket then some (m.c, m.off / 64 * 64) else none
      | none => none
    | _ => none

/-- The labels of a walk's reads (R271): those of the request that caused the walk, and the half they come from. -/
structure Labels where
  ctx : Nat
  locket : Nat
  facet : Nat
  half : Nat
deriving DecidableEq, Repr

/-- A read of this module's own for a walk or an image has been performed: the grants on its path and its counters (R442, R446). -/
def noteOwn (s : State) (l : Labels) (c n : Nat) (ok : Bool) : State :=
  let s1 := noteGrant (crossSeam s l.locket l.facet l.ctx l.half (chanHalf c) n) l.locket l.facet 64 (chanUnit c) 0 n
  if ok then countDram s1 l.ctx l.locket n else s1

/-- Whether a table sector's channel holds requests of the new map (R399): the walk waits. -/
def State.tableHeld (s : State) (dpa : Nat) : Bool :=
  match localPlace (dpaLocal dpa) with
  | .dram a => s.heldAt a
  | _ => false

/-- Read a table sector for a walk; none is kind TABLE (R276). -/
def tableRead (s : State) (l : Labels) (dpa : Nat) (x : Xmit) : State × Option (List (BitVec 8)) :=
  match s.tablePlace l.locket dpa with
  | none => (s, none)
  | some (c, off) =>
    let r := homeRead s c (off / 64) 0 x { ctx := l.ctx, dpa := dpa / 64 * 64 }
    let ok := decide (r.2.status = stOK)
    (noteOwn r.1 l c 64 ok, if ok then some r.2.data else none)

/-- One sector read of a walk, and the probes it allows; the stage stays where the sector's channel holds the read. -/
def walkRead (s : State) (l : Labels) (root va : Nat) (st : WalkStage) (x : Xmit) : State × WalkOut :=
  match st with
  | .lookup => (s, match rootOut root va with | some o => o | none => .need .level1)
  | .level1 =>
    let dpa := level1Dpa root va
    if s.tableHeld dpa then (s, .need st)
    else
      match tableRead s l dpa x with
      | (s1, none) => (s1, .fault 5 0xFFFF)
      | (s1, some bytes) => (s1, level1Out (leNat ((bytes.drop (dpa % 64)).take 8)))
  | .probe bucket count lo hi hit seen =>
    let mid := (lo + hi - 1) / 2
    let dpa := bucket * 4096 + 64 * (mid / 4)
    if s.tableHeld dpa then (s, .need st)
    else
      match tableRead s l dpa x with
      | (s1, none) => (s1, .fault 5 (hit.getD 0xFFFF))
      | (s1, some bytes) => (s1, probeLoop l.ctx va bucket count 12 lo hi hit ((mid / 4, bytes) :: seen))

/-- A whole walk whose reads nothing but INJ makes fail: the queue processor's at CONTEXT_CREATE (R354) and a switch's (R632). It ends in
`need` where a read is held. -/
def walkAll (s : State) (l : Labels) (root va : Nat) : Nat → WalkStage → State × WalkOut
  | 0, st => (s, .need st)
  | n + 1, st =>
    match walkRead s l root va st {} with
    | (s1, .need st') => walkAll s1 l root va n st'
    | o => o

/-- Translate a VA through the tables alone. -/
def walkVa (s : State) (l : Labels) (root va : Nat) : State × WalkOut :=
  if va / 2 ^ 56 ≠ 0 then (s, .fault 6 0xFFFF) else walkAll s l root va 16 .lookup

/-! ## Checks (R272) -/

/-- The fault kind of the first failing check, if any. `access`: 0 read, 1 write, 2 atomic. -/
def State.checkRange (s : State) (e : RangeEnt) (locket : Nat) (priv : Bool) (access va : Nat) : Option Nat :=
  let d := e.dpa va
  if e.locket ≠ locket then some 3
  else if e.priv && !priv then some 4
  else if !e.allows access then some 2
  else if dpaModule d ≠ s.trb.idModule then none
  else
    match localPlace (dpaLocal d) with
    | .reserved => some 7
    | .window n _ => if (s.slot locket).active.valid && (s.slot locket).active.cores.getLsbD n then none else some 3
    | _ => none

/-! ## Buffers and caches (R268 to R270) -/

/-- The entry of a buffer or cache that covers a VA of a context. -/
def findRange (l : List RangeEnt) (ctx va : Nat) : Option RangeEnt := l.find? (fun e => e.ctx == ctx && e.covers va)

/-- Make an entry the most recently used of a near buffer of 32 (R269). -/
def nearUse (l : List RangeEnt) (e : RangeEnt) : List RangeEnt := (e :: l.filter (· != e)).take 32

/-- The far cache an engine uses (R268). -/
def State.far (s : State) (e : Nat) : List RangeEnt := if engineHalf e = 0 then s.xlt.farWest else s.xlt.farEast
def State.setFar (s : State) (e : Nat) (l : List RangeEnt) : State :=
  if engineHalf e = 0 then { s with xlt := { s.xlt with farWest := l } } else { s with xlt := { s.xlt with farEast := l } }

/-- Keep a walk's result in a far cache of 4,096 entries. -/
def farKeep (l : List RangeEnt) (e : RangeEnt) : List RangeEnt := (e :: l.filter (· != e)).take 4096

/-- Remove the entries that `p` picks from every near range buffer, both far caches and the copy jobs' translations. -/
def dropRanges (s : State) (p : RangeEnt → Bool) : State :=
  let keep := fun (l : List RangeEnt) => l.filter (fun e => !p e)
  let s1 := s.forAll (s.cores.map (fun e => e.1)) (fun s n => s.updCore n (fun c => { c with near := keep c.near }))
  { s1 with
    xlt := { s1.xlt with farWest := keep s1.xlt.farWest, farEast := keep s1.xlt.farEast }
    mem := { s1.mem with jobs := s1.mem.jobs.map (fun j => { j with tr := keep j.tr }) } }

/-! ## Pending-fault slots -/

def State.pendOf (s : State) (e : Nat) : Option Nat := if e < 192 then (s.core e).pend else SMap.get noneD s.xlt.pendJob e
def State.setPend (s : State) (e : Nat) (v : Option Nat) : State :=
  if e < 192 then s.updCore e (fun c => { c with pend := v })
  else { s with xlt := { s.xlt with pendJob := SMap.set noneD s.xlt.pendJob e v } }

/-- A task becomes runnable (R444). -/
def makeRunnable (s : State) (tid : Nat) : State :=
  let (t, s1) := s.fresh
  s1.updTask tid (fun x => { x with st := .runnable, since := t, deferOn := 0xFFFF })

/-- A task that waited for a fault or a slot may run; one that is still on its core becomes runnable when its switch-out ends. -/
def runAgain (s : State) (tid : Nat) : State :=
  if (s.onCore tid).isSome then s.updTask tid (fun x => { x with st := .onCore, deferOn := 0xFFFF }) else makeRunnable s tid

/-- The engine's slot is empty again: what was deferred on it may run (R284). Its copy jobs go on when their engine is next served. -/
def undefer (s : State) (e : Nat) : State :=
  let s1 := s.forAll ((s.tasks.filter (fun t => t.st == .deferred && t.deferOn == e)).map (fun t => t.tid)) runAgain
  { s1 with mem := { s1.mem with jobs := mapWhere (fun j => j.deferred && (192 + j.ce == e)) (fun j => { j with paused := false, deferred := false }) s1.mem.jobs } }

/-- A resolved waiter goes on: a task that still switches out becomes runnable at its end. -/
def releaseTask (s : State) (tid : Nat) : State :=
  match s.task? tid with
  | some t => if t.st = .faulted then runAgain s tid else s
  | none => s

/-- A resolved copy job goes on when its engine is next served. -/
def releaseJob (s : State) (jid : Nat) : State := s.updJob jid (fun j => { j with paused := false })

/-- RETRY of one waiter (R290). -/
def retryWaiter (s : State) : Waiter → State
  | .task t => releaseTask s t
  | .job j => releaseJob s j

/-- Empty the pending-fault slot of an engine. -/
def clearPend (s : State) (e : Nat) : State := undefer (s.setPend e none) e

/-! ## Fault records (R276) -/

def faultId (o : OutEnt) : Nat := o.entry + 1024 * o.gen

def faultRecord (o : OutEnt) : Record :=
  let f := o.fault
  { type := 0x0210, sev := if f.kind = 1 ∨ f.kind = 2 then 2 else 3, locket := f.locket, ctx := f.ctx
    source := engineUnit f.engine, object := faultId o
    detail := detail [(16, 8, f.va % 2 ^ 56 + f.kind <<< 56 + f.access <<< 60 + b2n f.priv <<< 62),
      (24, 2, o.waiters.length), (26, 2, f.pos), (28, 4, f.pc % 2 ^ 18)] }

def setOut (s : State) (l : List OutEnt) : State := { s with xlt := { s.xlt with outst := l } }

/-- Post the record of an outstanding entry to its Locket's queue (R277, R283). -/
def postFault (s : State) (entry : Nat) : State :=
  match s.xlt.outst.find? (fun o => o.entry == entry) with
  | none => s
  | some o =>
    let l := o.fault.locket
    let q := s.fq l
    let x := faultRecord o
    let s1 := s.setFq l { q with ring := q.ring.push x.sev false }
    -- every event of SEV 3 or more is logged (R570)
    emit (if 3 ≤ x.sev then logEntry s1 0 x.sev 0 0 0 (some x) else s1) (l + 1) q.ring false x

/-- XLT_FQ_STATUS.HELD of slot `l` (R300): faults that a pending-fault slot holds now. -/
def State.heldCount (s : State) (l : Nat) : Nat :=
  countP (fun h => s.xlt.outst.any (fun o => o.entry == h.2 && o.fault.locket == l && s.pendOf h.1 == some o.fault.fid)) s.xlt.heldQueue
  + countP (fun f => f.locket == l && s.pendOf f.engine == some f.fid) s.xlt.heldTable

/-- A fault is held for a full queue (R281, R282). -/
def holdFault (s : State) (o : OutEnt) : State :=
  let f := o.fault
  let s1 := (s.setPend f.engine (some f.fid))
  let s2 := { s1 with xlt := { s1.xlt with heldQueue := s1.xlt.heldQueue ++ [(f.engine, o.entry)] } }
  let q := s2.fq f.locket
  if q.overflow then s2
  else
    postEvent (s2.setFq f.locket { q with overflow := true })
      { type := 0x0201, sev := 2, locket := f.locket, ctx := f.ctx, source := engineUnit f.engine, object := faultId o
        detail := detail [(16, 4, q.ring.prod.toNat), (20, 4, q.ring.cons.toNat), (24, 2, s2.heldCount f.locket),
          (26, 1, b2n (!q.ring.enable))] }

/-- What became of a fault. -/
inductive FaultFate where
  | waits
  | deferred
deriving DecidableEq, Repr

/-- The lowest-numbered free entry of the outstanding table (R285). -/
def State.freeEntry (s : State) : Nat :=
  ((upto 1024).find? (fun i => !s.xlt.outst.any (fun o => o.entry == i))).getD 0

/-- The generation of an entry is 1 after power-up and module reset (R285). -/
def genD (_ : Nat) : Nat := 1
/-- The generation that an entry takes next: it advances at each taking (R285). -/
def State.nextGen (s : State) (i : Nat) : Nat := SMap.get genD s.xlt.gens i % 0x3FFFFF + 1

/-- Raise a fault (R281, R284 to R287). -/
def raiseFault (s : State) (f : FaultRec) : State × FaultFate :=
  let s0 := raise s (0x178 + engineHalf f.engine)
  match s0.xlt.outst.find? (fun o => o.fault.ctx == f.ctx && o.fault.key == f.key) with
  | some o =>
    (setOut { s0 with xlt := { s0.xlt with merged := satAdd 16 s0.xlt.merged 1 } }
      (mapWhere (fun y => y.entry == o.entry) (fun y => { y with waiters := y.waiters ++ [f.who] }) s0.xlt.outst), .waits)
  | none =>
    if (s0.pendOf f.engine).isSome then
      (s0.updFq f.locket (fun q => { q with deferred := satAdd 16 q.deferred 1 }), .deferred)
    else if 1024 ≤ s0.xlt.outst.length then
      let s1 := s0.setPend f.engine (some f.fid)
      ({ s1 with xlt := { s1.xlt with heldTable := s1.xlt.heldTable ++ [f] } }, .waits)
    else
      let i := s0.freeEntry
      let g := s0.nextGen i
      let o : OutEnt := { entry := i, gen := g, fault := f, waiters := [f.who] }
      let s1 := setOut { s0 with xlt := { s0.xlt with gens := SMap.set genD s0.xlt.gens i g } } (s0.xlt.outst ++ [o])
      if (s1.fq f.locket).ring.room then (postFault s1 i, .waits) else (holdFault s1 o, .waits)

/-- Post held records of slot `l`, in the order they were held, as its queue has room (R283). -/
def flushFq (s : State) (l : Nat) : Nat → State
  | 0 => s
  | n + 1 =>
    match s.xlt.heldQueue.find? (fun h => s.xlt.outst.any (fun o => o.entry == h.2 && o.fault.locket == l)) with
    | none => s
    | some h =>
      if (s.fq l).ring.room then
        let s1 := { s with xlt := { s.xlt with heldQueue := s.xlt.heldQueue.filter (· != h) } }
        flushFq (clearPend (postFault s1 h.2) h.1) l n
      else s

/-- Faults held for a full table take entries that have ended, in order (R287). -/
def admitHeld (s : State) : Nat → State
  | 0 => s
  | n + 1 =>
    match s.xlt.heldTable with
    | [] => s
    | f :: rest =>
      if 1024 ≤ s.xlt.outst.length then s
      else
        let s1 := { s with xlt := { s.xlt with heldTable := rest } }
        let r := raiseFault (s1.setPend f.engine none) f
        let s2 := if (r.1.pendOf f.engine).isNone then undefer r.1 f.engine else r.1
        admitHeld s2 n

/-- End outstanding entries (R285, R293): a held record goes with its entry. -/
def endEntries (s : State) (p : OutEnt → Bool) : State :=
  let gone := s.xlt.outst.filter p
  let s1 := setOut s (s.xlt.outst.filter (fun o => !p o))
  let held := s1.xlt.heldQueue.filter (fun h => gone.any (fun o => o.entry == h.2))
  let s2 := { s1 with xlt := { s1.xlt with heldQueue := s1.xlt.heldQueue.filter (fun h => !gone.any (fun o => o.entry == h.2)) } }
  let s3 := s2.forAll held (fun s h => clearPend s h.1)
  let s4 := if gone.isEmpty then s3 else raise s3 0x17A
  admitHeld s4 (s4.xlt.heldTable.length)

/-- A core reset empties the pending-fault slot of engine `e` (R551): the record it holds is dropped, its entry ends, and who waits for it runs
again and faults again, as what R284 defers does. The manual does not say what becomes of them (DESIGN CHOICE, log 59). -/
def dropHeld (s : State) (e : Nat) : State :=
  let mine (o : OutEnt) : Bool := s.xlt.heldQueue.contains (e, o.entry)
  let ws := (s.xlt.outst.filter mine).flatMap (fun o => o.waiters)
    ++ (s.xlt.heldTable.filter (fun f => f.engine == e)).map (fun f => f.who)
  let s1 := { s with xlt := { s.xlt with heldTable := s.xlt.heldTable.filter (fun f => f.engine != e) } }
  (clearPend (endEntries s1 mine) e).forAll ws retryWaiter

/-! ## A task's fault -/

/-- CORE_FAULT is written (R102, R528). -/
def coreFault (s : State) (n cause slot ctx pc : Nat) : State :=
  raise (s.updCore n (fun c => { c with fault := { cause := cause, slot := slot, ctx := ctx, pc := pc } })) n

/-- A task is no longer a waiter of any fault. -/
def Waiter.isTask (tid : Nat) : Waiter → Bool
  | .task t => t == tid
  | .job _ => false
def Waiter.isJob (jid : Nat) : Waiter → Bool
  | .task _ => false
  | .job j => j == jid

/-- The place of a fault (R285). -/
def faultKey (kind va pos : Nat) (e : Option RangeEnt) : Nat × Nat × Nat × Nat :=
  match kind, e with
  | 1, _ => (1, vaSlice va, pos, 0)
  | _, some e => (0, e.lo, e.hi, 0)
  | _, none => (2, va / 65536, 0, 0)

/-- A translation fault of the task on core `n` (R274, R284): cause 0x06, and the task begins its switch-out. -/
def taskFault (s : State) (n : Nat) (t : Task) (o : StreamOp) (kind access va pos : Nat) (e : Option RangeEnt) : State :=
  let (fid, s1) := s.fresh
  let f : FaultRec := { fid := fid, engine := n, who := .task t.tid, ctx := t.ctx, locket := t.locket, kind := kind, access := access
                        priv := t.priv, va := va, pos := pos, key := faultKey kind va pos e, pc := o.pc }
  let (s2, fate) := raiseFault (coreFault s1 n 0x06 o.slot t.ctx o.pc) f
  let s3 := s2.updTask t.tid (fun x => { x with
    st := if fate = .deferred then .deferred else .faulted, deferOn := if fate = .deferred then n else 0xFFFF
    faultOp := (o.pc, o.slot, va) })
  (s3.updCore n (fun c => { c with phase := 2 })).setWalk n none

/-- A translation fault of a copy job (R274, R284): it pauses at its 4 KiB piece. -/
def jobFault (s : State) (j : Job) (kind access va pos : Nat) (e : Option RangeEnt) : State :=
  let (fid, s1) := s.fresh
  let f : FaultRec := { fid := fid, engine := 192 + j.ce, who := .job j.jid, ctx := j.ctx, locket := j.locket, kind := kind
                        access := access, priv := j.priv, va := va, pos := pos, key := faultKey kind va pos e, pc := 0 }
  let (s2, fate) := raiseFault s1 f
  let s3 := s2.updJob j.jid (fun x => { x with paused := true, busy := false, deferred := decide (fate = .deferred) })
  let mine := (s3.walk (192 + j.ce)).any (fun w => w.who == .job j.jid)
  raise (if mine then s3.setWalk (192 + j.ce) none else s3) (0x170 + j.ce)

end Sys2Proof.Machine
end

