-- ==== Sys2Proof/Machine/Crypto.lean ====
section
/-! DEFINITION. The functions of the standards that the manual names: AES-256-GCM (R483; FIPS 197, SP 800-38D), SHA-512 (R574; FIPS 180-4),
HKDF (R579; RFC 5869) and Ed25519 (R449, R574, R579; RFC 8032), over byte strings. They are PRESUMED from those standards (log 60). -/

namespace Sys2Proof.Machine

/-! ## Byte strings -/

/-- The number that a byte string spells from its most significant byte on. -/
def beNat (l : List (BitVec 8)) : Nat := l.foldl (fun a b => 256 * a + b.toNat) 0

/-- The `n` bytes of a number, the most significant first. -/
def beBytes (n v : Nat) : List (BitVec 8) := (leBytes n v).reverse

/-- A list cut into runs of `n`, at most `k` of them. -/
def runsOf {α : Type} (n : Nat) : Nat → List α → List (List α)
  | 0, _ => []
  | k + 1, l => if l.isEmpty then [] else l.take n :: runsOf n k (l.drop n)

def xorBytes (a b : List (BitVec 8)) : List (BitVec 8) := List.zipWith (· ^^^ ·) a b

/-! ## AES-256 (FIPS 197) -/

/-- Twice a byte in the field of AES. -/
def aesDouble (a : Nat) : Nat := if 128 ≤ a then (2 * a) % 256 ^^^ 0x1B else 2 * a

/-- The product in the field of AES, of `n` bits of `b`. -/
def aesMul : Nat → Nat → Nat → Nat
  | 0, _, _ => 0
  | n + 1, a, b => (if b % 2 = 1 then a else 0) ^^^ aesMul n (aesDouble a) (b / 2)

/-- x^254, the inverse in the field of AES, with 0 for 0. -/
def aesInverse (x : Nat) : Nat :=
  let m := aesMul 8
  let x2 := m x x
  let x3 := m x2 x
  let x6 := m x3 x3
  let x7 := m x6 x
  let x14 := m x7 x7
  let x15 := m x14 x
  let x30 := m x15 x15
  let x31 := m x30 x
  let x62 := m x31 x31
  let x63 := m x62 x
  let x126 := m x63 x63
  let x127 := m x126 x
  m x127 x127

/-- The S-box. -/
def aesSub (x : Nat) : Nat :=
  let b := aesInverse x
  let rot (k : Nat) : Nat := (b * 2 ^ k + b / 2 ^ (8 - k)) % 256
  b ^^^ rot 1 ^^^ rot 2 ^^^ rot 3 ^^^ rot 4 ^^^ 0x63

/-- The words of the expanded key, the newest first: `i` is the number of the next, and `n` are to come. -/
def aesExpand : Nat → Nat → Nat → List (List Nat) → List (List Nat)
  | 0, _, _, w => w
  | n + 1, i, rcon, w =>
    let t := nth w 0 []
    let t1 := if i % 8 = 0 then
        match (t.drop 1 ++ t.take 1).map aesSub with
        | x :: rest => (x ^^^ rcon) :: rest
        | [] => []
      else if i % 8 = 4 then t.map aesSub
      else t
    aesExpand n (i + 1) (if i % 8 = 0 then aesDouble rcon else rcon) (List.zipWith (· ^^^ ·) (nth w 7 []) t1 :: w)

/-- The fifteen round keys of a key of 32 bytes. -/
def aesKeys (key : List Nat) : List (List Nat) :=
  (runsOf 4 15 (aesExpand 52 8 1 (runsOf 4 8 key).reverse).reverse).map List.flatten

/-- Byte i of the state after ShiftRows. -/
def aesShift (s : List Nat) : List Nat := (upto 16).map (fun i => nth s ((i + 4 * (i % 4)) % 16) 0)

def aesMix (s : List Nat) : List Nat :=
  (upto 16).map (fun i =>
    let at' (k : Nat) : Nat := nth s (4 * (i / 4) + (i + k) % 4) 0
    aesDouble (at' 0) ^^^ aesDouble (at' 1) ^^^ at' 1 ^^^ at' 2 ^^^ at' 3)

/-- The rounds after the first key; the last mixes no columns. -/
def aesRounds : List (List Nat) → List Nat → List Nat
  | [], s => s
  | [k], s => List.zipWith (· ^^^ ·) (aesShift (s.map aesSub)) k
  | k :: ks, s => aesRounds ks (List.zipWith (· ^^^ ·) (aesMix (aesShift (s.map aesSub))) k)

/-- One block of AES-256 under the round keys `ks`; blocks are numbers, their first byte the most significant. -/
def aesBlock (ks : List (List Nat)) (block : Nat) : Nat :=
  let s := (beBytes 16 block).map (fun b => b.toNat)
  match ks with
  | k :: rest => beNat ((aesRounds rest (List.zipWith (· ^^^ ·) s k)).map (BitVec.ofNat 8))
  | [] => 0

/-! ## GCM (SP 800-38D) -/

/-- The product of GCM's field, over `n` bits of `x` from bit `n` − 1 down. -/
def gcmMul (x : Nat) : Nat → Nat → Nat
  | 0, _ => 0
  | n + 1, v => (if x.testBit n then v else 0) ^^^ gcmMul x n (v / 2 ^^^ (if v % 2 = 1 then 0xE1 <<< 120 else 0))

/-- The numbers of a byte string's blocks, the last padded with zeros. -/
def gcmBlocks (l : List (BitVec 8)) : List Nat :=
  (runsOf 16 (l.length + 1) l).map (fun b => beNat (b ++ List.replicate (16 - b.length) 0))

/-- GHASH under the hash subkey `h` of the header `aad` and the ciphertext `c`. -/
def gcmHash (h : Nat) (aad c : List (BitVec 8)) : Nat :=
  (gcmBlocks aad ++ gcmBlocks c ++ [(8 * aad.length) <<< 64 + 8 * c.length]).foldl (fun y b => gcmMul (y ^^^ b) 128 h) 0

/-- The text encrypted, or the ciphertext decrypted, in counter mode. -/
def gcmText (ks : List (List Nat)) (iv : Nat) (l : List (BitVec 8)) : List (BitVec 8) :=
  xorBytes l ((upto ((l.length + 15) / 16)).flatMap (fun i => beBytes 16 (aesBlock ks (iv <<< 32 + (i + 2) % 2 ^ 32))))

/-- The tag of a header and a ciphertext. -/
def gcmTag (ks : List (List Nat)) (iv : Nat) (aad c : List (BitVec 8)) : Nat :=
  gcmHash (aesBlock ks 0) aad c ^^^ aesBlock ks (iv <<< 32 + 1)

/-- The round keys of a key whose first byte is its lowest. -/
def gcmKeys (key : BitVec 256) : List (List Nat) := aesKeys ((leBytes 32 key.toNat).map (fun b => b.toNat))

/-- Seal a text: the ciphertext and the tag, whose first byte is its lowest (R483 to R485). -/
def gcmSeal (key : BitVec 256) (iv : BitVec 96) (aad text : List (BitVec 8)) : List (BitVec 8) × BitVec 128 :=
  let ks := gcmKeys key
  let c := gcmText ks iv.toNat text
  (c, BitVec.ofNat 128 (leNat (beBytes 16 (gcmTag ks iv.toNat aad c))))

/-- Open a ciphertext; none when its tag does not verify. -/
def gcmOpen (key : BitVec 256) (iv : BitVec 96) (aad c : List (BitVec 8)) (tag : BitVec 128) : Option (List (BitVec 8)) :=
  let ks := gcmKeys key
  if tag = BitVec.ofNat 128 (leNat (beBytes 16 (gcmTag ks iv.toNat aad c))) then some (gcmText ks iv.toNat c) else none

/-! ## SHA-512 (FIPS 180-4) -/

/-- The largest number of `n` more bits, above `acc`, whose cube is at most `v`. -/
def cubeRoot (v : Nat) : Nat → Nat → Nat
  | 0, acc => acc
  | n + 1, acc => let t := acc + 2 ^ n; if t * t * t ≤ v then cubeRoot v n t else cubeRoot v n acc

/-- The first `n` primes. -/
def primes (n : Nat) : List Nat :=
  (((upto 410).filter (fun p => decide (2 ≤ p) && (upto p).all (fun d => decide (d < 2) || p % d != 0)))).take n

/-- The round constants and the initial state. -/
def shaK : List Nat := (primes 80).map (fun p => cubeRoot (p * 2 ^ 192) 68 0 % 2 ^ 64)
def shaInit : List Nat := (primes 8).map (fun p => isqrt (p * 2 ^ 128) % 2 ^ 64)

/-- A word rotated right. -/
def rotR (w n : Nat) : Nat := w / 2 ^ n + w * 2 ^ (64 - n) % 2 ^ 64

/-- The message schedule, the newest word first. -/
def shaSchedule : Nat → List Nat → List Nat
  | 0, w => w
  | n + 1, w =>
    let x := nth w 14 0
    let y := nth w 1 0
    let s0 := rotR x 1 ^^^ rotR x 8 ^^^ x / 2 ^ 7
    let s1 := rotR y 19 ^^^ rotR y 61 ^^^ y / 2 ^ 6
    shaSchedule n ((s1 + nth w 6 0 + s0 + nth w 15 0) % 2 ^ 64 :: w)

/-- One round. -/
def shaRound (s : List Nat) (kw : Nat × Nat) : List Nat :=
  match s with
  | [a, b, c, d, e, f, g, h] =>
    let t1 := h + (rotR e 14 ^^^ rotR e 18 ^^^ rotR e 41) + ((e &&& f) ^^^ ((2 ^ 64 - 1 - e) &&& g)) + kw.1 + kw.2
    let t2 := (rotR a 28 ^^^ rotR a 34 ^^^ rotR a 39) + ((a &&& b) ^^^ (a &&& c) ^^^ (b &&& c))
    [(t1 + t2) % 2 ^ 64, a, b, c, (d + t1) % 2 ^ 64, e, f, g]
  | _ => s

/-- One block of 128 bytes. -/
def shaBlock (s : List Nat) (b : List (BitVec 8)) : List Nat :=
  let w := (shaSchedule 64 ((runsOf 8 16 b).map beNat).reverse).reverse
  List.zipWith (fun x y => (x + y) % 2 ^ 64) s ((shaK.zip w).foldl shaRound s)

/-- SHA-512 of a byte string: its 64 bytes. -/
def sha512 (l : List (BitVec 8)) : List (BitVec 8) :=
  let pad := l ++ 0x80 :: List.replicate ((239 - l.length % 128) % 128) 0 ++ beBytes 16 (8 * l.length)
  ((runsOf 128 (pad.length / 128) pad).foldl shaBlock shaInit).flatMap (beBytes 8)

/-- A digest as one number, its first byte the lowest. -/
def digestOf (l : List (BitVec 8)) : BitVec 512 := BitVec.ofNat 512 (leNat (sha512 l))

/-! ## HKDF (RFC 5869) -/

/-- HMAC with SHA-512. -/
def hmac (key l : List (BitVec 8)) : List (BitVec 8) :=
  let k0 := if 128 < key.length then sha512 key else key
  let k := k0 ++ List.replicate (128 - k0.length) 0
  sha512 (k.map (· ^^^ 0x5C) ++ sha512 (k.map (· ^^^ 0x36) ++ l))

/-- HKDF with SHA-512 and no salt: `n` bytes, 64 at most. -/
def hkdf (secret info : List (BitVec 8)) (n : Nat) : List (BitVec 8) :=
  (hmac (hmac (List.replicate 64 0) secret) (info ++ [1])).take n

/-- The private key of an identity, as the ROM derives it from the unique device secret (R579): info byte 0 production, 1 debug. The salt is the
empty one and the key is the first 32 bytes, which the manual does not say (DESIGN CHOICE, log 60). -/
def identityKey (i : Nat) : List (BitVec 8) := hkdf (leBytes 32 Config.uds.toNat) [BitVec.ofNat 8 i] 32

/-! ## Ed25519 (RFC 8032) -/

def edP : Nat := 2 ^ 255 - 19
/-- The order of the base point. -/
def edL : Nat := 2 ^ 252 + 27742317777372353535851937790883648493

/-- b^e modulo m, over `n` bits of e. -/
def powMod (m : Nat) : Nat → Nat → Nat → Nat
  | 0, _, _ => 1
  | n + 1, b, e => (if e % 2 = 1 then b else 1) * powMod m n (b * b % m) (e / 2) % m

def edInverse (x : Nat) : Nat := powMod edP 255 x (edP - 2)
def edSub (a b : Nat) : Nat := (a + edP - b % edP) % edP
def edD : Nat := edSub 0 (121665 * edInverse 121666)

/-- A point in extended coordinates. -/
structure EdPoint where
  x : Nat
  y : Nat
  z : Nat
  t : Nat
deriving DecidableEq, Repr

def edZero : EdPoint := { x := 0, y := 1, z := 1, t := 0 }

def EdPoint.add (p q : EdPoint) : EdPoint :=
  let a := edSub p.y p.x * edSub q.y q.x % edP
  let b := (p.y + p.x) * (q.y + q.x) % edP
  let c := 2 * p.t * q.t * edD % edP
  let d := 2 * p.z * q.z % edP
  let e := edSub b a
  let f := edSub d c
  let g := d + c
  let h := b + a
  { x := e * f % edP, y := g * h % edP, t := e * h % edP, z := f * g % edP }

/-- k times a point, over `n` bits of k. -/
def EdPoint.mul : Nat → EdPoint → Nat → EdPoint
  | 0, _, _ => edZero
  | n + 1, p, k => (if k % 2 = 1 then p else edZero).add (EdPoint.mul n (p.add p) (k / 2))

def EdPoint.same (p q : EdPoint) : Bool :=
  decide (p.x * q.z % edP = q.x * p.z % edP) && decide (p.y * q.z % edP = q.y * p.z % edP)

/-- The x of a point from its y and the lowest bit of x. -/
def edRecover (y sign : Nat) : Option Nat :=
  if edP ≤ y then none
  else
    let u := edSub (y * y) 1
    let v := (edD * y * y + 1) % edP
    let x2 := u * edInverse v % edP
    let r := powMod edP 255 x2 ((edP + 3) / 8)
    let x := if r * r % edP = x2 then r else r * powMod edP 255 2 ((edP - 1) / 4) % edP
    if x * x % edP ≠ x2 ∨ (x = 0 ∧ sign = 1) then none
    else some (if x % 2 = sign then x else edP - x)

/-- A point from its 32 bytes as a number. -/
def edDecode (w : Nat) : Option EdPoint :=
  let y := w % 2 ^ 255
  (edRecover y (w / 2 ^ 255 % 2)).map (fun x => { x := x, y := y, z := 1, t := x * y % edP })

def EdPoint.encode (p : EdPoint) : Nat :=
  let i := edInverse p.z
  p.y * i % edP + 2 ^ 255 * (p.x * i % edP % 2)

def edBase : EdPoint := (edDecode (4 * edInverse 5 % edP)).getD edZero

/-- The secret scalar of a private key, and the second half of its hash. -/
def edExpand (seed : List (BitVec 8)) : Nat × List (BitVec 8) :=
  let h := sha512 seed
  (leNat (h.take 32) % 2 ^ 254 / 8 * 8 + 2 ^ 254, h.drop 32)

/-- The public key of a private key. -/
def edPublic (seed : List (BitVec 8)) : BitVec 256 := BitVec.ofNat 256 (EdPoint.mul 255 edBase (edExpand seed).1).encode

/-- The signature of a message, its first byte the lowest. -/
def ed25519Sign (seed msg : List (BitVec 8)) : BitVec 512 :=
  let k := edExpand seed
  let r := leNat (sha512 (k.2 ++ msg)) % edL
  let rb := (EdPoint.mul 253 edBase r).encode
  let h := leNat (sha512 (leBytes 32 rb ++ leBytes 32 (edPublic seed).toNat ++ msg)) % edL
  BitVec.ofNat 512 (rb + 2 ^ 256 * ((r + h * k.1) % edL))

/-- Whether a signature verifies under a public key. -/
def ed25519Verify (key : BitVec 256) (msg : List (BitVec 8)) (sig : BitVec 512) : Bool :=
  let rb := sig.toNat % 2 ^ 256
  let sc := sig.toNat / 2 ^ 256
  match edDecode key.toNat, edDecode rb with
  | some a, some r =>
    let h := leNat (sha512 (leBytes 32 rb ++ leBytes 32 key.toNat ++ msg)) % edL
    decide (sc < edL) && (EdPoint.mul 256 edBase (8 * sc)).same ((EdPoint.mul 4 r 8).add (EdPoint.mul 256 a (8 * h)))
  | _, _ => false

/-- The public key of an identity (R579). -/
def identityPublic (i : Nat) : BitVec 256 := edPublic (identityKey i)

/-- A signature by an identity (R449). -/
def identitySign (i : Nat) (msg : List (BitVec 8)) : BitVec 512 := ed25519Sign (identityKey i) msg

/-! ## The FEC code RS(544,514) (R463; IEEE 802.3 Clause 91) -/

/-- The product in GF(2^10) with polynomial x^10 + x^3 + 1, of `n` bits of `b`. -/
def rsMul : Nat → Nat → Nat → Nat
  | 0, _, _ => 0
  | n + 1, a, b => (if b % 2 = 1 then a else 0) ^^^ rsMul n (if 512 ≤ a then (2 * a) % 1024 ^^^ 9 else 2 * a) (b / 2)

/-- The generator polynomial less its leading 1, its coefficient of x^29 first: the product of x − α^j for j from 0 to 29. -/
def rsGenerator : List Nat :=
  ((upto 30).foldl (fun (g : List Nat × Nat) _ =>
    (List.zipWith (· ^^^ ·) (g.1 ++ [0]) (0 :: g.1.map (fun c => rsMul 10 c g.2)), rsMul 10 g.2 2)) ([1], 1)).1.drop 1

/-- The 30 parity symbols of a message of 514 symbols, its first symbol that of the highest power. -/
def rsParity (msg : List Nat) : List Nat :=
  msg.foldl (fun p m =>
    let f := m ^^^ nth p 0 0
    List.zipWith (fun a g => a ^^^ rsMul 10 g f) (p.drop 1 ++ [0]) rsGenerator) (List.replicate 30 0)

/-- The value of a codeword at α^j: 0 for every j from 0 to 29 in a codeword without an error. -/
def rsSyndrome (word : List Nat) (j : Nat) : Nat :=
  let a := (upto j).foldl (fun x _ => rsMul 10 x 2) 1
  word.foldl (fun x c => rsMul 10 x a ^^^ c) 0

/-- The codewords that a stream of flits fills (R463): 5,140 bits of the stream are the message of each, ten to a symbol, the first bit lowest;
the rest of a stream waits for more. -/
def codewords (flits : List (BitVec 2048)) : List (List Nat) :=
  let n := 2048 * flits.length / 5140
  let v := flits.foldr (fun f a => f.toNat + a <<< 2048) 0
  (upto n).map (fun k => let msg := (upto 514).map (fun i => bits v (5140 * k + 10 * i) 10); msg ++ rsParity msg)

end Sys2Proof.Machine
end

