-- ==== Sys2Proof/Machine/TrbOps.lean ====
section
/-! DEFINITION. The Trebry link layer and packets: flits with their CRC (R465 to R467), credits and replay (R468 to R472),
packets and their protection (R474, R483 to R485), routing (R460, R461, R473, R476) and the tracker (R479). -/

namespace Sys2Proof.Machine

/-! ## The torus -/

def idX (m : Nat) : Nat := bits m 0 3
def idY (m : Nat) : Nat := bits m 3 3
def idZ (m : Nat) : Nat := bits m 6 4
def coord (d m : Nat) : Nat := if d = 0 then idX m else if d = 1 then idY m else idZ m

/-- Size of dimension `d` (R460). -/
def Trb.dim (t : Trb) (d : Nat) : Nat := (if d = 0 then t.kxM1 else if d = 1 then t.kyM1 else t.kzM1) + 1

/-- Whether an ID names a module of the Parure (R460). -/
def Trb.names (t : Trb) (m : Nat) : Bool :=
  decide (idX m < t.dim 0) && decide (idY m < t.dim 1) && decide (idZ m < t.dim 2)

/-- Direction of a port: 0 +X, 1 −X, 2 +Y, 3 −Y, 4 +Z, 5 −Z (R461). -/
def portDir (p : Nat) : Nat := p % 6
/-- The partner port (R461). -/
def partnerPort (p : Nat) : Nat := if p % 2 = 0 then p + 1 else p - 1
/-- The first and second port of a direction. -/
def dirPort (dir pick : Nat) : Nat := dir + 6 * pick

/-- The neighbour in direction `dir` (R461). -/
def Trb.neighbour (t : Trb) (dir : Nat) : Nat :=
  let d := dir / 2
  let k := t.dim d
  let c := coord d t.idModule
  let c' := if dir % 2 = 0 then (c + 1) % k else (c + k - 1) % k
  let x := if d = 0 then c' else idX t.idModule
  let y := if d = 1 then c' else idY t.idModule
  let z := if d = 2 then c' else idZ t.idModule
  x + 8 * y + 64 * z

/-- The port of a direction that a destination takes, if one is up (R476). -/
def pickPort (up : Nat → Bool) (dst dir : Nat) : Option Nat :=
  let pick := (idX dst + idY dst + idZ dst) % 2
  if up (dirPort dir pick) then some (dirPort dir pick)
  else if up (dirPort dir (1 - pick)) then some (dirPort dir (1 - pick))
  else none

/-- R476: the egress port for a destination; none is NOROUTE. -/
def egressBy (t : Trb) (up : Nat → Bool) (dst : Nat) : Option Nat :=
  if !t.names dst then none
  else
    let rec go : List Nat → Option Nat
      | [] => none
      | d :: ds =>
        let k := t.dim d
        let diff := (coord d dst + k - coord d t.idModule % k) % k
        if diff = 0 then go ds
        else
          let dir := 2 * d + (if 2 * diff ≤ k then 0 else 1)
          let opp := if dir % 2 = 0 then dir + 1 else dir - 1
          match pickPort up dst dir with
          | some p => some p
          | none => pickPort up dst opp
    go [0, 1, 2]

def State.egress (s : State) (dst : Nat) : Option Nat := egressBy s.trb (fun p => (s.port p).isUp) dst

/-- Virtual channel of a packet class: 0 REQ, 2 RSP, 4 CTL (R471, R475). -/
def classVc (pkind : Nat) : Nat :=
  if pkind = 0x10 || pkind = 0x20 then 4 else if pkind ≤ 0x03 then 0 else 2

/-- Whether the link out of port `p` is the dateline of its dimension (R473). -/
def State.crosses (s : State) (p : Nat) : Bool :=
  let d := portDir p / 2
  let c := coord d s.trb.idModule
  if portDir p % 2 = 0 then c + 1 == s.trb.dim d else c == 0

/-- The channel on which a packet leaves by port `p`; `came` is the channel and port by which a transit packet arrived (R473). -/
def State.outVc (s : State) (p pkind : Nat) (came : Option (Nat × Nat)) : Nat :=
  let kept := match came with
    | some (vc, q) => if portDir q / 2 = portDir p / 2 then vc % 2 else 0
    | none => 0
  classVc pkind + (if kept = 1 || s.crosses p then 1 else 0)

/-! ## Flits -/

/-- One step of CRC-32C, reflected (R466). -/
def crc32cBit (r : Nat) : Nat := if r % 2 = 1 then (r / 2) ^^^ 0x82F63B78 else r / 2
def crc32cByte (r : Nat) (b : BitVec 8) : Nat := [0, 1, 2, 3, 4, 5, 6, 7].foldl (fun a _ => crc32cBit a) (r ^^^ b.toNat)
/-- CRC-32C of a byte string (R466). -/
def crc32c (l : List (BitVec 8)) : Nat := (l.foldl crc32cByte 0xFFFFFFFF) ^^^ 0xFFFFFFFF

/-- The fields of a flit (R465). -/
structure Flit where
  kind : Nat
  seq : Nat := 0
  ack : Nat := 0
  cvc : Nat := 0
  cred : Nat := 0
  start : Nat := 0xF
  fvc : Nat := 0
  hold : Nat := 0
  body : List (BitVec 8) := []
deriving DecidableEq, Repr

/-- Bytes 0 to 251 of a flit. -/
def Flit.head (f : Flit) : List (BitVec 8) :=
  leBytes 12 (f.kind + f.seq <<< 8 + f.ack <<< 24 + f.cvc <<< 40 + f.cred <<< 48 + f.start <<< 64 + f.fvc <<< 72 + f.hold <<< 80)
    ++ (f.body ++ List.replicate (240 - f.body.length) 0)

/-- The 256 bytes of a flit as one number, byte 0 lowest. -/
def Flit.encode (f : Flit) : BitVec 2048 := BitVec.ofNat 2048 (leNat (f.head ++ leBytes 4 (crc32c f.head)))

/-- Read the fields of 256 bytes. -/
def Flit.decode (w : BitVec 2048) : Flit :=
  let v := w.toNat
  { kind := bits v 0 4, seq := bits v 8 12, ack := bits v 24 12, cvc := bits v 40 3, cred := bits v 48 12, start := bits v 64 4
    fvc := bits v 72 3, hold := bits v 80 10, body := leBytes 240 (v >>> 96) }

/-- A good flit: CRC right, KIND defined, reserved fields zero (R466). -/
def flitGood (w : BitVec 2048) : Bool :=
  let v := w.toNat
  decide (crc32c (leBytes 252 v) = bits v 2016 32) && decide (bits v 0 4 < 5)
  && bits v 4 4 == 0 && bits v 20 4 == 0 && bits v 36 4 == 0 && bits v 43 5 == 0 && bits v 60 4 == 0 && bits v 68 4 == 0
  && bits v 75 5 == 0 && bits v 90 6 == 0

/-- What every flit of a port carries about the other direction: the ACK, and the credits returned for one channel (R465, R468). -/
def LinkState13.stamp (l : LinkState13) (vc : Nat) (f : Flit) : Flit :=
  { f with ack := (l.expect + 4095) % 4096, cvc := vc, cred := SMap.get zeroD l.returned vc % 4096 }

/-- Send one flit on port `p`. -/
def sendFlit (s : State) (p vc : Nat) (f : Flit) : State :=
  let d := s.dyn p
  s.setDyn p { d with sentFlits := d.sentFlits ++ [(d.link.stamp vc f).encode] }

/-- The port is able to carry flits: it is UP. -/
def State.portLive (s : State) (p : Nat) : Bool := (s.port p).state == 3

/-- Credits a sender holds for a channel (R472). -/
def LinkState13.room (l : LinkState13) (vc : Nat) : Nat := SMap.get zeroD l.credits vc - SMap.get zeroD l.sent vc

/-! ## Packets -/

/-- The reserved bits of a header, where they stand: first bit and number of bits of each run (R474). -/
def headerRest (v : Nat) : Nat :=
  ([(26, 6), (42, 6), (78, 2), (180, 12), (225, 31), (320, 64)] : List (Nat × Nat)).foldl (fun a r => a + bits v r.1 r.2 <<< r.1) 0

/-- The header of a packet (R474). A packet of this module's own has reserved bits of 0; one that it forwards keeps what it came with. -/
def Packet.header (k : Packet) (budget : Nat) : List (BitVec 8) :=
  let len := (k.payload.length + 15) / 16
  leBytes 48 (k.pkind + (len + (if k.enc then 32 else 0) + (k.kg % 4) <<< 6) <<< 8 + k.dst <<< 16 + k.src <<< 32 + k.tag <<< 48
    + (budget + k.facet <<< 10) <<< 64 + k.reqid <<< 80 + k.ctx <<< 96 + k.status <<< 112
    + (k.size + (if k.lease then 8 else 0) + k.ivp <<< 4) <<< 120 + k.addr <<< 128 + k.gen <<< 192
    + (if k.poison then 1 else 0) <<< 224 + k.nonce <<< 256 + k.rest)

/-- A payload padded to whole units. -/
def padUnits (l : List (BitVec 8)) : List (BitVec 8) := l ++ List.replicate ((16 - l.length % 16) % 16) 0

/-- The bytes of a packet on a link. -/
def Packet.bytes (k : Packet) : List (BitVec 8) :=
  k.header k.budget ++ padUnits k.payload ++ (if k.enc then leBytes 16 k.auth.toNat else [])

/-- Bytes of a packet from its first unit: 48, the payload and the tag (R474). -/
def packetLength (l : List (BitVec 8)) : Nat :=
  let b := (nth l 1 0).toNat
  48 + 16 * bits b 0 5 + (if b.testBit 5 then 16 else 0)

/-- Read a packet from its bytes. -/
def Packet.decode (l : List (BitVec 8)) : Packet :=
  let v := leNat (l.take 48)
  let len := 16 * bits v 8 5
  let enc := v.testBit 13
  { pkind := bits v 0 8, enc := enc, kg := bits v 14 2, dst := bits v 16 10, src := bits v 32 10, tag := bits v 48 16
    budget := bits v 64 10, facet := bits v 74 4, reqid := bits v 80 16, ctx := bits v 96 16, status := bits v 112 8
    size := bits v 120 3, lease := v.testBit 123, ivp := bits v 124 4, addr := bits v 128 52, gen := bits v 192 32
    poison := v.testBit 224, nonce := bits v 256 64, rest := headerRest v, payload := (l.drop 48).take len
    auth := if enc then BitVec.ofNat 128 (leNat ((l.drop (48 + len)).take 16)) else 0 }

/-- The IV (R484): SRC, IVP, 18 zero bits, NONCE from the most significant bit. -/
def packetIv (src ivp nonce : Nat) : BitVec 96 := BitVec.ofNat 96 (src <<< 86 + ivp <<< 82 + nonce % 2 ^ 64)

/-- Key of a tag's IV counter at a port (R484). -/
def ivKey (port tag gen : Nat) : Nat := (port * 65536 + tag) * 65536 + gen

/-- Protect a packet under the current key of its tag; none when the tag has no key or its counter is used up (R483 to R485,
R585). -/
def protect (s : State) (port : Nat) (k : Packet) : Option (State × Packet) :=
  match (s.tagKeys k.tag).cur with
  | none => none
  | some key =>
    let ctr := SMap.get zeroD s.trb.ivs (ivKey port k.tag key.gen)
    if 2 ^ 64 - 1 ≤ ctr then none
    else
      let k1 := { k with enc := true, kg := key.gen % 4, ivp := port, nonce := ctr, payload := padUnits k.payload }
      let sealed := gcmSeal key.key (packetIv k1.src port ctr) (k1.header 0) k1.payload
      some ({ s with trb := { s.trb with ivs := SMap.set zeroD s.trb.ivs (ivKey port k.tag key.gen) (ctr + 1) } },
        { k1 with payload := sealed.1, auth := sealed.2 })

/-- The key that a packet's KG names (R487). -/
def TagKeys.ofKg (t : TagKeys) (kg : Nat) : Option Key :=
  match t.cur with
  | some k => if k.gen % 4 = kg then some k else t.other.filter (fun o => o.gen % 4 == kg)
  | none => t.other.filter (fun o => o.gen % 4 == kg)

/-- Open a packet: its payload, or none when no installed generation verifies it (step 3 of R486). -/
def unprotect (s : State) (k : Packet) : Option (List (BitVec 8)) :=
  match (s.tagKeys k.tag).ofKg k.kg with
  | none => none
  | some key => if k.enc then gcmOpen key.key (packetIv k.src k.ivp k.nonce) (k.header 0) k.payload k.auth else none

/-! ## Sending -/

/-- Store the budget in a packet's first unit. -/
def setBudget (l : List (BitVec 8)) (b : Nat) : List (BitVec 8) :=
  let w := leNat ((l.drop 8).take 2)
  patch l 8 (leBytes 2 (w - bits w 0 10 + b))

/-- Whether a packet is a request. -/
def Packet.isRequest (k : Packet) : Bool := [0x01, 0x02, 0x03, 0x10, 0x20].contains k.pkind

/-- The Locket of a packet's tag; 0xFF for the module class: tag 0, or a tag with no slot here (R435). -/
def State.locketOfTag (s : State) (tag : Nat) : Nat := (s.slotOfTag tag).getD noLocket

/-- The queued packets of a port that may send a flit now, by place and pair, in the order in which they were queued (R467, R468, R472): a
packet goes behind those of its channel and pair, and behind one of its channel that has begun. -/
def LinkState13.waiting (l : LinkState13) : List (Nat × Nat) :=
  if 512 ≤ l.replay.length then []
  else
    (l.queue.zipIdx.filter (fun x =>
      let units := min 15 ((x.1.rest.length + 15) / 16)
      !((l.queue.take x.2).any (fun e => e.vc == x.1.vc && e.pair == x.1.pair))
      && (x.1.begun || !l.queue.any (fun e => e.vc == x.1.vc && e.begun))
      && decide (units ≤ l.room x.1.vc))).map (fun x => (x.2, x.1.pair))

/-- Count in TRB_PORT_LINK or TRB_PORT_DROP: the first count is an edge (R528). -/
def countEdge (s : State) (p : Nat) (wasZero : Bool) : State := if wasZero then raise s (0x14C + p) else s

def countAuth (s : State) (p : Nat) : State :=
  let d := s.dyn p
  countEdge (s.setDyn p { d with auth := satAdd 16 d.auth 1 }) p (d.auth == 0)
def countExpired (s : State) (p : Nat) : State :=
  let d := s.dyn p
  countEdge (s.setDyn p { d with expired := satAdd 16 d.expired 1 }) p (d.expired == 0)
def countDiscard (s : State) (p : Nat) : State :=
  let d := s.dyn p
  countEdge (s.setDyn p { d with discard := satAdd 16 d.discard 1 }) p (d.discard == 0)
def countLate (s : State) (p : Nat) : State :=
  let d := s.dyn p
  countEdge (s.setDyn p { d with late := satAdd 16 d.late 1 }) p (d.late == 0)
def countBadpkt (s : State) (p : Nat) : State :=
  let d := s.port p
  countEdge (s.setPort p { d with lnkBadpkt := satAdd 16 d.lnkBadpkt 1 }) p (d.lnkBadpkt == 0)
def countCrc (s : State) (p : Nat) : State :=
  let d := s.port p
  countEdge (s.setPort p { d with lnkCrc := satAdd 16 d.lnkCrc 1 }) p (d.lnkCrc == 0)
def countReplay (s : State) (p n : Nat) : State :=
  let d := s.port p
  if n = 0 then s else countEdge (s.setPort p { d with lnkReplay := satAdd 16 d.lnkReplay n }) p (d.lnkReplay == 0)

/-- The residence of a queued packet that leaves now, in 0.1 µs (R481): what it had when it came into the queue, and for one that has waited
there `wait` and a free value more, `k` naming it. -/
def Queued.residence (q : Queued) (wait k : Nat) : Nat := max 1 (q.resid + if q.waited then wait + Config.waitTenths k else 0)

/-- Send the next flit of queued packet `i` of port `p`; a fresh packet whose budget its residence uses up is discarded (R481). -/
def txFlit (s : State) (p wait k i : Nat) (q : Queued) : State :=
  let d := s.dyn p
  let l := d.link
  let cost := (if q.fresh then q.residence wait k else 0) + (s.port p).dly
  if !q.begun && q.fresh && decide (q.budget ≤ cost) then
    countExpired (s.setDyn p { d with link := { l with queue := l.queue.eraseIdx i } }) p
  else
    let rest := if q.begun || !q.fresh then q.rest else setBudget q.rest (q.budget - cost)
    let body := rest.take 240
    let left := rest.drop 240
    let start := if q.begun then 0xF else 0
    let f : Flit := { kind := 1, seq := l.nextSeq, start := start, fvc := q.vc, body := body }
    let l1 := { l with
      nextSeq := (l.nextSeq + 1) % 4096
      replay := l.replay ++ [{ seq := l.nextSeq, vc := q.vc, start := start, body := body }]
      sent := SMap.set zeroD l.sent q.vc (SMap.get zeroD l.sent q.vc + (body.length + 15) / 16)
      queue := if left.isEmpty then l.queue.eraseIdx i else l.queue.set i { q with rest := left, begun := true } }
    sendFlit (grantPair (s.setDyn p { d with link := l1 }) q.pair (portUnit p) 0 body.length) p q.vc f

/-- Send what credits allow of the packets queued at port `p`, in the order of its arbiter (R438, R468, R472, R481). `wait` is what
a packet that leaves now has waited in the queue at least, in 0.1 µs. -/
def txPump (s : State) (p wait : Nat) : Nat → State
  | 0 => s
  | fuel + 1 =>
    if !s.portLive p then s
    else
      let l := (s.dyn p).link
      let (k, s1) := s.takeFree
      let s2 := ageCredits s1 (portUnit p) 0 (Config.arbiterNs k)
      match s2.arbitrate (portUnit p) 0 (decide (1024 ≤ Config.waitSeen k)) l.waiting with
      | none => s
      | some i =>
        match l.queue[i]? with
        | none => s
        | some q => txPump (txFlit s2 p wait k i q) p wait fuel

/-- Flits that one call sends at most. -/
def txFuel : Nat := 600

/-- Put a packet that is ready for the link in the queue of port `p` and send what can go (R472). `resid` is its residence so far; what stays in
the queue waits there from now on (R481). -/
def enqueue (s : State) (p vc budget resid pair : Nat) (bytes : List (BitVec 8)) : State :=
  let d := s.dyn p
  let s1 := s.setDyn p { d with link := { d.link with
    queue := d.link.queue ++ [{ vc := vc, fresh := true, rest := bytes, budget := budget, pair := pair, resid := resid }] } }
  (txPump s1 p 0 txFuel).updDyn p (fun d => { d with link := { d.link with queue := d.link.queue.map (fun q => { q with waited := true }) } })

/-- Send a packet of this module by port `p` (R476, R483). `wait` is its residence. A request counts for its context and is charged to the
context's Setting; a response is of another module's context (R441, R446). -/
def sendPacket (s : State) (p wait : Nat) (k : Packet) : Option State :=
  match protect s p { k with src := s.trb.idModule } with
  | none => none
  | some (s1, k1) =>
    let bytes := k1.bytes
    let l := s1.locketOfTag k.tag
    let ctx := if k.isRequest then k.ctx else noCtx
    let pair := s1.pairOf l k.facet (s1.setOfCtx l ctx) (portUnit p) 0
    some (enqueue (countTrb s1 ctx l bytes.length) p (s.outVc p k.pkind none) k.budget wait pair bytes)

/-- Send a response: it starts with the request's BUDGET and is subtracted its residence (R481). A response that has no route or
no key is not sent. -/
def sendResponse (s : State) (wait : Nat) (k : Packet) : State :=
  if k.dst = s.trb.idModule then s
  else
    match s.egress k.dst with
    | none => s
    | some p => (sendPacket s p wait k).getD s

/-- Request numbers: a port's own range of 4,096 (R479; log 30). -/
def reqidOf (p n : Nat) : Nat := p * 4096 + n % 4096

/-- Whether requests that went to a destination by another port are still unanswered (R239). -/
def State.oldPathBusy (s : State) (dst p : Nat) : Bool :=
  (upto 12).any (fun q => q != p && ((s.dyn q).tracker.any (fun t => t.dst == dst)))

/-- Whether a request to a destination waits at a port stop. -/
def State.pathWaits (s : State) (dst : Nat) : Bool := (upto 12).any (fun q => (s.dyn q).waiting.any (fun t => t.dst == dst))


/-- Put a request in the tracker of port `p` and send it (R479). One that its key no longer lets go stays there until its deadline (R480,
R484). -/
def track (s : State) (p : Nat) (t : Tracked) : State :=
  let d := s.dyn p
  let s1 := s.setDyn p { d with tracker := d.tracker ++ [t] }
  (sendPacket s1 p 1 t.pkt).getD s1

/-- Whether a request of this module that is outstanding or waits at a port stop has number `r`. -/
def State.numbered (s : State) (r : Nat) : Bool :=
  (upto 12).any (fun q => (s.dyn q).tracker.any (fun t => t.reqid == r) || (s.dyn q).waiting.any (fun t => t.reqid == r))

/-- The first of port `p`'s numbers, from its `n`-th on in turn, that no request of this module holds (log 30). -/
def State.drawReqid (s : State) (p : Nat) : Nat → Nat → Nat
  | 0, n => n % 4096
  | k + 1, n => if s.numbered (reqidOf p n) then State.drawReqid s p k (n + 1) else n % 4096

/-- How sending a request to another module goes. -/
inductive SendResult where
  | sent (reqid : Nat)
  | refused (status : Nat)
deriving DecidableEq, Repr

/-- The BUDGET that a request of this module starts with (R479 to R481): its deadline in 0.1 µs, which is PROBE_US for a lease operation. -/
def State.budgetOf (s : State) (why : Purpose) : Nat := min 640 (10 * if why = .leaseOp then s.pool.probeUs else s.trb.deadline)

/-- Send a request of this module to module `k.dst` (R46, R476, R479, R585). It waits at the port stop while the tracker is full
or the old path of its destination is busy (R239). -/
def sendRequest (s : State) (k : Packet) (why : Purpose) : State × SendResult :=
  match s.egress k.dst with
  | none => (s, .refused stNOROUTE)
  | some p =>
    match (s.tagKeys k.tag).cur with
    | none => (s, .refused stDENIED)
    | some _ =>
      let n := s.drawReqid p 4096 (s.dyn p).nextReqid
      let r := reqidOf p n
      let (no, s0) := s.fresh
      let s1 := s0.updDyn p (fun d => { d with nextReqid := (n + 1) % 4096 })
      let t : Tracked :=
        { reqid := r, dst := k.dst, no := no, purpose := why, pkt := { k with reqid := r, src := s.trb.idModule, budget := s.budgetOf why } }
      if decide (4096 ≤ (s.dyn p).tracker.length) || s.oldPathBusy k.dst p || s.pathWaits k.dst then
        (s1.updDyn p (fun x => { x with waiting := x.waiting ++ [t] }), .sent t.reqid)
      else (track s1 p t, .sent t.reqid)

/-- Whether a request sent before this one to the same destination still waits, at whatever port stop (R239). -/
def State.sentAfter (s : State) (t : Tracked) : Bool :=
  (upto 12).any (fun q => (s.dyn q).waiting.any (fun x => x.dst == t.dst && decide (x.no < t.no)))

/-- Let a request that waits at the stop of port `q` go, if it may: by the egress port of its destination as it stands now. It keeps its
number, and its budget is less by its wait, a free value (R239, R479). -/
def releaseOne (s : State) (q : Nat) (t : Tracked) : State :=
  let p := (s.egress t.dst).getD q
  if s.sentAfter t || decide (4096 ≤ (s.dyn p).tracker.length) || s.oldPathBusy t.dst p then s
  else
    let (k, s1) := s.takeFree
    let s2 := s1.updDyn q (fun x => { x with waiting := x.waiting.filter (fun y => y.reqid != t.reqid) })
    track s2 p { t with pkt := { t.pkt with budget := t.pkt.budget - Config.waitTenths k } }

/-- Put a waiting request in its place among those sent before and after it. -/
def inSentOrder (x : Nat × Tracked) : List (Nat × Tracked) → List (Nat × Tracked)
  | [] => [x]
  | y :: ys => if x.2.no < y.2.no then x :: y :: ys else y :: inSentOrder x ys

/-- Send requests that waited at the port stops, in the order in which they were sent, as far as they may go (R239, R479). -/
def releaseWaiting (s : State) : State :=
  s.forAll (((upto 12).flatMap (fun q => (s.dyn q).waiting.map (fun t => (q, t)))).foldr inSentOrder []) (fun s x => releaseOne s x.1 x.2)

/-- The tracker entry of a request. -/
def State.tracked (s : State) (reqid : Nat) : Option Tracked :=
  (upto 12).findSome? (fun p => (s.dyn p).tracker.find? (fun t => t.reqid == reqid))

/-- Free a tracker entry, and a request that never left. -/
def untrack (s : State) (reqid : Nat) : State :=
  releaseWaiting (s.forAll (upto 12) (fun s p => s.updDyn p (fun d =>
    { d with tracker := d.tracker.filter (fun t => t.reqid != reqid), waiting := d.waiting.filter (fun t => t.reqid != reqid) })))

/-! ## Port states -/

/-- TRB_LINK (R493); a change of STATE is one of its sensor too, and an edge of the port's source (R528, R572, R573). -/
def linkEvent (s : State) (p oldState : Nat) : State :=
  let x := s.port p
  let s1 := if x.state = oldState then s else raise (platformEvent s (.change (0x200 + p) x.state)) (0x140 + p)
  postEvent s1
    { type := 0x0280, sev := 1, source := portUnit p, object := p
      detail := detail [(16, 1, oldState), (17, 1, x.state), (18, 1, x.reason), (19, 1, x.lanes), (20, 1, x.rate),
        (22, 2, x.cap), (24, 2, x.nbrMod), (26, 1, x.nbrPort)] }

/-- Destinations whose egress port differs between two sets of ports that are up (R478). -/
def changedRoutes (t : Trb) (up up' : Nat → Bool) : List Nat :=
  (upto 1024).filter (fun m => m != t.idModule && egressBy t up m != egressBy t up' m)

/-- Change a port's registers; when it becomes up or stops being up, the destinations whose egress changes enter the hold, and a
port that stops loses its queue and replay buffer (R478). A change of STATE or of capacity posts TRB_LINK (R493). -/
def changePort (s : State) (p : Nat) (x : Port) : State :=
  let old := s.port p
  let s1 := s.setPort p x
  let s2 := if old.isUp == x.isUp then s1
    else
      let hold := changedRoutes s.trb (fun q => (s.port q).isUp) (fun q => (s1.port q).isUp)
      { s1 with trb := { s1.trb with hold := hold.foldl (fun h m => setIns m h) s1.trb.hold } }
  let s3 := if old.isUp && !x.isUp then
      s2.updDyn p (fun d => { d with link := { d.link with queue := [], replay := [] } })
    else s2
  if old.state = x.state && old.cap = x.cap then s3 else linkEvent s3 p old.state

/-- A port starts a retrain (R470, R492). -/
def startRetrain (s : State) (p : Nat) : State :=
  let x := s.port p
  if x.state = 3 then
    let s1 := changePort s p { x with state := 7, lnkRetrain := satAdd 16 x.lnkRetrain 1 }
    countEdge s1 p (x.lnkRetrain == 0)
  else s

/-- Send again every unacknowledged flit (R469, R470); a flit sent nine times starts a retrain. HOLD is the time since the flit was first
sent, retrains and replays of others included (R465): the model keeps no time, so what has passed since its last sending is a free value
of at least one unit. -/
def replayAll (s0 : State) (p : Nat) : State :=
  let (k, s) := s0.takeFree
  let d := s.dyn p
  let again := d.link.replay.map (fun r => { r with sends := r.sends + 1, age := r.age + max 1 (Config.flitHold k r.seq) })
  let s1 := s.setDyn p { d with link := { d.link with replay := again } }
  let s2 := s1.forAll again (fun s r =>
    sendFlit s p r.vc { kind := 1, seq := r.seq, start := r.start, fvc := r.vc, hold := min 1023 r.age, body := r.body })
  let s3 := countReplay s2 p again.length
  if again.any (fun r => decide (9 ≤ r.sends)) then startRetrain s3 p else s3

/-- What any good flit carries: its ACK frees the replay buffer, its CRED returns credits (R466, R468, R472). -/
def takeHeader (s : State) (p : Nat) (f : Flit) : State :=
  let d := s.dyn p
  let l := d.link
  let inflight := l.replay.map (fun r => r.seq)
  let keep := if inflight.contains f.ack then l.replay.drop ((inflight.findIdx (· == f.ack)) + 1) else l.replay
  let initial := SMap.get zeroD l.credits (f.cvc + 8)
  let granted := SMap.get zeroD l.credits f.cvc
  let delta := (f.cred + 4096 - (granted - initial) % 4096) % 4096
  s.setDyn p { d with link := { l with
    replay := keep
    credits := if f.cvc < 6 then SMap.set zeroD l.credits f.cvc (granted + delta) else l.credits } }

/-- Return the credits of every channel with IDLE flits: those of packets consumed while the port could send none (R472). -/
def returnCredits (s : State) (p : Nat) : State := s.forAll (upto 6) (fun s vc => sendFlit s p vc { kind := 0 })

/-- An arrived packet leaves the receive buffer: its credits go back with an IDLE flit, after a retrain when one runs (R472). Those of a packet
that came before the link started anew were given back by its HELLO. -/
def consumePacket (s : State) (a : Arrived) : State :=
  let s1 := { s with trb := { s.trb with arrived := s.trb.arrived.filter (fun x => x.pid != a.pid) } }
  if a.stale then s1
  else
  let d := s1.dyn a.port
  let s2 := s1.setDyn a.port { d with link := { d.link with
    returned := SMap.set zeroD d.link.returned a.vc (SMap.get zeroD d.link.returned a.vc + a.units) } }
  if s2.portLive a.port then sendFlit s2 a.port a.vc { kind := 0 } else s2

/-- What a port has put on its lanes (R463): the codewords that the flits it has sent fill. -/
def State.lineOf (s : State) (p : Nat) : List (List Nat) := codewords (s.dyn p).sentFlits

end Sys2Proof.Machine
end

