-- ==== Sys2Proof/Machine/Requests.lean ====
section
/-! DEFINITION. Requests of this module's engines (R36, R46, R200, R226): where each goes, what stops it at once, and its answer.
Copy jobs (R207, R217, R219). -/

namespace Sys2Proof.Machine

/-- Whether a request is a fence operation. -/
def ReqKind.isFence : ReqKind → Bool
  | .signal .. => true
  | .error .. => true
  | _ => false

/-- The labels of a request (R36). -/
structure Sender where
  src : Src
  locket : Nat := 0xFF
  ctx : Nat := 0xFFFF
  facet : Nat := 0
  pf : Bool := false                  -- a privileged task from a PF kernel queue (R310)
  source : Stop
  via : Nat × Nat := (0, 0)
deriving DecidableEq, Repr

/-- The tag that a Locket's messages carry; 0 for the module's own (R429). -/
def State.tagOf (s : State) (l : Nat) : Nat := if l < 32 && s.holdsLocket l then (s.slot l).active.tag else 0

/-- The lease entry that a request hits (R418). -/
def State.leaseHit (s : State) (m block l : Nat) : Option Lease :=
  s.pool.leases.find? (fun e => e.pool == m && e.block == block && e.locket == l)

/-- First blocks of the pool region, which hold the records (R415). -/
def Pool.recordBlocks (p : Pool) : Nat := (9 * p.chans.length + 511) / 512
/-- Blocks of the pool region. -/
def Pool.blocks (p : Pool) : Nat := 2304 * p.chans.length
/-- Bytes of a block (R415). -/
def blockBytes : Nat := 0x200000

/-! ## Order (R37 to R39, R236 to R238) -/

/-- Whether two senders are one engine of R236: a task, a copy job, the queue processor for one queue, the host through BAR4, or another
module's engines as they arrive by one port. -/
def Src.sameEngine : Src → Src → Bool
  | .op t _ _ _, .op t' _ _ _ => t == t'
  | .jobRead j _, .jobRead j' _ => j == j'
  | .jobRead j _, .jobWrite j' _ => j == j'
  | .jobWrite j _, .jobRead j' _ => j == j'
  | .jobWrite j _, .jobWrite j' _ => j == j'
  | .desc q _, .desc q' _ => q == q'
  | .bar4 .., .bar4 .. => true
  | .remote p _ m .., .remote p' _ m' .. => p == p' && m == m'
  | _, _ => false

/-- The line that a request's part at place `i` lies in: a sector of a channel, a 64-byte line of a window, the registers. -/
def Place.line (p : Place) (i : Nat) : Nat × Nat × Nat :=
  match p with
  | .chan c o => (0, c, o / 64 + i)
  | .window n o => (1, n, o / 64 + i)
  | .mmio _ => (2, 0, 0)
  | .away => (3, 0, 0)

/-- How many lines a request has. -/
def Req.lines (r : Req) : Nat :=
  match r.place with
  | .chan _ o => (o % 64 + r.len + 63) / 64
  | .window _ o => (o % 64 + r.len + 63) / 64
  | _ => 1

/-- Whether two requests meet in one sector of a channel or one 64-byte line of a window, or both go to the registers. -/
def Req.meets (r x : Req) : Bool :=
  let share (o n o' n' : Nat) : Bool := decide (o / 64 ≤ (o' + n' - 1) / 64) && decide (o' / 64 ≤ (o + n - 1) / 64)
  match r.place, x.place with
  | .chan c o, .chan d o' => c == d && share o r.len o' x.len
  | .window c o, .window d o' => c == d && share o r.len o' x.len
  | .mmio _, .mmio _ => true
  | _, _ => false

/-- Whether two requests keep their order where they meet: they are of one engine or travel between the same two stops (R39, R237). -/
def Req.tied (r x : Req) : Bool := r.src.sameEngine x.src || (r.source == x.source && r.dest == x.dest)

/-- Whether a request comes before a later one (R39, R237): they meet and keep their order. Accesses of one engine to different sectors are free
of each other (R242). -/
def Req.before (r x : Req) : Bool := r.meets x && r.tied x

/-- Whether an earlier request has still to perform the line of a later one at place `i`: sector by sector (R237, R242). -/
def Req.bars (x r : Req) (i : Nat) : Bool :=
  x.tied r && (upto x.lines).any (fun j => x.place.line j == r.place.line i && !x.parts.any (fun p => p.1 == j))

/-- R238: an engine waits while a request it sent under the previous epoch of the Setting is unanswered. -/
def State.epochFree (s : State) (src : Src) (set epoch : Nat) : Bool :=
  let old (r : Req) : Bool := r.set == set && r.epoch != epoch && r.src.sameEngine src
  !(s.mem.inflight.any old || s.mem.held.any old || s.mem.answers.any (fun a => old a.req))

/-- R238 for a DPA. -/
def State.mayMap (s : State) (src : Src) (dpa : Nat) : Bool :=
  if dpaModule dpa ≠ s.trb.idModule then true
  else
    match localPlace (dpaLocal dpa) with
    | .dram a => match s.mapDram a with
      | some m => s.epochFree src m.set m.epoch
      | none => true
    | _ => true

/-! ## Sending -/

/-- The stop of a place in this module; the registers are reached at the queue processors' stop (log 57). -/
def Place.stop : Place → Stop
  | .chan c _ => chanStop c
  | .window n _ => coreStop n
  | _ => queueStop

/-- Whether a request waits where it is to be performed: at a move destination (R399), for its engine's requests of the previous epoch
(R238), or behind one that waits. `earlier` are the requests held before it. -/
def State.waitsFor (s : State) (r : Req) (earlier : List Req) : Bool :=
  (match r.place with | .chan c _ => s.holdsNew c r.set || !s.epochFree r.src r.set r.epoch | _ => false) || earlier.any (fun x => x.before r)

/-- Put a request on its way to a place in this module. A copy engine's read is issued at the channel it reads (log 57). -/
def launchReq (s : State) (w : Sender) (kind : ReqKind) (place : Place) (dpa len : Nat) (data : List (BitVec 8)) (set epoch : Nat) : State :=
  let (rid, s1) := s.fresh
  let r : Req := { rid := rid, src := w.src, kind := kind, place := place, dpa := dpa, len := len, data := data, locket := w.locket
                   ctx := w.ctx, facet := w.facet, set := set, epoch := epoch, via := w.via, dest := place.stop
                   source := match w.src with | .jobRead .. => place.stop | _ => w.source }
  if s1.waitsFor r s1.mem.held then { s1 with mem := { s1.mem with held := s1.mem.held ++ [r] } }
  else { s1 with mem := { s1.mem with inflight := s1.mem.inflight ++ [r] } }

/-- Whether a channel has a request outstanding (R221). -/
def State.chanBusy (s : State) (c : Nat) : Bool :=
  (s.mem.inflight ++ s.mem.held).any (fun r => match r.place with | .chan k _ => k == c | _ => false)

/-- Let go, in order, the requests that have nothing left to wait for. -/
def releaseHeld (s : State) : State :=
  let rec go (s : State) : List Req → List Req → State
    | [], still => { s with mem := { s.mem with held := still } }
    | r :: rest, still =>
      let s1 := { s with mem := { s.mem with held := still } }
      if s1.waitsFor r still then go s rest (still ++ [r])
      else go { s1 with mem := { s1.mem with inflight := s1.mem.inflight ++ [r] } } rest still
  if s.mem.held.isEmpty then s else go s s.mem.held []

/-- Send a request to an address of this module; a status answers it at once (R200, R310, R415). -/
def sendLocal (s : State) (w : Sender) (kind : ReqKind) (dpa len : Nat) (data : List (BitVec 8)) : State × Option Nat :=
  match localPlace (dpaLocal dpa) with
  | .dram a =>
    if s.pool.state = 2 && decide (a / blockBytes < s.pool.recordBlocks) then (s, some stDENIED)
    else
      match s.mapDram a with
      | none => (s, some stNOREGION)
      | some m => (launchReq s w kind (.chan m.c m.off) dpa len data m.set m.epoch, none)
  | .window n off => (launchReq s w kind (.window n off) dpa len data 64 0, none)
  | .mmio off =>
    match kind with
    | .read => if w.pf then (launchReq s w kind (.mmio off) dpa len data 64 0, none) else (s, some stDENIED)
    | .write _ => if w.pf then (launchReq s w kind (.mmio off) dpa len data 64 0, none) else (s, some stDENIED)
    | _ => (s, some stDENIED)
  | .reserved => (s, some stDENIED)

/-- SIZE of a packet: 0 to 3 a scalar of 1 to 8 bytes, as R132 codes it; 4 to 7 one to four sectors (log 31). -/
def sizeCode (n : Nat) : Nat := if n = 1 then 0 else if n = 2 then 1 else if n = 4 then 2 else if n = 8 then 3 else 3 + (n + 63) / 64
def sizeBytes (c : Nat) : Nat := if c < 4 then 2 ^ c else 64 * (c - 3)

/-- A payload padded with zeros to 64 bytes. -/
def pad64 (l : List (BitVec 8)) : List (BitVec 8) := l ++ List.replicate (64 - l.length) 0

/-- The 8-byte compare-and-swap, whose operand and compare value fill the 16 bytes of an ATOMIC's payload: the byte of the header that holds a
response's STATUS names its operation instead, and is 0 in any other request (R474, R475; DESIGN CHOICE, log 31). -/
def ReqKind.wideSwap : ReqKind → Bool
  | .atom op size _ _ => op == 0x28 && size == 8
  | _ => false

/-- Payload of an ATOMIC, 16 bytes (R475; log 31): the operation in byte 0 and the operands above; of an 8-byte compare-and-swap the operand and
the compare value alone. -/
def atomPayload (kind : ReqKind) : List (BitVec 8) :=
  match kind with
  | .atom op size a b =>
    if op = 0x28 && size = 8 then leBytes 8 b.toNat ++ leBytes 8 a.toNat
    else if op = 0x28 then leBytes 8 op ++ leBytes 4 b.toNat ++ leBytes 4 a.toNat
    else leBytes 8 op ++ leBytes 8 a.toNat
  | .signal v h => leBytes 4 0x29 ++ leBytes 4 h ++ leBytes 8 v.toNat
  | .error h code c => leBytes 2 (0x2A + 256 * code) ++ leBytes 2 c ++ leBytes 4 h ++ leBytes 8 0
  | _ => []

/-- The operation that the payload of an ATOMIC of `n` bytes spells, beside byte 14 of the header. -/
def atomOf (n st : Nat) (payload : List (BitVec 8)) : Option ReqKind :=
  let f (b k : Nat) : Nat := leNat ((payload.drop b).take k)
  let op := f 0 1
  if payload.length < 16 then none
  else if st = 0x28 then (if n = 8 then some (.atom 0x28 8 (BitVec.ofNat 64 (f 8 8)) (BitVec.ofNat 64 (f 0 8))) else none)
  else if 0x20 ≤ op ∧ op < 0x28 ∧ 4 ≤ n ∧ n ≤ 8 then some (.atom op n (BitVec.ofNat 64 (f 8 n)) 0)
  else if op = 0x28 ∧ n = 4 then some (.atom op n (BitVec.ofNat 64 (f 12 4)) (BitVec.ofNat 64 (f 8 4)))
  else if op = 0x29 then some (.signal (BitVec.ofNat 64 (f 8 8)) (f 4 4))
  else if op = 0x2A then some (.error (f 4 4) (f 1 1) (f 2 2))
  else none

/-- The packet of an access (R474, R475; log 31). -/
def accessPacket (kind : ReqKind) (dpa len : Nat) (data : List (BitVec 8)) : Packet :=
  let base : Packet := { pkind := 1, dst := dpaModule dpa, src := 0, addr := dpa % 2 ^ 52, size := sizeCode len }
  match kind with
  | .read => base
  | .write p => { base with pkind := 2, poison := p, payload := if len < 64 then pad64 data else data }
  | .atom _ size _ _ =>
    { base with pkind := 3, size := sizeCode size, status := if kind.wideSwap then 0x28 else 0, payload := atomPayload kind }
  | _ => { base with pkind := 3, size := 3, payload := atomPayload kind }

/-- Bytes of data that a request carries to its home, and that its answer brings back. -/
def Req.bytesOut (r : Req) : Nat := match r.kind with | .write _ => r.len | .read => 0 | .atom _ n _ _ => n | _ => 8
def Req.bytesBack (r : Req) : Nat := match r.kind with | .write _ => 0 | .read => r.len | .atom _ n _ _ => n | .signal .. => 8 | .error .. => 0

/-- The context that a request's bytes count for: a request of another module's engine is of no context here (R446). -/
def Req.ownCtx (r : Req) : Nat := match r.src with | .remote .. => noCtx | _ => r.ctx

/-- A request crosses the module from half `a` to half `b` with `n` bytes of data; headers are not counted (R446, log 57). -/
def Req.cross (r : Req) (s : State) (a b n : Nat) : State := crossSeam s r.locket r.facet r.ownCtx a b n

/-- The half that a request's answer goes to: for another module's request, that of the port it leaves by (R48). -/
def State.backHalf (s : State) (r : Req) : Nat :=
  match r.src with
  | .remote _ _ mod .. => (portStop ((s.egress mod).getD 0)).half
  | _ => r.source.half

/-- Send a request to another module (R46, R418): under its lease, or not at all when the lease is not VALID. -/
def sendAway (s : State) (w : Sender) (kind : ReqKind) (dpa len : Nat) (data : List (BitVec 8)) : State × Option Nat :=
  let k := accessPacket kind dpa len data
  let block := dpaLocal dpa / blockBytes
  let hit := s.leaseHit (dpaModule dpa) block w.locket
  if hit.any (fun e => e.state != 0) then (s, some stOWNLOST)
  else
    let (rid, s1) := s.fresh
    let stop := portStop ((s.egress (dpaModule dpa)).getD 0)
    let r : Req := { rid := rid, src := w.src, kind := kind, place := .away, dpa := dpa, len := len, data := data, locket := w.locket
                     ctx := w.ctx, facet := w.facet, via := w.via, source := w.source, dest := stop }
    let k1 := { k with tag := s.tagOf w.locket, facet := w.facet, ctx := w.ctx, lease := hit.isSome
                       gen := match hit with | some e => e.gen | none => 0 }
    match sendRequest (r.cross s1 w.source.half stop.half r.bytesOut) k1 (.access r) with
    | (s2, .sent _) => (s2, none)
    | (s2, .refused st) => (s2, some st)

/-- Send a request by its DPA (R46). -/
def sendReq (s : State) (w : Sender) (kind : ReqKind) (dpa len : Nat) (data : List (BitVec 8)) : State × Option Nat :=
  if dpaModule dpa = s.trb.idModule then sendLocal s w kind dpa len data else sendAway s w kind dpa len data

/-- Whether a context may send (R374 step 5, R452 step 2): not while it aborts or its Locket is fenced. -/
def State.mayS (s : State) (ctx : Nat) : Bool := decide (4096 ≤ ctx) || (s.ctx ctx).state == 1

/-- OLD_OUT (R391): requests mapped under an earlier epoch and not yet performed. -/
def State.oldOut (s : State) (set : Nat) : Nat :=
  countP (fun r => r.set == set && r.epoch != (s.setting set).epoch) s.mem.inflight

/-! ## Copy jobs -/

/-- Bytes of the piece in progress. -/
def Job.pieceLen (j : Job) : Nat := min 4096 (j.len - j.pos)

/-- A failure that stops the job; POISON does not (R207). -/
def Job.stopped (j : Job) : Bool := j.halt || (j.code && j.err.isSome)

/-- Whether nothing of the job is outstanding. -/
def Job.quiet (j : Job) : Bool := j.reads.isEmpty && j.writes.isEmpty && j.fetchId == 0

/-- Whether the job has ended (R219). -/
def Job.ended (j : Job) : Bool := j.quiet && (j.stopped || (decide (j.len ≤ j.pos) && j.ready.isEmpty))

/-- What a side of a job makes of an address. -/
inductive SideOut where
  | dpa (d : Nat) (via : Nat × Nat)
  | miss
  | denied
  | fault (kind : Nat) (e : Option RangeEnt)
deriving DecidableEq, Repr

/-- Whether a DPA reaches a channel or a core of a Locket whose TDI is locked (R588). -/
def State.dpaClosed (s : State) (dpa : Nat) : Bool :=
  if dpaModule dpa ≠ s.trb.idModule then false
  else
    match localPlace (dpaLocal dpa) with
    | .dram a => match s.mapDram a with
      | some m => match s.chanOwner m.c with | some l => s.tdiClosed l | none => false
      | none => false
    | .window n _ => match s.coreOwner n with | some l => s.tdiClosed l | none => false
    | _ => false

/-- What a side of a job makes of an address. A DPA has 52 bits (R17): the model takes the low 52 bits of a side's address and neither refuses
nor faults a bit above them (DESIGN CHOICE, log 57). -/
def State.jobSide (s : State) (j : Job) (kind access va : Nat) : SideOut :=
  if kind = 2 then
    let d := va % 2 ^ 52
    if s.dpaClosed d then .denied else .dpa d (0, 0)
  else if va / 2 ^ 56 ≠ 0 then .fault 6 none
  else
    match findRange j.tr j.ctx va with
    | none => .miss
    | some e =>
      match s.checkRange e j.locket j.priv access va with
      | some k => .fault k (some e)
      | none => .dpa (e.dpa va) (e.lo, e.hi)

/-- Start a job's translation: the far cache comes first, since a copy engine has no near buffer (R268); none while the engine's walk slot is
taken. -/
def jobWalk (s : State) (j : Job) (access va : Nat) : Option State :=
  if (s.walk (192 + j.ce)).isSome then none
  else some ((s.updJob j.jid (fun j => { j with busy := true })).setWalk (192 + j.ce)
    (some { stage := .lookup, va := va, who := .job j.jid, ctx := j.ctx, access := access }))

/-- A job fails: its first error stays, which the engine's interrupt source sees as an edge (R528); any but POISON stops it (R207, R291). -/
def jobFail (s : State) (jid st : Nat) : State :=
  match s.job? jid with
  | some j =>
    let s1 := s.updJob jid (fun j => { j with err := some (j.err.getD st), halt := j.halt || st != stPOISON })
    if j.err.isSome then s1 else raise s1 (0x170 + j.ce)
  | none => s

/-- Whether a DPA is in a tile-memory window, of this module or another. -/
def isWindow (dpa : Nat) : Bool := match localPlace (dpaLocal dpa) with | .window _ _ => true | _ => false

/-- Write the first sector that has been read (R207, R219); none when it cannot be sent now. The sector travels from where it was read
(log 57). -/
def jobWriteOne (s : State) (j : Job) (p : Nat × List (BitVec 8) × Bool × Stop) : Option State :=
  let (off, data, poison, stop) := p
  let s1 := s.updJob j.jid (fun j => { j with ready := j.ready.drop 1 })
  let skip := s1.updJob j.jid (fun j => { j with skipped := some (j.skipped.getD (j.dst + off)) })
  if j.dstKind = 1 then
    if !s.linkFetches then none
    else if poison then some skip
    else
      let s2 := hostSend s1 (.data j.fn (j.dst + off) data)
      let s3 := crossSeam (notePcie s2 j.locket j.facet j.ctx 0 64) j.locket j.facet j.ctx stop.half pcieStop.half 64
      some (s3.updJob j.jid (fun j => { j with written := j.written + 64 }))
  else
    match s.jobSide j j.dstKind 1 (j.dst + off) with
    | .miss => jobWalk s j 1 (j.dst + off)
    | .denied => some (jobFail s1 j.jid stDENIED)
    | .fault k e => some (jobFault s j k 1 (j.dst + off) (match e with | some x => x.pos | none => 0xFFFF) e)
    | .dpa d via =>
      if poison && isWindow d then some skip
      else if !s.mayMap (.jobWrite j.jid off) d then none
      else
        let w : Sender := { src := .jobWrite j.jid off, locket := j.locket, ctx := j.ctx, facet := j.facet, source := stop, via := via }
        match sendReq s1 w (.write poison) d 64 (if poison then List.replicate 64 0 else data) with
        | (s2, none) => some (s2.updJob j.jid (fun j => { j with writes := j.writes ++ [off] }))
        | (s2, some st) => some (jobFail s2 j.jid st)

/-- Read the next sector of the piece; none when it cannot be sent now. A source that does not begin on a sector (R332) takes its part of
each whole sector that is read. -/
def jobReadOne (s : State) (j : Job) : Option State :=
  let off := j.pos + j.sent
  if j.srcKind = 1 then
    if !s.linkFetches then none
    else
      let (rid, s1) := s.fresh
      let n := j.pieceLen
      let s2 := hostSend s1 (.fetch j.fn (j.src + j.pos) n)
      some (s2.updJob j.jid (fun j => { j with sent := n, fetchId := rid + 1, busy := true }))
  else
    let va := j.src + off
    let n := min (64 - va % 64) (j.pieceLen - j.sent)
    match s.jobSide j j.srcKind 0 va with
    | .miss => jobWalk s j 0 va
    | .denied => some (jobFail s j.jid stDENIED)
    | .fault k e => some (jobFault s j k 0 va (match e with | some x => x.pos | none => 0xFFFF) e)
    | .dpa d via =>
      if !s.mayMap (.jobRead j.jid off) d then none
      else
        let w : Sender := { src := .jobRead j.jid off, locket := j.locket, ctx := j.ctx, facet := j.facet, source := copyStop, via := via }
        match sendReq s w .read (d / 64 * 64) 64 [] with
        | (s2, none) => some (s2.updJob j.jid (fun j => { j with sent := j.sent + n, reads := j.reads ++ [off], busy := true }))
        | (s2, some st) => some (jobFail s2 j.jid st)

/-- The job that an engine serves now (R217): the one whose 4 KiB piece is in progress, or else the first in turn. A job that waits for a fault
gives its turn up (R274); a fenced module sends nothing new (R550). -/
def State.jobInTurn (s : State) (ce : Nat) : Option Job :=
  let may := if s.moduleFenced || s.pdyn.trip then []
    else s.mem.jobs.filter (fun j => j.ce == ce && !j.paused && !j.stopped && !j.ended && s.mayS j.ctx)
  match may.find? (fun j => j.busy) with
  | some j => some j
  | none => may.head?

/-- A job's piece is done: the turn goes to the engine's next job. -/
def nextPiece (s : State) (j : Job) : State :=
  let done : Job := { j with pos := j.pos + j.pieceLen, sent := 0, tr := [], busy := false }
  { s with mem := { s.mem with jobs := s.mem.jobs.filter (fun x => x.jid != j.jid) ++ [done] } }

/-- The next action of a job, if it has one. -/
def jobStep (s : State) (j : Job) : Option State :=
  match j.ready with
  | p :: _ => jobWriteOne s j p
  | [] =>
    if j.sent < j.pieceLen then jobReadOne s j
    else if j.quiet && decide (j.pos < j.len) then some (nextPiece s j)
    else none

/-- Run an engine as far as it goes. -/
def jobPump (s : State) (ce : Nat) : Nat → State
  | 0 => s
  | n + 1 =>
    match (s.jobInTurn ce).bind (jobStep s) with
    | some s1 => jobPump s1 ce n
    | none => s

/-- Actions that one command takes for an engine at most. -/
def jobFuel : Nat := 600

def jobPumpEngine (s : State) (ce : Nat) : State := jobPump s ce jobFuel

def jobPumpAll (s : State) : State := s.forAll [0, 1, 2, 3] jobPumpEngine

/-- An answer to a request of a job (R207), from the stop that sends it. -/
def jobAnswer (s : State) (jid off : Nat) (stop : Stop) (rd : Bool) (status : Nat) (data : List (BitVec 8)) : State :=
  let s0 := if status = stOK then s else jobFail s jid status
  let s1 :=
    if rd then
      s0.updJob jid (fun j =>
        let j1 := { j with reads := j.reads.filter (· != off) }
        if status = stOK then
          if j.code then { j1 with got := patch j1.got off ((data.drop ((j.src + off) % 64)).take (j.len - off)) }
          else { j1 with ready := j1.ready ++ [(off, data, false, stop)] }
        else if status = stPOISON && !j.code then { j1 with ready := j1.ready ++ [(off, [], true, stop)] }
        else j1)
    else
      s0.updJob jid (fun j =>
        let j1 := { j with writes := j.writes.filter (· != off) }
        if status = stOK then { j1 with written := j1.written + 64 } else j1)
  match s1.job? jid with
  | some j => jobPumpEngine s1 j.ce
  | none => s1

/-! ## Answers -/

/-- The response to a request that came over Trebry (R475, R481; log 31). -/
def answerRemote (s : State) (reqid mod budget ctx tag facet status : Nat) (data : Option (List (BitVec 8))) : State :=
  sendResponse s 1
    { pkind := match data with | some _ => 0x08 | none => 0x09
      dst := mod, src := s.trb.idModule, tag := tag, budget := budget, facet := facet, reqid := reqid, ctx := ctx, status := status
      payload := data.getD [] }

/-- Whether an answer carries data. -/
def ReqKind.hasData : ReqKind → Bool
  | .write _ => false
  | .error .. => false
  | _ => true

/-- Whether a request is a task's or a copy job's. -/
def Src.ofWork : Src → Bool
  | .op .. => true
  | .jobRead .. => true
  | .jobWrite .. => true
  | _ => false

/-- A request of an aborting context is answered with an error: the abort's REQS counts it (R376). -/
def countAborted (s : State) (r : Req) (status : Nat) : State :=
  if status ≠ stOK && r.src.ofWork then
    { s with fnc := { s.fnc with aborts := mapWhere (fun a => a.ctx == r.ctx) (fun a => { a with reqs := a.reqs + 1 }) s.fnc.aborts } }
  else s

/-- Record an answer to a piece of a BAR4 access: 1 an error, 3 POISON (R312). -/
def bar4Answer (s : State) (bid pos status : Nat) (data : List (BitVec 8)) : State :=
  let s1 := { s with que := { s.que with bar4 := mapWhere (fun b => b.bid == bid) (fun b => { b with
    left := b.left - 1, got := patch b.got pos data
    status := if b.status ≠ 0 ∨ status = stOK then b.status else if status = stPOISON then 3 else 1 }) s.que.bar4 } }
  match s1.que.bar4.find? (fun b => b.bid == bid) with
  | some b =>
    if b.left = 0 then
      { s1 with que := { s1.que with
          bar4 := s1.que.bar4.filter (fun x => x.bid != bid)
          ansTag := if b.wr then s1.que.ansTag else b.tag
          ansStatus := if b.wr then s1.que.ansStatus else b.status
          ansBytes := if b.wr then s1.que.ansBytes else if b.status = 0 then b.got else [] } }
    else s1
  | none => s1

/-- Give the answer of a request to whoever sent it (R36), from the stop that sends it, which for an answer of another module is its
ingress port's; `unit` is the source that a PARKED error names (R57). The answer to a core waits to be delivered. -/
def answer (s0 : State) (r : Req) (status : Nat) (data : List (BitVec 8)) (unit : Option Nat := none) (stop : Stop := r.dest) : State :=
  let s := countAborted s0 r status
  let s1 :=
    if r.dropped then s
    else
      match r.src with
      | .op .. =>
        { s with mem := { s.mem with answers := s.mem.answers ++
            [{ req := r, status := status, data := data, unit := unit, from' := stop }] } }
      | .jobRead jid off => jobAnswer s jid off (if r.place = .away then copyStop else r.dest) true status data
      | .jobWrite jid off => jobAnswer s jid off r.dest false status data
      | .remote _ reqid mod budget ctx tag =>
        answerRemote s reqid mod budget ctx tag r.facet status (if r.kind.hasData && decide (status = stOK) then some data else none)
      | .bar4 bid pos => bar4Answer s bid pos status data
      | .desc .. => s
  releaseHeld s1

end Sys2Proof.Machine
end

