-- ==== Sys2Proof/Machine/Queues.lean ====
section
/-! DEFINITION. Queues (R314 to R329): fetching, the order of beginning, waits, completion; and fences at their homes
(R364, R367 to R373). -/

namespace Sys2Proof.Machine

/-! ## Fetching -/

/-- Whether a completion ring has a slot to reserve (R317, R324). -/
def CqRing.free (c : CqRing) : Bool := c.ring.enable && decide (c.ring.used + c.reserved < c.ring.slots)

/-- Whether a queue has a descriptor to fetch and may fetch, its completion slot apart (R317, R588, R589). -/
def State.fetchable (s : State) (q : Nat) : Bool :=
  let x := s.sq q
  let t := if x.func = 0 then 0 else s.tdi (x.func - 1)
  x.state == 1 && s.linkFetches && !s.que.bar4.any (fun b => x.after.contains b.bid) && decide (x.descs.length + x.fetches.length < 256)
  && decide (x.fetches.length < (x.prod - x.cons).toNat) && t != 1 && t != 3
  && (x.func == 0 || !s.fenced (x.func - 1)) && !s.moduleFenced && !s.pdyn.trip

/-- Index of the next fetch. -/
def Sq.nextFetch (q : Sq) : Nat := (q.cons + BitVec.ofNat 32 q.fetches.length).toNat

/-- A queue cannot fetch for lack of a reservation (R324, R344). -/
def stallCq (s : State) (q : Nat) : State :=
  let x := s.sq q
  let c := s.cq x.cq
  if c.stalled then s
  else
    postEvent (s.setCq x.cq { c with stalled := true })
      { type := 0x0202, sev := 1, locket := x.locket, source := qpUnit x.qp, object := x.cq, detail := detail [(16, 4, q)] }

/-- Free the reservations of `n` fetches. -/
def freeSlots (s : State) (q n : Nat) : State :=
  let c := (s.sq q).cq
  s.updCq c (fun x => { x with reserved := x.reserved - n })

/-- A queue that drains is disabled when nothing of it is left (R319). -/
def drainQueue (s : State) (q : Nat) : State :=
  s.updSq q (fun x => if x.state = 2 && x.descs.isEmpty then { x with state := 0 } else x)

/-- Stop a queue's fetching and clear its ENABLE (R319): fetches still out are discarded (log 32). -/
def stopQueue (s : State) (q : Nat) : State :=
  let x := s.sq q
  if x.state = 1 || x.state = 3 then
    let s1 := freeSlots s q x.fetches.length
    drainQueue (s1.updSq q (fun x => { x with enable := false, state := 2, fetches := [] })) q
  else s

/-! ## Completion -/

/-- Write the completion record and let the descriptor go (R324, R325, R340, R341). -/
def completeDesc (s : State) (q idx : Nat) : State :=
  match s.desc? q idx with
  | none => s
  | some d =>
    let x := s.sq q
    let s1 := freeSlots (s.updSq q (fun y => { y with descs := y.descs.filter (fun e => e.idx != idx) })) q 1
    let s2 :=
      if d.nocomp && d.status = 0 then s1
      else
        let r : Record :=
          { type := 0x0100 + d.status, sev := if d.status = 0 then 0 else 2, locket := x.locket, ctx := d.recordCtx x
            source := qpUnit x.qp, object := idx % 65536 + q * 65536, detail := d.detail }
        let c := s1.cq x.cq
        emit (s1.setCq x.cq { c with ring := c.ring.push r.sev d.irq }) x.func c.ring d.irq r d.facet
    drainQueue s2 q

/-- A message of this module to another under the key of a tag (R475; log 31). -/
def sendTagged (s : State) (tag dst : Nat) (payload : List (BitVec 8)) (why : Purpose) : State × SendResult :=
  sendRequest s { pkind := 0x10, dst := dst, src := s.trb.idModule, tag := tag, payload := payload } why

/-- The same under the Locket's key, or the module key for the PF. -/
def sendControl (s : State) (l dst : Nat) (payload : List (BitVec 8)) (why : Purpose) : State × SendResult :=
  sendTagged s (s.tagOf l) dst payload why

/-- Payload of a fence query (kind 0) or registration (kind 1): after the subcode the handle and the value as a descriptor holds them, then the
kind and the name of the waiter (R475; log 31). -/
def fencePayload (kind h value q idx : Nat) : List (BitVec 8) :=
  leBytes 1 1 ++ leBytes 4 h ++ leBytes 8 value ++ leBytes 1 kind ++ leBytes 8 (q * 2 ^ 32 + idx)

/-- The fence operation that a descriptor ends with (R329): a signal of its value, or an error with its status. -/
def Desc.fenceKind (d : Desc) (x : Sq) : ReqKind :=
  if d.status = 0 then .signal (BitVec.ofNat 64 d.sigValue) d.sigFence else .error d.sigFence d.status (d.recordCtx x)

/-- Send a descriptor's fence operation to a fence of another module, whose record's DPA is known. -/
def signalAway (s : State) (q : Nat) (d : Desc) : State :=
  let x := s.sq q
  match sendAway s { src := .desc q d.idx, locket := x.locket, facet := d.facet, source := queueStop } (d.fenceKind x) d.sigRec 8 [] with
  | (s1, none) => s1
  | (s1, some _) => completeDesc s1 q d.idx

/-- DETAIL of a SET_SWAP's completion record (R408). -/
def swapDetail (check epoch entry us : Nat) : BitVec 128 := detail [(16, 1, check), (17, 1, epoch), (18, 2, entry), (20, 4, us)]

/-- DETAIL of a completion record: a SET_SWAP that ends before it has looked at its Setting carries the layout of R408 too. The epoch of a swap
of a Locket's tables is 0. -/
def State.detailOf (s : State) (d : Desc) (det : BitVec 128) : BitVec 128 :=
  if d.op = 0x20 ∧ det = 0 then swapDetail 0 (if bit (d.f 32 1) 0 then 0 else (s.setting (d.setting % 64)).epoch) 0xFFFF 0 else det

/-- A descriptor's work has ended with a status: its fence is signalled or errored, then the record is written (R325, R329). Where it ends before
its remote fence has been checked, the fence's owner is asked for the record first (R372, R373). -/
def finishDesc (s : State) (q idx status : Nat) (det : BitVec 128) : State :=
  match s.desc? q idx with
  | none => s
  | some d0 =>
    let x := s.sq q
    let d := { d0 with status := status, detail := s.detailOf d0 det, phase := .signalling, begun := true }
    let s1 := s.updDesc q idx (fun _ => d)
    if !d.hasSignal then completeDesc s1 q idx
    else
      let h := d.sigFence
      let f := s.fence (handleIndex h)
      if handleModule h = s.trb.idModule then
        if s.handleValid h && (f.locket == x.locket || (x.func == 0 && !s.tdiClosed f.locket)) then
          match s.mapDram f.recOff with
          | some m =>
            launchReq s1 { src := .desc q idx, locket := f.locket, facet := d.facet, source := queueStop } (d.fenceKind x) (.chan m.c m.off)
              (2 ^ 42 * s.trb.idModule + f.recOff) 8 [] m.set m.epoch
          | none => completeDesc s1 q idx
        else completeDesc s1 q idx
      else if d.sigRec ≠ 0 then signalAway s1 q d
      else
        match sendControl s1 x.locket (handleModule h) (fencePayload 0 h 0 q idx) (.fenceSignal q idx) with
        | (s2, .sent _) => s2
        | (s2, .refused _) => completeDesc s2 q idx

/-- The fence operation of a descriptor has been answered; its status changes nothing (R329). -/
def descSignalled (s : State) (q idx : Nat) : State :=
  match s.desc? q idx with
  | some d => if d.phase = .signalling then completeDesc s q idx else s
  | none => s

/-! ## Fence records at their homes -/

/-- The record of a fence as it stands at its home. -/
def State.fenceRec (s : State) (i : Nat) : FenceRec :=
  match s.mapDram (s.fence i).recOff with
  | some m => FenceRec.decode ((((s.chan m.c).sector m.c (m.off / 64)).drop (m.off % 64)).take 16)
  | none => { v := 0, state := 0, regress := false, err := 0, index := i, gen := 0, errCtx := 0xFFFF }

/-- What performing a signal or an error makes of a record: the new record, the status of AFSIG, and whether it was refused as a
regression (R367, R373). -/
def fenceApply (kind : ReqKind) (r : FenceRec) : FenceRec × Nat × Bool :=
  match kind with
  | .signal v _ =>
    if r.state = 2 then (r, 2, false)
    else if v.toNat < r.v ∨ v.toNat = terminal then ({ r with regress := true }, 1, true)
    else ({ r with v := v.toNat, state := 1 }, 0, false)
  | .error _ code ctx => if r.state = 2 then (r, 2, false) else ({ r with v := terminal, state := 2, err := code, errCtx := ctx }, 0, false)
  | _ => (r, 0, false)

/-- The handle that a signal or an error names; 0 when it names a value word only. -/
def ReqKind.handle : ReqKind → Nat
  | .signal _ h => h
  | .error h _ _ => h
  | _ => 0

/-- The engine and the context that FENCE_REGRESS names (R368): a core by the stop that its request came from. -/
def State.signaller (s : State) (r : Req) : Nat × Nat :=
  match r.src with
  | .op .. => (((upto 192).find? (fun n => coreStop n == r.source)).getD 0, r.ctx)
  | .desc q _ => (qpUnit (s.sq q).qp, noCtx)
  | .remote p .. => (portUnit p, r.ctx)
  | .jobRead .. => (ceUnit 0, r.ctx)
  | .jobWrite .. => (ceUnit 0, r.ctx)
  | .bar4 .. => (pcieUnit, noCtx)

/-- What came of a fence operation at its home: its status, AFSIG's status, and the waiters to look at (index, V, errored). -/
structure FenceDone where
  status : Nat
  afsig : Nat := 0
  wake : Option (Nat × Nat × Bool) := none
  failed : List Nat := []             -- the channels that failed
deriving DecidableEq, Repr

/-- Whether a record in a marked sector is the one that a fence operation may change (R364, R367). -/
def State.recordOk (s : State) (kind : ReqKind) (r : FenceRec) : Bool :=
  let f := s.fence r.index
  f.valid && f.gen == r.gen && (kind.handle == 0 || kind.handle == s.handleOf r.index)

/-- FENCE_REGRESS of a refused signal (R368). -/
def regressEvent (s : State) (r : Req) (old : FenceRec) : State :=
  let who := s.signaller r
  let v := match r.kind with | .signal v _ => v.toNat | _ => 0
  postEvent s { type := 0x0258, sev := 2, locket := (s.fence old.index).locket, ctx := who.2, source := who.1
                object := s.handleOf old.index, detail := detail [(16, 8, v), (24, 8, old.v)] }

/-- Perform a fence signal or error at channel `c` (R216, R364, R367, R373). -/
def performFence (s : State) (r : Req) (c off : Nat) (x : Xmit) : State × FenceDone :=
  match s.chanError c r.accepted with
  | some st => ((chanAnswers s c st).1, { status := st })
  | none =>
    let sec := off / 64
    let w : Cause := { ctx := r.ctx, dpa := r.dpa, access := 3 }
    if off % 16 ≠ 0 || !(s.chan c).fences.contains sec then (s, { status := stDENIED })
    else
      let (ch1, e, bytes) := readSector c x ((s.chan c).correct x) sec 0
      let old := FenceRec.decode ((bytes.drop (off % 64)).take 16)
      if e ≠ .ok then
        let out := settleXfer s c sec ch1 e [] w
        (out.1, { status := out.2.status, failed := out.2.failed })
      else if !s.recordOk r.kind old then (s.setChan c ch1, { status := stDENIED })
      else
        let (new, st, regress) := fenceApply r.kind old
        let (ch2, e2) := writeSector x ch1 sec 0 (patch bytes (off % 64) new.encode) false
        let out := settleWrite s c sec 0 ch2 e2 [] x w
        if e2 ≠ .ok then (out.1, { status := out.2.status, failed := out.2.failed })
        else
          (if regress then regressEvent out.1 r old else out.1,
            { status := stOK, afsig := st, wake := if st = 0 then some (old.index, new.v, decide (new.state = 2)) else none
              failed := out.2.failed })

/-! ## Waits and the order of beginning -/

/-- The labels of the block's own access to a fence record: the module class, or the class of a descriptor that waits (log 57). -/
def fenceLabels (locket facet : Nat) : Labels := { ctx := noCtx, locket := locket, facet := facet, half := queueStop.half }

/-- Read the record of fence `i` over the bond (R202, R369): none when the read fails. -/
def readRecord (s : State) (l : Labels) (i : Nat) (x : Xmit) : State × Option FenceRec :=
  let off := (s.fence i).recOff
  match s.mapDram off with
  | none => (s, none)
  | some m =>
    let o := homeRead s m.c (m.off / 64) 0 x { dpa := 2 ^ 42 * s.trb.idModule + off }
    let ok := decide (o.2.status = stOK)
    (noteOwn o.1 l m.c 16 ok, if ok then some (FenceRec.decode ((o.2.data.drop (m.off % 64)).take 16)) else none)

/-- Register a wait on a fence of this module (R369, R371): what becomes of the descriptor. A registration whose read of the record fails is
tried again by polling, as one that finds the table full is, without counting in FULL (DESIGN CHOICE, log 59). -/
def registerWait (s : State) (l : Labels) (i : Nat) (gen value : Nat) (who : WaitFor) (x : Xmit) : State × Nat :=
  let f := s.fence i
  if !(f.valid && f.gen == gen) then (s, 3)
  else
    match readRecord s l i x with
    | (s1, none) => (s1, 4)
    | (s1, some r) =>
      if r.state = 2 then (s1, 3)
      else if value ≤ r.v then (s1, 2)
      else if 4096 ≤ s1.fnc.waits.length then ({ s1 with fnc := { s1.fnc with full := satAdd 16 s1.fnc.full 1 } }, 4)
      else ({ s1 with fnc := { s1.fnc with waits := s1.fnc.waits ++ [{ index := i, value := BitVec.ofNat 64 value, who := who }] } }, 0)

/-- Give a descriptor the outcome of its registration: 0 registered, 2 satisfied, 3 errored, 4 table full. -/
def waitOutcome (s : State) (q idx out : Nat) : State :=
  match out with
  | 0 => s.updDesc q idx (fun d => { d with phase := .registered })
  | 2 => s.updDesc q idx (fun d => { d with phase := .ready })
  | 4 => s.updDesc q idx (fun d => { d with phase := .polling })
  | _ => finishDesc s q idx stWAITERR 0

/-- The descriptor comes to begin: its wait is registered (R369). -/
def startWait (s : State) (q : Nat) (d : Desc) (x : Xmit := {}) : State :=
  if !d.hasWait then s.updDesc q d.idx (fun d => { d with phase := .ready })
  else if handleModule d.waitFence = s.trb.idModule then
    let r := registerWait s (fenceLabels (s.sq q).locket d.facet) (handleIndex d.waitFence) (handleGen d.waitFence) d.waitValue (.desc q d.idx) x
    waitOutcome r.1 q d.idx r.2
  else
    match sendControl s (s.sq q).locket (handleModule d.waitFence) (fencePayload 1 d.waitFence d.waitValue q d.idx) (.fenceWait q d.idx) with
    | (s1, .sent _) => s1.updDesc q d.idx (fun d => { d with phase := .querying })
    | (s1, .refused _) => finishDesc s1 q d.idx stWAITERR 0

/-- Refuse a descriptor (R338). -/
def refuseDesc (s : State) (q idx st : Nat) : State :=
  finishDesc (s.updDesc q idx (fun d => { d with refused := true })) q idx st 0

/-- Ask the owners of the remote fences of a descriptor (R372). -/
def askFences (s : State) (q idx : Nat) (l : Nat) : List Nat → State
  | [] => s.updDesc q idx (fun d => { d with phase := .checking })
  | h :: hs =>
    match sendControl s l (handleModule h) (fencePayload 0 h 0 q idx) (.fenceCheck q idx) with
    | (s1, .sent r) => askFences (s1.updDesc q idx (fun d => { d with checks := d.checks ++ [r] })) q idx l hs
    | (s1, .refused _) => refuseDesc s1 q idx stFENCE

/-- The first descriptor of a queue that has not begun (R318). -/
def Sq.next (q : Sq) : Option Desc := q.descs.find? (fun d => !d.begun)

/-- Whether a signal of queue `q` is on its way to the record of fence `i` (R237). -/
def State.signalOut (s : State) (q i : Nat) : Bool :=
  match s.mapDram (s.fence i).recOff with
  | some m =>
    let mine (r : Req) : Bool := (match r.src with | .desc k _ => k == q | _ => false) && r.place.line 0 == (Place.chan m.c m.off).line 0
    s.mem.inflight.any mine || s.mem.held.any mine
  | none => false

/-- Whether a descriptor's wait has to wait with its read of the record: the record is held at a move destination (R399), or a signal of the same
queue is on its way to it (R237). -/
def State.waitHeld (s : State) (q : Nat) (d : Desc) : Bool :=
  let i := handleIndex d.waitFence
  d.hasWait && handleModule d.waitFence == s.trb.idModule && (s.heldAt (s.fence i).recOff || s.signalOut q i)

/-- Bring a queue's next descriptor as far as it comes by itself: checks, refusals, registration (R318, R338, R369). -/
def advanceQueue (s : State) (q : Nat) : Nat → State
  | 0 => s
  | n + 1 =>
    let x := s.sq q
    match x.next with
    | none => s
    | some d =>
      let finishArg (s : State) : State :=
        let st := d.check7 s
        if st ≠ 0 then refuseDesc s q d.idx st
        else if s.waitHeld q d then s.updDesc q d.idx (fun d => { d with phase := .checked })
        else startWait s q d
      match d.phase with
      | .fetched =>
        if d.ordered && (x.descs.any (fun e => e.begun)) then s
        else
          let st := d.check6 s x q
          if st ≠ 0 then advanceQueue (refuseDesc s q d.idx st) q n
          else
            match d.remoteFences s with
            | [] => advanceQueue (finishArg s) q n
            | hs => advanceQueue (askFences s q d.idx x.locket hs) q n
      | .checked => if s.waitHeld q d then s else advanceQueue (finishArg s) q n
      | _ => s

/-- Descriptors of one queue that can begin in one command. -/
def queueFuel : Nat := 1024

def settle (s : State) (q : Nat) : State := advanceQueue s q queueFuel

/-- Bring every queue as far as it comes. -/
def settleAll (s : State) : State := s.forAll (s.que.sqs.map (fun e => e.1)) settle

/-- The next descriptor of a queue, ready to begin with this opcode. -/
def State.ready (s : State) (q op : Nat) : Option Desc :=
  match (s.sq q).next with
  | some d => if d.phase = .ready && d.op = op then some d else none
  | none => none

/-- A descriptor begins: the next one comes to begin. -/
def beginDesc (s : State) (q idx : Nat) : State :=
  s.updDesc q idx (fun d => { d with phase := .running, begun := true })

/-- Work ended: finish the descriptor and look at its queue. -/
def endDesc (s : State) (q idx status : Nat) (det : BitVec 128) : State := settle (finishDesc s q idx status det) q

/-- Release the waiters of a fence that a signal satisfies, or all of them when it is errored (R370, R373). -/
def releaseWaits (s : State) (i v : Nat) (errored : Bool) : State :=
  let hit := s.fnc.waits.filter (fun w => w.index == i && (errored || decide (w.value.toNat ≤ v)))
  let s1 := { s with fnc := { s.fnc with waits := s.fnc.waits.filter (fun w => !hit.contains w) } }
  s1.forAll hit (fun s w =>
    let s2 := raise s 0x1A0
    match w.who with
    | .desc q idx => settle (waitOutcome s2 q idx (if errored then 3 else 2)) q
    | .remote mod token tag =>
      (sendTagged s2 tag mod (leBytes 1 2 ++ leBytes 4 (s.handleOf i) ++ leBytes 8 0 ++ leBytes 1 (b2n errored) ++ leBytes 8 token)
        .notice).1)

/-- Wake what a fence operation released. -/
def wakeFence (s : State) (d : FenceDone) : State :=
  match d.wake with
  | some (i, v, e) => releaseWaits s i v e
  | none => s

/-- Error a fence of this module at once, by the module itself (R366, R374 step 6, R452 step 3). -/
def errorFence (s : State) (i code ctx : Nat) : State :=
  let f := s.fence i
  match s.mapDram f.recOff with
  | none => releaseWaits s i terminal true
  | some m =>
    let r : Req := { rid := 0, src := .desc 0 0, kind := .error (s.handleOf i) code ctx, place := .chan m.c m.off
                     dpa := 2 ^ 42 * s.trb.idModule + f.recOff, len := 8, source := queueStop, dest := chanStop m.c, dropped := true }
    releaseWaits (performFence s r m.c m.off {}).1 i terminal true

/-- End a fence: VALID is cleared, and the mark of the sector that its record was written to when no other valid fence lies there (R364,
R366). -/
def destroyFence (s : State) (i : Nat) : State :=
  let f := s.fence i
  let s1 := s.setFence i { f with valid := false }
  if s1.fnc.fences.any (fun e => e.2.valid && e.2.home == f.home) then s1 else markFence s1 f.home.1 f.home.2 false

/-- Descriptors that have not begun complete with ABORTED (R374 step 2, R452 step 2). -/
def abortUnbegun (s : State) (p : Sq → Desc → Bool) : State × Nat :=
  let hits := s.que.sqs.flatMap (fun e => (e.2.descs.filter (fun d => !d.begun && p e.2 d)).map (fun d => (e.1, d.idx)))
  let s1 := { s with fnc := { s.fnc with waits := s.fnc.waits.filter (fun w =>
    match w.who with | .desc q i => !hits.contains (q, i) | _ => true) } }
  let s2 := s1.forAll hits (fun s h => finishDesc s h.1 h.2 stABORTED 0)
  (s2.forAll (hits.map (fun h => h.1)) settle, hits.length)

end Sys2Proof.Machine
end

