-- ==== Sys2Proof/Machine/Tasks.lean ====
section
/-! DEFINITION. Tasks (R86 to R96, R118, R226, R240, R331, R355, R443, R444): their stream operations, their end and their faults;
context aborts (R374 to R377). -/

namespace Sys2Proof.Machine

/-! ## Stream operations -/

def StreamOp.isRead (o : StreamOp) : Bool := o.op == 0x10 || o.op == 0x18
def StreamOp.isWrite (o : StreamOp) : Bool := o.op == 0x11 || o.op == 0x19
def StreamOp.isAtom (o : StreamOp) : Bool := decide (0x20 ≤ o.op) && decide (o.op ≤ 0x29)
def StreamOp.isDma (o : StreamOp) : Bool := o.op == 0x18 || o.op == 0x19
def StreamOp.isSync (o : StreamOp) : Bool := o.op == 0x30 || o.op == 0x31
/-- An operation that returns data: LD, an atomic, DMARD (R141). -/
def StreamOp.returns (o : StreamOp) : Bool := o.isRead || o.isAtom
/-- An operation that is acknowledged: a write, an atomic, DMAWR (R141). -/
def StreamOp.acks (o : StreamOp) : Bool := o.isWrite || o.isAtom

/-- Bytes of a row of the operation. -/
def StreamOp.rowLen (o : StreamOp) : Nat := if o.isDma then o.rowBytes else o.size
/-- VA of a piece. -/
def StreamOp.pieceVa (o : StreamOp) (row off : Nat) : Nat := (ofSigned 64 ((o.va : Int) + row * o.vaStride) + off) % 2 ^ 64
/-- Bytes of a piece: within one aligned 256-byte block (R226). -/
def StreamOp.pieceLen (o : StreamOp) (row off : Nat) : Nat := min (o.rowLen - off) (256 - o.pieceVa row off % 256)
/-- Tile-memory offset of a piece. -/
def StreamOp.pieceTm (o : StreamOp) (row off : Nat) : Nat := o.tmOff + row * o.tmStride + off

/-- The place after a piece. -/
def StreamOp.after (o : StreamOp) (row off : Nat) : Nat × Nat :=
  let e := off + o.pieceLen row off
  if e < o.rowLen then (row, e) else (row + 1, 0)

/-- Whether an operation has requests still to send. -/
def StreamOp.unsent (o : StreamOp) : Bool := !o.isSync && (!o.redo.isEmpty || decide (o.row < o.rows))

/-- The next request of an operation: one recorded for sending again comes first (R94). -/
def StreamOp.nextPiece (o : StreamOp) : Nat × Nat :=
  match o.redo with
  | p :: _ => p
  | [] => (o.row, o.off)

/-- The operation after its next request has been sent. -/
def StreamOp.sent (o : StreamOp) : StreamOp :=
  let p := o.nextPiece
  match o.redo with
  | _ :: rest => { o with redo := rest, out := o.out ++ [p] }
  | [] => { o with row := (o.after p.1 p.2).1, off := (o.after p.1 p.2).2, out := o.out ++ [p] }

/-- Requests an operation has still to send, counted up to `n`. -/
def StreamOp.unsentUpTo (o : StreamOp) : Nat → Nat
  | 0 => 0
  | n + 1 => if o.unsent then 1 + StreamOp.unsentUpTo { o.sent with out := [] } n else 0

/-- Requests of a task that are outstanding (R86). -/
def Task.outCount (t : Task) : Nat := (t.ops.map (fun o => o.out.length)).foldl (· + ·) 0
/-- Requests outstanding and waiting for a place, counted up to 256 more (R135). -/
def Task.allCount (t : Task) : Nat := t.outCount + (t.ops.map (fun o => o.unsentUpTo 256)).foldl (· + ·) 0

/-- Writes and atomics of a task sent and not yet acknowledged (R93). -/
def Task.unacked (t : Task) : Bool := t.ops.any (fun o => o.acks && !o.out.isEmpty)

/-- Whether PUB or ACQ at sequence number `n` has completed (R141). -/
def Task.syncDone (t : Task) (o : StreamOp) : Bool :=
  !(t.ops.any (fun p => decide (p.seq < o.seq) && (if o.op = 0x30 then p.acks else p.returns)))

/-- Let finished operations go, and PUB and ACQ whose condition holds. -/
def Task.sweep (t : Task) : Task :=
  let t1 := { t with ops := t.ops.filter (fun o => o.isSync || o.unsent || !o.out.isEmpty) }
  let t2 := { t1 with ops := t1.ops.filter (fun o => !o.isSync || !t1.syncDone o) }
  { t2 with hold := t2.hold && t2.unacked }

/-- The kind of a piece's request and its data. A DMAWR reads its lines when their request is sent, after the stores of its own bundle: of the
stores that R147 lets it see or not it sees those made by then (DESIGN CHOICE, log 59). -/
def pieceReq (c : Core) (o : StreamOp) (row off : Nat) : ReqKind × List (BitVec 8) :=
  if o.isRead then (.read, [])
  else if o.op = 0x11 then (.write false, leBytes o.size o.a.toNat)
  else if o.op = 0x19 then (.write false, c.tm.readN (o.pieceTm row off) (o.pieceLen row off))
  else if o.op = 0x29 then (.signal o.a 0, [])
  else (.atom o.op o.size o.a o.b, [])

def updOp (s : State) (tid seq : Nat) (f : StreamOp → StreamOp) : State :=
  s.updTask tid (fun t => { t with ops := mapWhere (fun o => o.seq == seq) f t.ops })

/-- A request is answered with a status at the stop that it would have left (R36, R46). -/
def answerAtStop (s : State) (w : Sender) (kind : ReqKind) (dpa len st : Nat) : State :=
  let (rid, s1) := s.fresh
  let r : Req := { rid := rid, src := w.src, kind := kind, place := .away, dpa := dpa, len := len, locket := w.locket, ctx := w.ctx
                   facet := w.facet, via := w.via, source := w.source, dest := w.source }
  answer s1 r st []

/-- Send the next request of the task on core `n`; none when nothing can be sent now. -/
def pumpOne (s : State) (n : Nat) : Option State :=
  let c := s.core n
  match s.coreTask n with
  | none => none
  | some t =>
    if !(c.phase == 1 || c.phase == 4) || t.hold || !s.mayS t.ctx || decide (256 ≤ t.outCount) then none
    else
      match t.ops.find? (fun o => o.unsent) with
      | none => none
      | some o =>
        let (row, off) := o.nextPiece
        let va := o.pieceVa row off
        let access := if o.isRead then 0 else if o.isWrite then 1 else 2
        if va / 2 ^ 56 ≠ 0 then some (taskFault s n t o 6 access va 0xFFFF none)
        else
          match findRange c.near t.ctx va with
          | none =>
            if (s.walk n).isSome then none
            else some (s.setWalk n (some { stage := .lookup, va := va, who := .task t.tid, ctx := t.ctx, access := access }))
          | some e =>
            match s.checkRange e t.locket t.priv access va with
            | some k => some (taskFault s n t o k access va e.pos (some e))
            | none =>
              let src : Src := .op t.tid o.seq row off
              if !s.mayMap src (e.dpa va) then none
              else
                let (kind, data) := pieceReq c o row off
                let w : Sender := { src := src, locket := t.locket, ctx := t.ctx, facet := t.facet, pf := t.pf && t.priv
                                    source := coreStop n, via := (e.lo, e.hi) }
                let s1 := updOp (s.setCore n { c with near := nearUse c.near e }) t.tid o.seq StreamOp.sent
                match sendReq s1 w kind (e.dpa va) (o.pieceLen row off) data with
                | (s2, none) => some s2
                | (s2, some st) => some (answerAtStop s2 w kind (e.dpa va) (o.pieceLen row off) st)

/-- Send what the task on core `n` can send. -/
def pumpTask (s : State) (n : Nat) : Nat → State
  | 0 => s
  | k + 1 =>
    match pumpOne s n with
    | some s1 => pumpTask s1 n k
    | none => s

def pumpFuel : Nat := 400
def pumpCore (s : State) (n : Nat) : State := pumpTask s n pumpFuel

/-- Send what any engine can send. -/
def pumpAll (s : State) : State :=
  jobPumpAll (s.forAll ((s.cores.filter (fun e => e.2.task.isSome)).map (fun e => e.1)) pumpCore)

/-! ## Dropping requests -/

/-- Answers to the requests that `p` picks are discarded; the requests themselves go on, in their order. -/
def dropReqs (s : State) (p : Src → Bool) : State :=
  let cut (r : Req) : Req := if p r.src then { r with dropped := true } else r
  let cutT (t : Tracked) : Tracked := match t.purpose with | .access r => { t with purpose := .access (cut r) } | _ => t
  let s1 := { s with mem := { s.mem with
      inflight := s.mem.inflight.map cut, held := s.mem.held.map cut, answers := s.mem.answers.filter (fun a => !p a.req.src) } }
  s1.forAll (s1.trb.dyn.map (fun e => e.1)) (fun s q =>
    s.updDyn q (fun d => { d with tracker := d.tracker.map cutT, waiting := d.waiting.map cutT }))

def Src.ofTask (tid : Nat) : Src → Bool
  | .op t .. => t == tid
  | _ => false
def Src.ofOp (tid seq : Nat) : Src → Bool
  | .op t q .. => t == tid && q == seq
  | _ => false
def Src.ofJob (jid : Nat) : Src → Bool
  | .jobRead j _ => j == jid
  | .jobWrite j _ => j == jid
  | _ => false

/-! ## The end of a task -/

/-- A core cleared as step 6 of R92 does; no task is on it. -/
def clearedCore (c : Core) (n : Nat) : Core :=
  { c with
    arch := (coreD n).arch, tm := [], task := none, phase := 0, drained := false, ready := [], units := [], crw := [], arrays := []
    hist := [], near := [] }

/-- Clear core `n`. -/
def clearCore (s : State) (n : Nat) : State :=
  let s1 := (s.updCore n (fun c => clearedCore c n)).setWalk n none
  { s1 with pwr := { s1.pwr with requests := s1.pwr.requests.filter (fun r => r.1 != n) } }

/-- The summary of R190 as the DETAIL of a record. -/
def GuardSum.detail (g : GuardSum) : BitVec 128 :=
  Sys2Proof.Machine.detail [(16, 4, g.tileOps), (20, 2, g.escalated), (22, 2, g.direct), (24, 2, g.exceeded), (26, 2, g.firstCount),
    (28, 4, g.first)]

/-- The summary that a DETAIL holds. -/
def guardOf (d : BitVec 128) : GuardSum :=
  let v := d.toNat
  { tileOps := bits v 0 32, escalated := bits v 32 16, direct := bits v 48 16, exceeded := bits v 64 16, firstCount := bits v 80 16
    first := bits v 96 32 }

/-- Add a task's summary to a descriptor's (R331). -/
def addGuard (d : Desc) (idx : Nat) (g : GuardSum) : Desc :=
  let o := guardOf d.detail
  let better := bit g.first 23 && decide (idx < d.firstIdx)
  { d with
    firstIdx := if better then idx else d.firstIdx
    detail := GuardSum.detail { tileOps := satAdd 32 o.tileOps g.tileOps, escalated := satAdd 16 o.escalated g.escalated
                                direct := satAdd 16 o.direct g.direct, exceeded := satAdd 16 o.exceeded g.exceeded
                                firstCount := if better then g.firstCount else o.firstCount
                                first := if better then g.first else o.first } }

/-- One part of a TASK has ended (R331, R342): the descriptor completes with the last. -/
def taskPart (s : State) (q idx tidx status : Nat) (g : GuardSum) : State :=
  let s1 := s.updDesc q idx (fun d => addGuard { d with status := if d.status = 0 then status else d.status, left := d.left - 1 } tidx g)
  match s1.desc? q idx with
  | some d => if d.phase = .running && d.left = 0 then endDesc s1 q idx d.status d.detail else s1
  | none => s1

/-- Payload of the answer to a launch (log 31). -/
def launchAnswer (status : Nat) (g : GuardSum) : List (BitVec 8) := leBytes 1 4 ++ leBytes 1 status ++ leBytes 16 g.detail.toNat

/-- Whoever launched a task learns of its end (R331, R405). -/
def tellLauncher (s : State) (e : Ending) : State :=
  match e.launcher with
  | .desc q idx => taskPart s q idx e.idx e.status e.guard
  | .remote mod _ reqid budget =>
    sendResponse s 1 { pkind := 0x11, dst := mod, src := s.trb.idModule, tag := s.tagOf e.locket, budget := budget, reqid := reqid
                       ctx := e.ctx, status := e.status, payload := launchAnswer e.status e.guard }

/-- Whether a request is a write or an atomic of a task. -/
def Req.changesFor (r : Req) (tid : Nat) : Bool := Src.ofTask tid r.src && (match r.kind with | .read => false | _ => true)

/-- Whether a task's writes and atomics are still on their way (R248). -/
def State.writesOut (s : State) (tid : Nat) : Bool :=
  let away (t : Tracked) : Bool := match t.purpose with | .access r => r.changesFor tid | _ => false
  s.mem.inflight.any (fun r => r.changesFor tid) || s.mem.held.any (fun r => r.changesFor tid)
  || s.trb.dyn.any (fun d => d.2.tracker.any away || d.2.waiting.any away)

/-- Whether local or remote writes of a copy job whose answers are discarded are still on their way (R248). -/
def State.jobWritesOut (s : State) (jid : Nat) : Bool :=
  let mine (r : Req) : Bool := r.dropped && (match r.src with | .jobWrite j _ => j == jid | _ => false)
  let away (t : Tracked) : Bool := match t.purpose with | .access r => mine r | _ => false
  s.mem.inflight.any mine || s.mem.held.any mine || s.trb.dyn.any (fun d => d.2.tracker.any away || d.2.waiting.any away)

/-- Let the launchers of ended tasks learn once the tasks' writes are performed (R248). -/
def settleEndings (s : State) : State :=
  s.forAll s.que.ending (fun s e =>
    if s.writesOut e.tid then s
    else tellLauncher { s with que := { s.que with ending := s.que.ending.filter (fun x => x.tid != e.tid) } } e)

/-- A task has ended with a status: its save slot is free again (R355), and whoever launched it learns when its writes are performed. -/
def taskEnd (s : State) (tid status : Nat) (g : GuardSum) : State :=
  match s.task? tid with
  | none => s
  | some t =>
    let s1 := (s.dropTask tid).updCtx t.ctx (fun c => match t.slot with | some i => { c with used := setDel i c.used } | none => c)
    let s2 := if t.core < 192 && t.slot.isSome then raise s1 t.core else s1
    let e : Ending := { tid := tid, launcher := t.launcher, idx := t.idx, ctx := t.ctx, locket := t.locket, status := status, guard := g }
    settleEndings { s2 with que := { s2.que with ending := s2.que.ending ++ [e] } }

/-- Add picoseconds to TIME, which holds at its largest value (R446). -/
def Acct.addTime (a : Acct) (ps : Nat) : Acct := { a with time := min (a.time + ps) (1000 * 2 ^ 64 - 1) }

/-- Core cycles of a task, or of a switch of it, count at the period of the setpoint in force (R446). -/
def chargeTime (s : State) (n ctx locket k : Nat) : State :=
  charge s ctx locket (fun a => a.addTime (k * 40000 / max 1 (s.pcore n).fSet))

/-- Cycles of core `n` that run a task: CORE_CYCLE and TIME (R101, R446). -/
def addCycles (s : State) (n ctx locket k : Nat) : State :=
  chargeTime (s.updCore n (fun c => { c with cycle := c.cycle + k })) n ctx locket k

/-- The cycles that a task has spent on its core since its last bundle issued count when it leaves (R101): after END those until its arrays
are done, and a free number at a wait. -/
def passCycles (s : State) (n : Nat) : State :=
  match s.coreTask n with
  | none => s
  | some t =>
    let c := s.core n
    if c.phase = 1 ∨ c.phase = 2 ∨ c.phase = 4 then
      let (k, s1) := s.takeFree
      let least := if c.phase = 4 then (c.arrays.map (fun a => a.2.freeAt - c.now)).foldl max 0 else 0
      addCycles s1 n t.ctx t.locket (least + Config.coreWait k)
    else s

/-- The cycles of a switch count in TIME to the task switched (R446). -/
def switchCycles (s : State) (n : Nat) (t : Task) : State :=
  let (k, s1) := s.takeFree
  chargeTime s1 n t.ctx t.locket (Config.coreWait k)

/-- The summary that a task has gathered: on its core, or in its saved state (R190). -/
def State.guardSum (s : State) (t : Task) : GuardSum :=
  match s.onCore t.tid with
  | some n => if (s.core n).phase = 3 then t.arch.guard else (s.core n).arch.guard
  | none => t.arch.guard

/-- PC of the task on core `n`, or of the one that it switches in (R554, R561). -/
def State.taskPc (s : State) (n : Nat) : Nat :=
  match s.coreTask n with
  | some t => if (s.core n).phase = 3 then t.arch.pc else (s.core n).arch.pc
  | none => 0

/-- Drop a task wherever it stands (R374 step 3): it ends with a status, and with the summary it has gathered (R331). -/
def killTask (s : State) (tid status : Nat) : State :=
  match s.task? tid with
  | none => s
  | some t =>
    let s1 := dropReqs s (Src.ofTask tid)
    let s2 := match s1.onCore tid with
      | some n => clearCore (passCycles s1 n) n
      | none => s1
    taskEnd s2 tid status (s.guardSum t)

/-- A code load has ended with a status: whoever launched it learns (R332, R405). -/
def endLoad (s : State) (lid status : Nat) : State :=
  match s.que.loads.find? (fun x => x.lid == lid) with
  | none => s
  | some x =>
    let s1 := { s with que := { s.que with loads := s.que.loads.filter (fun y => y.lid != lid) } }
    match x.launcher with
    | .desc q idx => taskPart s1 q idx 0 status {}
    | .remote mod _ reqid budget =>
      sendResponse s1 1 { pkind := 0x11, dst := mod, src := s1.trb.idModule, tag := s1.tagOf x.locket, budget := budget, reqid := reqid
                          ctx := x.ctx, status := status, payload := launchAnswer status {} }

/-- A copy job has ended: its descriptor completes (R219, R333); so does the load whose source a code job reads. -/
def endJob (s : State) (jid : Nat) : State :=
  match s.job? jid with
  | none => s
  | some j =>
    let s1 := raise (s.dropJob jid) (0x170 + j.ce)
    let s2 := if (s1.walk (192 + j.ce)).any (fun w => w.who == .job jid) then s1.setWalk (192 + j.ce) none else s1
    let det := detail [(16, 8, j.written), (24, 8, j.skipped.getD 0)]
    jobPumpEngine (if j.code then endLoad s2 jid (j.err.getD 0) else endDesc s2 j.q j.idx (j.err.getD 0) det) j.ce

/-! ## Context aborts -/

/-- Whether a descriptor is of a context (R374 step 2). -/
def Desc.ofCtx (d : Desc) (q : Sq) (n : Nat) : Bool := d.recordCtx q == n

/-- The numbers of the queues that hold any contents. -/
def State.queueIds (s : State) : List Nat := s.que.sqs.map (fun e => e.1)

/-- Fault entries of a context end, and what is held or deferred of it is dropped (R293). -/
def endCtxFaults (s : State) (n : Nat) : State :=
  let heldOnes := s.xlt.heldTable.filter (fun f => f.ctx == n)
  let s1 := { s with xlt := { s.xlt with heldTable := s.xlt.heldTable.filter (fun f => f.ctx != n) } }
  let s2 := s1.forAll heldOnes (fun s f => clearPend s f.engine)
  endEntries s2 (fun o => o.fault.ctx == n)

/-- Steps 1 to 4 of R374, and the stop of step 5: what the abort counts. -/
def abortStart (s : State) (n : Nat) : State × Abort :=
  let s1 := s.updCtx n (fun c => { c with state := 2 })
  let s2 := s1.forAll (s1.queueIds.filter (fun q => !(s1.sq q).kernel && (s1.sq q).ctx == n && (s1.sq q).enable)) stopQueue
  let (s3, descs) := abortUnbegun s2 (fun q d => d.ofCtx q n)
  let ts := s3.tasks.filter (fun t => t.ctx == n)
  let killed := countP (fun t => t.slot.isSome) ts
  let s4 := s3.forAll (ts.map (fun t => t.tid)) (fun s t => killTask s t stABORTED)
  let faults := countP (fun o => o.fault.ctx == n) s4.xlt.outst
  let s5 := endCtxFaults s4 n
  let s6 := s5.forAll (s5.mem.jobs.filter (fun j => j.ctx == n)) (fun s j =>
    (jobFail s j.jid stABORTED).updJob j.jid (fun j => { j with paused := false, ready := [] }))
  let s7 := s6.forAll (s6.mem.jobs.filter (fun j => j.ctx == n)) (fun s j =>
    if (s.walk (192 + j.ce)).any (fun w => w.who == .job j.jid) then s.setWalk (192 + j.ce) none else s)
  (s7, { ctx := n, tasks := killed, descs := descs, faults := faults })

/-- Start an abort of an ACTIVE context by a descriptor, or by the module itself (R553). -/
def startAbort (s : State) (n : Nat) (waiter : Option (Nat × Nat)) (cause : Nat) : State :=
  if (s.ctx n).state = 1 then
    let (s1, a) := abortStart s n
    jobPumpAll { s1 with fnc := { s1.fnc with aborts := s1.fnc.aborts ++
        [{ a with waiters := waiter.toList, cause := cause }] } }
  else s

/-- Whether a request is of a task or a copy job of a context of this module; descriptors' fence operations and other modules' requests are
not. -/
def Req.ofCtx (r : Req) (n : Nat) : Bool := r.ctx == n && r.src.ofWork

/-- Requests of a context that are still outstanding. -/
def State.ctxReqs (s : State) (n : Nat) : Nat :=
  let away (t : Tracked) : Bool := match t.purpose with | .access r => r.ofCtx n | _ => false
  countP (fun r => r.ofCtx n) s.mem.inflight + countP (fun r => r.ofCtx n) s.mem.held
  + ((upto 12).map (fun p => countP away (s.dyn p).tracker + countP away (s.dyn p).waiting)).foldl (· + ·) 0

/-- No request of a context is performed or answered from now on (R375). -/
def forgetCtxReqs (s : State) (n : Nat) : State :=
  let mine (r : Req) : Bool := r.ofCtx n
  let s1 := { s with mem := { s.mem with
      inflight := s.mem.inflight.filter (fun r => !mine r), held := s.mem.held.filter (fun r => !mine r) } }
  s1.forAll (s1.trb.dyn.map (fun e => e.1)) (fun s p =>
    s.updDyn p (fun d => { d with
      tracker := mapWhere (fun t => match t.purpose with | .access r => mine r | _ => false) (fun t => { t with purpose := .notice }) d.tracker
      waiting := d.waiting.filter (fun t => match t.purpose with | .access r => !mine r | _ => true) }))

/-- Valid fences that `p` picks. -/
def State.fencesWhere (s : State) (p : Fence → Bool) : List Nat := (s.fnc.fences.filter (fun e => e.2.valid && p e.2)).map (fun e => e.1)

/-- The RESET_DONE event of a level (R561). -/
def resetDone (s : State) (level unit src locket ctx cause us : Nat) : State :=
  postEvent s
    { type := 0x0223, sev := 0, locket := locket, ctx := ctx, source := src, object := level + unit * 65536
      detail := detail [(16, 1, cause), (20, 4, us), (24, 4, s.rst.count)] }

/-- Steps 5 to 8 of R374 for an abort in progress. -/
def finishAbort (s : State) (a : Abort) : State :=
  let n := a.ctx
  let s0 := { s with fnc := { s.fnc with aborts := s.fnc.aborts.filter (fun x => x.ctx != n) } }
  let left := s0.ctxReqs n
  let s1 := settleEndings (forgetCtxReqs s0 n)
  let s2 := s1.forAll ((s1.mem.jobs.filter (fun j => j.ctx == n)).map (fun j => j.jid)) (fun s jid => endJob (dropReqs s (Src.ofJob jid)) jid)
  let fs := s2.fencesWhere (fun f => f.sigValid && f.sigCtx == n)
  let s3 := s2.forAll fs (fun s i => errorFence s i stABORTED n)
  let s4 := (dropRanges s3 (fun e => e.ctx == n)).updCtx n (fun c => { c with root := 0, state := 3 })
  let det := detail [(16, 2, a.tasks), (18, 2, a.descs), (20, 4, a.reqs + left), (24, 2, fs.length), (26, 2, a.faults)]
  let s5 := s4.forAll a.waiters (fun s w => endDesc s w.1 w.2 stOK det)
  let l := (s5.ctx n).locket
  let (k, s6) := s5.takeFree
  resetDone s6 0 n (qpUnit (s6.slot l).active.qp) l n a.cause (Config.elapsedUs k % 2 ^ 32)

/-! ## Faults that stop a task for good (R96, R542, R544) -/

/-- OBJECT of TASK_FAULT (R561). -/
def Launcher.object : Launcher → Nat
  | .desc q idx => idx % 65536 + q * 65536
  | .remote .. => 0

/-- TASK_FAULT (R561). `kind`: 0 core fault, 1 uncorrectable storage error, 2 task lost to a core reset. -/
def taskFaultEvent (s : State) (t : Task) (n cause slot kind status pc va : Nat) : State :=
  postEvent s
    { type := 0x0220, sev := 3, locket := t.locket, ctx := t.ctx, source := n, object := t.launcher.object
      detail := detail [(16, 1, cause), (17, 1, slot), (18, 1, kind), (19, 1, status), (20, 4, pc), (24, 8, va)] }

/-- The task on core `n` stops for good: CORE_FAULT, TASK_FAULT, its end, and the reset of its context. An uncorrectable error of the core's
storage (kind 1) leaves CORE_FAULT as it was: R96 lists no cause for it (DESIGN CHOICE, log 56). -/
def stopTask (s : State) (n cause slot pc kind status va : Nat) : State :=
  match s.coreTask n with
  | none => s
  | some t =>
    let s1 := if kind = 0 then coreFault s n cause slot t.ctx pc else s
    let s2 := taskFaultEvent s1 t n cause slot kind (if cause = 7 then status else 0) pc va
    let s3 := killTask s2 t.tid (if cause = 7 then status else stFAULTED)
    startAbort s3 t.ctx none 1

/-- A stream operation of a task completes with an error (R89, R153): the task stops, at its next switch-in when it is off its core. -/
def streamError (s : State) (tid status : Nat) (o : StreamOp) (va : Nat) : State :=
  match s.onCore tid with
  | some n =>
    if (s.core n).phase ≠ 3 then stopTask s n 7 o.slot o.pc 0 status va
    else s.updTask tid (fun t => { t with err := some (t.err.getD (status, o.pc, o.slot, va)) })
  | none => s.updTask tid (fun t => { t with err := some (t.err.getD (status, o.pc, o.slot, va)) })

/-! ## Answers to a task -/

/-- Write a general register; g0 keeps zero (R65). -/
def Arch.setG (a : Arch) (r : Nat) (v : BitVec 64) : Arch := if r = 0 then a else { a with g := SMap.set (fun _ => 0) a.g r v }
def Arch.getG (a : Arch) (r : Nat) : BitVec 64 := if r = 0 then 0 else SMap.get (fun _ => 0) a.g r

/-- The value that a load or an atomic returns (R132, R138, R140). -/
def returned (o : StreamOp) (data : List (BitVec 8)) : BitVec 64 :=
  let n := o.size
  let v := leNat data
  let signed := if o.op = 0x10 then o.sx else decide (n = 4)
  if signed && decide (n < 8) then BitVec.ofInt 64 (toSigned (8 * n) v) else BitVec.ofNat 64 v

/-- Write the register of a task, on its core or in its saved state. -/
def taskSetG (s : State) (tid r : Nat) (v : BitVec 64) : State :=
  match s.onCore tid with
  | some n => if (s.core n).phase = 3 then s.updTask tid (fun t => { t with arch := t.arch.setG r v })
              else s.updCore n (fun c => { c with arch := c.arch.setG r v })
  | none => s.updTask tid (fun t => { t with arch := t.arch.setG r v })

/-- Deliver an answer to a piece of a stream operation (R86, R138, R141, R146). -/
def deliver (s : State) (tid seq row off status : Nat) (data : List (BitVec 8)) : State :=
  match s.task? tid with
  | none => s
  | some t =>
    match t.ops.find? (fun o => o.seq == seq) with
    | none => s
    | some o =>
      if !o.out.contains (row, off) then s
      else
        let s1 := updOp s tid seq (fun o => { o with out := o.out.filter (· != (row, off)) })
        if status ≠ stOK then streamError (s1.updTask tid Task.sweep) tid status o (o.pieceVa row off)
        else
          let s2 :=
            if o.op = 0x18 then
              match s1.onCore tid with
              | some n => s1.updCore n (fun c => { c with tm := c.tm.writeN (o.pieceTm row off) data })
              | none => s1
            else if o.returns then taskSetG s1 tid o.dst (returned o data)
            else s1
          let s3 := s2.updTask tid Task.sweep
          match s3.onCore tid with
          | some n => pumpCore s3 n
          | none => s3

/-! ## Scheduling (R355, R443, R444) -/

/-- Whether a core can take a task: none is on it, and neither reset, park, retirement nor debug keep it. -/
def State.coreFree (s : State) (n : Nat) : Bool :=
  let c := s.core n
  c.task.isNone && !c.parked && !c.resetting && !s.coreRetired n && !s.moduleFenced && (s.half (coreHalf n)).state == 0 && !s.pdyn.trip

/-- Windows that a code load in progress or waiting covers keep their tasks off the core (R69). -/
def State.loadBlocks (s : State) (n lo hi : Nat) : Bool :=
  s.que.loads.any (fun x => x.cores.contains n && decide (x.off < hi) && decide (lo < x.off + x.len))

/-- The core that virtual core `v` of a Setting maps to here. -/
def State.coreOfV (s : State) (set v : Nat) : Option Nat :=
  let m := (s.setting set).active
  if m.valid && s.localEntry m v then some (m.coreNum v) else none

/-- Whether a task is on a core that its virtual core does not map to (R401). -/
def State.misplaced (s : State) (t : Task) : Bool :=
  match s.onCore t.tid with
  | some n => s.coreOfV t.set t.vcore != some n
  | none => false

/-- Whether a task that has not started finds a free save slot (R355). -/
def State.slotFor (s : State) (t : Task) : Bool := (upto (s.ctx t.ctx).saveN).any (fun i => !(s.ctx t.ctx).used.contains i)

/-- Runnable tasks tied to a virtual core (R443): those on a core, switched out, or only waiting for the core to start. -/
def State.loadOf (s : State) (set v : Nat) : Nat :=
  countP (fun t => t.set == set && t.vcore == v && (t.st == .runnable || t.st == .onCore || (t.st == .waiting && s.slotFor t))) s.tasks

/-- The virtual core for a task: its own while it is local; else the local one with the fewest runnable tasks, the lowest among
equals, and for a task that lost its virtual core one whose core is free (R401, R443). -/
def State.placeOf (s : State) (t : Task) : Option Nat :=
  let m := (s.setting t.set).active
  let locals := if m.valid then (upto m.ncore).filter (s.localEntry m) else []
  let least (l : List Nat) : Option Nat :=
    match l with
    | [] => none
    | v :: vs => some (vs.foldl (fun b w => if s.loadOf t.set w < s.loadOf t.set b then w else b) v)
  if t.vcore = 0xFFFF then least locals
  else if locals.contains t.vcore then some t.vcore
  else least (locals.filter (fun v => s.coreFree (m.coreNum v)))

/-- Whether a task comes before another (R444). -/
def Task.before (t u : Task) : Bool := decide (t.prio < u.prio) || (t.prio == u.prio && decide (t.since ≤ u.since))

/-- Whether a task may be placed on core `n` now, its turn apart. -/
def State.fits (s : State) (t : Task) (n : Nat) : Bool :=
  (match s.placeOf t with | some v => s.coreOfV t.set v == some n | none => false)
  && (s.ctx t.ctx).state == 1 && !s.loadBlocks n t.arch.winBase t.arch.winLimit
  && (t.st == .runnable || (t.st == .waiting && s.slotFor t))

/-- Whether it is a task's turn on core `n`. -/
def State.turn (s : State) (t : Task) (n : Nat) : Bool :=
  s.fits t n && !s.tasks.any (fun u => u.tid != t.tid && s.fits u n && u.before t && !t.before u)

end Sys2Proof.Machine
end

