-- ==== Sys2Proof/Machine/Bundle.lean ====
section
/-! DEFINITION. Bundles (R103 to R152): the fields of the head and of each slot, what a slot reads and writes, its unit and latency,
and what makes its encoding illegal. Registers are numbered g 0 to 63, v 64 to 95, p 96 to 111, accumulator row r of array a
128 + 64 a + r, control register c 384 + c. -/

namespace Sys2Proof.Machine

/-! ## The bundle -/

/-- A fetched bundle: its place, its head and its present slots by position 0 to 6 (R103, R104), none of which is held where the bundle
reaches beyond what may be fetched: `cut`. -/
structure Bundle where
  pc : Nat
  head : Nat
  slots : List (Nat × Nat)
  cut : Bool := false
deriving DecidableEq, Repr

/-- Number of slots that a head announces. -/
def slotCount (head : Nat) : Nat := (bitList head 7).length
/-- Length in bytes of a bundle by its head (R103). -/
def bundleLen (head : Nat) : Nat := 16 * (1 + slotCount head)
def Bundle.len (b : Bundle) : Nat := bundleLen b.head

/-- A 16-byte word of instruction memory (R107). -/
def imWord (im : Cells) (a : Nat) : Nat := leNat (im.readN a 16)

/-- The bundle at an offset. -/
def fetchBundle (im : Cells) (pc : Nat) : Bundle :=
  let h := imWord im pc
  { pc := pc, head := h, slots := (bitList h 7).zipIdx.map (fun x => (x.1, imWord im (pc + 16 * (x.2 + 1)))) }

def Bundle.slot? (b : Bundle) (i : Nat) : Option Nat := (b.slots.find? (fun x => x.1 == i)).map (fun x => x.2)

/-! ## Register kinds: 0 none, 1 g, 2 v, 3 p -/

def regId (kind i : Nat) : Nat := if kind = 1 then i else if kind = 2 then 64 + i else 96 + i
def accId (a r : Nat) : Nat := 128 + 64 * a + r
def crId (c : Nat) : Nat := 384 + c
/-- Whether a field names a register of its file (R107). -/
def regOk (kind i : Nat) : Bool := if kind = 2 then decide (i < 32) else if kind = 3 then decide (i < 16) else true

/-- What a slot reads and writes, its unit and what is wrong with it. -/
structure SlotInfo where
  bad : Bool := false
  priv : Bool := false                -- raises cause 0x02 outside a privileged task (R151)
  dsts : List Nat := []
  srcs : List Nat := []
  lat : Nat := 1
  grp : Nat := 0                      -- the group of R74 for the initiation interval
  ii : Nat := 1
deriving DecidableEq, Repr

/-- Whether any bit outside `used` is set. -/
def strayBits (w used : Nat) : Bool := decide (w &&& used ≠ w)

/-! ## The head (R108 to R112) -/

def headCop (h : Nat) : Nat := bits h 8 8
def headDisp (h : Nat) : Int := toSigned 15 (bits h 16 15)
def headGa (h : Nat) : Nat := bits h 40 6
def headGb (h : Nat) : Nat := bits h 48 6
def headGd (h : Nat) : Nat := bits h 56 6
def headCond (h : Nat) : Nat := bits h 32 4
def headLc (h : Nat) : Nat := bits h 16 2
def headCi (h : Nat) : Bool := bit h 18
def headStart (h : Nat) : Nat := bits h 64 14
def headEnd (h : Nat) : Nat := bits h 80 14
def headCount (h : Nat) : Nat := bits h 96 32

def bitsMask (lo w : Nat) : Nat := (2 ^ w - 1) <<< lo

/-- Operand bits that a control operation uses; none when it is not defined. -/
def copMask (cop : Nat) : Option Nat :=
  match cop with
  | 0x00 => some 0
  | 0x01 => some (bitsMask 16 15)
  | 0x02 => some (bitsMask 16 15 ||| bitsMask 32 4 ||| bitsMask 40 6 ||| bitsMask 48 6)
  | 0x04 => some (bitsMask 16 15 ||| bitsMask 56 6)
  | 0x05 => some (bitsMask 40 6)
  | 0x08 => some (bitsMask 16 3 ||| bitsMask 40 6 ||| bitsMask 64 14 ||| bitsMask 80 14 ||| bitsMask 96 32)
  | 0x10 => some (bitsMask 16 20)
  | 0x18 => some 0
  | 0x20 => some (bitsMask 40 6 ||| bitsMask 48 6)
  | _ => none

def headInfo (h : Nat) : SlotInfo :=
  let cop := headCop h
  match copMask cop with
  | none => { bad := true }
  | some m =>
    let c := headCond h
    let badOperands :=
      (cop == 0x02 && (if [0x8, 0x9, 0xA].contains c then headGb h != 0 || decide (15 < headGa h) else decide (5 < c)))
      || (cop == 0x08 && ((if headCi h then headGa h != 0 else headCount h != 0) || headStart h == 0
            || decide (headEnd h < headStart h)))
    { bad := strayBits h (m ||| 0xFF7F) || badOperands
      priv := cop == 0x20
      dsts := if cop = 0x04 then [headGd h] else []
      srcs := match cop with
        | 0x02 => if 8 ≤ c then [96 + headGa h % 16] else [headGa h, headGb h]
        | 0x05 => [headGa h]
        | 0x08 => if headCi h then [] else [headGa h]
        | 0x20 => [headGa h, headGb h]
        | _ => [] }

/-! ## Scalar slots (R119 to R122) -/

def slotOp (w : Nat) : Nat := bits w 0 8
def slotDst (w : Nat) : Nat := bits w 8 6
def slotA (w : Nat) : Nat := bits w 16 6
def slotB (w : Nat) : Nat := bits w 24 6
def slotImm (w : Nat) : Nat := bits w 64 64
def scImmf (w : Nat) : Bool := bit w 32

/-- Kinds of destination and sources of a scalar opcode; none when it is not defined (R120). -/
def scalarKinds (op : Nat) : Option (Nat × Nat × Nat) :=
  if op = 0x10 then some (1, 0, 1)
  else if op = 0x11 ∨ op = 0x12 then some (1, 1, 0)
  else if (0x01 ≤ op ∧ op ≤ 0x13) ∨ (0x20 ≤ op ∧ op ≤ 0x22) ∨ (0x28 ≤ op ∧ op ≤ 0x2B) then some (1, 1, 1)
  else if op = 0x30 ∨ op = 0x31 ∨ op = 0x32 then some (3, 3, 3)
  else if op = 0x33 then some (3, 3, 0)
  else if op = 0x34 ∨ op = 0x35 then some (3, 0, 0)
  else if op = 0x36 then some (3, 0, 1)
  else if op = 0x37 then some (1, 3, 0)
  else if op = 0x38 then some (1, 0, 0)
  else if op = 0x39 then some (0, 1, 0)
  else none

/-- Reading and writing control registers (R122): 0 nobody, 1 anybody, 2 a privileged task. -/
def crAccess (n : Nat) (wr : Bool) : Nat :=
  if n = 0x002 ∨ n = 0x006 then 1
  else if wr then 0
  else if n = 0x001 ∨ n = 0x003 ∨ n = 0x004 ∨ n = 0x005 then 2 else 0

/-- The registers named by fields of given kinds. -/
def named (l : List (Nat × Nat)) : List Nat := (l.filter (fun x => x.1 != 0)).map (fun x => regId x.1 x.2)

def scalarInfo (w : Nat) : SlotInfo :=
  let op := slotOp w
  match scalarKinds op with
  | none => { bad := true }
  | some (kd, ka, kb0) =>
    let kb := if scImmf w then 0 else kb0
    let cr := op == 0x38 || op == 0x39
    let cid := crId (slotImm w % 4096)
    let acc := crAccess (slotImm w % 4096) (op == 0x39)
    { bad := strayBits w (0xFF ||| bitsMask 8 6 ||| bitsMask 16 6 ||| bitsMask 24 6 ||| bitsMask 32 1 ||| bitsMask 64 64)
        || (scImmf w && slotB w != 0) || !regOk kd (slotDst w) || !regOk ka (slotA w) || !regOk kb (slotB w)
        || (cr && (scImmf w || decide (4096 ≤ slotImm w) || acc == 0))
      priv := cr && acc == 2
      dsts := named [(kd, slotDst w)] ++ (if op = 0x39 then [cid] else [])
      srcs := named [(ka, slotA w), (kb, slotB w)] ++ (if op = 0x38 then [cid] else [])
      lat := if 0x28 ≤ op ∧ op ≤ 0x2B then 20 else if 0x20 ≤ op ∧ op ≤ 0x22 then 3 else if cr then 2 else 1
      grp := if 0x28 ≤ op ∧ op ≤ 0x2B then 2 else if 0x20 ≤ op ∧ op ≤ 0x22 then 1 else if cr then 4 else if 0x30 ≤ op then 3 else 0
      ii := if 0x28 ≤ op ∧ op ≤ 0x2B then 20 else 1 }

/-! ## Vector slots (R124 to R129) -/

def vPg (w : Nat) : Nat := bits w 40 4
def vPge (w : Nat) : Bool := bit w 44
def vType (w : Nat) : Nat := bits w 45 3
def vScal (w : Nat) : Bool := bit w 48
def vImmf (w : Nat) : Bool := bit w 49
def vRmode (w : Nat) : Nat := bits w 64 2
def vFmtD (w : Nat) : Nat := bits w 72 8
def vFmtS (w : Nat) : Nat := bits w 80 8
def vArr (w : Nat) : Nat := bits w 88 2
def vImm32 (w : Nat) : Nat := bits w 96 32
def slotC (w : Nat) : Nat := bits w 32 6

/-- Kinds of VD, VA, VB, VC of a vector opcode (R126). -/
def vectorKinds (op : Nat) : Option (Nat × Nat × Nat × Nat) :=
  if op = 0x0D then some (2, 0, 2, 0)
  else if op = 0x0E then some (2, 2, 2, 3)
  else if 0x01 ≤ op ∧ op ≤ 0x0F then some (2, 2, 2, 0)
  else if 0x10 ≤ op ∧ op ≤ 0x14 then some (3, 2, 2, 0)
  else if op = 0x15 then some (1, 2, 0, 0)
  else if op = 0x16 then some (2, 0, 1, 0)
  else if 0x43 ≤ op ∧ op ≤ 0x45 then some (2, 2, 2, 2)
  else if 0x40 ≤ op ∧ op ≤ 0x47 then some (2, 2, 2, 0)
  else if (0x50 ≤ op ∧ op ≤ 0x52) ∨ (0x60 ≤ op ∧ op ≤ 0x65) ∨ (0x70 ≤ op ∧ op ≤ 0x74) then some (2, 2, 0, 0)
  else if op = 0x78 then some (2, 0, 2, 0)
  else if op = 0x79 then some (0, 2, 2, 0)
  else none

/-- Opcodes whose TYPE must be 0 (R124). -/
def typeZero (op : Nat) : Bool :=
  [0x13, 0x14, 0x50, 0x51, 0x52, 0x61, 0x64, 0x65, 0x70, 0x71, 0x72, 0x73, 0x74, 0x78, 0x79].contains op
  || (decide (0x40 ≤ op) && decide (op ≤ 0x47))

/-- The pairs of formats that a conversion allows (R156). -/
def convOk (op s d : Nat) : Bool :=
  let vc (c : Nat) : Bool := (fmtInfo c).any (fun f => f.vcvt)
  let vq (c : Nat) : Bool := (fmtInfo c).any (fun f => f.vqnt)
  if op = 0x50 then vc s && vc d
  else if op = 0x51 then s == 0x01 && vq d
  else if op = 0x52 then vq s && d == 0x01
  else true

/-- The row that an accumulator move names (R129). -/
def vRow (a : Arch) (w : Nat) : Nat := if vImmf w then vImm32 w % 64 else (a.getG (slotB w)).toNat % 64

/-- A VACCWR writes the row it names: the double write of R75 is judged by row, which is what a move reaches (R66; DEDUCED, log 56). The
register fields that an opcode does not use (VA of VMOV, VB under IMMF, VC) may hold any value (R107; DESIGN CHOICE, log 59). -/
def vectorInfo (a : Arch) (w : Nat) : SlotInfo :=
  let op := slotOp w
  match vectorKinds op with
  | none => { bad := true }
  | some (kd, ka, kb0, kc) =>
    let kb := if kb0 = 2 then (if vScal w then 1 else if vImmf w then 0 else 2) else kb0
    let row := op == 0x78 || op == 0x79
    let dst := named [(kd, slotDst w)]
    { bad := strayBits w (0xFF ||| bitsMask 8 6 ||| bitsMask 16 6 ||| bitsMask 24 6 ||| bitsMask 32 6 ||| bitsMask 40 10
            ||| bitsMask 64 2 ||| bitsMask 72 18 ||| bitsMask 96 32)
        || decide (2 < vType w) || vRmode w == 3 || (typeZero op && vType w != 0) || (vScal w && vImmf w)
        || !regOk kd (slotDst w) || !regOk ka (slotA w) || !regOk kb (slotB w) || !regOk kc (slotC w)
        || ((op == 0x15 || op == 0x16) && decide (2048 / laneWidth (vType w) ≤ vImm32 w))
        || (op == 0x51 && slotDst w % 2 == 1) || (op == 0x52 && slotA w % 2 == 1)
        || (row && vScal w == vImmf w) || !convOk op (vFmtS w) (vFmtD w)
      dsts := dst ++ (if op = 0x51 then [64 + slotDst w + 1] else []) ++ (if op = 0x79 then [accId (vArr w) (vRow a w)] else [])
      srcs := named [(ka, slotA w), (kb, slotB w), (kc, slotC w)] ++ (if op = 0x52 then [64 + slotA w + 1] else [])
        ++ (if vPge w then [96 + vPg w] else []) ++ (if vPge w || op == 0x16 then dst else [])
        ++ (if vPge w && op == 0x51 then [64 + slotDst w + 1] else [])
      lat := if op ≤ 0x16 then 2 else if op ≤ 0x52 then 4 else if op ≤ 0x65 then 8 else if op ≤ 0x74 then 12 else 4
      grp := if op ≤ 0x16 then 0 else if op ≤ 0x47 then 1 else if op ≤ 0x52 then 2 else if op ≤ 0x65 then 3 else if op ≤ 0x74 then 4 else 5
      ii := if op ≤ 0x52 then 1 else if op ≤ 0x65 then 2 else if op ≤ 0x74 then 4 else 1 }

/-! ## The tensor slot (R130, R131) -/

def tArr (w : Nat) : Nat := bits w 8 2
def tDoff (w : Nat) : Nat := bits w 64 22

/-- A TILE writes every row of its array's accumulator (R65, R74). -/
def tensorInfo (w : Nat) : SlotInfo :=
  { bad := slotOp w != 0x01 || strayBits w (0xFF ||| bitsMask 8 2 ||| bitsMask 16 6 ||| bitsMask 64 22), srcs := [slotA w]
    dsts := (upto 64).map (accId (tArr w)) }

/-! ## Stream slots (R132 to R142) -/

def stSize (w : Nat) : Nat := bits w 40 3
def stSx (w : Nat) : Bool := bit w 43
def stTag (w : Nat) : Nat := bits w 48 4

/-- Kinds of D, GB and GC, and whether GA and IMM, SIZE, SX and TAG are used (R133). -/
def streamKinds (op : Nat) : Option (Nat × Nat × Nat × Bool × Bool × Bool × Bool) :=
  match op with
  | 0x01 => some (1, 0, 0, true, true, true, false)
  | 0x02 => some (0, 1, 0, true, true, false, false)
  | 0x03 => some (2, 0, 0, true, false, false, false)
  | 0x04 => some (0, 2, 0, true, false, false, false)
  | 0x05 => some (3, 0, 0, true, false, false, false)
  | 0x06 => some (0, 3, 0, true, false, false, false)
  | 0x10 => some (1, 0, 0, true, true, true, false)
  | 0x11 => some (0, 1, 0, true, true, false, false)
  | 0x18 => some (0, 1, 1, true, false, false, true)
  | 0x19 => some (0, 1, 1, true, false, false, true)
  | 0x20 => some (1, 1, 0, true, false, false, false)
  | 0x21 => some (1, 1, 0, true, false, false, false)
  | 0x22 => some (1, 1, 0, true, false, false, false)
  | 0x23 => some (1, 1, 0, true, true, false, false)
  | 0x24 => some (1, 1, 0, true, true, false, false)
  | 0x25 => some (1, 1, 0, true, true, false, false)
  | 0x26 => some (1, 1, 0, true, true, false, false)
  | 0x27 => some (1, 1, 0, true, true, false, false)
  | 0x28 => some (1, 1, 1, true, true, false, false)
  | 0x29 => some (1, 1, 0, true, false, false, false)
  | 0x30 => some (0, 0, 0, false, false, false, false)
  | 0x31 => some (0, 0, 0, false, false, false, false)
  | 0x38 => some (0, 0, 0, false, false, false, false)
  | _ => none

/-- Stream operations proper: what R142 lists. -/
def isStreamOp (op : Nat) : Bool := decide (0x10 ≤ op) && decide (op ≤ 0x31)
/-- Tile-memory loads and stores. -/
def isTileMem (op : Nat) : Bool := decide (0x01 ≤ op) && decide (op ≤ 0x06)
def isDmaOp (op : Nat) : Bool := op == 0x18 || op == 0x19

/-- Bytes that a stream slot's access moves at A. -/
def stBytes (w : Nat) : Nat :=
  match slotOp w with
  | 0x03 => 256
  | 0x04 => 256
  | 0x05 => 32
  | 0x06 => 32
  | 0x20 => 4
  | 0x21 => 8
  | 0x22 => 4
  | 0x29 => 8
  | _ => 2 ^ stSize w
/-- Alignment of A (R133). -/
def stAlign (w : Nat) : Nat :=
  match slotOp w with
  | 0x03 => 64
  | 0x04 => 64
  | 0x18 => 64
  | 0x19 => 64
  | 0x30 => 1
  | 0x31 => 1
  | 0x38 => 1
  | _ => stBytes w

/-- An 8-byte load into g may have SX set, which then means nothing (R132; DESIGN CHOICE, log 59). -/
def streamInfo (w : Nat) : SlotInfo :=
  let op := slotOp w
  match streamKinds op with
  | none => { bad := true }
  | some (kd, kb, kc, ga, size, sx, tag) =>
    { bad := strayBits w (0xFF ||| (if kd ≠ 0 then bitsMask 8 6 else 0) ||| (if ga then bitsMask 16 6 ||| bitsMask 64 64 else 0)
            ||| (if kb ≠ 0 then bitsMask 24 6 else 0) ||| (if kc ≠ 0 then bitsMask 32 6 else 0) ||| (if size then bitsMask 40 3 else 0)
            ||| (if sx then bitsMask 43 1 else 0) ||| (if tag then bitsMask 48 4 else 0))
        || decide (3 < stSize w) || (decide (0x23 ≤ op) && decide (op ≤ 0x28) && decide (stSize w < 2))
        || !regOk kd (slotDst w) || !regOk kb (slotB w)
      priv := op == 0x38
      dsts := named [(kd, slotDst w)]
      srcs := (if ga then [slotA w] else []) ++ named [(kb, slotB w), (kc, slotC w)]
      lat := if op = 0x01 ∨ op = 0x03 ∨ op = 0x05 then 4 else if op = 0x38 then 2 else 1
      grp := if isTileMem op then 0 else 1 }

/-! ## The whole bundle -/

/-- What a present slot says, by its position; a NOP says nothing (R105). -/
def slotInfo (a : Arch) (i w : Nat) : SlotInfo :=
  if slotOp w = 0 then { bad := decide (w ≠ 0), ii := 0 }
  else if i < 2 then scalarInfo w else if i < 4 then vectorInfo a w else if i = 4 then tensorInfo w else streamInfo w

/-- The parts of a bundle in the order of R152: 0 the head, then slot numbers. -/
def Bundle.parts (b : Bundle) (a : Arch) : List (Nat × SlotInfo) :=
  (0, headInfo b.head) :: b.slots.map (fun x => (x.1 + 1, slotInfo a x.1 x.2))

/-- Whether some register is written twice, the first time by part `p` (R75, R145). The cause is of the lower of the two slots, and of
the lower of the two stream slots in `streamClash`: R152 takes the slots in ascending number (DEDUCED, log 56). -/
def doubleWrite (l : List (Nat × SlotInfo)) (p : Nat) : Bool :=
  let mine := ((l.filter (fun x => x.1 == p)).flatMap (fun x => x.2.dsts)).filter (· != 0)
  let later := (l.filter (fun x => decide (p < x.1))).flatMap (fun x => x.2.dsts)
  mine.any (fun r => later.contains r)

/-- Whether the two stream slots may not stand together (R142, R150). -/
def Bundle.streamClash (b : Bundle) : Bool :=
  match b.slot? 5, b.slot? 6 with
  | some v, some w =>
    let x := slotOp v
    let y := slotOp w
    let sync (o : Nat) : Bool := o == 0x30 || o == 0x31
    (isDmaOp x && isDmaOp y && stTag v == stTag w) || (sync x && isStreamOp y) || (sync y && isStreamOp x)
  | _, _ => false

/-- Cause 0x01 of part `p`. -/
def Bundle.illegal (b : Bundle) (a : Arch) (p : Nat) (i : SlotInfo) : Bool :=
  i.bad || doubleWrite (b.parts a) p || (p == 6 && b.streamClash)

/-- Registers that the bundle reads or writes; g0 is always ready (R65). -/
def Bundle.regs (b : Bundle) (a : Arch) : List Nat := ((b.parts a).flatMap (fun x => x.2.srcs ++ x.2.dsts)).filter (· != 0)

end Sys2Proof.Machine
end

