-- ==== Sys2Proof/Machine/Issue.lean ====
section
/-! DEFINITION. Issuing a bundle: the cycle it can issue in (R64, R72, R74, R75, R82, R84, R87, R117, R135, R142), the causes found
at issue (R152), and what each slot does (R109 to R141). -/

namespace Sys2Proof.Machine

/-! ## Registers -/

def Arch.getV (a : Arch) (i : Nat) : Nat := (SMap.get (fun _ => 0) a.v i).toNat
def Arch.getP (a : Arch) (i : Nat) : BitVec 256 := SMap.get (fun _ => 0) a.p i
def Arch.getAcc (a : Arch) (arr r : Nat) : Nat := (SMap.get (fun _ => 0) a.acc (64 * arr + r)).toNat
def Arch.setAcc (a : Arch) (arr r v : Nat) : Arch :=
  { a with acc := SMap.set (fun _ => 0) a.acc (64 * arr + r) (BitVec.ofNat 2048 v) }

/-- The value of a register by its number. -/
def Arch.reg (a : Arch) (id : Nat) : Nat :=
  if id < 64 then (a.getG id).toNat
  else if id < 96 then a.getV (id - 64)
  else if id < 128 then (a.getP (id - 96)).toNat
  else (SMap.get (fun _ => 0) a.acc (id - 128)).toNat

/-- Write a register by its number; a write to g0 is discarded (R65). -/
def Arch.setReg (a : Arch) (id v : Nat) : Arch :=
  if id < 64 then a.setG id (BitVec.ofNat 64 v)
  else if id < 96 then { a with v := SMap.set (fun _ => 0) a.v (id - 64) (BitVec.ofNat 2048 v) }
  else if id < 128 then { a with p := SMap.set (fun _ => 0) a.p (id - 96) (BitVec.ofNat 256 v) }
  else { a with acc := SMap.set (fun _ => 0) a.acc (id - 128) (BitVec.ofNat 2048 v) }

/-- A register written when a bundle issues: its number, its value and the latency after which it is readable. -/
structure RegWrite where
  id : Nat
  val : Nat
  lat : Nat
deriving DecidableEq, Repr

/-! ## Control registers (R100 to R102, R122, R123) -/

/-- CORE_STATUS.STATE (R100). Where several states apply at once the manual gives no precedence: retired comes first, then parked, then
stopped, whatever the core was doing when STOP was written (DESIGN CHOICE, log 56). -/
def State.coreState (s : State) (n : Nat) : Nat :=
  let c := s.core n
  if s.coreRetired n then 7 else if c.parked then 6 else if c.stop then 5
  else if c.phase = 2 || c.phase = 5 then 3 else if c.phase = 3 then 4 else if c.phase = 1 || c.phase = 4 then 2
  else if (s.coreOwner n).isSome then 1 else 0

/-- CORE_STATUS (R100). -/
def State.coreStatus (s : State) (n : Nat) : Nat :=
  s.coreState n + (s.coreOwner n).getD 0xFF * 2 ^ 8
    + (match s.coreTask n with | some t => t.ctx | none => 0xFFFF) * 2 ^ 16 + (s.core n).arch.pc % 2 ^ 18 * 2 ^ 32

/-- CORE_FAULT (R102). -/
def CoreFault.word (f : CoreFault) : Nat := f.cause % 256 + f.slot % 8 * 2 ^ 8 + f.ctx % 65536 * 2 ^ 16 + f.pc % 2 ^ 18 * 2 ^ 32

/-- CRW effects that are in force for a bundle of cycle `t` (R123, R180); a written seed of 0 is stored as 1 (R101). -/
def Core.settleCrw (c : Core) (t : Nat) : Core :=
  let due := c.crw.filter (fun x => decide (x.1 ≤ t))
  { c with
    crw := c.crw.filter (fun x => !decide (x.1 ≤ t))
    arch := due.foldl (fun (a : Arch) (x : Nat × Nat × BitVec 64) => if x.2.1 = 0x002 then { a with live := x.2.2 }
                                  else { a with seed := if x.2.2 = 0 then 1 else x.2.2 }) c.arch }

/-- What CRR reads (R122). -/
def crRead (s : State) (n : Nat) (a : Arch) (cycle r : Nat) : Nat :=
  match r with
  | 0x001 => s.coreStatus n
  | 0x002 => a.live.toNat
  | 0x003 => cycle % 2 ^ 64
  | 0x004 => (s.core n).retire % 2 ^ 64
  | 0x005 => (s.core n).fault.word
  | 0x006 => a.seed.toNat
  | _ => 0

/-! ## What slots compute -/

/-- The write of a scalar slot and its CRW, if any (R120 to R123). PAND, POR and PXOR with IMMF set take the predicate that the zero GB field
names, p0, as it stands, and no immediate (R119; DESIGN CHOICE, log 59). -/
def scalarEffect (s : State) (n : Nat) (a : Arch) (cycle w : Nat) : List RegWrite × List (Nat × BitVec 64) :=
  let op := slotOp w
  let i := scalarInfo w
  let ga := a.getG (slotA w)
  let b := if scImmf w then BitVec.ofNat 64 (slotImm w) else a.getG (slotB w)
  let put (id v : Nat) : List RegWrite × List (Nat × BitVec 64) := ([{ id := id, val := v, lat := i.lat }], [])
  if op = 0 then ([], [])
  else if op = 0x36 then put (96 + slotDst w) b.toNat
  else if op = 0x37 then put (slotDst w) ((a.getP (slotA w)).toNat % 2 ^ 64)
  else if op = 0x38 then put (slotDst w) (crRead s n a cycle (slotImm w % 4096))
  else if op = 0x39 then ([], [(slotImm w % 4096, ga)])
  else
    match scalarOp op ga b with
    | some v => put (slotDst w) v.toNat
    | none =>
      match predOp op (a.getP (slotA w)) (a.getP (slotB w)) with
      | some v => put (96 + slotDst w) v.toNat
      | none => ([], [])

/-- The writes of a vector slot and the seed after it (R125 to R129, R175 to R182). VGET writes gD whatever its guard says, and a guard picks
the 32-bit lanes of what VCVT and VQNT write, narrow elements packed in them or not (R125; DESIGN CHOICE, log 59). -/
def vectorEffect (a : Arch) (seed : BitVec 64) (w : Nat) : List RegWrite × BitVec 64 :=
  let op := slotOp w
  let i := vectorInfo a w
  let lw := laneWidth (vType w)
  let pg := a.getP (vPg w)
  let d := slotDst w
  let va := a.getV (slotA w)
  let vb := if vScal w then splat lw (a.getG (slotB w)).toNat else if vImmf w then splat lw (vImm32 w) else a.getV (slotB w)
  let old (id : Nat) : List Nat := lanes lw (a.reg id)
  let put (id : Nat) (new : List Nat) : RegWrite := { id := id, val := ofLanes lw (guardLanes (vPge w) pg lw (old id) new), lat := i.lat }
  let la := lanes lw va
  let lb := lanes lw vb
  let pairs := la.zip lb
  let draws := if vRmode w = 2 && (op == 0x50 || op == 0x51) then seedDraws 16 seed else ([], seed)
  if op = 0 then ([], seed)
  else if op = 0x0E then
    ([put (64 + d) (pairs.zipIdx.map (fun x => if guardBit (a.getP (slotC w)) lw x.2 then x.1.1 else x.1.2))], seed)
  else if op = 0x0F then ([put (64 + d) (lb.map (fun k => nth la (k % la.length) 0))], seed)
  else if 0x10 ≤ op ∧ op ≤ 0x14 then
    let fresh := predOfLanes lw (pairs.map (fun x => (laneCmp op lw x.1 x.2).getD false))
    let keep := (a.getP d).toNat
    let step := lw / 8
    let val := if vPge w then ofLanes step ((upto (256 / step)).map (fun k =>
        if guardBit pg lw k then bits fresh (k * step) step else bits keep (k * step) step)) else fresh
    ([{ id := 96 + d, val := val, lat := i.lat }], seed)
  else if op = 0x15 then ([{ id := d, val := ofSigned 64 (toSigned lw (nth la (vImm32 w % 256) 0)), lat := i.lat }], seed)
  else if op = 0x16 then
    ([put (64 + d) ((lanes lw (a.getV d)).set (vImm32 w % 256) ((a.getG (slotB w)).toNat % 2 ^ lw))], seed)
  else if 0x43 ≤ op ∧ op ≤ 0x45 then
    ([put (64 + d) ((pairs.zip (lanes lw (a.getV (slotC w)))).map (fun x => (laneOp3 op x.1.1 x.1.2 x.2).getD 0))], seed)
  else if op = 0x50 then
    match fmtInfo (vFmtS w), fmtInfo (vFmtD w) with
    | some fs, some fd => ([put (64 + d) (lanes lw (vcvt fs fd (vRmode w) draws.1 va))], draws.2)
    | _, _ => ([], seed)
  else if op = 0x51 then
    match fmtInfo (vFmtD w) with
    | some fd =>
      let r := vqnt fd (vImm32 w % 256) (vRmode w) draws.1 va
      ([put (64 + d) (lanes lw r.1), put (64 + d + 1) (lanes lw r.2)], draws.2)
    | none => ([], seed)
  else if op = 0x52 then
    match fmtInfo (vFmtS w) with
    | some fs => ([put (64 + d) (lanes lw (vdqnt fs va (a.getV (slotA w + 1))))], seed)
    | none => ([], seed)
  else if 0x60 ≤ op ∧ op ≤ 0x65 then
    ([put (64 + d) ((laneReduce op lw la).getD 0 :: List.replicate (2048 / lw - 1) 0)], seed)
  else if 0x70 ≤ op ∧ op ≤ 0x74 then ([put (64 + d) (la.map (fApprox op))], seed)
  else if op = 0x78 then ([put (64 + d) (lanes lw (a.getAcc (vArr w) (vRow a w)))], seed)
  else if op = 0x79 then ([put (accId (vArr w) (vRow a w)) la], seed)
  else ([put (64 + d) (pairs.map (fun x => (laneOp op lw x.1 x.2).getD 0))], seed)

/-- A of a stream slot (R133). -/
def stAddr (a : Arch) (w : Nat) : Nat := ((a.getG (slotA w)).toNat + slotImm w) % 2 ^ 64

/-- What a tile-memory load writes (R133). -/
def tileLoad (a : Arch) (tm : Cells) (w : Nat) : List RegWrite :=
  let op := slotOp w
  let n := stBytes w
  let v := leNat (tm.readN (stAddr a w) n)
  if op = 0x01 then [{ id := slotDst w, val := if stSx w then ofSigned 64 (toSigned (8 * n) v) else v, lat := 4 }]
  else if op = 0x03 then [{ id := 64 + slotDst w, val := v, lat := 4 }]
  else if op = 0x05 then [{ id := 96 + slotDst w, val := v, lat := 4 }]
  else []

/-- What a tile-memory store writes (R133). -/
def tileStore (a : Arch) (tm : Cells) (w : Nat) : Cells :=
  let op := slotOp w
  let n := stBytes w
  let v := if op = 0x02 then some (a.getG (slotB w)).toNat else if op = 0x04 then some (a.getV (slotB w))
           else if op = 0x06 then some (a.getP (slotB w)).toNat else none
  match v with
  | some x => tm.writeN (stAddr a w) (leBytes n x)
  | none => tm

/-! ## Shape records (R136, R137) -/

structure Shape where
  rows : Nat
  rowBytes : Nat
  vaStride : Int
  tmStride : Nat
  stray : Bool
deriving DecidableEq, Repr

def Shape.decode (l : List (BitVec 8)) : Shape :=
  let v := leNat (l.take 32)
  { rows := bits v 0 16 + 1, rowBytes := bits v 32 25, vaStride := toSigned 64 (bits v 64 64), tmStride := bits v 128 22
    stray := decide (bits v 16 16 ≠ 0) || decide (bits v 57 7 ≠ 0) || decide (bits v 150 106 ≠ 0) }

/-- Whether a shape breaks R136 or R137 for a transfer at tile-memory offset `tm`. -/
def Shape.bad (h : Shape) (write : Bool) (tm : Nat) : Bool :=
  h.stray || h.rowBytes % 64 != 0 || h.rowBytes == 0 || decide (2 ^ 24 < h.rowBytes) || h.vaStride.natAbs % 64 != 0 || h.tmStride % 64 != 0
  || decide (2 ^ 24 < h.rows * h.rowBytes)
  || (if write then (h.tmStride != 0 && decide (h.tmStride < h.rowBytes)) || decide (h.vaStride.natAbs < h.rowBytes)
      else decide (h.tmStride < h.rowBytes))
  || decide (tmSize < tm + (h.rows - 1) * h.tmStride + h.rowBytes)

/-- The stream operation that a slot starts (R133, R136 to R140). -/
def streamOf (a : Arch) (tm : Cells) (pc slot seq w : Nat) : StreamOp :=
  let op := slotOp w
  let base : StreamOp := { seq := seq, op := op, pc := pc, slot := slot, va := stAddr a w, size := stBytes w, sx := stSx w, dst := slotDst w
                           a := a.getG (slotB w), b := a.getG (slotC w) }
  if isDmaOp op then
    let h := Shape.decode (tm.readN (a.getG (slotC w)).toNat 32)
    { base with tag := stTag w, tmOff := (a.getG (slotB w)).toNat, rows := h.rows, rowBytes := h.rowBytes, vaStride := h.vaStride
                tmStride := h.tmStride }
  else base

/-! ## The fetch window and loops -/

/-- Whether `n` bytes from `pc` may be fetched: inside the window, and every block of them loaded (R68, R554). -/
def Core.fetchable (c : Core) (pc n : Nat) : Bool :=
  decide (c.arch.winBase ≤ pc) && decide (pc + n ≤ c.arch.winLimit) && decide (pc + n ≤ 0x40000)
  && (upto ((pc + n - 1) / 1024 + 1 - pc / 1024)).all (fun i => c.loaded.contains (pc / 1024 + i))

def Arch.inWindow (a : Arch) (x : Nat) : Bool := decide (a.winBase ≤ x) && decide (x < a.winLimit)

/-- The value of a loop counter. -/
def Arch.getLc (a : Arch) (l : Nat) : Nat := (SMap.get (fun _ => 0) a.lc l).toNat
def Arch.setLc (a : Arch) (l v : Nat) : Arch := { a with lc := SMap.set (fun _ => 0) a.lc l (BitVec.ofNat 32 v) }

/-- Loops whose bodies run; one of count 0 is kept only until its body is skipped (R77). -/
def Arch.live' (a : Arch) : List Loop := a.loops.filter (fun l => a.getLc l.lc != 0)

/-- The loops that stay when a LOOP names counter `n`: the active loop that holds it and every loop inside it end (R116); one that waits with
count 0 for its START is no active loop, encloses nothing and goes alone (DESIGN CHOICE, log 56). -/
def Arch.dropCounter (a : Arch) (n : Nat) : List Loop :=
  match a.loops.findIdx? (fun x => x.lc == n) with
  | some i => if a.getLc n = 0 then a.loops.eraseIdx i else a.loops.drop (i + 1)
  | none => a.loops

/-- The target of a bundle's head when it branches (R109 to R111). -/
def branchTarget (a : Arch) (b : Bundle) : Option Int :=
  let h := b.head
  let rel : Int := (b.pc : Int) + 16 * headDisp h
  match headCop h with
  | 0x01 => some rel
  | 0x04 => some rel
  | 0x02 => if brcHolds (headCond h) (a.getG (headGa h)) (a.getG (headGb h)) (a.getP (headGa h % 16)) then some rel else none
  | 0x05 => some ((a.getG (headGa h)).toNat : Int)
  | _ => none

/-- The first cause of a list that applies. -/
def firstCause : List (Nat × Bool) → Nat
  | [] => 0
  | (c, x) :: l => if x then c else firstCause l

/-- The cause that the head raises (R113, R151, R152). A LOOP of count 0 raises cause 0x08 as any other while four loops are active: the
manual does not say whether it would start a fifth (DESIGN CHOICE, log 56). A bundle that reaches beyond what may be fetched has cause 0x03
at its head, found like the others when it would issue. -/
def headCause (a : Arch) (priv : Bool) (b : Bundle) (i : SlotInfo) : Nat :=
  let h := b.head
  let cop := headCop h
  let keep := (a.dropCounter (headLc h)).filter (fun l => a.getLc l.lc != 0)
  let stop := b.pc + 16 * headEnd h
  let loopBad := cop == 0x08 && keep.any (fun l => decide (l.stop < stop))
  let cut := a.live'.any (fun l => decide (l.start ≤ b.pc) && decide (b.pc < l.stop) && decide (l.stop < b.pc + b.len))
  let out (t : Int) : Bool := decide (t < (a.winBase : Int)) || decide ((a.winLimit : Int) ≤ t)
  let tgt := branchTarget a b
  firstCause [(0x01, b.illegal a 0 i || loopBad || cut), (0x02, i.priv && !priv),
    (0x05, cop == 0x05 && (match tgt with | some t => decide (t % 16 ≠ 0) | none => false)),
    (0x03, b.cut || (match tgt with | some t => out t | none => false) || (cop == 0x08 && !a.inWindow stop)),
    (0x08, cop == 0x08 && decide (4 ≤ keep.length))]

/-- The offset of the descriptor that a TILE slot names (R131), modulo 2^64 as R133 has stream addresses (DESIGN CHOICE, log 59). -/
def tileOff (a : Arch) (w : Nat) : Nat := ((a.getG (slotA w)).toNat + tDoff w) % 2 ^ 64

/-- The cause that a slot raises (R131, R134, R137, R152). -/
def slotCause (a : Arch) (tm : Cells) (priv : Bool) (b : Bundle) (pos w : Nat) (i : SlotInfo) : Nat :=
  let op := slotOp w
  let first := firstCause [(0x01, b.illegal a (pos + 1) i), (0x02, i.priv && !priv)]
  if first ≠ 0 then first
  else if op = 0 || decide (pos < 4) then 0
  else if pos = 4 then
    let off := tileOff a w
    firstCause [(0x05, off % 64 != 0), (0x04, decide (tmSize < off + 64) || tileDescBad (leNat (tm.readN off 64)))]
  else if op = 0x38 || op = 0x30 || op = 0x31 then 0
  else
    let x := stAddr a w
    let gb := (a.getG (slotB w)).toNat
    let gc := (a.getG (slotC w)).toNat
    firstCause [(0x05, x % stAlign w != 0 || (isDmaOp op && (gc % 32 != 0 || gb % 64 != 0))),
      (0x04, (isTileMem op && decide (tmSize < x + stBytes w))
        || (isDmaOp op && (decide (tmSize < gc + 32) || (Shape.decode (tm.readN gc 32)).bad (op == 0x19) gb)))]

/-- The first cause found and its slot (R152); cause 0 when there is none. -/
def bundleCause (a : Arch) (tm : Cells) (priv : Bool) (b : Bundle) : Nat × Nat :=
  let c0 := headCause a priv b (headInfo b.head)
  if c0 ≠ 0 then (c0, 0)
  else
    let rec go : List (Nat × Nat) → Nat × Nat
      | [] => (0, 0)
      | (pos, w) :: rest =>
        let c := slotCause a tm priv b pos w (slotInfo a pos w)
        if c ≠ 0 then (c, pos + 1) else go rest
    go b.slots

/-! ## When a bundle can issue -/

/-- Whether an array's occupancy has not ended (R82). -/
def Arr.busy (a : Arr) : Bool := a.op.isSome

/-- The bank of a line (R70). -/
def bankOf (x : Nat) : Nat := bits x 6 5 ^^^ bits x 11 5

/-- The lines of the tile-memory accesses of a bundle, by access: loads and stores, shape records, the tile descriptor (R72). The manual
does not say which of several accesses to one bank waits: the earlier in this order goes first (DESIGN CHOICE, log 56). -/
def accessLines (a : Arch) (b : Bundle) : List (List Nat) :=
  let st := b.slots.filter (fun x => decide (5 ≤ x.1))
  ((st.filter (fun x => isTileMem (slotOp x.2))).map (fun x =>
      (upto ((stAddr a x.2 % 64 + stBytes x.2 + 63) / 64)).map (fun i => bankOf (stAddr a x.2 + 64 * i))))
  ++ ((st.filter (fun x => isDmaOp (slotOp x.2))).map (fun x => [bankOf (a.getG (slotC x.2)).toNat]))
  ++ ((b.slots.filter (fun x => x.1 == 4 && slotOp x.2 == 1)).map (fun x => [bankOf (tileOff a x.2)]))

/-- Accesses that wait for a bank that another takes: a cycle each (R72). -/
def bankWaits : List Nat → List (List Nat) → Nat
  | _, [] => 0
  | used, l :: rest => (if l.any (fun x => used.contains x) then 1 else 0) + bankWaits (used ++ l) rest

/-- Whether a tile descriptor in tile memory asks for accumulation (R80, R84). -/
def tileAccumulates (tm : Cells) (off : Nat) : Bool := (tm.read (off + 40)).getLsbD 0

/-- The first cycle in which a bundle's slots find their arrays and accumulator rows ready; none while an occupancy has not ended
(R82, R84, R129, R149). -/
def arrayReady (c : Core) (t : Nat) (b : Bundle) : Option Nat :=
  b.slots.foldl (fun acc x =>
    match acc with
    | none => none
    | some t =>
      let w := x.2
      if (x.1 == 2 || x.1 == 3) && (slotOp w == 0x78 || slotOp w == 0x79) then
        let arr := c.array (vArr w)
        if arr.busy then none
        else some (max t (max arr.accAt (SMap.get zeroD c.ready (accId (vArr w) (vRow c.arch w)))))
      else if x.1 == 4 && slotOp w == 1 then
        let arr := c.array (tArr w)
        if arr.busy then none
        else
          let t1 := if t < arr.freeAt then arr.freeAt + 1 else t
          if tileAccumulates c.tm (tileOff c.arch w) then
            some ((upto 64).foldl (fun m r => max m (SMap.get zeroD c.ready (accId (tArr w) r))) (max t1 arr.accAt))
          else some t1
      else some t) (some t)

/-- Registers that a task's stream operations have still to write (R146). -/
def Task.pendingReg (t : Task) (r : Nat) : Bool :=
  decide (r < 64) && t.ops.any (fun o => o.returns && !o.isDma && o.dst == r)

/-- Whether a WAIT head's tags and arrays are done (R87, R117). -/
def waitDone (c : Core) (t : Task) (h : Nat) : Bool :=
  !(headCop h == 0x10)
  || ((bitList (bits h 16 16) 16).all (fun i => !t.ops.any (fun o => o.isDma && o.tag == i))
      && (bitList (bits h 32 4) 4).all (fun i => !(c.array i).busy))

/-- Whether the stream unit takes a bundle's stream operations (R86, R135, R142, R240). -/
def streamReady (t : Task) (b : Bundle) : Bool :=
  let ops := (b.slots.filter (fun x => decide (5 ≤ x.1) && isStreamOp (slotOp x.2))).map (fun x => x.2)
  ops.isEmpty
  || (!t.hold && !t.ops.any StreamOp.isSync && decide (t.allCount < 256)
      && ops.all (fun w => !(isDmaOp (slotOp w) && t.ops.any (fun o => o.isDma && o.tag == stTag w))))

/-- The cycle in which the next bundle of a core issues, its own bank waits included; none while it waits for something that has
no fixed cycle. -/
def issueCycle (c : Core) (t : Task) (b : Bundle) : Option Nat :=
  if (b.regs c.arch).any t.pendingReg || !waitDone c t b.head || !streamReady t b then none
  else
    let regs := (b.regs c.arch).foldl (fun m r => max m (SMap.get zeroD c.ready r)) c.now
    let units := (b.slots.filter (fun x => slotOp x.2 != 0)).foldl (fun m x =>
      max m (SMap.get zeroD c.units (16 * x.1 + (slotInfo c.arch x.1 x.2).grp))) regs
    let waits := if headCop b.head = 0x10 then
        (bitList (bits b.head 32 4) 4).foldl (fun m i => max m (c.array i).freeAt) units else units
    match arrayReady c waits b with
    | none => none
    | some k => some (k + bankWaits [] (accessLines c.arch b))

/-! ## Tile operations start (R82, R83, R188, R191, R192, R511) -/

/-- Begin a pass of the operation of array `a` at core cycle `t`. -/
def beginPass (c : Core) (a t : Nat) (o : TileOp) : Core :=
  let d := TileDesc.ofWord o.desc
  let fa := if o.useA then (fallbackSide d.fbA).fmt else d.a.fmt
  let fb := if o.useB then (fallbackSide d.fbB).fmt else d.b.fmt
  let steps := if o.started then o.left.length else d.kb
  let o1 := { o with left := if o.started then o.left else stepOrder o.free d.kb (upto d.kb), snap := c.tm
                     endAt := t + tileOccupancy steps fa fb }
  c.setArray a { c.array a with phase := o.pass, op := some o1 }

/-- Whether array `a` is idle in cycle `t` (R83). -/
def Core.idleAt (c : Core) (a t : Nat) : Bool :=
  let x := c.array a
  x.phase == .idle || (x.op.isNone && decide (x.freeAt + 512 ≤ t))

/-- BUDGET_EFF (R511): 4 while the peak path or the brake holds SKIP raised. -/
def State.staggerBudget (s : State) : Nat :=
  if s.pdyn.peak || s.pdyn.brakeHold || decide (s.pdyn.peakSkip ≠ 0) then 4 else s.pwr.budgetNow

/-- A request for admission from the stagger: admitted at once if the step has budget left (R511). -/
def staggerRequest (s : State) (n a : Nat) : State :=
  if s.pwr.stepUsed < s.staggerBudget && s.pwr.requests.isEmpty then
    ({ s with pwr := { s.pwr with stepUsed := s.pwr.stepUsed + 1, admitted := satAdd 32 s.pwr.admitted 1 } }).updArr n a
      (fun x => { x with phase := .ramping })
  else
    { s with pwr := { s.pwr with requests := s.pwr.requests ++ [(n, a)] } }.updArr n a (fun x => { x with phase := .waiting })

/-- Whether an operation can escalate (R194). -/
def TileDesc.canEscalate (d : TileDesc) : Bool :=
  (d.fbA != 0 || d.fbB != 0) && !(d.satTh == 0xFF && d.uflTh == 0xFF && d.escTh == 0xFF)

/-- The operation that a TILE slot starts, and the history it leaves (R186, R192, R193). -/
def newTileOp (c : Core) (a off pc free : Nat) : TileOp × List HistEntry :=
  let word := leNat (c.tm.readN off 64)
  let d := TileDesc.ofWord word
  let mine (h : HistEntry) : Bool := h.arr == a && h.off == off && h.fbA == d.fbA && h.fbB == d.fbB
  let ent := c.hist.find? mine
  let direct := d.adapt && d.canEscalate && ent.any (fun h => decide (4 ≤ h.streak) && decide (h.directs < 16))
  let o : TileOp := { desc := word, off := off, pc := pc, free := free * 2 ^ 40, pass := if direct then .direct else .first
                      useA := direct && d.fbA != 0, useB := direct && d.fbB != 0 }
  let hist := match ent with
    | some h => if direct then { h with directs := h.directs + 1 } :: c.hist.filter (fun x => !mine x) else c.hist
    | none => c.hist
  (o, hist)

/-- Start a tile operation in cycle `t`. -/
def startTile (s : State) (n t pc w : Nat) : State :=
  let (k, s1) := s.takeFree
  let c := s1.core n
  let a := tArr w
  let (o, hist) := newTileOp c a (tileOff c.arch w) pc k
  let c1 := { c with hist := hist }
  if c.idleAt a t then staggerRequest (s1.setCore n (c1.setArray a { c.array a with op := some o })) n a
  else s1.setCore n (beginPass c1 a t o)

/-! ## Issue -/

/-- The loops and the PC after a bundle (R77, R78, R114, R115): a loop of count 0 is skipped when its body is reached. -/
def skipEmpty (im : Cells) (a : Arch) : Nat → Arch
  | 0 => a
  | k + 1 =>
    match a.loops.find? (fun l => a.getLc l.lc == 0 && l.start == a.pc) with
    | some l => skipEmpty im { a with pc := l.stop + bundleLen (imWord im l.stop), loops := a.loops.filter (· != l) } k
    | none => a

/-- Act at the end of loop bodies: the innermost active loop that ends there first (R114). -/
def loopEnd (a : Arch) (pc : Nat) : Nat → Arch
  | 0 => a
  | k + 1 =>
    match a.loops.find? (fun l => l.stop == pc && decide (l.start ≤ pc) && a.getLc l.lc != 0) with
    | some l =>
      let v := a.getLc l.lc - 1
      if v = 0 then loopEnd { a.setLc l.lc 0 with loops := a.loops.erase l } pc k
      else { a.setLc l.lc v with pc := l.start }
    | none => a

/-- Control flow of a bundle; `old` is the state its operands are read from (R144). A LOOP of count 0 is kept, until its body is skipped, as
a loop that is not active: it counts for no enclosure and no nesting, so that no loop started after it ends with it (R116), and a taken
branch drops it, one to its START too, whose body then runs once (R78, R112; DESIGN CHOICE, log 56). SETWIN stores its two values as they are: no check of them is stated (R68, R109; DESIGN CHOICE,
log 56). -/
def control (im : Cells) (old a : Arch) (b : Bundle) : Arch :=
  let h := b.head
  let a1 : Arch := match headCop h with
    | 0x08 =>
      let cnt := if headCi h then headCount h else (old.getG (headGa h)).toNat % 2 ^ 32
      let l : Loop := { lc := headLc h, start := b.pc + 16 * headStart h, stop := b.pc + 16 * headEnd h }
      { a.setLc (headLc h) cnt with loops := l :: a.dropCounter (headLc h) }
    | 0x20 => { a with winBase := (old.getG (headGa h)).toNat, winLimit := (old.getG (headGb h)).toNat }
    | _ => a
  match branchTarget old b with
  | some t =>
    let x := t.toNat
    let idx := a1.live'.reverse.findIdx? (fun l => !(decide (l.start ≤ x) && decide (x ≤ l.stop)))
    let keep := match idx with
      | some i => a1.live'.drop (a1.live'.length - i)
      | none => a1.live'
    { a1 with pc := x, loops := keep }
  | none => skipEmpty im (loopEnd { a1 with pc := b.pc + b.len } b.pc 5) 5

/-- The stream operations of a bundle, M0 first (R135). -/
def enterStream (s : State) (a : Arch) (tm : Cells) (t : Task) (b : Bundle) : State :=
  let ws := b.slots.filter (fun x => decide (5 ≤ x.1) && isStreamOp (slotOp x.2))
  s.updTask t.tid (fun t =>
    ws.foldl (fun t x => { t with nextSeq := t.nextSeq + 1, ops := t.ops ++ [streamOf a tm b.pc (x.1 + 1) t.nextSeq x.2] }) t |>.sweep)

/-- Issue bundle `b` in cycle `t`: every slot reads the state as it stands (R144). Of two stores of it to the same bytes of tile memory M1's
stays (R148; DESIGN CHOICE, log 59). -/
def issueBundle (s : State) (n : Nat) (tk : Task) (b : Bundle) (t : Nat) : State :=
  let c := (s.core n).settleCrw t
  let a := c.arch
  let cop := headCop b.head
  let scal := (b.slots.filter (fun x => decide (x.1 < 2))).map (fun x => scalarEffect s n a (c.cycle + (t - c.now)) x.2)
  let vec := (b.slots.filter (fun x => x.1 == 2 || x.1 == 3)).foldl (fun acc x =>
    let r := vectorEffect a acc.2 x.2
    (acc.1 ++ r.1, r.2)) (([] : List RegWrite), a.seed)
  let st := b.slots.filter (fun x => decide (5 ≤ x.1))
  let loads := st.flatMap (fun x => tileLoad a c.tm x.2)
  let call : List RegWrite := if cop = 0x04 then [{ id := headGd b.head, val := b.pc + b.len, lat := 1 }] else []
  let writes := call ++ scal.flatMap (fun x => x.1) ++ vec.1 ++ loads
  let s1 := (b.slots.filter (fun x => x.1 == 4 && slotOp x.2 == 1)).foldl (fun s x => startTile s n t b.pc x.2) (s.setCore n c)
  let c1 := s1.core n
  let crws : List (Nat × BitVec 64) := scal.flatMap (fun x => x.2)
  let marks : List (Nat × Nat) := writes.map (fun w => (w.id, w.lat)) ++ crws.map (fun x => (crId x.1, 2))
  let a1 := writes.foldl (fun a w => a.setReg w.id w.val) { c1.arch with seed := vec.2 }
  let taken := (branchTarget a b).isSome
  let next := t + 1 + (if taken then 4 else 0) + (if cop = 0x20 then 2 else 0)
  let c2 := { c1 with
    arch := control c1.im a a1 b
    tm := st.foldl (fun tm x => tileStore a tm x.2) c1.tm
    ready := marks.foldl (fun m w => if w.1 = 0 then m else SMap.set zeroD m w.1 (t + w.2)) c1.ready
    units := b.slots.foldl (fun m x =>
      let i := slotInfo a x.1 x.2
      if i.ii ≤ 1 then m else SMap.set zeroD m (16 * x.1 + i.grp) (t + i.ii)) c1.units
    crw := c1.crw ++ crws.map (fun x => (t + 2, x.1, x.2))
    retire := c1.retire + 1
    near := if st.any (fun x => slotOp x.2 == 0x38) then [] else c1.near
    phase := if cop = 0x18 then 4 else c1.phase
    now := next }
  let s2 := addCycles (s1.setCore n c2) n tk.ctx tk.locket (next - c.now)
  let s3 := if cop = 0x18 then s2.updTask tk.tid (fun t => { t with ended := true }) else s2
  pumpCore (enterStream s3 a c.tm tk b) n

/-- The bundle at the PC of a core whose head may be fetched. -/
def Core.bundle (c : Core) : Bundle :=
  let b := fetchBundle c.im c.arch.pc
  if c.fetchable c.arch.pc b.len then b else { b with slots := [], cut := true }

/-- One bundle of core `n`, `extra` cycles after the first in which it can issue (R64, R630): a head outside the window or in an
unloaded block raises cause 0x03 (R68, R554), a cause found at issue stops the task (R96, R152), and a bundle that waits does not
issue. -/
def runBundle (s : State) (n extra : Nat) : State :=
  let c := s.core n
  match s.coreTask n with
  | none => s
  | some t =>
    if c.phase ≠ 1 || t.err.isSome then s
    else
      let pc := c.arch.pc
      if !c.fetchable pc 16 then stopTask s n 0x03 0 pc 0 0 0
      else
        match issueCycle c t c.bundle with
        | none => s
        | some k =>
          let (cause, slot) := bundleCause (c.settleCrw (k + extra)).arch c.tm t.priv c.bundle
          if cause ≠ 0 then stopTask s n cause slot pc 0 0 0 else issueBundle s n t c.bundle (k + extra)

end Sys2Proof.Machine
end

