-- ==== Sys2Proof/Machine/Arrays.lean ====
section
/-! DEFINITION. Tile operations on the arrays (R82 to R85, R183 to R192), the images of switches (R91 to R95, R355, R356, R632), and
walks of the cores and copy engines (R267, R268). -/

namespace Sys2Proof.Machine

/-! ## What a pass computes -/

/-- A byte of tile memory as an operation reads it: a store made during the occupancy is seen or not seen line by line (R147); of several stores
to one line all are seen, or none (DESIGN CHOICE, log 59). -/
def opByte (c : Core) (o : TileOp) (a : Nat) : Nat :=
  let old := o.snap.read a
  let new := c.tm.read a
  (if old = new then old else if Config.tileSees o.free (a / 64) then new else old).toNat

/-- The operands of the pass that an operation runs (R185, R186). -/
def opSides (o : TileOp) : TileSide × TileSide :=
  let d := TileDesc.ofWord o.desc
  (if o.useA then fallbackSide d.fbA else d.a, if o.useB then fallbackSide d.fbB else d.b)

/-- Add some steps of K to the accumulator of array `a` (R84, R173). -/
def addRows (c : Core) (a : Nat) (o : TileOp) (steps : List Nat) : Core :=
  let d := TileDesc.ofWord o.desc
  let sides := opSides o
  let old (r : Nat) : Nat := if o.started || d.acc then c.arch.getAcc a r else 0
  let rows := tileRows (opByte c o) sides.1 sides.2 (64 * d.kb) o.free steps old
  { c with arch := rows.zipIdx.foldl (fun x r => x.setAcc a r.2 r.1) c.arch }

/-! ## The precision guard (R183 to R192) -/

/-- The counts that the guard has taken of an operand, one of saturation, underflow and escape, with their thresholds. -/
def countsOf (o : TileOp) (b : Bool) : List (Nat × Nat) :=
  let d := TileDesc.ofWord o.desc
  let k := if b then o.cntB else o.cntA
  [(k.1, d.satTh), (k.2.1, d.uflTh), (k.2.2, d.escTh)]

/-- Whether an operand's counts exceed a threshold (R184). -/
def operandExceeds (o : TileOp) (b : Bool) : Bool := (countsOf o b).any (fun x => exceeds x.1 x.2)

/-- Take the counts of a pass: of the operands it reads in their original format (R183, R192). -/
def takeCounts (c : Core) (o : TileOp) : TileOp :=
  let d := TileDesc.ofWord o.desc
  { o with
    cntA := if o.useA then (0, 0, 0) else sideCounts (opByte c o) d.a (64 * d.kb)
    cntB := if o.useB then (0, 0, 0) else sideCounts (opByte c o) d.b (64 * d.kb) }

/-- The first count of an operation that exceeds: operand, kind, count (R190). -/
def firstExceeding (o : TileOp) : Option (Nat × Nat × Nat) :=
  ([(0, 0), (0, 1), (0, 2), (1, 0), (1, 1), (1, 2)].find? (fun x =>
    match (countsOf o (x.1 == 1))[x.2]? with
    | some k => exceeds k.1 k.2
    | none => false)).map (fun x => (x.1, x.2, ((countsOf o (x.1 == 1))[x.2]?.getD (0, 0)).1))

/-- Enter an operation's counts in the task's summary (R190). -/
def GuardSum.note (g : GuardSum) (a : Nat) (o : TileOp) : GuardSum :=
  let d := TileDesc.ofWord o.desc
  let bare := (operandExceeds o false && d.fbA == 0) || (operandExceeds o true && d.fbB == 0)
  let g1 := if bare then { g with exceeded := satAdd 16 g.exceeded 1 } else g
  match firstExceeding o with
  | some (opnd, kind, count) =>
    if bit g1.first 23 then g1
    else { g1 with firstCount := count, first := o.pc % 2 ^ 18 + a % 4 * 2 ^ 18 + opnd * 2 ^ 20 + kind * 2 ^ 21 + 2 ^ 23 }
  | none => g1

/-- What a guarded execution leaves of the history (R191, R192). -/
def learn (hist : List HistEntry) (a : Nat) (o : TileOp) (escA escB : Bool) : List HistEntry :=
  let d := TileDesc.ofWord o.desc
  let mine (h : HistEntry) : Bool := h.arr == a && h.off == o.off && h.fbA == d.fbA && h.fbB == d.fbB
  let others := hist.filter (fun h => !mine h)
  let old := hist.find? mine
  let all := escA == (d.fbA != 0) && escB == (d.fbB != 0)
  if !(escA || escB) then others
  else if all then
    ({ arr := a, off := o.off, fbA := d.fbA, fbB := d.fbB, streak := (match old with | some h => h.streak | none => 0) + 1, directs := 0 }
      :: others).take 8
  else
    match old with
    | some h => { h with streak := 0, directs := 0 } :: others
    | none => hist

/-- An operation completes: its rows are in the accumulator, which is readable 24 cycles later (R84, R190). -/
def completeOp (c : Core) (a : Nat) (o : TileOp) (f : GuardSum → GuardSum) : Core :=
  let c1 := addRows c a o o.left
  let g := f c1.arch.guard
  { c1 with arch := { c1.arch with guard := { g with tileOps := satAdd 32 g.tileOps 1 } } }.setArray a
    { phase := .ended, op := none, accAt := o.endAt + 24, freeAt := o.endAt }

/-- The end of a first pass or of a direct execution (steps 3 to 5 of R188, R192). -/
def endFirst (c : Core) (a : Nat) : Core :=
  let x := c.array a
  match x.op with
  | none => c
  | some o0 =>
    let o := takeCounts c o0
    let d := TileDesc.ofWord o.desc
    let c1 := { c with arch := { c.arch with guard := c.arch.guard.note a o } }
    if x.phase = .direct then completeOp c1 a o (fun g => { g with direct := satAdd 16 g.direct 1 })
    else if x.phase = .first then
      let escA := d.fbA != 0 && operandExceeds o false
      let escB := d.fbB != 0 && operandExceeds o true
      let c2 := if d.fbA = 0 && d.fbB = 0 then c1 else { c1 with hist := learn c1.hist a o escA escB }
      if escA || escB then
        beginPass c2 a (o.endAt + 1) { o with pass := .second, useA := escA, useB := escB, started := false, left := [] }
      else completeOp c2 a o id
    else c

/-- The end of a second pass (steps 6 and 7 of R188). -/
def endSecond (c : Core) (a : Nat) : Core :=
  let x := c.array a
  match x.op with
  | none => c
  | some o => if x.phase = .second then completeOp c a o (fun g => { g with escalated := satAdd 16 g.escalated 1 }) else c

/-! ## A switch-out's stop (R92 step 2, R189) -/

/-- Stop the operation of one array after `k` more steps of K. -/
def stopOp (c : Core) (a k : Nat) : Core :=
  let x := c.array a
  match x.op with
  | none => c
  | some o =>
    let d := TileDesc.ofWord o.desc
    match x.phase with
    | .waiting => c
    | .ramping => c
    | .first =>
      if d.fbA ≠ 0 ∨ d.fbB ≠ 0 then c.setArray a { x with op := some { o with started := false, left := [] } }
      else if o.left.length ≤ k then endFirst c a
      else if k = 0 then c
      else (addRows c a o (o.left.take k)).setArray a { x with op := some { o with started := true, left := o.left.drop k } }
    | .direct =>
      if o.left.length ≤ k then endFirst c a
      else if k = 0 then c
      else (addRows c a o (o.left.take k)).setArray a { x with op := some { o with started := true, left := o.left.drop k } }
    | .second =>
      if o.left.length ≤ k then endSecond c a
      else if k = 0 then c
      else (addRows c a o (o.left.take k)).setArray a { x with op := some { o with started := true, left := o.left.drop k } }
    | _ => c

/-! ## Save images (R91) -/

/-- Offset of the live segments in an image. -/
def imageSegments : Nat := 0x13000
/-- Bytes of a save slot (R355). -/
def saveSlotBytes : Nat := 0x420000

/-- The 64 KiB segments that are live. -/
def Arch.liveList (a : Arch) : List Nat := bitList a.live.toNat 64

/-- The image of a task: its accumulators, registers and control state, then its live segments (R91). The arrangement of the control
state is not given: those bytes are free values. -/
def imageBytes (a : Arch) (tm : Cells) (free : Nat) : List (BitVec 8) :=
  (upto 256).flatMap (fun r => leBytes 256 (a.getAcc (r / 64) (r % 64)))
  ++ (upto 32).flatMap (fun i => leBytes 256 (a.getV i))
  ++ (upto 64).flatMap (fun i => leBytes 8 (a.getG i).toNat)
  ++ (upto 16).flatMap (fun i => leBytes 32 (a.getP i).toNat)
  ++ (upto 3072).map (Config.imageByte free)
  ++ a.liveList.flatMap (fun i => tm.readN (65536 * i) 65536)

/-- Where one sector of a save slot lies: nowhere when its range does not allow the access, or behind a held walk or channel (R399). -/
inductive ImageAt where
  | at (c off dpa : Nat)
  | bad
  | held
deriving DecidableEq, Repr

/-- The labels of a switch's own accesses (R271). -/
def State.imageLabels (s : State) (t : Task) : Labels :=
  { ctx := t.ctx, locket := (s.ctx t.ctx).locket, facet := switchTraffic, half := coreHalf t.core }

/-- The place of one sector of a save slot (R272, R356, R632). -/
def imageSector (s : State) (t : Task) (off access : Nat) : State × ImageAt :=
  let c := s.ctx t.ctx
  let va := c.saveVa + saveSlotBytes * t.slot.getD 0 + off
  match walkVa s (s.imageLabels t) c.root.toNat va with
  | (s1, .found e) =>
    let d := e.dpa va
    if (s1.checkRange e c.locket true access va).isSome || dpaModule d != s1.trb.idModule then (s1, .bad)
    else
      match localPlace (dpaLocal d) with
      | .dram x => match s1.mapDram x with
        | some m => (s1, if s1.holdsNew m.c m.set then .held else .at m.c m.off d)
        | none => (s1, .bad)
      | _ => (s1, .bad)
  | (s1, .need _) => (s1, .held)
  | (s1, .fault ..) => (s1, .bad)

/-- How the transfer of an image goes: so far well, with a failure (R356, R632), or it has to wait. -/
inductive ImageOut where
  | ok
  | failed
  | held
deriving DecidableEq, Repr

/-- Write one sector of an image, unless an earlier one failed or was held. -/
def writeImageSector (t : Task) (img : List (BitVec 8)) (r : State × ImageOut) (i : Nat) : State × ImageOut :=
  if r.2 ≠ .ok then r
  else
    match imageSector r.1 t (64 * i) 1 with
    | (s1, .at c o d) =>
      let w := homeWrite s1 c (o / 64) 0 ((img.drop (64 * i)).take 64) false {} { ctx := t.ctx, dpa := d, access := 1, wr := true }
      let ok := decide (w.2.status = stOK)
      (noteOwn w.1 (s1.imageLabels t) c 64 ok, if ok then .ok else .failed)
    | (s1, .bad) => (s1, .failed)
    | (s1, .held) => (s1, .held)

/-- Write an image sector by sector (R356). -/
def writeImage (s : State) (t : Task) (img : List (BitVec 8)) : State × ImageOut :=
  (upto (img.length / 64)).foldl (writeImageSector t img) (s, .ok)

/-- Read one sector of an image after those read before, unless one of them failed or was held. -/
def readImageSector (t : Task) (r : State × ImageOut × List (BitVec 8)) (i : Nat) : State × ImageOut × List (BitVec 8) :=
  if r.2.1 ≠ .ok then r
  else
    match imageSector r.1 t (64 * i) 0 with
    | (s1, .at c o d) =>
      let w := homeRead s1 c (o / 64) 0 {} { ctx := t.ctx, dpa := d }
      let ok := decide (w.2.status = stOK)
      (noteOwn w.1 (s1.imageLabels t) c 64 ok, if ok then .ok else .failed, r.2.2 ++ w.2.data)
    | (s1, .bad) => (s1, .failed, [])
    | (s1, .held) => (s1, .held, [])

/-- Read an image of `len` bytes back (R632). -/
def readImage (s : State) (t : Task) (len : Nat) : State × ImageOut × List (BitVec 8) :=
  (upto (len / 64)).foldl (readImageSector t) (s, .ok, [])

/-- Tile memory from the segments of an image: the others are marked clear (R94, R95). -/
def segmentsOf (live : List Nat) (l : List (BitVec 8)) : Cells :=
  (live.zipIdx).flatMap (fun x =>
    (((l.drop (65536 * x.2)).take 65536).zipIdx.filter (fun b => b.1 != 0)).map (fun b => (65536 * x.1 + b.2, b.1)))

/-! ## Switching out and in -/

/-- A core begins to switch out: issue stops, tile operations stop at their boundary (steps 1 to 3 of R92). Requests for the stagger
end. -/
def beginSwitchOut (s0 : State) (n : Nat) (progress : List Nat) : State :=
  let s := passCycles s0 n
  let s1 := s.updCore n (fun c =>
    let c1 := c.settleCrw (c.now + 2)
    { [0, 1, 2, 3].foldl (fun c a => stopOp c a (nth progress a 0)) c1 with phase := 5, drained := false })
  { s1 with pwr := { s1.pwr with requests := s1.pwr.requests.filter (fun r => r.1 != n) } }.setWalk n none

/-- Reads of a task that are outstanding. -/
def Task.readsOut (t : Task) : Bool := t.ops.any (fun o => o.isRead && !o.out.isEmpty)

/-- Pieces in the order in which they were first sent. -/
def sortPieces (l : List (Nat × Nat)) : List (Nat × Nat) :=
  l.foldr (fun p acc => acc.takeWhile (fun q => decide (q.1 < p.1) || (q.1 == p.1 && decide (q.2 < p.2))) ++ [p]
    ++ acc.dropWhile (fun q => decide (q.1 < p.1) || (q.1 == p.1 && decide (q.2 < p.2)))) []

/-- Reads still outstanding are abandoned and recorded for sending again (step 4 of R92). -/
def abandonReads (s : State) (t : Task) : State :=
  let seqs := (t.ops.filter (fun o => o.isRead && !o.out.isEmpty)).map (fun o => o.seq)
  let s1 := dropReqs s (fun x => match x with | .op tid seq _ _ => tid == t.tid && seqs.contains seq | _ => false)
  s1.updTask t.tid (fun t => { t with ops := t.ops.map (fun o =>
    if o.isRead then { o with redo := sortPieces (o.redo ++ o.out), out := [] } else o) })

/-- Steps 5 and 6 of R92; nothing happens yet while a sector of the image is held at a move destination (R399). -/
def endSwitchOut (s : State) (n : Nat) (t : Task) : State :=
  let c := s.core n
  let (k, s1) := s.takeFree
  let img := imageBytes c.arch c.tm k
  let w := writeImage s1 t img
  if w.2 = .held then s
  else
    let ops := (upto 4).filterMap (fun a => ((c.array a).op).map (fun o => (a, o)))
    let s3 := w.1.updTask t.tid (fun t => { t with arch := c.arch, arrOps := ops, image := [(0, img.length, img)], imageBad := w.2 == .failed })
    let s4 := clearCore (switchCycles s3 n t) n
    if t.st = .onCore then makeRunnable s4 t.tid else s4

/-- The image verifies and is restored, or the task stops with cause 0x09, which no slot causes: SLOT is 0 (R94; DESIGN CHOICE, log 56). -/
def endSwitchIn (s : State) (n : Nat) (t : Task) : State :=
  match t.image with
  | [(_, len, img)] =>
    let r := readImage s t len
    if r.2.1 = .held then s
    else if t.imageBad || r.2.1 == .failed || r.2.2 != img then
      stopTask (switchCycles r.1 n t) n 0x09 0 t.arch.pc 0 0 0
    else
      let s2 := (switchCycles r.1 n t).updCore n (fun c => { c with
        arch := t.arch, tm := segmentsOf t.arch.liveList (img.drop imageSegments), phase := if t.ended then 4 else 1, near := [], hist := []
        ready := [], units := [], crw := [], arrays := [], drained := false })
      let s3 := t.arrOps.foldl (fun s x => staggerRequest (s.updArr n x.1 (fun a => { a with op := some x.2 })) n x.1) s2
      let s4 := s3.updTask t.tid (fun t => { t with arrOps := [], image := [], hold := t.unacked })
      match t.err with
      | some (st, pc, slot, va) => stopTask s4 n 0x07 slot pc 0 st va
      | none => pumpCore s4 n
  | _ => s

/-! ## Walks -/

/-- What a walk's end gives to the engine that waits (R267, R269, R274): an entry, or a fault. The result of a walk that an
invalidation overtook is not kept. A copy engine goes on with whichever of its jobs is in turn. -/
def walkEnd (s : State) (e : Nat) (w : Walk) (out : WalkOut) : State :=
  let s1 := s.setWalk e none
  let again (s : State) : State := if e < 192 then pumpCore s e else jobPumpEngine s (e - 192)
  if w.stale then again s1
  else
    match out with
    | .need _ => s1
    | .found ent =>
      let s2 := s1.setFar e (farKeep (s1.far e) ent)
      match w.who with
      | .task _ => again (s2.updCore e (fun c => { c with near := nearUse c.near ent }))
      | .job jid => again (s2.updJob jid (fun j => { j with tr := ent :: j.tr.filter (· != ent) }))
    | .fault kind pos =>
      match w.who with
      | .task tid =>
        match s1.task? tid with
        | none => s1
        | some t =>
          match t.ops.find? (fun o => o.unsent) with
          | none => s1
          | some o => taskFault s1 e t o kind w.access w.va pos none
      | .job jid =>
        match s1.job? jid with
        | none => again s1
        | some j => again (jobFault s1 j kind w.access w.va pos none)

/-- The Facet of whoever waits for a walk (R271). -/
def State.walkFacet (s : State) : Waiter → Nat
  | .task tid => match s.task? tid with | some t => t.facet | none => 0
  | .job jid => match s.job? jid with | some j => j.facet | none => 0

/-- The labels and the root of the address space of an engine's walk (R271). -/
def State.walkRoot (s : State) (e : Nat) (w : Walk) : Labels × Nat :=
  ({ ctx := w.ctx, locket := (s.ctx w.ctx).locket, facet := s.walkFacet w.who, half := engineHalf e }, (s.ctx w.ctx).root.toNat)

/-- One action of a walk: a sector read and the probes it allows (R267). -/
def walkStep (s : State) (e : Nat) (w : Walk) (x : Xmit) : State :=
  let (l, root) := s.walkRoot e w
  match walkRead s l root w.va w.stage x with
  | (s1, .need st) => s1.setWalk e (some { w with stage := st })
  | (s1, out) => walkEnd s1 e w out

/-- The look-up in the far cache (R268): a hit ends the walk, a miss goes on to the root. `evicted` names by context and first granule
the entries that the cache has given up since (R269). -/
def farLookup (s : State) (e : Nat) (w : Walk) (evicted : List (Nat × Nat)) : State :=
  let s1 := s.setFar e ((s.far e).filter (fun x => !evicted.contains (x.ctx, x.vaGran)))
  match findRange (s1.far e) w.ctx w.va with
  | some ent => walkEnd s1 e w (.found ent)
  | none => walkStep s1 e w {}

end Sys2Proof.Machine
end

