-- ==== Sys2Proof/Machine/Cores.lean ====
section
/-! DEFINITION. The commands of the cores: bundles, walks, arrays, switches, timers and debug control (02, 03, 04, R443 to R445). An
event whose condition does not hold changes nothing (log 4). -/

namespace Sys2Proof.Machine

abbrev Res := Host.Outcome State Fault Refusal

/-- BUNDLE_ISSUE (R64): the next bundle of a core that STOP does not hold. -/
def execBundleIssue (n : CoreIx) (extra : Nat) (s : State) : Res :=
  .next (if (s.core n).stop then s else runBundle s n extra)

/-- FAR_CACHE_LOOKUP (R268). -/
def execFarCacheLookup (e : EngIx) (evicted : List (Nat × Nat)) (s : State) : Res :=
  .next (match s.walk e with
    | some w => if w.stage = .lookup then farLookup s e w evicted else s
    | none => s)

/-- RANGE_WALK_STEP (R267). -/
def execRangeWalkStep (e : EngIx) (x : Xmit) (s : State) : Res :=
  .next (match s.walk e with
    | some w => if w.stage = .lookup then s else walkStep s e w x
    | none => s)

/-- TILE_OCCUPANCY_END (R82, R188): of a first pass or a direct execution. -/
def execTileOccupancyEnd (n : CoreIx) (a : ArrIx) (s : State) : Res := .next (s.updCore n (fun c => endFirst c a))

/-- TILE_SECOND_PASS_END (R85, R188). -/
def execTileSecondPassEnd (n : CoreIx) (a : ArrIx) (s : State) : Res := .next (s.updCore n (fun c => endSecond c a))

/-- STAGGER_STEP (R511, R526): a step begins; waiting arrays are admitted in order, and each of them has been held. -/
def execStaggerStep (s : State) : Res :=
  let s := { s with pwr := { s.pwr with budgetNow := s.pwr.budget } }
  let b := s.staggerBudget
  let now := s.pwr.requests.take b
  let rest := s.pwr.requests.drop b
  let s1 := { s with pwr := { s.pwr with
      requests := rest, stepUsed := now.length
      admitted := satAdd 32 s.pwr.admitted now.length, held := satAdd 16 s.pwr.held now.length } }
  .next (s1.forAll now (fun s (r : Nat × Nat) => s.updArr r.1 r.2 (fun x => { x with phase := .ramping })))

/-- ARRAY_RAMP_COMPLETE (R83, R512): the occupancy begins. -/
def execArrayRampComplete (n : CoreIx) (a : ArrIx) (s : State) : Res :=
  let c := s.core n
  let x := c.array a
  .next (match x.op with
    | some o => if x.phase = .ramping then s.setCore n (beginPass c a (c.now + 32) o) else s
    | none => s)

/-- Bring a core's cycle count to at least `t` while a task runs on it. -/
def advanceTo (s : State) (n t : Nat) : State :=
  let c := s.core n
  match s.coreTask n with
  | some tk => if c.now < t && (c.phase = 1 || c.phase = 4)
      then addCycles (s.updCore n (fun c => { c with now := t })) n tk.ctx tk.locket (t - c.now) else s
  | none => s

/-- ARRAY_IDLE (R83): 512 core cycles have passed since the end of the array's last occupancy. -/
def execArrayIdle (n : CoreIx) (a : ArrIx) (s : State) : Res :=
  let x := (s.core n).array a
  .next (if x.phase = .ended ∨ x.phase = .gated then
      (advanceTo s n (x.freeAt + 512)).updArr n a (fun x => { x with phase := .idle }) else s)

/-- ARRAY_ROW_GATE (R512): 32 cycles after an occupancy the rows are gated. -/
def execArrayRowGate (n : CoreIx) (a : ArrIx) (s : State) : Res :=
  .next (s.updArr n a (fun x => if x.phase = .ended then { x with phase := .gated } else x))

/-- TASK_START (R90, R331, R355, R443, R444, R445): a task takes a free save slot and starts on the core of its virtual core. -/
def execTaskStart (tid : Nat) (s : State) : Res :=
  .next (match s.task? tid with
    | none => s
    | some t =>
      match s.placeOf t with
      | none => s
      | some v =>
        match s.coreOfV t.set v, (upto (s.ctx t.ctx).saveN).find? (fun i => !(s.ctx t.ctx).used.contains i) with
        | some n, some i =>
          if t.st = .waiting && s.coreFree n && s.turn t n then
            let s1 := s.updCtx t.ctx (fun c => { c with used := setIns i c.used })
            let s2 := s1.updTask tid (fun t => { t with st := .onCore, slot := some i, core := n, vcore := v })
            s2.updCore n (fun c => { clearedCore c n with task := some tid, phase := 1, arch := { t.arch with seed := BitVec.ofNat 64 (n + 1) } })
          else s
        | _, _ => s)

/-- TASK_COMPLETION (R118): every tile operation, DMA tag and stream operation of a task that has issued END is done. -/
def execTaskCompletion (n : CoreIx) (s : State) : Res :=
  .next (match s.coreTask n with
    | none => s
    | some t =>
      let c := s.core n
      if c.phase = 4 && t.ops.isEmpty && [0, 1, 2, 3].all (fun a => !(c.array a).busy) then
        taskEnd (clearCore (passCycles s n) n) t.tid stOK c.arch.guard
      else s)

/-- SLICE_EXPIRY (R444): the running task is switched out if a runnable task of equal or more urgent priority waits for the core. -/
def execSliceExpiry (n : CoreIx) (s : State) : Res :=
  .next (match s.coreTask n with
    | none => s
    | some t =>
      if (s.core n).phase = 1 && s.tasks.any (fun u => u.tid != t.tid && s.fits u n && decide (u.prio ≤ t.prio)) then
        s.updCore n (fun c => { c with phase := 2 })
      else s)

/-- Whether PREEMPT switches the running task of a core out (R444). -/
def State.preempted (s : State) (n : Nat) (t : Task) : Bool :=
  (s.slot t.locket).active.preempt
  && s.tasks.any (fun u => u.tid != t.tid && s.fits u n && decide (u.prio < t.prio))

/-- SWITCH_OUT_START (steps 1 to 3 of R92, R189, R401): `progress` is the number of 64-element steps that each array still does. -/
def execSwitchOutStart (n : CoreIx) (progress : List Nat) (s : State) : Res :=
  .next (match s.coreTask n with
    | none => s
    | some t =>
      let c := s.core n
      if c.phase = 2 || (c.phase = 1 && (s.preempted n t || s.misplaced t)) then beginSwitchOut s n progress else s)

/-- SWITCH_DRAIN_TIMEOUT (step 4 of R92): D_dma ends. -/
def execSwitchDrainTimeout (n : CoreIx) (s : State) : Res :=
  .next (match s.coreTask n with
    | none => s
    | some t => if (s.core n).phase = 5 then (abandonReads s t).updCore n (fun c => { c with drained := true }) else s)

/-- SWITCH_OUT_COMPLETE (steps 5 and 6 of R92, R91, R632). -/
def execSwitchOutComplete (n : CoreIx) (s : State) : Res :=
  .next (match s.coreTask n with
    | none => s
    | some t => if (s.core n).phase = 5 && ((s.core n).drained || !t.readsOut) then endSwitchOut s n t else s)

/-- SWITCH_IN_START (R94, R401, R443, R444). -/
def execSwitchInStart (n : CoreIx) (tid : Nat) (s : State) : Res :=
  .next (match s.task? tid with
    | none => s
    | some t =>
      if t.st = .runnable && s.coreFree n && s.turn t n then
        let s1 := s.updTask tid (fun x => { x with st := .onCore, core := n, vcore := (s.placeOf t).getD x.vcore })
        s1.updCore n (fun c => { clearedCore c n with task := some tid, phase := 3 })
      else s)

/-- SWITCH_IN_COMPLETE (R94, R240, R270). -/
def execSwitchInComplete (n : CoreIx) (s : State) : Res :=
  .next (match s.coreTask n with
    | none => s
    | some t => if (s.core n).phase = 3 then endSwitchIn s n t else s)

/-- NO_RETIRE_TIMEOUT (R547): cause 0x0A, which no slot causes: SLOT is 0 (DESIGN CHOICE, log 56); RETIRE_LOG2 of 0 disables the timer. -/
def execNoRetireTimeout (n : CoreIx) (s : State) : Res :=
  let c := s.core n
  .next (if s.rst.retireLog2 ≠ 0 ∧ (c.phase = 1 ∨ c.phase = 2 ∨ c.phase = 4) then stopTask s n 0x0A 0 c.arch.pc 0 0 0 else s)

/-- DMA_STALL_TIMEOUT (R548): the outstanding requests of the tag or job complete with DEADLINE. -/
def execDmaStallTimeout (u : StallUnit) (s : State) : Res :=
  .next (match u with
    | .tag core tag =>
      match s.coreTask core with
      | none => s
      | some t =>
        match t.ops.find? (fun o => o.isDma && o.tag == tag.val && !o.out.isEmpty) with
        | none => s
        | some o =>
          let s1 := updOp (dropReqs s (Src.ofOp t.tid o.seq)) t.tid o.seq (fun o => { o with out := [], row := o.rows, redo := [] })
          let p := o.out.headD (0, 0)
          streamError (s1.updTask t.tid Task.sweep) t.tid stDEADLINE o (o.pieceVa p.1 p.2)
    | .job jid =>
      match s.job? jid with
      | none => s
      | some j =>
        if j.quiet then s
        else jobPumpEngine ((jobFail (dropReqs s (Src.ofJob jid)) jid stDEADLINE).updJob jid (fun j =>
          { j with reads := [], writes := [], fetchId := 0 })) j.ce)

/-- Debug access to CORE_CTL is open (R99, R590, R591). -/
def State.coreDebug (s : State) : Bool := s.mgt.dbgState == 1 && bit s.mgt.dbgScope 1

/-- CORE_STOP (R99). -/
def execCoreStop (n : CoreIx) (s : State) : Res := .next (if s.coreDebug && s.pfAnswers then s.updCore n (fun c => { c with stop := true }) else s)

/-- CORE_RESUME (R99). -/
def execCoreResume (n : CoreIx) (s : State) : Res := .next (if s.coreDebug && s.pfAnswers then s.updCore n (fun c => { c with stop := false }) else s)

/-- CORE_STEP (R99): one bundle issues while STOP is 1. -/
def execCoreStep (n : CoreIx) (extra : Nat) (s : State) : Res :=
  .next (if s.coreDebug && s.pfAnswers && (s.core n).stop then runBundle s n extra else s)

end Sys2Proof.Machine
end

