-- ==== Sys2Proof/Machine/Swaps.lean ====
section
/-! DEFINITION. Swaps of Settings (R381 to R410): the checks of R394, moves and mirrors (R397 to R400), activation, drain and
unlock (R396), and abandonment. -/

namespace Sys2Proof.Machine

/-! ## The checks of R394 -/

/-- A failed check: its number, its status and the entry that fails. -/
structure CheckFail where
  check : Nat
  status : Nat
  entry : Nat := 0xFFFF
deriving DecidableEq, Repr

/-- The first of a list that `p` picks, as a failure. -/
def failAt (check status : Nat) (l : List Nat) (p : Nat → Bool) : Option CheckFail :=
  (l.find? p).map (fun i => { check := check, status := status, entry := i })

/-- The first failure of a list of checks. -/
def firstFail : List (Option CheckFail) → Option CheckFail
  | [] => none
  | some f :: _ => some f
  | none :: l => firstFail l

def failIf (check status : Nat) (b : Bool) : Option CheckFail := if b then some { check := check, status := status } else none

/-- The slots of a copy's region (R198). -/
def SetCopy.slots (c : SetCopy) : List Nat := if c.valid && c.rgnValid then (upto (c.nM1 + 1)).map (fun i => c.first + i) else []

/-- Indexes whose data moves (R387). -/
def SetCopy.moves (c : SetCopy) : List Nat := if c.valid && c.rgnValid then (upto (c.nM1 + 1)).filter c.move else []

/-- Maps of the other Settings that bind. -/
def State.otherMaps (s : State) (i : Nat) : List SetCopy :=
  (s.settingIds.filter (· != i)).flatMap (fun k => (s.setting k).binding)

/-- The checks on Setting `i` whose shadow copy is `n` (R394). -/
def swapChecks (s : State) (i : Nat) (n : SetCopy) : Option CheckFail :=
  let a := (s.setting i).active
  let l := n.locket
  let arg := stARG
  let c1 := failIf 1 arg (!s.holdsLocket l || (a.valid && a.locket != l) || decide (1024 < n.ncore))
  if !n.valid then
    firstFail [c1, failIf 2 stBUSY (s.fnc.ctxs.any (fun e => e.2.state != 0 && e.2.set == i))]
  else
    let locals := (upto n.ncore).filter (fun v => n.coreModule v == s.trb.idModule)
    let idx := upto (n.nM1 + 1)
    let place (v : Nat) : Nat × Nat := (n.coreModule v, n.coreNum v)
    firstFail [c1,
      failAt 1 arg (upto 128) (fun k => n.chanAt k != 0 && (!n.rgnValid || decide (n.nM1 < k))),
      failAt 1 arg (upto 12) (fun p => decide (1024 < n.share p)),
      failAt 3 arg (upto 1024) (fun v =>
        if v < n.ncore then
          !n.coreValid v || (n.coreModule v == s.trb.idModule && (decide (191 < n.coreNum v) || n.corePeer v != 0))
          || (upto v).any (fun w => place w == place v)
        else n.coreAt v != 0),
      failAt 4 arg locals (fun v => s.coreOwner (n.coreNum v) != some l || s.coreRetired (n.coreNum v)),
      failAt 5 stBUSY locals (fun v => (s.otherMaps i).any (fun m => (s.localCores m).contains (n.coreNum v))),
      failAt 6 stPARKED locals (fun v => (s.half (coreHalf (n.coreNum v))).state != 0),
      if n.rgnValid then failAt 6 stPARKED idx (fun k => (s.half (chanHalf (n.ch k))).state != 0) else none,
      failIf 7 arg (n.rgnValid && decide (128 < n.first + n.nM1 + 1)),
      if n.rgnValid then failAt 7 arg idx (fun k =>
        (upto k).any (fun j => n.ch j == n.ch k) || s.chanOwner (n.ch k) != some l || (s.chan (n.ch k)).state != 1) else none,
      failIf 8 stBUSY (n.rgnValid && (s.otherMaps i).any (fun m => m.slots.any (fun x => n.slots.contains x))),
      if n.rgnValid then failAt 8 stBUSY idx (fun k =>
        (s.otherMaps i).any (fun m => m.valid && m.list.contains (n.ch k)) || s.mem.moves.any (fun m => m.set != i && m.dst == n.ch k)) else none,
      failAt 9 arg n.moves (fun k =>
        !(a.valid && a.rgnValid && a.first == n.first && a.nM1 == n.nM1 && a.granCode == n.granCode) || a.list.contains (n.ch k)),
      failAt 9 arg (n.moves.drop 16) (fun _ => true),
      failAt 10 arg (upto 12) (fun p =>
        decide (1024 < n.share p + ((s.settingIds.filter (fun k => k != i && (s.setting k).active.valid
          && (s.setting k).active.locket == l)).map (fun k => (s.setting k).active.share p)).foldl (· + ·) 0)),
      failAt 11 arg n.qset (fun q => (s.sq q).func != 0 && (s.sq q).func != l + 1)]

/-! ## Steps 4 to 6 (R396, R401) -/

/-- Tasks that step 6 switches out: they run, or are being switched in. One that has issued END completes where it is (R401). -/
def State.movedTasks (s : State) (i : Nat) : List Task :=
  s.tasks.filter (fun t => t.set == i && !t.ended && s.misplaced t && ((s.core t.core).phase == 1 || (s.core t.core).phase == 3))

/-- Step 6 for one task: it begins its switch-out; one that is being switched in goes back to its image. -/
def moveTask (s : State) (t : Task) : State :=
  if (s.core t.core).phase = 3 then makeRunnable (clearCore s t.core) t.tid else s.updCore t.core (fun c => { c with phase := 2 })

/-- The shadow copy becomes active (steps 4 to 6): the descriptor completes, and tasks whose virtual core changed begin their
switch-out. -/
def activateSwap (s : State) (i : Nat) : State :=
  let x := s.setting i
  match x.swap with
  | none => s
  | some w =>
    let e := (x.epoch + 1) % 4
    let s1 := s.setSetting i { x with active := x.shadow, shadow := x.active, epoch := e, phase := 3 }
    let ts := s1.movedTasks i
    let s2 := s1.forAll ts moveTask
    let s3 := s2.updSetting i (fun x => { x with swap := some { w with stepFour := true, tasks := ts.length } })
    endDesc s3 w.q w.idx stOK (swapDetail 0 e 0xFFFF w.us)

/-- The swap is abandoned before step 4 (R400, R403): each destination's content is undefined. `us` is how long its step 3 has lasted, where the
command that ends it says so; else a free value (R408). -/
def abandonSwap (s0 : State) (i status : Nat) (us : Option Nat := none) : State :=
  let s := if us.isSome then s0 else s0.takeFree.2
  let lasted := us.getD (Config.elapsedUs s0.takeFree.1 % 2 ^ 32)
  let x := s.setting i
  match x.swap with
  | none => s
  | some w =>
    if w.stepFour then s
    else
      let ds := (s.mem.moves.filter (fun m => m.set == i)).map (fun m => m.dst)
      let s1 := { s with mem := { s.mem with moves := s.mem.moves.filter (fun m => m.set != i) } }
      let s2 := s1.forAll ds (fun s c => s.updChan c Chan.undefine)
      let s3 := s2.setSetting i { x with shLock := false, phase := 0, swap := none }
      endDesc s3 w.q w.idx status (swapDetail 0 x.epoch 0xFFFF lasted)

/-- Whether a channel has failed or is retired. -/
def State.chanDown (s : State) (c : Nat) : Bool := (s.chan c).state == 4 || (s.chan c).state == 5

/-- Start the moves of a swap (step 2 of R396, R397, R398): they are spread over the four copy engines, at most four on each. A source or a
destination that has failed abandons them (R400). -/
def startMoves (s : State) (i facet : Nat) : State :=
  let x := s.setting i
  let ms := (x.shadow.moves.zipIdx).map (fun k =>
    ({ set := i, index := k.1, src := x.active.ch k.1, dst := x.shadow.ch k.1, facet := facet, ce := k.2 % 4 } : Move))
  if ms.isEmpty then activateSwap s i
  else
    let s1 := { s with mem := { s.mem with moves := s.mem.moves ++ ms } }
    let s2 := s1.updSetting i (fun x => { x with phase := 1, swap := x.swap.map (fun (w : Swap) => { w with moves := ms.length }) })
    if ms.any (fun m => s.chanDown m.src || s.chanDown m.dst) then abandonSwap s2 i stCHFAIL (some 0) else s2

/-- A SET_SWAP of a Setting begins (R393, R394, R396); R413, where it would bind a core or a channel, and R558 refuse with BUSY, and a Locket whose
teardown has begun with REFUSED_SETTING (R455). -/
def beginSwap (s : State) (q : Nat) (d : Desc) : State :=
  let i := d.setting
  let x := s.setting i
  let mine := (upto x.shadow.ncore).filter (fun v => x.shadow.coreModule v == s.trb.idModule)
  let poolOrReset := x.shadow.valid && ((s.inPool && (x.shadow.rgnValid || !mine.isEmpty)) || mine.any (fun v => (s.core (x.shadow.coreNum v)).resetting))
  if (s.settingLocket 0x20 i).any s.fenced then endDesc s q d.idx stSETTING (swapDetail 0 x.epoch 0xFFFF 0)
  else if x.shLock || x.phase != 0 || poolOrReset then endDesc s q d.idx stBUSY (swapDetail 0 x.epoch 0xFFFF 0)
  else
    match swapChecks s i x.shadow with
    | some f => endDesc s q d.idx f.status (swapDetail f.check x.epoch f.entry 0)
    | none =>
      let w : Swap := { q := q, idx := d.idx, qp := (s.sq q).qp }
      startMoves (s.setSetting i { x with shLock := true, swap := some w }) i d.facet

/-- A failed channel ends the moves that it is source or destination of (R400). -/
def failMoves (s : State) (c : Nat) : State :=
  s.forAll ((s.mem.moves.filter (fun m => m.src == c || m.dst == c)).map (fun m => m.set)) (fun s i => abandonSwap s i stCHFAIL)

/-- Local offset of byte `o` of the channel at index `k` of a region (the inverse of R199). -/
def SetCopy.localOf (m : SetCopy) (k o : Nat) : Nat :=
  let g := granBytes m.granCode
  slotBytes * m.first + (o / g * (m.nM1 + 1) + k) * g + o % g

/-- What the events of a channel say of a move job's request (R233): zero for its own read, the DPA that it writes. -/
def State.moveCause (s : State) (m : Move) (sec : Nat) (wr : Bool) : Cause :=
  { access := 4, wr := wr, dpa := if wr then 2 ^ 42 * s.trb.idModule + (s.setting m.set).shadow.localOf m.index (64 * sec) else 0 }

/-- The requests of a move job (R398, R436, R446): they carry the Facet of its SET_SWAP, and the Locket counts them. -/
def noteMove (s : State) (m : Move) : State :=
  let l := (s.setting m.set).active.locket
  let grant (s : State) (c : Nat) : State := countDram (noteGrant s l m.facet 64 (chanUnit c) 0 slotBytes) noCtx l slotBytes
  grant (crossSeam (grant s m.src) l m.facet noCtx (chanHalf m.src) (chanHalf m.dst) slotBytes) m.dst

/-- A move job reads one sector of its source and writes it to its destination over their bonds, a poison mark with it (R202 to R208, R397,
R631): INJ of either channel falls on sector 0, the lowest. A sector whose bytes nothing has defined arrives so. -/
def moveSector (m : Move) (r : State × List Nat) (x : MoveSector) : State × List Nat :=
  let s := r.1
  let i := min x.sec 1
  let z : Xmit := { rdErrs := [x.rdErrs, x.rdErrs], wrErrs := [x.wrErrs, x.wrErrs], poisonFails := [x.poisonFails, x.poisonFails] }
  let src := readSector m.src z (s.chan m.src) x.sec i
  let a := settleXfer s m.src x.sec src.1 src.2.1 src.2.2 (s.moveCause m x.sec false)
  let bad := src.2.1 != .ok
  let plain := !(s.chan m.src).defined x.sec
  let bytes := if bad then List.replicate 64 0 else src.2.2
  let dst := writeSector z (a.1.chan m.dst) x.sec i bytes bad
  let dst1 := if plain && !bad && dst.2 == .ok then { dst.1 with written := setDel x.sec dst.1.written } else dst.1
  let b := settleXfer a.1 m.dst x.sec dst1 dst.2 [] (s.moveCause m x.sec true)
  (b.1, r.2 ++ b.2.failed)

/-- The sectors of a move whose bonds or marks do something: those that the command names, sector 0, and those that the source has marked. -/
def moveSectors (ch : Chan) (xs : List MoveSector) : List MoveSector :=
  let has (k : Nat) : Bool := xs.any (fun x => x.sec == k)
  xs ++ ((0 :: ch.marks.filter (· != 0)).filter (fun k => !has k)).map (fun k => { sec := k })

/-- Copy what the source of a move holds to its destination, fence marks included (R364, R397, R398): the channels that failed. -/
def copyMove (s : State) (m : Move) (e : MoveEnd) : State × List Nat :=
  let s0 := s.updChan m.src (fun h => { h with corr := satAdd 32 h.corr e.corrected })
  let src := s0.chan m.src
  let s1 := s0.updChan m.dst (fun d => { d with
    mem := src.mem, scrubbed := src.scrubbed, written := src.written, marks := src.marks, fences := src.fences })
  let o := (moveSectors src e.sectors).foldl (moveSector m) (s1, [])
  (noteMove o.1 m, o.2)

/-- A move job ends: its destination holds what its source holds (R397, R398), and the channels that failed under it are named. With a channel
of it that has failed or fails, the swap is abandoned (R400). -/
def endMove (s : State) (i k : Nat) (e : MoveEnd) : State × List Nat :=
  let us := some e.us.toNat
  match s.mem.moves.find? (fun m => m.set == i && m.index == k && !m.done) with
  | none => (s, [])
  | some m =>
    if s.chanDown m.src || s.chanDown m.dst then (abandonSwap s i stCHFAIL us, [])
    else
      let o := copyMove s m e
      if o.1.chanDown m.dst then (abandonSwap o.1 i stCHFAIL us, o.2)
      else
        let s1 := { o.1 with mem := { o.1.mem with moves := mapWhere (· == m) (fun m => { m with done := true }) o.1.mem.moves } }
        let s2 := s1.updSetting i (fun x => { x with swap := x.swap.map (fun (w : Swap) => { w with us := e.us.toNat }) })
        (if s2.mem.moves.any (fun m => m.set == i && !m.done) then s2 else activateSwap s2 i, o.2)

/-! ## Steps 7 to 10 -/

/-- The marks of the fences whose records lie in a moved channel stand in its destination from now on (R364). -/
def rehomeFences (s : State) (src dst : Nat) : State :=
  s.forAll (s.fencesWhere (fun f => f.home.1 == src)) (fun s i => s.setFence i { s.fence i with home := (dst, (s.fence i).home.2) })

/-- The drain of the previous epoch has ended: mirrors are disarmed, each source gives its fence marks up to its destination, and held requests
and whatever waited on held records go on (step 8, R364). -/
def endDrain (s : State) (i : Nat) : State :=
  let x := s.setting i
  match x.swap with
  | none => s
  | some w =>
    if w.stepFour && !w.mirrorsOff && s.oldOut i == 0 then
      let gone := s.mem.moves.filter (fun m => m.set == i)
      let s1 := { s with mem := { s.mem with moves := s.mem.moves.filter (fun m => m.set != i) } }
      let s2 := s1.forAll gone (fun s m => rehomeFences (s.updChan m.src (fun h => { h with fences := [] })) m.src m.dst)
      settleAll (releaseHeld (s2.setSetting i { x with swap := some { w with mirrorsOff := true } }))
    else s

/-- SWAP_DONE (R409). -/
def swapDone (s : State) (locket qp object epoch moves tasks drained us : Nat) : State :=
  postEvent s { type := 0x0250, locket := locket, source := qpUnit qp, object := object
                detail := detail [(16, 1, epoch), (17, 1, moves), (18, 2, tasks), (20, 4, drained), (24, 4, us)] }

/-- Step 10, after steps 8 and 9. A swap that a queue's Locket destroys keeps the Locket of its former copy. -/
def unlockSwap (s : State) (i us : Nat) : State :=
  let x := s.setting i
  match x.swap with
  | none => s
  | some w =>
    if w.stepFour && w.mirrorsOff && !s.tasks.any (fun t => t.set == i && s.misplaced t) then
      let l := if x.active.valid then x.active.locket else x.shadow.locket
      let s1 := s.setSetting i { x with phase := 0, shLock := false, swap := none }
      swapDone s1 l w.qp i x.epoch w.moves w.tasks w.drained us
    else s

/-- Count a request of the previous epoch performed after step 4 (R409). -/
def noteDrained (s : State) (r : Req) : State :=
  if r.set < 64 then
    let x := s.setting r.set
    match x.swap with
    | some w => if w.stepFour && r.epoch != x.epoch then s.setSetting r.set { x with swap := some { w with drained := satAdd 32 w.drained 1 } } else s
    | none => s
  else s

end Sys2Proof.Machine
end

