-- ==== Sys2Proof/Machine/Lockets.lean ====
section
/-! DEFINITION. Lockets: the checks of R433, creation (R432), exchange (R410) and teardown (R451 to R456); the resets of a core, of a
Locket and the retirement of units (R545, R550 to R561). -/

namespace Sys2Proof.Machine

/-! ## The tables (R433) -/

/-- Cores and channels of a copy. -/
def LktCopy.coreList (c : LktCopy) : List Nat := bitList c.cores.toNat 192
def LktCopy.chanList (c : LktCopy) : List Nat := bitList c.chans.toNat 128
/-- Whether a copy holds a core or a channel in half `h`. -/
def LktCopy.inHalf (c : LktCopy) (h : Nat) : Bool :=
  c.coreList.any (fun n => coreHalf n == h) || c.chanList.any (fun x => chanHalf x == h)

/-- The kinds of shared resources: channels, seam, ports, PCIe (R436). -/
def shareKinds : List Nat := [0, 1, 2, 3]

/-- LKT_MOD_FLOOR of a floor entry: 0 seam, 1 to 12 ports, 13 PCIe (R433). -/
def Lkt.modFloor (k : Lkt) (r : Nat) : Nat := if r = 0 then k.floorSeam else if r < 13 then k.floorPort else k.floorPcie

/-- Whether a core or channel is bound to some Setting (R384). -/
def State.bound (s : State) (core : Bool) (i : Nat) : Bool := if core then (s.coreSetting i).isSome else (s.chanSetting i).isSome

/-- The checks of R433 on the shadow copy of slot `l`; `swap` for TARGET 1. R413 and R558 refuse with check 3. -/
def locketChecks (s : State) (l : Nat) (swap : Bool) : Option Nat :=
  let n := (s.slot l).shadow
  let a := (s.slot l).active
  let heldC := if swap then a.coreList else []
  let heldM := if swap then a.chanList else []
  let addC := n.coreList.filter (fun x => !heldC.contains x)
  let addM := n.chanList.filter (fun x => !heldM.contains x)
  let cut {α : Type} (b : Bool) (x : α) : Option α := if b then some x else none
  let others := s.slotIds.filter (fun k => k != l && s.holdsLocket k)
  let c1 := n.tag == 0 || others.any (fun k => (s.slot k).active.tag == n.tag) || decide (n.slice < 50) || decide (100000 < n.slice)
    || (upto 15).any (fun r => decide (1024 < n.floorAt r)) || n.share.any (fun e => decide (1024 < e.2))
  let c2 := !n.valid || (swap && (n.tag != a.tag || n.home != a.home))
  let c3 := n.coreList.any (fun x => s.coreRetired x || (s.core x).resetting) || n.chanList.any (fun x => (s.chan x).retired)
    || addC.any (fun x => (s.coreOwner x).isSome) || addM.any (fun x => (s.chanOwner x).isSome)
    || (s.inPool && (!n.coreList.isEmpty || !n.chanList.isEmpty))
  let c4 := addM.any (fun x => !(s.chan x).clean)
  let c5 := (heldC.filter (fun x => !n.coreList.contains x)).any (s.bound true)
    || (heldM.filter (fun x => !n.chanList.contains x)).any (s.bound false)
  let c6 := addC.any (fun x => (s.half (coreHalf x)).state != 0) || addM.any (fun x => (s.half (chanHalf x)).state != 0)
  let c7 := (upto 14).any (fun r =>
    decide (1024 < s.lkt.modFloor r + n.floorAt r + (others.map (fun k => (s.slot k).active.floorAt r)).foldl (· + ·) 0))
  let c8 := shareKinds.any (fun k => decide (1024 < ((upto 8).map (n.shareAt k)).foldl (· + ·) 0))
  let c9 := (!n.coreList.isEmpty && n.shareAt 0 n.switchClass == 0)
    || (!n.coreList.isEmpty && n.inHalf 0 && n.inHalf 1 && (n.shareAt 1 n.switchClass == 0 || n.floorAt 0 == 0))
  [cut c1 stARG, cut c2 stARG, cut c3 stBUSY, cut c4 stBUSY, cut c5 stBUSY, cut c6 stPARKED, cut c7 stARG, cut c8 stARG,
    cut c9 stARG].findSome? id

/-- The exchange of a slot's copies: channels that are added lose CLEAN and are in service, channels that are removed are unheld
(R434, R230). -/
def exchangeLocket (s : State) (l : Nat) : State :=
  let x := s.slot l
  let add := x.shadow.chanList.filter (fun c => !(x.active.valid && x.active.chans.getLsbD c))
  let gone := if x.active.valid then x.active.chanList.filter (fun c => !x.shadow.chans.getLsbD c) else []
  let s1 := s.setSlot l { x with active := x.shadow, shadow := x.active }
  let s2 := s1.forAll add (fun s c => s.updChan c (fun h => { h with clean := false, state := if h.state = 0 then 1 else h.state }))
  s2.forAll gone (fun s c => s.updChan c (fun h => { h with clean := false, state := if h.state = 1 then 0 else h.state }))

/-- A staged key becomes the current key of its tag, and the tag leaves the retired list (R488, R585). -/
def installStaged (s : State) (l tag : Nat) : State :=
  let s1 := { s with trb := { s.trb with retired := s.trb.retired.filter (· != tag) } }
  match s1.trb.staged.find? (fun e => e.1 == tag) with
  | none => s1
  | some (_, k) =>
    let s2 := { s1 with trb := { s1.trb with staged := s1.trb.staged.filter (fun e => e.1 != tag) } }
    (s2.setTagKeys tag { cur := some k }).updSlot l (fun x => { x with keygen := k.gen })

/-- The credit counters of a Locket's pairs stand at the cap when its tables become active (R438). -/
def resetCredits (s : State) (l : Nat) : State :=
  let mine (p : Nat) : Bool := p < 256 && p / 8 == l
  { s with lkt := { s.lkt with
      arbs := SMap.updAll arbD (fun _ a => { a with credit := a.credit.filter (fun e => !mine e.1) }) (s.lkt.arbs.map (fun e => e.1)) s.lkt.arbs } }

/-- LOCKET_CREATE of slot `l` (R432): the status. -/
def createLocket (s : State) (l : Nat) : State × Nat :=
  let x := s.slot l
  if x.active.valid || !x.shadow.valid || x.state != 0 then (s, stBUSY)
  else
    match locketChecks s l false with
    | some st => (s, st)
    | none =>
      let s1 := (exchangeLocket s l).updSlot l (fun x => { x with
        state := 1, acct := {}, lat := [], invReady := false, invBusy := false, invSeq := 0, invRec := [] })
      (installStaged (resetCredits s1 l) l (s1.slot l).active.tag, stOK)

/-! ## Fencing a Locket: steps 2 and 3 of R452 -/

/-- Contexts of a Locket in the given states. -/
def State.ctxsOf (s : State) (l : Nat) (p : Ctx → Bool) : List Nat :=
  (s.fnc.ctxs.filter (fun e => e.2.state != 0 && e.2.locket == l && p e.2)).map (fun e => e.1)

/-- A locked or running TDI enters ERROR (R589): its queues stop as in the Locket fence of R550. -/
def tdiError (s : State) (l : Nat) : State :=
  if s.tdi l = 1 ∨ s.tdi l = 2 then
    let s1 := s.setTdi l 3
    let s2 := s1.forAll (s1.queueIds.filter (fun q => (s1.sq q).func == l + 1)) stopQueue
    (abortUnbegun s2 (fun q _ => q.func == l + 1)).1
  else s

/-- Step 2: contexts run steps 1 to 4 of R374, the VF's queues stop, unbegun descriptors complete with ABORTED. -/
def fenceLocket (s : State) (l : Nat) : State :=
  let s1 := s.updSlot l (fun x => { x with state := 2 })
  let s2 := s1.forAll (s1.ctxsOf l (fun c => c.state == 1)) (fun s n => (abortStart s n).1)
  let s3 := s2.forAll (s2.queueIds.filter (fun q => (s2.sq q).func == l + 1)) stopQueue
  (abortUnbegun s3 (fun q _ => q.func == l + 1)).1

/-- Requests of a Locket that are still unanswered on this module, those that other modules sent to it too (R456). -/
def State.locketReqs (s : State) (l : Nat) : Nat :=
  let mine (r : Req) : Bool := r.locket == l
  countP mine s.mem.inflight + countP mine s.mem.held
  + ((upto 12).map (fun p => countP (fun t => match t.purpose with | .access r => mine r | _ => false)
      ((s.dyn p).tracker ++ (s.dyn p).waiting))).foldl (· + ·) 0

/-- Descriptors' fence operations of a Locket that are outstanding complete (R329). -/
def settleFenceOps (s : State) (l : Nat) : State :=
  let hits := (s.mem.inflight ++ s.mem.held).filterMap (fun r =>
    match r.src with | .desc q i => if r.locket = l then some (q, i) else none | _ => none)
  let s1 := { s with mem := { s.mem with
    inflight := s.mem.inflight.filter (fun r => !(r.locket == l && (match r.src with | .desc .. => true | _ => false)))
    held := s.mem.held.filter (fun r => !(r.locket == l && (match r.src with | .desc .. => true | _ => false))) } }
  s1.forAll hits (fun s h => settle (descSignalled s h.1 h.2) h.1)

/-- Requests that `p` picks are not performed: they are answered with a status. -/
def expelReqs (s : State) (p : Req → Bool) (st : Nat) : State :=
  let go := s.mem.inflight.filter p ++ s.mem.held.filter p
  let s1 := { s with mem := { s.mem with
    inflight := s.mem.inflight.filter (fun r => !p r), held := s.mem.held.filter (fun r => !p r) } }
  s1.forAll go (fun s r => answer s r st [])

/-- The end of step 3: what is unanswered is answered with ABORTED, copy jobs end, swaps of the Locket's Settings end (R403), fences
are errored, and aborts that were waiting complete (R455). Other modules' requests are answered so at a teardown alone: at a reset they are
performed (`remote` false; R550, R555). -/
def drainLocket (s : State) (l : Nat) (remote : Bool) : State :=
  let sets := s.settingIds.filter (fun i => let x := s.setting i; x.swap.isSome && (x.active.locket == l || x.shadow.locket == l))
  let ctxs := s.ctxsOf l (fun _ => true)
  let s0 := s.forAll ctxs forgetCtxReqs
  let s1 := settleEndings (expelReqs s0 (fun r => remote && r.locket == l && (match r.src with | .remote .. => true | _ => false)) stABORTED)
  let s2 := s1.forAll ((s1.mem.jobs.filter (fun j => j.locket == l)).map (fun j => j.jid)) (fun s jid =>
    endJob (jobFail (dropReqs s (Src.ofJob jid)) jid stABORTED) jid)
  let s3 := settleFenceOps s2 l
  let s4 := s3.forAll sets (fun s i =>
    let s' := expelReqs s (fun r => r.set == i && r.epoch != (s.setting i).epoch) stABORTED
    let (k, s'') := s'.takeFree
    unlockSwap (endDrain s'' i) i (Config.elapsedUs k % 2 ^ 32))
  let s5 := s4.forAll (s4.fencesWhere (fun f => f.locket == l)) (fun s i => errorFence s i stABORTED noCtx)
  let waiting := s5.fnc.aborts.filter (fun a => ctxs.contains a.ctx)
  let s6 := { s5 with fnc := { s5.fnc with aborts := s5.fnc.aborts.filter (fun a => !ctxs.contains a.ctx) } }
  s6.forAll waiting (fun s a =>
    s.forAll a.waiters (fun s w => endDesc s w.1 w.2 stOK
      (detail [(16, 2, a.tasks), (18, 2, a.descs), (20, 4, a.reqs), (26, 2, a.faults)])))

/-- Contexts become FREE, fences are destroyed, queues, rings and the fault queue are disabled (step 7 of R452, R555). -/
def clearLocketQueues (s : State) (l : Nat) : State :=
  let ctxs := s.ctxsOf l (fun _ => true)
  let s1 := s.forAll (s.fencesWhere (fun f => f.locket == l)) destroyFence
  let s2 := dropRanges s1 (fun e => ctxs.contains e.ctx)
  let s3 := s2.forAll ctxs (fun s n => s.setCtx n {})
  let s4 := s3.forAll (s3.queueIds.filter (fun q => (s3.sq q).func == l + 1)) (fun s q =>
    let x := s.sq q
    freeSlots (s.setSq q { x with enable := false, state := 0, descs := [], fetches := [], dbBad := false, fetchErr := false }) q
      (x.descs.length + x.fetches.length))
  let s5 := s4.forAll ((s4.que.cqs.filter (fun e => e.2.func == l + 1)).map (fun e => e.1)) (fun s c =>
    s.updCq c (fun x => { x with ring := { x.ring with enable := false }, stalled := false, reserved := 0 }))
  let s6 := s5.setEv (l + 1) { s5.ev (l + 1) with ring := { (s5.ev (l + 1)).ring with enable := false } }
  s6.updFq l (fun x => { x with ring := { x.ring with enable := false } })

/-- Queues, rings and the fault queue of a Locket at their reset values (R551, R552). FUNC, SLOT and QP, by which the PF assigns them to the
VF, stay: after the reset the VF again accepts its queues (R555; DESIGN CHOICE, log 59). -/
def resetLocketQueues (s : State) (l : Nat) : State :=
  let s1 := s.forAll (s.queueIds.filter (fun q => (s.sq q).func == l + 1)) (fun s q =>
    s.updSq q (fun x => { func := x.func, slot := x.slot, qp := x.qp }))
  let s2 := s1.forAll ((s1.que.cqs.filter (fun e => e.2.func == l + 1)).map (fun e => e.1)) (fun s c =>
    s.updCq c (fun x => { func := x.func, slot := x.slot }))
  (s2.setEv (l + 1) {}).updFq l (fun _ => {})

/-! ## RST_STATUS (R564) -/

/-- A reset starts: RST_STATUS shows the highest level that runs (R564). -/
def noteReset (s : State) (level : Nat) : State :=
  { s with rst := { s.rst with busy := true, level := if s.rst.busy then max s.rst.level level else level } }

/-- Whether a reset of cores or Lockets still runs, and the highest such level. -/
def State.runningLevel (s : State) : Nat :=
  if s.rst.running then 3
  else if s.lkt.slots.any (fun e => e.2.resetting) then 2
  else if s.cores.any (fun e => e.2.resetting) then 1
  else 0

/-- RST_STATUS shows the highest level that still runs. -/
def refreshReset (s : State) : State := { s with rst := { s.rst with busy := s.runningLevel != 0, level := s.runningLevel } }

/-- A reset has ended (R564). -/
def noteResetEnd (s : State) (level : Nat) (esc : Bool) (us : Nat) : State :=
  let s1 := refreshReset s
  { s1 with rst := { s1.rst with lastLevel := level, escalated := esc, duration := us } }

/-! ## Teardown (R451 to R456) -/

/-- Payload of a teardown step (subcode 5) and of a report (subcode 6) (log 31). -/
def teardownPayload (sub step tag : Nat) : List (BitVec 8) := leBytes 1 sub ++ leBytes 1 step ++ leBytes 2 tag

/-- A message of the teardown: under the Locket's key at step 2, under the module key after it (log 31). -/
def sendTeardown (s : State) (l m sub step tag : Nat) : State :=
  let x := if step ≤ 3 then l else noLocket
  (sendControl s x m (teardownPayload sub step tag) (.teardown l m step)).1

def updTeardown (s : State) (l : Nat) (f : Teardown → Teardown) : State :=
  s.updSlot l (fun x => { x with teardown := x.teardown.map f })

/-- Keys of a tag are erased at every port, and the tag enters the retired list of 64 (R488). -/
def retireKey (s : State) (tag : Nat) : State :=
  let r := s.trb.retired.filter (· != tag) ++ [tag]
  let s1 := s.setTagKeys tag {}
  { s1 with trb := { s1.trb with retired := r.drop (r.length - 64) } }

/-- GEN advances modulo 2^32 and skips 0 (R417). -/
def leaseGen (g : Nat) : Nat := if (g + 1) % 2 ^ 32 = 0 then 1 else (g + 1) % 2 ^ 32

/-- Blocks of a pool module allocated to a slot are freed (step 6 of R452, R422). -/
def freeBlocksOf (s : State) (l : Nat) : State :=
  if s.pool.state = 2 then
    let bs := (s.pool.recs.filter (fun e => (e.2.state == 1 || e.2.state == 2 || e.2.state == 3) && e.2.locket == l)).map (fun e => e.1)
    let s1 := s.forAll bs (fun s b => let r := s.homeRec b; s.setHomeRec b { r with state := 4, gen := leaseGen r.gen })
    { s1 with pool := { s1.pool with freeCmds := s1.pool.freeCmds ++ bs } }
  else s

/-- A scrub of a channel starts (R220, R221). -/
def startScrub (s : State) (c initiator : Nat) : State := s.updChan c (fun h => { h with state := 2, initiator := some initiator })

/-- Steps 7 and 8: Settings become invalid and zero, the Locket's things go, its channels are unheld and scrubbed. A request that is still on its
way to one of them is answered with NOREGION before the scrub begins (R221, R455). -/
def releaseLocket (s : State) (l : Nat) : State :=
  let x := s.slot l
  let sets := s.settingIds.filter (fun i => let y := s.setting i; (y.active.valid && y.active.locket == l) || (y.swap.isSome && y.shadow.locket == l))
  let s0 := s.forAll sets (fun s i => s.setSetting i { epoch := (s.setting i).epoch })
  let s1 := { s0 with mem := { s0.mem with moves := s0.mem.moves.filter (fun m => !sets.contains m.set) } }
  let left (r : Req) : Bool := match r.place with | .chan c _ => x.active.chans.getLsbD c | _ => false
  let s2 := clearLocketQueues (expelReqs s1 left stNOREGION) l
  let cs := x.active.chanList.filter (fun c => (s2.chan c).state == 1)
  let s3 := s2.forAll x.active.chanList (fun s c => s.updChan c (fun h => { h with clean := false }))
  let s4 := s3.forAll cs (fun s c => startScrub s c 1)
  (updTeardown s4 l (fun t => { t with step := 8, scrubs := cs })).updSlot l (fun y => { y with
    state := 5, active := { y.active with chans := 0 } })

/-- Step 9 on a member: the slot's tables are zeroed, SLICE_US too, and its cores released (R452). -/
def emptySlot (s : State) (l : Nat) : State := s.setSlot l { active := { slice := 0 }, shadow := { slice := 0 } }

/-- What a teardown that ends answers: the STOP_INTERFACE that waits for it, whose TDI is then CONFIG_UNLOCKED (R589). -/
def answerStop (s : State) (l : Nat) (t : Teardown) : State := if t.tdi then reply (s.setTdi l 0) 0 [] else s

/-- TEARDOWN_DONE (R456). -/
def teardownDone (s : State) (l tag qp members missing reqs : Nat) : State :=
  let (k, s1) := s.takeFree
  postEvent s1 { type := 0x0270, sev := 0, source := qpUnit qp, object := l + tag * 65536
                 detail := detail [(16, 2, members), (18, 2, missing), (20, 4, reqs), (24, 4, Config.elapsedUs k)] }

/-- The teardown ends on the module that runs it; one that STOP_INTERFACE started answers it (R589). -/
def finishTeardown (s : State) (l : Nat) : State :=
  match (s.slot l).teardown with
  | none => s
  | some t =>
    let qp := (s.slot l).active.qp
    let s0 := teardownDone (emptySlot s l) l t.tag qp (1 + t.done8.length) t.missing t.reqs
    let s1 := answerStop s0 l t
    match t.desc with
    | some (q, idx) => endDesc s1 q idx stOK 0
    | none => s1

/-- What a member does when a step has ended there: the home notes it, another member reports it, and a teardown of one slot alone
goes on. -/
def stepDone (s : State) (l step : Nat) : State :=
  match (s.slot l).teardown with
  | none => s
  | some t =>
    match t.msgHome with
    | some h => sendTeardown s l h 6 step t.tag
    | none => updTeardown s l (fun t => { t with reported := setIns s.trb.idModule t.reported })

/-- The step that follows on the module that runs the teardown, while every report it waits for is in. -/
def advanceTeardown (s : State) (l : Nat) : Nat → State
  | 0 => s
  | n + 1 =>
    match (s.slot l).teardown with
    | none => s
    | some t =>
      if t.msgHome.isSome || !t.reported.contains s.trb.idModule || t.members.any (fun m => !t.reported.contains m) then s
      else
        let send (s : State) (step : Nat) : State := s.forAll t.members (fun s m => sendTeardown s l m 5 step t.tag)
        let clear (s : State) (step : Nat) : State := updTeardown s l (fun t => { t with reported := [], step := step })
        if t.step = 3 then
          let s1 := send (clear s 5) 5
          let s2 := freeBlocksOf (retireKey (s1.updSlot l (fun x => { x with state := 4 })) t.tag) l
          if s2.pool.freeCmds.isEmpty then advanceTeardown (stepDone s2 l 5) l n else s2
        else if t.step = 5 then
          let s1 := releaseLocket (send (clear s 7) 7) l
          match (s1.slot l).teardown with
          | some t1 => if t1.scrubs.isEmpty then advanceTeardown (stepDone s1 l 8) l n else s1
          | none => s1
        else if t.step = 8 then finishTeardown (send s 9) l
        else s

/-- Steps of a teardown that can follow in one command. -/
def teardownFuel : Nat := 4

/-- Steps 1 and 2 on this module (R452). A reset of the slot that runs stops where it stands (R558), and RST_STATUS shows it no more. -/
def beginTeardown (s : State) (l : Nat) (t : Teardown) : State :=
  let s0 := refreshReset (s.updSlot l (fun x => { x with teardown := some { t with step := 3 }, resetting := false }))
  let pre := s0.settingIds.filter (fun i => let x := s0.setting i; x.swap.isSome && (x.active.locket == l || x.shadow.locket == l))
  let s1 := s0.forAll pre (fun s i => abandonSwap s i stABORTED)
  (fenceLocket (tdiError s1 l) l).updSlot l (fun x => { x with state := 3 })

/-- Whether a teardown runs on a slot: this module's own, or one of a home that has not gone. A member does not see whether its home has counted
it as missing or was reset: that is a free value (R453, R455; log 14). -/
def Teardown.runs (t : Teardown) (k : Nat) : Bool := t.msgHome.isNone || !Config.homeGone k

/-- This module alone goes on with a teardown that its home has left: the home counted it as missing, or was reset (R453, R455). At step 4 its
own drain has ended, and no report of another is awaited. -/
def takeOver (s : State) (l : Nat) (t : Teardown) : State :=
  let step := if t.step = 4 then 3 else t.step
  let s1 := updTeardown s l (fun _ => { t with msgHome := none, members := [], reported := [], home := false, step := step })
  let waits := !(s1.pool.freeCmds.isEmpty) || !t.scrubs.isEmpty
  if t.step = 3 || waits then s1 else advanceTeardown (stepDone s1 l step) l teardownFuel

/-- LOCKET_TEARDOWN (R451, R452). The Locket's slot may be one that holds no home: then this module alone is torn down. -/
def locketTeardown (s0 : State) (q idx l : Nat) : State :=
  let (k, s) := s0.takeFree
  let x := s.slot l
  if x.teardown.any (fun t => t.runs k) then endDesc s q idx stBUSY 0
  else if x.state = 0 then endDesc s q idx stOK 0
  else
    let home := x.active.home == s.trb.idModule
    let ms := if home then x.active.member.filter (· != s.trb.idModule) else []
    match x.teardown with
    | some t =>
      takeOver s l { t with desc := some (q, idx) }
    | none =>
      let t : Teardown := { desc := some (q, idx), home := home, tag := x.active.tag, members := ms }
      let s1 := s.forAll ms (fun s m => sendTeardown s l m 5 2 x.active.tag)
      beginTeardown s1 l t

/-- The drain of step 3 ends on this module. -/
def teardownDrained (s : State) (l : Nat) : State :=
  match (s.slot l).teardown with
  | none => s
  | some t =>
    if (s.slot l).state = 3 && t.step = 3 && !t.reported.contains s.trb.idModule then
      let n := s.locketReqs l
      let s1 := updTeardown (drainLocket s l true) l (fun t => { t with reqs := n, step := if t.msgHome.isSome then 4 else 3 })
      advanceTeardown (stepDone s1 l 3) l teardownFuel
    else s

/-- A message of the home: steps 2, 5, 7 and 9 on a member (R452). -/
def memberStep (s : State) (l home step : Nat) : State :=
  let x := s.slot l
  match step with
  | 2 =>
    if x.teardown.isSome || x.state = 0 then s
    else beginTeardown s l { msgHome := some home, tag := x.active.tag }
  | 5 =>
    match x.teardown with
    | some t =>
      let s1 := freeBlocksOf (retireKey ((updTeardown s l (fun t => { t with step := 5 })).updSlot l (fun x => { x with state := 4 })) t.tag) l
      if s1.pool.freeCmds.isEmpty then stepDone s1 l 5 else s1
    | none => s
  | 7 =>
    match x.teardown with
    | some _ =>
      let s1 := releaseLocket s l
      match (s1.slot l).teardown with
      | some t1 => if t1.scrubs.isEmpty then stepDone s1 l 8 else s1
      | none => s1
    | none => s
  | 9 =>
    match x.teardown with
    | some t => answerStop (emptySlot s l) l t
    | none => s
  | _ => s

/-- A scrub of a teardown has ended (step 8). -/
def teardownScrubbed (s : State) (c : Nat) : State :=
  match s.slotIds.find? (fun l => match (s.slot l).teardown with | some t => t.scrubs.contains c | none => false) with
  | none => s
  | some l =>
    let s1 := updTeardown s l (fun t => { t with scrubs := t.scrubs.filter (· != c) })
    match (s1.slot l).teardown with
    | some t => if t.scrubs.isEmpty then advanceTeardown (stepDone s1 l 8) l teardownFuel else s1
    | none => s1

/-- The blocks that a teardown frees are FREE (step 6). -/
def teardownFreed (s : State) : State :=
  if s.pool.freeCmds.isEmpty then
    s.forAll (s.slotIds.filter (fun l => match (s.slot l).teardown with
      | some t => t.step == 5 && !t.reported.contains s.trb.idModule | none => false))
      (fun s l => advanceTeardown (stepDone s l 5) l teardownFuel)
  else s

/-- A member's report reaches the home. -/
def teardownReported (s : State) (l m step : Nat) : State :=
  match (s.slot l).teardown with
  | none => s
  | some t =>
    if t.msgHome.isSome || !t.members.contains m || t.reported.contains m || step != t.step then s
    else
      let s1 := updTeardown s l (fun t => { t with reported := setIns m t.reported, done8 := if step = 8 then setIns m t.done8 else t.done8 })
      advanceTeardown s1 l teardownFuel

/-- A member counts as missing (R453): the home goes on without it. -/
def memberMissing (s : State) (l m : Nat) : State :=
  match (s.slot l).teardown with
  | none => s
  | some t =>
    if t.msgHome.isSome || !t.members.contains m || t.reported.contains m then s
    else advanceTeardown (updTeardown s l (fun t => { t with members := t.members.filter (· != m), missing := t.missing + 1 })) l teardownFuel

/-! ## Resets (R545 to R561) -/

/-! ## Scrubs that end, and the pool role that waits for them (R412, R414) -/

/-- Channels that are neither failed nor retired (R412, R415). -/
def State.goodChans (s : State) : List Nat := (upto 128).filter (fun c => (s.chan c).state != 4 && (s.chan c).state != 5)

/-- Cores that are not retired. -/
def State.goodCores (s : State) : List Nat := (upto 192).filter (fun n => !s.coreRetired n)

/-- Steps 4 and 5 of R412 or 2 to 4 of R414, when the last channel of a ROLE has been scrubbed: the region is formed of the channels that are
then neither failed nor retired (R415). -/
def roleDone (s : State) (q idx : Nat) : State :=
  if s.pool.state = 1 then
    let cs := s.pool.chans.filter s.goodChans.contains
    let s1 := { s with pool := { s.pool with state := 2, role := none, chans := cs, genFirst := s.pool.genBase, recs := [] } }
    let s2 := s1.forAll s1.pool.chans (fun s c =>
      s.updChan c (fun h => { h with state := if h.state = 0 then 1 else h.state, clean := false }))
    endDesc s2 q idx stOK 0
  else if s.pool.state = 3 then
    let s1 := { s with pool := { s.pool with state := 0, role := none, chans := [] } }
    let s2 := s1.forAll s1.goodCores (fun s n => (s.updCore n (fun c => { c with parked := false })).updPcore n (fun p => { p with fSet := 0x28, base := 0x28, want := none }))
    endDesc s2 q idx stOK 0
  else s

/-- A channel of a descriptor has been scrubbed: a SCRUB or a ROLE completes with its last (R334, R412, R414). -/
def scrubbedFor (s : State) (c : Nat) : State :=
  let hits := s.que.sqs.flatMap (fun e => (e.2.descs.filter (fun d => d.scrubs.contains c)).map (fun d => (e.1, d.idx)))
  s.forAll hits (fun s h =>
    let s1 := s.updDesc h.1 h.2 (fun d => { d with scrubs := d.scrubs.filter (· != c) })
    match s1.desc? h.1 h.2 with
    | some d =>
      if d.scrubs.isEmpty then (if s1.pool.role = some h then roleDone s1 h.1 h.2 else endDesc s1 h.1 h.2 d.status 0) else s1
    | none => s1)

/-- A channel that fails or is retired is scrubbed no more: no teardown, SCRUB or ROLE waits for it. -/
def dropScrub (s : State) (c : Nat) : State := scrubbedFor (teardownScrubbed s c) c

/-! ## Retirement (R559, R560) -/

/-- Own failures of a unit within the 1,000 hours that end now (R559). -/
def State.ownFailures (s : State) (unit : Nat) : Nat :=
  countP (fun t => decide (s.rst.clock - t ≤ 1000)) (SMap.get (fun _ => []) s.rst.failTimes unit)

/-- A unit is retired (R559, R560): UNIT_RETIRED, copied to the Locket that holds it. A retired core loses the task it runs. -/
def retire (s : State) (unit reason : Nat) : State :=
  let count := s.ownFailures unit
  let x : Record := { type := 0x0222, sev := 1, source := decridUnit, object := unit, detail := detail [(16, 1, reason), (20, 4, count)] }
  let announce (s : State) (o : Option Nat) : State :=
    match o with
    | some l => putEv (postEvent s x) (l + 1) x
    | none => postEvent s x
  if unit < 192 then
    if s.coreRetired unit then s
    else
      let s1 := { s with rst := { s.rst with retiredCores := setIns unit s.rst.retiredCores, lifted := setDel unit s.rst.lifted } }
      announce (stopTask s1 unit 0 0 (s1.taskPc unit) 2 0 0) (s.coreOwner unit)
  else if 0x100 ≤ unit ∧ unit < 0x180 then
    let c := unit - 0x100
    if (s.chan c).retired then s
    else announce (dropScrub (failMoves (s.updChan c (fun h => { h with retired := true, state := 5, initiator := none })) c) c) (s.chanOwner c)
  else s

/-- Count a unit's own failure; the second within 1,000 hours retires it (R559). Decrid's clock has gone on by a free number of hours. -/
def ownFailure (s : State) (unit reason : Nat) : State :=
  let (k, s0) := s.takeFree
  let now := s0.rst.clock + Config.hoursPassed k
  let s1 := { s0 with rst := { s0.rst with
    clock := now, failTimes := SMap.upd (fun _ => []) s0.rst.failTimes unit (fun l => now :: l) } }
  if 2 ≤ s1.ownFailures unit then retire s1 unit reason else s1

/-- A Locket reset starts (R555, R558): the fence of steps 2 and 3 of R452. `cause`: 0 request, 1 automatic, 2 escalation. -/
def startLocketReset (s : State) (l cause : Nat) : State :=
  let x := s.slot l
  if s.rst.running || x.resetting || x.state != 1 then s
  else
    let s0 := s.updSlot l (fun x => { x with resetting := true, rstCause := cause })
    let pre := s0.settingIds.filter (fun i => let y := s0.setting i; y.swap.isSome && (y.active.locket == l || y.shadow.locket == l))
    noteReset (fenceLocket ((tdiError s0 l).forAll pre (fun s i => abandonSwap s i stABORTED)) l) 2

/-- The end of a Locket reset (R555, R561). -/
def endLocketReset (s : State) (l us : Nat) : State :=
  let x := s.slot l
  if x.resetting then
    let s1 := resetLocketQueues (clearLocketQueues (drainLocket s l false) l) l
    let s2 := s1.updSlot l (fun y => { y with state := 1, resetting := false, lat := [] })
    noteResetEnd (resetDone s2 2 l (qpUnit x.active.qp) noLocket noCtx x.rstCause us) 2 (x.rstCause == 2) us
  else s

/-- A core after its reset (R551, R554): what is kept is CORE_FAULT, CORE_CYCLE and CORE_RETIRE. -/
def resetCore (c : Core) (n : Nat) : Core :=
  { coreD n with
    cycle := c.cycle, retire := c.retire, fault := c.fault, parked := c.parked, resetting := true, rstCause := c.rstCause
    ownFault := c.ownFault, now := c.now }

/-- A core reset starts (R554, R558). `kind` is that of TASK_FAULT. -/
def startCoreReset (s : State) (n cause kind : Nat) (own : Bool) : State :=
  if s.rst.running || (s.core n).resetting then s
  else
    let s1 := stopTask s n 0 0 (s.taskPc n) kind 0 0
    let s2 := (dropHeld (s1.setWalk n none) n).updCore n (fun c => resetCore { c with rstCause := cause, ownFault := own } n)
    let s3 := s2.updPcore n (fun p => { p with fSet := 0x28, base := 0x28, want := none })
    noteReset { s3 with pwr := { s3.pwr with requests := s3.pwr.requests.filter (fun r => r.1 != n) } } 1

/-- The end of a core reset (R559, R561): every block is unloaded, one that a CODE_LOAD wrote during the reset too (R554). -/
def endCoreReset (s : State) (n us : Nat) : State :=
  let c := s.core n
  if c.resetting then
    let s1 := s.updCore n (fun c => { c with resetting := false, rstCause := 0, ownFault := false, taken := false, im := [], loaded := [] })
    let s2 := resetDone s1 1 n n noLocket noCtx c.rstCause us
    let s3 := noteResetEnd s2 1 (c.rstCause == 2) us
    if c.ownFault then ownFailure s3 n 1 else s3
  else s

/-- What follows a channel's failure (R205, R400, R542, R559). -/
def channelFailed (s : State) (c : Nat) : State :=
  let s1 := dropScrub (failMoves s c) c
  let s2 := match s1.chanOwner c with
    | some l => startLocketReset (tdiError s1 l) l 1
    | none => s1
  ownFailure s2 (chanUnit c) 2

end Sys2Proof.Machine
end

