-- ==== Sys2Proof/Machine/PoolOps.lean ====
section
/-! DEFINITION. The state pool: record operations at their home (R415 to R420, R422), the lease table and its commands (R418, R421,
R423 to R425, R428), and the pool role (R411 to R415). -/

namespace Sys2Proof.Machine

/-! ## Home records -/

/-- A record as a number (R416). -/
def HomeRec.word (r : HomeRec) : Nat :=
  r.owner + r.locket <<< 16 + r.state <<< 24 + r.gen <<< 32 + r.pend <<< 64

/-- Read a record from its 16 bytes. -/
def HomeRec.ofBytes (l : List (BitVec 8)) : HomeRec :=
  let v := leNat (l.take 16)
  { owner := bits v 0 10, locket := bits v 16 5, state := bits v 24 3, gen := bits v 32 32, pend := bits v 64 10 }

/-- A record operation (R420). -/
inductive RecordOp where
  | accept (m l : Nat)
  | grant (m t g : Nat)
  | release (m g : Nat)
  | probe
  | alloc (l : Nat)
  | revoke
  | free
deriving DecidableEq, Repr

/-- What an operation makes of a record; none is NOT_ALLOWED. `held` says that ALLOC's slot holds a Locket. -/
def RecordOp.apply (op : RecordOp) (held : Bool) (r : HomeRec) : Option HomeRec :=
  let allow (b : Bool) (x : HomeRec) : Option HomeRec := if b then some x else none
  match op with
  | .accept m l =>
    allow ((r.state == 1 && r.locket == l) || (r.state == 3 && (r.pend == m || r.owner == m)))
      { r with owner := m, gen := leaseGen r.gen, state := 2, pend := 0 }
  | .grant m t g => allow (r.state == 2 && r.owner == m && r.gen == g) { r with pend := t, state := 3 }
  | .release m g => allow ((r.state == 2 || r.state == 3) && r.owner == m && r.gen == g) { r with gen := leaseGen r.gen, state := 1, pend := 0 }
  | .probe => some r
  | .alloc l => allow (r.state == 0 && held) { r with locket := l, state := 1 }
  | .revoke => allow (r.state == 2 || r.state == 3) { r with gen := leaseGen r.gen, state := 1, pend := 0 }
  | .free => allow (r.state == 1 || r.state == 2 || r.state == 3) { r with gen := leaseGen r.gen, state := 4, pend := 0 }

/-- Perform a record operation on block `b` (R420): whether it was allowed, and the record after it. -/
def recordOp (s : State) (b : Nat) (op : RecordOp) : State × Bool × HomeRec :=
  let held := match op with | .alloc l => s.holdsLocket l | _ => true
  match op.apply held (s.homeRec b) with
  | some r => (s.setHomeRec b r, true, r)
  | none => (s, false, s.homeRec b)

/-- Requests to block `b` that passed their check and are not yet performed (R422). -/
def State.blockBusy (s : State) (b : Nat) : Bool :=
  s.mem.inflight.any (fun r => decide (r.set = 64) && (match r.place with | .chan .. => true | _ => false)
    && decide (dpaLocal r.dpa / blockBytes = b) && dpaModule r.dpa == s.trb.idModule)

/-- The end of a host command (R427). -/
def poolResult (s : State) (result : Nat) (r : Nat) : State :=
  { s with pool := { s.pool with busy := false, clearing := none, revoking := none, result := result, record := r % 2 ^ 56 } }

/-- A host command on block `b` (R420, R422, R427). -/
def poolCommand (s : State) (b : Nat) (op : RecordOp) : State :=
  if s.pool.busy then s
  else if s.pool.state ≠ 2 then poolResult s 3 0
  else if b < s.pool.recordBlocks ∨ s.pool.blocks ≤ b then poolResult s 2 (if b < s.pool.blocks then (s.homeRec b).word else 0)
  else
    let (s1, ok, r) := recordOp s b op
    if !ok then poolResult s1 1 r.word
    else
      match op with
      | .free => { s1 with pool := { s1.pool with busy := true, clearing := some b } }
      | .revoke =>
        if s1.blockBusy b then { s1 with pool := { s1.pool with busy := true, revoking := some b } } else poolResult s1 0 r.word
      | _ => poolResult s1 0 r.word

/-- Step 2 of R414: a channel of the region that has performed every request it had accepted is scrubbed. -/
def leaveProgress (s : State) : State :=
  if s.pool.state = 3 then
    s.forAll (s.pool.chans.filter (fun c => (s.chan c).state == 1 && !s.chanBusy c)) (fun s c => startScrub s c 2)
  else s

/-- A REVOKE that waited for requests of the old GEN completes (R422), and so does the wait of an exit from the pool role (R414). -/
def poolProgress (s : State) : State :=
  match s.pool.revoking with
  | some b => if s.blockBusy b then s else poolResult s 0 (s.homeRec b).word
  | none => leaveProgress s

/-- Zeros over one block (R420). -/
def zeroBlock (s : State) (b : Nat) : State :=
  let g := granBytes s.pool.gran
  s.forAll (upto (blockBytes / g)) (fun s i =>
    let m := interleave s.pool.chans g (blockBytes * b + i * g)
    s.updChan m.1 (fun h => { h with
      mem := h.mem.clear m.2 g, marks := h.marks.filter (fun x => decide (x < m.2 / 64) || decide ((m.2 + g) / 64 ≤ x)) }))

/-- The end of a block's clearing (R420, R422). -/
def blockCleared (s : State) (b : Nat) : State :=
  let r := s.homeRec b
  if r.state = 4 && !s.blockBusy b then
    let s1 := (zeroBlock s b).setHomeRec b { r with state := 0, owner := 0, locket := 0, pend := 0 }
    let s2 := { s1 with pool := { s1.pool with freeCmds := s1.pool.freeCmds.filter (· != b) } }
    let s3 := if s2.pool.clearing = some b then poolResult s2 0 (s2.homeRec b).word else s2
    teardownFreed s3
  else s

/-! ## The lease table -/

/-- Entries of the lease table (R418). -/
def leaseEntries : Nat := 16384

def Lease.is (e : Lease) (pool block locket : Nat) : Bool := e.pool == pool && e.block == block && e.locket == locket

def setLeases (s : State) (l : List Lease) : State := { s with pool := { s.pool with leases := l } }

/-- Put an entry in the table in place of one of the same lease. -/
def putLease (s : State) (e : Lease) : State :=
  setLeases s (s.pool.leases.filter (fun x => !x.is e.pool e.block e.locket) ++ [e])

def dropLease (s : State) (pool block locket : Nat) : State := setLeases s (s.pool.leases.filter (fun x => !x.is pool block locket))

/-- The end of a lease command (R428). -/
def leaseResult (s : State) (result gen : Nat) : State :=
  { s with pool := { s.pool with lbusy := false, lresult := result, lgen := gen, cmd := none } }

/-- Payload of a lease operation (R420, R475; log 31): after the subcode MEM_LEASE_ARG and MEM_LEASE_CMD as R428 lays them out, then GEN. -/
def leasePayload (op block gen pool locket target : Nat) : List (BitVec 8) :=
  leBytes 1 3 ++ leBytes 8 (pool + locket <<< 16 + target <<< 32) ++ leBytes 8 (op + block <<< 32) ++ leBytes 4 gen

/-- Send a record operation, or the PROBE that follows it (R424); one that cannot leave is never answered. -/
def leaseSend (s : State) (c : LeaseCmd) (op : Nat) : State :=
  let gen := match s.leaseHit c.pool c.block c.locket with | some e => e.gen | none => 0
  let port := (s.egress c.pool).getD 0
  match sendControl s c.locket c.pool (leasePayload op c.block gen c.pool c.locket c.target) .leaseOp with
  | (s1, .sent r) => { s1 with pool := { s1.pool with cmd := some { c with reqid := r, port := port } } }
  | (s1, .refused _) => { s1 with pool := { s1.pool with cmd := some { c with reqid := 2 ^ 16, port := port } } }

/-- Requests sent under a lease and not answered (R421). -/
def State.leaseUnanswered (s : State) (c : LeaseCmd) : Bool :=
  (upto 12).any (fun p => ((s.dyn p).tracker ++ (s.dyn p).waiting).any (fun t =>
    match t.purpose with
    | .access r => t.pkt.lease && r.locket == c.locket && dpaModule r.dpa == c.pool && dpaLocal r.dpa / blockBytes == c.block
    | _ => false))

/-- A command that waits for answers goes on when the last has come (R421). -/
def leaseProgress (s : State) : State :=
  match s.pool.cmd with
  | some c => if c.stage = 0 && !s.leaseUnanswered c then leaseSend s { c with stage := 1 } c.op else s
  | none => s

/-- A lease command (R420, R421, R428, R455). Operations: 1 ACCEPT, 2 GRANT, 3 RELEASE, 4 PROBE, 5 DROP. -/
def leaseCommand (s : State) (op block : Nat) : State :=
  let p := s.pool
  if p.lbusy then s
  else
    let l := p.argLocket
    let hit := s.leaseHit p.argPool block l
    let c : LeaseCmd := { op := op, block := block, pool := p.argPool, locket := l, target := p.argTarget, stage := 1 }
    let s1 := { s with pool := { p with lbusy := true, lgen := 0, cmd := some c } }
    if decide (2 ≤ (s.slot l).state) then leaseResult s 4 0
    else if op = 5 then leaseResult (dropLease s p.argPool block l) 7 0
    else if !s.holdsLocket l then leaseResult s 4 0
    else if op = 1 then (if hit.isNone && decide (leaseEntries ≤ p.leases.length) then leaseResult s 5 0 else leaseSend s1 c 1)
    else if op = 4 then leaseSend s1 c 4
    else
      match hit with
      | some e =>
        -- the entry is GRANTING from the command on (R421); an ORPHANED one stays so (R424)
        let s2 := if e.state = 3 then s1 else putLease s1 { e with state := 1 }
        leaseProgress { s2 with pool := { s2.pool with cmd := some { c with stage := 0 } } }
      | none => leaseResult s 4 0

/-- Reconcile an entry with the record that a PROBE returned (R423). -/
def reconcile (s : State) (c : LeaseCmd) (r : HomeRec) : State :=
  let me := s.trb.idModule
  let e : Lease := { pool := c.pool, block := c.block, locket := c.locket, gen := r.gen, state := 0 }
  let full := (s.leaseHit c.pool c.block c.locket).isNone && decide (leaseEntries ≤ s.pool.leases.length)
  if r.state = 2 ∧ r.owner = me then (if full then leaseResult s 5 r.gen else leaseResult (putLease s e) 0 r.gen)
  else if r.state = 3 ∧ r.owner = me then (if full then leaseResult s 5 r.gen else leaseResult (putLease s { e with state := 1 }) 1 r.gen)
  else leaseResult (dropLease s c.pool c.block c.locket) (if r.state = 3 ∧ r.pend = me then 2 else 3) r.gen

/-- The home's answer to a lease command (R421, R423, R424). -/
def leaseAnswered (s : State) (reqid : Nat) (ok : Bool) (r : HomeRec) : State :=
  match s.pool.cmd with
  | none => s
  | some c =>
    if c.reqid ≠ reqid ∨ c.stage = 0 then s
    else if c.stage = 2 ∨ c.op = 4 then reconcile s c r
    else if c.op = 1 then
      if ok then
        -- an ORPHANED entry leaves that state by an answered PROBE or DROP alone (R424)
        let orphan := (s.leaseHit c.pool c.block c.locket).any (fun e => e.state == 3)
        let e : Lease := { pool := c.pool, block := c.block, locket := c.locket, gen := r.gen, state := 0 }
        leaseResult (if orphan then s else putLease s e) 0 r.gen
      else leaseResult s 4 r.gen
    else
      let orphan := (s.leaseHit c.pool c.block c.locket).any (fun e => e.state == 3)
      leaseResult (if orphan then s else dropLease s c.pool c.block c.locket) (if ok then 7 else 4) r.gen

/-- BLOCK_ORPHANED (R425). -/
def orphanEvent (s : State) (e : Lease) (port op : Nat) : State :=
  postEvent s { type := 0x0260, sev := 2, locket := e.locket, source := portUnit port, object := e.block
                detail := detail [(16, 2, e.pool), (20, 4, e.gen), (24, 2, op)] }

/-- PROBE_US has passed without an answer (R424). -/
def leaseTimeout (s : State) : State :=
  match s.pool.cmd with
  | none => s
  | some c =>
    if c.stage = 1 then leaseSend (untrack s c.reqid) { c with stage := 2 } 4
    else if c.stage = 2 then
      let e : Lease := match s.leaseHit c.pool c.block c.locket with
        | some e => { e with state := 3 }
        | none => { pool := c.pool, block := c.block, locket := c.locket, gen := 0, state := 3 }
      let room := (s.leaseHit c.pool c.block c.locket).isSome || decide (s.pool.leases.length < leaseEntries)
      let s1 := untrack s c.reqid
      leaseResult (orphanEvent (if room then putLease s1 e else s1) e c.port c.op) 6 0
    else s

/-- A request answered with OWNERSHIP_LOST loses the lease of the GEN it carried (R417, R419). -/
def leaseLost (s : State) (pool block locket gen : Nat) : State :=
  setLeases s (mapWhere (fun e => e.is pool block locket && e.gen == gen && (e.state == 0 || e.state == 1)) (fun e => { e with state := 2 })
    s.pool.leases)

/-! ## The pool role -/

/-- The checks of R411. -/
def rolePoolCheck (s : State) : Option Nat :=
  if s.settingIds.any (fun i => (s.setting i).active.valid) || s.fnc.ctxs.any (fun e => e.2.state != 0) then some stBUSY
  else if s.slotIds.any (fun l => s.holdsLocket l && ((s.slot l).active.cores != 0 || (s.slot l).active.chans != 0)) then some stBUSY
  else if (s.half 0).state ≠ 0 ∨ (s.half 1).state ≠ 0 then some stPARKED
  else if s.inPool then some stARG
  else none

/-- ROLE pool (R411, R412): steps 1 to 3. -/
def rolePool (s : State) (q idx : Nat) : State :=
  match rolePoolCheck s with
  | some st => endDesc s q idx st 0
  | none =>
    let cs := s.goodChans
    let s1 := { s with pool := { s.pool with state := 1, chans := cs, role := some (q, idx), recs := [], busy := false, result := 0, record := 0 } }
    let s2 := s1.forAll s1.goodCores (fun s n => s.updCore n (fun c => { c with parked := true }))
    let s3 := s2.forAll cs (fun s c => startScrub s c 2)
    let s4 := s3.updDesc q idx (fun d => { d with scrubs := cs })
    if cs.isEmpty then roleDone s4 q idx else s4

/-- ROLE compute (R414): steps 1 and 2. From now on a new request to the region is answered with NOREGION; each channel is scrubbed when the
requests that it has accepted are performed. -/
def roleCompute (s : State) (q idx : Nat) : State :=
  if s.pool.state ≠ 2 then endDesc s q idx stARG 0
  else if s.pool.recs.any (fun e => e.2.state != 0 && e.2.state != 5) then endDesc s q idx stBUSY 0
  else
    let cs := s.pool.chans.filter (fun c => (s.chan c).state == 1)
    let s1 := { s with pool := { s.pool with state := 3, role := some (q, idx), recs := [] } }
    let s2 := leaveProgress (s1.updDesc q idx (fun d => { d with scrubs := cs }))
    if cs.isEmpty then roleDone s2 q idx else s2

/-- The end of a channel's scrub (R220, R221, R233, R434, R528). -/
def endScrub (s : State) (c us : Nat) : State :=
  let h := s.chan c
  match h.initiator with
  | none => s
  | some k =>
    if h.state = 2 && !h.bist then
      let s1 := raise (s.setChan c { h.scrubbedClean with state := 0, initiator := none, clean := true }) (0x0C0 + c)
      let s2 := postEvent s1 { type := 0x0233, source := chanUnit c, object := c, detail := detail [(16, 4, us), (20, 1, k)] }
      scrubbedFor (teardownScrubbed s2 c) c
    else s

end Sys2Proof.Machine
end

