-- ==== Sys2Proof/Machine/QueueOps.lean ====
section
/-! DEFINITION. The registers of queues and rings (R280, R319, R320, R323, R345 to R350, R634), fetches (R317, R322) and the work of
descriptors: tasks, loads, copies, contexts, invalidations and fault resolution (R289 to R297, R331 to R336, R354, R358). -/

namespace Sys2Proof.Machine

/-- A register word after a write of the bits of `m` (R22, R23). -/
def mergeW (old v m : Nat) : Nat := (old &&& (2 ^ 64 - 1 - m)) ||| (v &&& m)

/-- Every bit of a word. -/
def fullMask : Nat := 2 ^ 64 - 1

/-! ## Submission queues -/

def sqBaseWord (x : Sq) : Nat := x.base
def sqCtlWord (x : Sq) : Nat :=
  b2n x.enable + x.size <<< 1 + b2n x.kernel <<< 6 + x.cq <<< 8 + x.ctx <<< 32
def sqCfgWord (x : Sq) : Nat := x.func + x.slot <<< 8 + x.qp <<< 16
def sqStatusWord (x : Sq) : Nat :=
  x.state + b2n x.dbBad <<< 2 + b2n x.fetchErr <<< 3 + x.descs.length <<< 16 + x.dbIgnored <<< 32
def sqCwbWord (x : Sq) : Nat := b2n x.cwbEn + x.cwbAddr

/-- QUE_SQ_BASE takes writes while STATE is 0 (R319). -/
def writeSqBase (s : State) (q v m : Nat) : State :=
  s.updSq q (fun x => if x.state = 0 then { x with base := mergeW x.base v m / 4096 * 4096 } else x)

/-- Whether a queue of a VF may be enabled: its Locket is not torn down or reset (R555). -/
def State.queueOpen (s : State) (q : Nat) : Bool := (s.sq q).func == 0 || !s.fenced ((s.sq q).func - 1)

/-- A write to QUE_SQ_CTL (R319, R349, R634). -/
def writeSqCtl (s : State) (q v m : Nat) : State :=
  let x := s.sq q
  let w := mergeW (sqCtlWord x) v m
  let en := bit w 0
  if (s.cq (bits w 8 10)).func ≠ x.func then s
  else if x.state ≠ 0 then (if x.enable && !en then stopQueue s q else s)
  else
    let size := bits w 1 5
    let x1 := { x with size := if 6 ≤ size ∧ size ≤ 16 then size else x.size, kernel := bit w 6, cq := bits w 8 10, ctx := bits w 32 16 }
    if en && !x.enable && s.queueOpen q then s.setSq q { x1 with enable := true, prod := 0, cons := 0, state := 1 }
    else s.setSq q x1

/-- A write to QUE_SQ_CFG, of the PF alone; FUNC takes it while STATE is 0 (R349, R588). A write that gives the queue the FUNC and
SLOT of another queue is ignored; one that leaves its own pair as it is gives it none (log 57). -/
def writeSqCfg (s : State) (q v m : Nat) : State :=
  let x := s.sq q
  let w := mergeW (sqCfgWord x) v m
  let f := if x.state = 0 ∧ bits w 0 6 ≤ 32 then bits w 0 6 else x.func
  let j := bits w 8 7
  let closed := (x.func != 0 && s.tdiClosed (x.func - 1)) || (f != 0 && s.tdiClosed (f - 1))
  let twin := (upto 1024).any (fun k => k != q && (s.sq k).func == f && (s.sq k).slot == j)
  if closed ∨ (twin ∧ (f, j) ≠ (x.func, x.slot)) then s else s.setSq q { x with func := f, slot := j, qp := bits w 16 3 }

/-- A write to QUE_SQ_STATUS: DB_BAD and FETCH_ERR are W1C. -/
def writeSqStatus (s : State) (q v m : Nat) : State :=
  let w := v &&& m
  s.updSq q (fun x => { x with dbBad := x.dbBad && !bit w 2, fetchErr := x.fetchErr && !bit w 3 })

def writeSqCwb (s : State) (q v m : Nat) : State :=
  s.updSq q (fun x => let w := mergeW (sqCwbWord x) v m; { x with cwbEn := bit w 0, cwbAddr := w / 8 * 8 })

/-- A doorbell with producer count `p` (R320, R321); the queue acts on it once the BAR4 writes sent before it are performed (R294). -/
def ringDoorbell (s : State) (q p : Nat) : State :=
  let x := s.sq q
  let n := BitVec.ofNat 32 p
  if (x.prod - x.cons).toNat ≤ (n - x.cons).toNat ∧ (n - x.cons).toNat ≤ 2 ^ x.size then
    let out := (s.que.bar4.filter (fun b => b.wr)).map (fun b => b.bid)
    if n = x.prod then s else raise (s.setSq q { x with prod := n, after := out }) (0x200 + q / 8)
  else if x.dbBad then s
  else
    postEvent (s.setSq q { x with dbBad := true })
      { type := 0x0203, sev := 1, locket := x.locket, source := qpUnit x.qp, object := q
        detail := detail [(16, 4, p), (20, 4, x.prod.toNat), (24, 4, x.cons.toNat)] }

/-- A write to a doorbell page (R321). -/
def writeDoorbell (s : State) (q off size p : Nat) : State :=
  if off ≠ 0 ∨ size ≠ 4 ∨ (s.sq q).state ≠ 1 then s.updSq q (fun x => { x with dbIgnored := satAdd 16 x.dbIgnored 1 })
  else ringDoorbell s q p

/-- The queue that a queue processor serves next: the first after the one served last that holds fetchable descriptors (R315). -/
def State.turnOf (s : State) (qp : Nat) : Option Nat :=
  let last := SMap.get (fun _ => 1023) s.que.lastFetch qp
  ((upto 1024).map (fun k => (last + 1 + k) % 1024)).find? (fun q => (s.sq q).qp == qp && s.fetchable q)

/-- Send a fetch for the queue whose turn it is (R315, R317), or stall for want of a completion slot (R324). -/
def sendFetch (s0 : State) (q : Nat) : State :=
  let x := s0.sq q
  if s0.turnOf x.qp ≠ some q then s0
  else
    let s := { s0 with que := { s0.que with lastFetch := SMap.set (fun _ => 1023) s0.que.lastFetch x.qp q } }
    if !(s.cq x.cq).free then stallCq s q
    else
      let i := x.nextFetch
      let s1 := s.updCq x.cq (fun c => { c with reserved := c.reserved + 1 })
      let s2 := s1.setSq q { x with fetches := x.fetches ++ [(i, none)] }
      hostSend s2 (.fetch x.func (x.base + i % 2 ^ x.size * 64) 64)

/-- Descriptors whose data has arrived in order are fetched: CONS counts them (R317). -/
def takeArrived (s : State) (q : Nat) : Nat → State
  | 0 => s
  | n + 1 =>
    let x := s.sq q
    match x.fetches with
    | (i, some d) :: rest =>
      let e : Desc := { idx := i, data := d }
      let s1 := s.setSq q { x with fetches := rest, descs := x.descs ++ [e], cons := x.cons + 1 }
      takeArrived (notePcie s1 x.locket e.facet (e.recordCtx x) 1 64) q n
    | _ => s

/-- Data of a fetch arrives (R317). -/
def arriveDesc (s : State) (q i : Nat) (d : BitVec 512) : State :=
  let x := s.sq q
  if x.fetches.any (fun f => f.1 == i && f.2.isNone) then
    let s1 := s.setSq q { x with fetches := mapWhere (fun f => f.1 == i) (fun f => (f.1, some d)) x.fetches }
    let s2 := takeArrived s1 q 256
    let y := s2.sq q
    let s3 := if y.cwbEn && y.cons == y.prod && y.cons != x.cons then
        hostSend s2 (.cons y.func y.cwbAddr y.cons)
      else s2
    settle s3 q
  else s

/-- A fetch fails (R322). `kind` and `st` are those of DESC_FETCH_ERR; AER logs the error, which is an interrupt cause (log 35). -/
def failFetch (s : State) (q i kind st : Nat) : State :=
  let x := s.sq q
  if x.fetches.any (fun f => f.1 == i && f.2.isNone) then
    let keep := x.fetches.takeWhile (fun f => f.1 != i)
    let s1 := freeSlots (s.setSq q { x with fetches := keep, state := 3, fetchErr := true }) q (x.fetches.length - keep.length)
    postEvent (raise { s1 with que := { s1.que with aer := s1.que.aer ++ [kind] } } 0x160)
      { type := 0x0205, sev := 2, locket := x.locket, source := qpUnit x.qp, object := q
        detail := detail [(16, 4, i), (20, 4, kind + (if kind = 1 then st * 16 else 0))] }
  else s

/-! ## Rings -/

def ringCtlWord (r : Ring) : Nat := b2n r.enable + r.size <<< 1 + r.vector <<< 16 + r.modCount <<< 32 + r.modDelay <<< 40

/-- BASE of a ring is ignored while ENABLE is 1. -/
def Ring.writeBase (r : Ring) (v m : Nat) : Ring := if r.enable then r else { r with base := mergeW r.base v m / 4096 * 4096 }

/-- A write to a ring's CTL (R280, R350): `may` allows the rising edge of ENABLE, which sets PROD and CONS to 0. -/
def Ring.writeCtl (r : Ring) (v m lo hi sizeBits : Nat) (may : Bool) : Ring :=
  let w := mergeW (ringCtlWord r) v m
  let size := bits w 1 sizeBits
  let r1 := { r with
    size := if !r.enable ∧ lo ≤ size ∧ size ≤ hi then size else r.size
    vector := bits w 16 11, modCount := bits w 32 8, modDelay := bits w 40 10 }
  if bit w 0 && !r.enable then (if may then { r1 with enable := true, prod := 0, cons := 0, since := 0 } else r)
  else { r1 with enable := bit w 0 }

/-- A write to a ring's CONS (R278). -/
def Ring.writeCons (r : Ring) (v : Nat) : Ring :=
  let c := BitVec.ofNat 32 v
  if (r.prod - c).toNat ≤ r.slots then { r with cons := c } else { r with consErr := true }

/-- Queues that wait for a slot of ring `c` may fetch again: STALLED clears when a slot is free (R324). -/
def unstall (s : State) (c : Nat) : State := s.updCq c (fun x => if x.free then { x with stalled := false } else x)

def writeCqBase (s : State) (c v m : Nat) : State := s.updCq c (fun x => { x with ring := x.ring.writeBase v m })
def writeCqCtl (s : State) (c v m : Nat) : State :=
  s.updCq c (fun x => { x with ring := x.ring.writeCtl v m 6 16 5 (x.reserved == 0) })
/-- A write to QUE_CQ_CONS: the edge of the ring's source comes with a write that frees a slot (R278, R528). -/
def writeCqCons (s : State) (c v : Nat) : State :=
  let s1 := unstall (s.updCq c (fun x => { x with ring := x.ring.writeCons v })) c
  if ((s.cq c).ring.writeCons v).used < (s.cq c).ring.used then raise s1 (0x280 + c / 32) else s1
/-- QUE_CQ_CFG takes writes of the PF while no enabled queue names the ring, FUNC while ENABLE is 0 (R350, R588, R634). -/
def writeCqCfg (s : State) (c v m : Nat) : State :=
  let x := s.cq c
  let w := mergeW (x.func + x.slot <<< 8) v m
  let f := if !x.ring.enable && decide (bits w 0 6 ≤ 32) then bits w 0 6 else x.func
  let named := s.que.sqs.any (fun e => e.2.enable && e.2.cq == c)
  let closed := (x.func != 0 && s.tdiClosed (x.func - 1)) || (f != 0 && s.tdiClosed (f - 1))
  if named ∨ closed then s else s.setCq c { x with func := f, slot := bits w 8 7 }
def writeCqStatus (s : State) (c v m : Nat) : State :=
  s.updCq c (fun x => { x with ring := { x.ring with consErr := x.ring.consErr && !bit (v &&& m) 0 } })

def writeEvBase (s : State) (f v m : Nat) : State := s.setEv f { s.ev f with ring := (s.ev f).ring.writeBase v m }
/-- A write to QUE_EV_CTL; MIRROR is the PF's alone (R350). The first enable of the PF ring ends the hold (R633). -/
def writeEvCtl (s : State) (f v m : Nat) : State :=
  let e := s.ev f
  let r := e.ring.writeCtl v m 6 14 5 true
  let mir := if f = 0 && bit m 6 then bit v 6 else e.mirror
  let s1 := s.setEv f { e with ring := r, mirror := mir }
  let s2 := if f = 0 && r.enable then { s1 with que := { s1.que with pfHold := false } } else s1
  flushEv s2 f
def writeEvCons (s : State) (f v : Nat) : State := flushEv (s.setEv f { s.ev f with ring := (s.ev f).ring.writeCons v }) f
def writeEvStatus (s : State) (f v m : Nat) : State :=
  let w := v &&& m
  let e := s.ev f
  s.setEv f { e with ring := { e.ring with consErr := e.ring.consErr && !bit w 0 }, overflow := e.overflow && !bit w 1 }

/-- Held faults of slot `l` post as room allows, and copy jobs deferred on a slot that this empties go on (R283, R284). -/
def flushFaults (s : State) (l : Nat) : State := jobPumpAll (flushFq s l (s.xlt.heldQueue.length))

def writeFqBase (s : State) (l v m : Nat) : State := s.updFq l (fun x => { x with ring := x.ring.writeBase v m })
def writeFqCtl (s : State) (l v m : Nat) : State :=
  flushFaults (s.updFq l (fun x => { x with ring := x.ring.writeCtl v m 8 14 4 true })) l
def writeFqCons (s : State) (l v : Nat) : State := flushFaults (s.updFq l (fun x => { x with ring := x.ring.writeCons v })) l
def writeFqStatus (s : State) (l v m : Nat) : State :=
  let w := v &&& m
  s.updFq l (fun x => { x with overflow := x.overflow && !bit w 0, ring := { x.ring with consErr := x.ring.consErr && !bit w 1 } })

/-- The MOD_DELAY of a ring has passed with records that sent no message (R347). -/
def moderate (s : State) (kind i : Nat) : State :=
  let send (f : Nat) (r : Ring) (s : State) : State := if r.since = 0 then s else sendMsi s f r.vector
  match kind with
  | 0 => let x := s.cq i; send x.func x.ring (s.setCq i { x with ring := { x.ring with since := 0 } })
  | 1 => if i < 33 then let x := s.ev i; send i x.ring (s.setEv i { x with ring := { x.ring with since := 0 } }) else s
  | _ => if i < 32 then let x := s.fq i; send (i + 1) x.ring (s.setFq i { x with ring := { x.ring with since := 0 } }) else s

/-! ## MSI-X (R345 to R347) -/

/-- A function exists on the link (R307). -/
def State.fnExists (s : State) (f : Nat) : Bool := f == 0 || (s.que.vfEnable && decide (f ≤ s.que.numVfs))

/-- A vector is unmasked: a pending message goes (R347). -/
def unmask (s : State) (f v : Nat) : State :=
  let s1 := if s.que.unmasked.contains (f, v) then s else { s with que := { s.que with unmasked := s.que.unmasked ++ [(f, v)] } }
  if s1.que.msixPend.contains (f, v) then
    sendMsi { s1 with que := { s1.que with msixPend := s1.que.msixPend.filter (· != (f, v)) } } f v
  else s1
def maskVector (s : State) (f v : Nat) : State := { s with que := { s.que with unmasked := s.que.unmasked.filter (· != (f, v)) } }

/-- A write to QUE_FN_MSIX of a function (R345, R350, R588). -/
def writeFnMsix (s : State) (f v m : Nat) : State :=
  let w := mergeW (s.msixBaseOf f + s.msixCountOf f <<< 16) v m
  let base := if f = 0 then 0 else bits w 0 11
  let count := bits w 16 12
  let clash := (upto 33).any (fun g => g != f && decide (0 < count) && decide (0 < s.msixCountOf g)
    && decide (base < s.msixBaseOf g + s.msixCountOf g) && decide (s.msixBaseOf g < base + count))
  if (f ≠ 0 ∧ s.que.vfEnable) ∨ (f ≠ 0 ∧ s.tdiClosed (f - 1)) ∨ clash ∨ 2048 < base + count ∨ (f ≠ 0 ∧ 256 < count) then s
  else { s with que := { s.que with msixBase := SMap.set zeroD s.que.msixBase f base, msixCount := SMap.set msixCountD s.que.msixCount f count } }

/-! ## TASK and CODE_LOAD (R331, R332, R405, R406) -/

/-- The payload that launches a task or a code load on another module: the subcode, the descriptor, the core and PEER of the entry,
whether a PF kernel queue sends it, and the task's index (R405, R475; log 31). -/
def launchPayload (d : Desc) (pf : Bool) (core peer t : Nat) : List (BitVec 8) :=
  leBytes 1 4 ++ leBytes 64 d.data.toNat ++ leBytes 1 core ++ leBytes 1 peer ++ leBytes 1 (b2n pf) ++ leBytes 4 t

/-- The start values of a task (R331). -/
def taskArch (d : Desc) (t : Nat) : Arch :=
  { (({ pc := d.f 40 4, winBase := d.f 44 4, winLimit := d.f 48 4 } : Arch).setG 1 (BitVec.ofNat 64 (d.f 56 8))).setG 2 (BitVec.ofNat 64 t) with
    guard := {} }.setG 3 (BitVec.ofNat 64 d.count)

/-- A new task waits for a save slot and a core. -/
def newTask (s : State) (d : Desc) (who : Launcher) (t ctx locket set vcore : Nat) (pf : Bool) : State :=
  let (tid, s1) := s.fresh
  let x : Task := { tid := tid, launcher := who, idx := t, count := d.count, ctx := ctx, locket := locket
                    set := set, vcore := vcore, priv := d.priv, facet := d.facet, prio := d.prio, pf := pf, since := tid, arch := taskArch d t }
  { s1 with tasks := s1.tasks ++ [x] }

/-- Send a launch to another module; one that cannot leave has ended. -/
def sendLaunch (s : State) (q : Nat) (d : Desc) (l mod core peer t : Nat) : State :=
  let k : Packet := { pkind := 0x10, dst := mod, src := s.trb.idModule, tag := s.tagOf l, ctx := d.context, facet := d.facet
                      payload := launchPayload d (s.sq q).pfKernel core peer t }
  match sendRequest s k (.launch q d.idx t) with
  | (s1, .sent _) => s1
  | (s1, .refused st) => taskPart s1 q d.idx t st {}

/-- TASK begins: one task for each virtual core (R331, R405, R406). -/
def beginTasks (s : State) (q : Nat) (d : Desc) : State :=
  let m := (s.setting d.setting).active
  let l := (s.ctx d.context).locket
  let s1 := (beginDesc s q d.idx).updDesc q d.idx (fun e => { e with left := d.count })
  let pf := (s.sq q).pfKernel
  if d.vcore = 0xFFFF then
    if !(m.valid && (upto m.ncore).any (s.localEntry m)) then endDesc s1 q d.idx stSETTING 0
    else s1.forAll (upto d.count) (fun s t => newTask s d (.desc q d.idx) t d.context l d.setting 0xFFFF pf)
  else
    s1.forAll (upto d.count) (fun s t =>
      let v := d.vcore + t
      if !(m.valid && decide (v < m.ncore) && m.coreValid v) then taskPart s q d.idx t stSETTING {}
      else if s.localEntry m v then newTask s d (.desc q d.idx) t d.context l d.setting v pf
      else sendLaunch s q d l (m.coreModule v) (m.coreNum v) (m.corePeer v) t)

/-- A code load starts to read its source, on copy engine 0 (R332; log 17). -/
def startLoad (s : State) (d : Desc) (who : Launcher) (cores : List Nat) (ctx locket set fn : Nat) : State :=
  let (lid, s1) := s.fresh
  let n := d.f 52 4
  let x : CodeLoad := { lid := lid, launcher := who, cores := cores, off := d.f 48 4, len := n, ctx := ctx, locket := locket }
  let j : Job := { jid := lid, ce := 0, q := 0, idx := 0, ctx := ctx, locket := locket, set := set, facet := d.facet, priv := true, fn := fn
                   srcKind := if bit (d.f 38 1) 0 then 1 else 0, dstKind := 1, src := d.f 40 8, dst := 0, len := n, code := true
                   got := List.replicate n 0 }
  jobPumpEngine { s1 with que := { s1.que with loads := s1.que.loads ++ [x] }, mem := { s1.mem with jobs := s1.mem.jobs ++ [j] } } 0

/-- CODE_LOAD begins (R332, R405): one load for this module's cores, a message for each remote entry. -/
def beginLoad (s : State) (q : Nat) (d : Desc) : State :=
  let m := (s.setting d.setting).active
  let l := (s.ctx d.context).locket
  let vs := (upto d.count).map (fun t => d.vcore + t)
  let locals := vs.filter (s.localEntry m)
  let others := vs.filter (fun v => !s.localEntry m v)
  let s1 := (beginDesc s q d.idx).updDesc q d.idx (fun e => { e with left := (if locals.isEmpty then 0 else 1) + others.length })
  let s2 := s1.forAll others (fun s v =>
    if m.valid && decide (v < m.ncore) && m.coreValid v then
      sendLaunch s q d l (m.coreModule v) (m.coreNum v) (m.corePeer v) (v - d.vcore)
    else taskPart s q d.idx 0 stSETTING {})
  if locals.isEmpty then s2 else startLoad s2 d (.desc q d.idx) (locals.map m.coreNum) d.context l d.setting (s.sq q).func

/-- Whether a task on a target core has a window that the load overlaps (R69); one that is still being switched in has its saved one. -/
def State.loadWaits (s : State) (x : CodeLoad) : Bool :=
  x.cores.any (fun n =>
    match s.coreTask n with
    | none => false
    | some t =>
      let a := if (s.core n).phase = 3 then t.arch else (s.core n).arch
      decide (x.off < a.winLimit) && decide (a.winBase < x.off + x.len))

/-- The image is written on every target core (R67, R332, R554). -/
def finishLoad (s : State) (lid : Nat) : State :=
  match s.que.loads.find? (fun x => x.lid == lid), s.job? lid with
  | some x, some j =>
    if !j.ended || s.loadWaits x then s
    else if j.err.isSome then endJob s lid
    else
      let blocks := (upto ((x.len + 1023 + x.off % 1024) / 1024)).map (fun i => x.off / 1024 + i)
      let s1 := s.forAll x.cores (fun s n => s.updCore n (fun c => { c with
        im := c.im.writeN x.off j.got, loaded := blocks.foldl (fun l b => setIns b l) c.loaded }))
      endJob s1 lid
  | _, _ => s

/-! ## COPY (R333) -/

/-- Whether the bytes of a DPA side lie wholly in DRAM of this module that the Locket's regions cover (R333). -/
def State.ownDram (s : State) (l dpa len : Nat) : Bool :=
  let a := dpaLocal dpa
  dpaModule dpa == s.trb.idModule && decide (a + len ≤ dramEnd) && decide (0 < len)
  && (upto ((a + len - 1) / slotBytes - a / slotBytes + 1)).all (fun i =>
      match s.mapDram (slotBytes * (a / slotBytes + i)) with
      | some m => decide (m.set < 64) && (s.setting m.set).active.locket == l
      | none => false)

/-- COPY begins on engine `ce` (R217, R333); a kernel queue's copy is privileged (R272). A VF's DPA side is judged against its Locket's own
DRAM here, once, and not again after a swap has changed what the Locket holds (log 57). -/
def beginCopy (s : State) (q : Nat) (d : Desc) (ce : Nat) : State :=
  let x := s.sq q
  let l := (s.ctx d.context).locket
  let sk := bits (d.f 34 1) 0 2
  let dk := bits (d.f 34 1) 2 2
  let n := d.f 56 5
  let src := d.f 40 8
  let dst := d.f 48 8
  if x.func ≠ 0 && ((sk == 2 && !s.ownDram l src n) || (dk == 2 && !s.ownDram l dst n)) then endDesc s q d.idx stDENIED 0
  else if 64 ≤ countP (fun (j : Job) => j.ce == ce) s.mem.jobs then s
  else
    let (jid, s1) := (beginDesc s q d.idx).fresh
    let j : Job := { jid := jid, ce := ce, q := q, idx := d.idx, ctx := d.context, locket := l, set := d.setting, facet := d.facet
                     priv := x.kernel, fn := x.func, srcKind := sk, dstKind := dk, src := src, dst := dst, len := n }
    settle (jobPumpEngine { s1 with mem := { s1.mem with jobs := s1.mem.jobs ++ [j] } } ce) q

/-! ## Contexts (R354, R358) -/

/-- Whether ranges of an address space cover `[va, stop)` with R and W, in this module's DRAM (R354), by walking its table; none while a read
of the walk is held (R399). -/
def saveCovered (s : State) (l : Labels) (root stop : Nat) : Nat → Nat → State × Option Bool
  | _, 0 => (s, some false)
  | va, n + 1 =>
    if stop ≤ va then (s, some true)
    else
      match walkVa s l root va with
      | (s1, .found e) =>
        let last := e.dpaGran + e.lenM1
        let inDram (g : Nat) : Bool := dpaModule (65536 * g) == s.trb.idModule && decide (dpaLocal (65536 * g) < dramEnd)
        if e.allows 0 && e.allows 1 && inDram e.dpaGran && inDram last then
          saveCovered s1 l root stop (65536 * (e.vaGran + e.lenM1 + 1)) n
        else (s1, some false)
      | (s1, .need _) => (s1, none)
      | (s1, .fault ..) => (s1, some false)

/-- CONTEXT_CREATE (R335, R354): its status; none while the walk of its save area is held (R399). -/
def createContext (s : State) (q : Nat) (d : Desc) : Option (State × Nat) :=
  let n := d.context
  let root := d.f 40 8
  let va := d.f 48 7
  let k := d.f 56 2
  let l := if (s.sq q).func = 0 then (s.setting d.setting).active.locket else (s.sq q).locket
  if (s.ctx n).state ≠ 0 then some (s, stCONTEXT)
  else if !((s.setting d.setting).active.valid && (s.setting d.setting).active.locket == l) || !bit root 0 || k == 0 then some (s, stARG)
  else
    let labels : Labels := { ctx := n, locket := l, facet := d.facet, half := queueStop.half }
    match saveCovered s labels root (va + 0x420000 * k) va (k * 66 + 2) with
    | (_, none) => none
    | (s1, some false) => some (s1, stARG)
    | (s1, some true) =>
      some (s1.setCtx n { state := 1, locket := l, set := d.setting, root := BitVec.ofNat 64 root, saveVa := va, saveN := k }, stOK)

/-- Whether a context still has queues, tasks, copy jobs or outstanding faults (R335). -/
def State.ctxInUse (s : State) (n : Nat) : Bool :=
  s.que.sqs.any (fun e => e.2.enable && !e.2.kernel && e.2.ctx == n) || s.tasks.any (fun t => t.ctx == n) || s.mem.jobs.any (fun j => j.ctx == n)
  || s.xlt.outst.any (fun o => o.fault.ctx == n) || s.xlt.heldTable.any (fun f => f.ctx == n)

/-- CONTEXT_DESTROY (R335, R358): its status. -/
def destroyContext (s : State) (n : Nat) : State × Nat :=
  let c := s.ctx n
  if c.state = 2 || s.ctxInUse n then (s, stBUSY)
  else if c.state = 1 then
    let s1 := dropRanges s (fun e => e.ctx == n)
    let s2 := s1.forAll (s1.fencesWhere (fun f => f.sigValid && f.sigCtx == n)) (fun s i => s.setFence i { s.fence i with sigValid := false })
    (s2.setCtx n {}, stOK)
  else (s.setCtx n {}, stOK)

/-- CONTEXT_ABORT (R374, R377). -/
def abortContext (s : State) (q : Nat) (d : Desc) : State :=
  let n := d.context
  let s1 := beginDesc s q d.idx
  match (s.ctx n).state with
  | 1 => settle (startAbort s1 n (some (q, d.idx)) 0) q
  | 2 =>
    let l := s1.fnc.aborts
    let known := l.any (fun (a : Abort) => a.ctx == n)
    let more : Abort := { ctx := n, waiters := [(q, d.idx)], cause := 0 }
    let l1 := if known then mapWhere (fun (a : Abort) => a.ctx == n) (fun (a : Abort) => { a with waiters := a.waiters ++ [(q, d.idx)] }) l
      else l ++ [more]
    settle { s1 with fnc := { s1.fnc with aborts := l1 } } q
  | _ => endDesc s q d.idx stOK 0

/-! ## RANGE_INVAL (R296, R297) -/

/-- Whether a request was translated through an entry of the run. -/
def Req.throughRun (r : Req) (ctx g m : Nat) (all : Bool) : Bool :=
  r.ctx == ctx && r.via != (0, 0) && (all || ({ ctx := ctx, lo := r.via.1, hi := r.via.2 } : RangeEnt).overlaps g m)

/-- Requests of this module that are unanswered: on their way, held, at a port, or answered and not yet delivered. -/
def State.openReqs (s : State) : List Req :=
  s.mem.inflight ++ s.mem.held ++ ((upto 12).flatMap (fun p => ((s.dyn p).tracker ++ (s.dyn p).waiting).filterMap (fun t =>
    match t.purpose with | .access r => some r | _ => none)))

/-- RANGE_INVAL begins. -/
def beginInval (s : State) (q : Nat) (d : Desc) : State :=
  let n := d.context
  let all := bit (d.f 34 1) 0
  let g := d.f 40 5
  let m := d.f 45 3
  let s1 := dropRanges (beginDesc s q d.idx) (fun e => e.ctx == n && (all || e.overlaps g m))
  let ws := (s1.xlt.walks.filter (fun e => match e.2 with | some w => w.ctx == n | none => false)).map (fun e => e.1)
  let s2 := s1.forAll ws (fun s e => s.setWalk e ((s.walk e).map (fun w => { w with stale := true })))
  let ops := (s2.tasks.filter (fun t => t.ctx == n)).flatMap (fun t =>
    (t.ops.filter (fun o => o.isDma && o.unsent)).map (fun o => (t.tid, o.seq, o.nextPiece.1, o.nextPiece.2)))
  let x : Inval := { q := q, idx := d.idx, ctx := n, reqs := (s2.openReqs.filter (fun r => r.throughRun n g m all)).map (fun r => r.rid)
                     walks := ws, ops := ops }
  settle { s2 with fnc := { s2.fnc with invals := s2.fnc.invals ++ [x] } } q

/-- Whether the three conditions of R297 hold. -/
def State.invalDone (s : State) (x : Inval) : Bool :=
  !(s.openReqs.any (fun r => x.reqs.contains r.rid))
  && !(x.walks.any (fun e => match s.walk e with | some w => w.stale && w.ctx == x.ctx | none => false))
  && !(x.ops.any (fun o => match s.task? o.1 with
      | some t => (s.onCore o.1).isSome && t.ops.any (fun p => p.seq == o.2.1 && p.unsent && p.nextPiece == o.2.2)
      | none => false))

/-! ## FAULT_RESOLVE (R289 to R292) -/

/-- The outstanding entry that a FAULT_RESOLVE names; a VF reaches those of its Locket. -/
def State.faultNamed (s : State) (q : Nat) (id : Nat) : Option OutEnt :=
  s.xlt.outst.find? (fun o => faultId o == id && ((s.sq q).func == 0 || o.fault.locket == (s.sq q).locket))

/-- ERROR of one waiter (R291): the operation of a task whose translation faulted ends with an error, and so does the job. A task whose switch-out
has not ended stops with cause 0x07 at its next switch-in too, maybe on another core: the manual names no earlier moment (R153; DESIGN CHOICE,
log 59). -/
def errorWaiter (s : State) : Waiter → State
  | .task tid =>
    releaseTask (s.updTask tid (fun t => { t with err := some (t.err.getD (stXLT, t.faultOp.1, t.faultOp.2.1, t.faultOp.2.2)) })) tid
  | .job j => releaseJob (jobFail s j stXLT) j

/-- FAULT_RESOLVE with an action: 0 RETRY, 1 ERROR. -/
def resolveFault (s : State) (q : Nat) (d : Desc) (action : Nat) : State :=
  match s.faultNamed q (d.f 32 4) with
  | none => endDesc { s with xlt := { s.xlt with stale := satAdd 16 s.xlt.stale 1 } } q d.idx stSTALE 0
  | some o =>
    let f := o.fault
    let s1 := endEntries s (fun x => x.entry == o.entry)
    let s2 := if action = 0 then dropRanges s1 (fun e => e.ctx == f.ctx && e.overlaps (vaGranule f.va) 0) else s1
    let s3 := jobPumpAll (s2.forAll o.waiters (fun s w => if action = 0 then retryWaiter s w else errorWaiter s w))
    endDesc s3 q d.idx stOK 0

end Sys2Proof.Machine
end

