-- ==== Sys2Proof/Machine/QueueCmds.lean ====
section
/-! DEFINITION. The commands of the queues and of descriptors (08, 09, 10, 12). A command that begins a descriptor acts when that
descriptor is the next of its queue, checked, its wait satisfied (R318, R329, R338); otherwise it changes nothing (log 4). -/

namespace Sys2Proof.Machine

/-! ## Who may write -/

/-- VF `f` answers its BARs (R303, R307). -/
def State.vfAnswers (s : State) (f : Nat) : Bool :=
  s.pfAnswers && s.fnExists f && s.que.vfMse && decide (f ≠ 0) && s.holdsLocket (f - 1) && s.linkFetches
/-- Function `f` reaches an object of function `owner` (R311). -/
def State.reaches (s : State) (f owner : Nat) : Bool := if f = 0 then s.pfAnswers else s.vfAnswers f && f == owner

/-- The completion ring in a slot of function `f` (R311). -/
def State.slotRing (s : State) (f slot : Nat) : Option Nat :=
  (upto 1024).find? (fun c => (s.cq c).func == f && (s.cq c).slot == slot)

/-- The queue of a doorbell page (R308). -/
def State.pageQueue (s : State) (f page : Nat) : Option Nat :=
  if f = 0 then (if page < 1024 then some page else none)
  else if page < 128 then (upto 1024).find? (fun q => (s.sq q).func == f && (s.sq q).slot == page)
  else none

/-- DOORBELL (R320, R321). -/
def execDoorbell (fn : FnIx) (page off size : Nat) (value : BitVec 32) (s : State) : Res :=
  .next (if (if fn.val = 0 then s.pfAnswers && s.linkFetches else s.vfAnswers fn) then
      match s.pageQueue fn page with
      | some q => writeDoorbell s q off size value.toNat
      | none => s
    else s)

/-- DESCRIPTOR_FETCH (R315, R317). -/
def execDescriptorFetch (q : SqIx) (s : State) : Res := .next (sendFetch s q)
/-- DESCRIPTOR_ARRIVAL (R317, R318, R338). -/
def execDescriptorArrival (q : SqIx) (idx : BitVec 32) (data : BitVec 512) (s : State) : Res := .next (arriveDesc s q idx.toNat data)
/-- DESCRIPTOR_FETCH_ERROR (R322). -/
def execDescriptorFetchError (q : SqIx) (idx : BitVec 32) (err : FetchFail) (s : State) : Res :=
  .next (failFetch s q idx.toNat err.kind err.status)
/-- COMPLETION_TIMEOUT (R322): no Completion of a fetch arrived. -/
def execCompletionTimeout (q : SqIx) (idx : BitVec 32) (s : State) : Res := .next (failFetch s q idx.toNat 2 0)

/-- Perform `f` on the next descriptor of queue `q` when it is ready with this opcode. -/
def withReady (s : State) (q op : Nat) (f : Desc → State) : State :=
  match s.ready q op with
  | some d => f d
  | none => s

/-- NOP_DESCRIPTOR (R330). -/
def execNopDescriptor (q : SqIx) (s : State) : Res := .next (withReady s q 0x00 (fun d => endDesc s q d.idx stOK 0))
/-- TASK (R331, R405, R406). -/
def execTask (q : SqIx) (s : State) : Res := .next (withReady s q 0x01 (fun d => settle (beginTasks s q d) q))
/-- CODE_LOAD (R332, R405). -/
def execCodeLoad (q : SqIx) (s : State) : Res := .next (withReady s q 0x02 (fun d => settle (beginLoad s q d) q))
/-- CODE_LOAD_COMPLETE (R69, R332): the image has been read and no running task's window overlaps it. -/
def execCodeLoadComplete (load : Nat) (s : State) : Res := .next (finishLoad s load)
/-- COPY (R217, R333). -/
def execCopy (q : SqIx) (ce : CeIx) (s : State) : Res := .next (withReady s q 0x08 (fun d => beginCopy s q d ce))

/-- Channels of a SCRUB's mask (R334). -/
def Desc.scrubMask (d : Desc) : List Nat := bitList (d.f 32 16) 128

/-- A SCRUB begins (R220, R221, R334). A channel that cannot be reached takes no scrub and gives its status. -/
def beginScrub (s : State) (q : Nat) (d : Desc) : State :=
  let cs := d.scrubMask
  if cs.any (fun c => (s.chanOwner c).isSome || s.chanBusy c || (s.inPool && s.pool.chans.contains c) || (s.chan c).bist) then
    endDesc s q d.idx stBUSY 0
  else
    let st (c : Nat) : Nat :=
      if (s.chan c).state = 4 ∨ (s.chan c).state = 5 then stCHFAIL else if s.halfClosed (chanHalf c) then stPARKED else 0
    let good := cs.filter (fun c => st c == 0)
    let status := ((cs.map st).find? (· != 0)).getD 0
    if good.isEmpty then endDesc s q d.idx status 0
    else
      let s1 := s.forAll (good.filter (fun c => (s.chan c).state != 2)) (fun s c => startScrub s c 0)
      settle ((beginDesc s1 q d.idx).updDesc q d.idx (fun e => { e with scrubs := good, status := status })) q

/-- SCRUB (R334). -/
def execScrub (q : SqIx) (s : State) : Res := .next (withReady s q 0x09 (fun d => beginScrub s q d))
/-- CONTEXT_CREATE (R335, R354). -/
def execContextCreate (q : SqIx) (s : State) : Res :=
  .next (withReady s q 0x10 (fun d =>
    match createContext s q d with
    | some r => endDesc r.1 q d.idx r.2 0
    | none => s))
/-- CONTEXT_DESTROY (R335, R358). -/
def execContextDestroy (q : SqIx) (s : State) : Res :=
  .next (withReady s q 0x11 (fun d => let r := destroyContext s d.context; endDesc r.1 q d.idx r.2 0))
/-- CONTEXT_ABORT (R374, R377). -/
def execContextAbort (q : SqIx) (s : State) : Res := .next (withReady s q 0x12 (fun d => abortContext s q d))
/-- Whether a fence that step 6 of R374 errors lies at a move destination that holds requests (R399). -/
def State.abortHeld (s : State) (n : Nat) : Bool :=
  (s.fencesWhere (fun f => f.sigValid && f.sigCtx == n)).any (fun i => s.heldAt (s.fence i).recOff)

/-- Step 5 of an abort has ended: it goes on, unless a core reset that took it over still runs, with which it completes (R549). -/
def abortDrained (s : State) (a : Abort) : State :=
  if s.fenced (s.ctx a.ctx).locket || s.abortHeld a.ctx then s
  else if a.takers.isEmpty then finishAbort s a
  else { s with fnc := { s.fnc with aborts := mapWhere (fun b => b.ctx == a.ctx) (fun b => { b with drained := true }) s.fnc.aborts } }

/-- The reset of core `n` has ended, and with it the aborts that it took over and that have drained (R549). -/
def endTaken (s : State) (n : Nat) : State :=
  let s1 := { s with fnc := { s.fnc with
    aborts := mapWhere (fun a => a.takers.contains n) (fun a => { a with takers := setDel n a.takers }) s.fnc.aborts } }
  s1.forAll (s1.fnc.aborts.filter (fun a => a.drained && a.takers.isEmpty)) abortDrained

/-- CONTEXT_ABORT_DRAINED (steps 5 to 8 of R374); in a Locket that is fenced the wait of R452 takes its place. -/
def execContextAbortDrained (ctx : CtxIx) (s : State) : Res :=
  .next (match s.fnc.aborts.find? (fun a => a.ctx == ctx.val) with
    | some a => abortDrained s a
    | none => s)
/-- RANGE_INVAL (R296, R297). -/
def execRangeInval (q : SqIx) (s : State) : Res := .next (withReady s q 0x18 (fun d => beginInval s q d))
/-- RANGE_INVAL_COMPLETE (R297). -/
def execRangeInvalComplete (q : SqIx) (idx : BitVec 32) (s : State) : Res :=
  .next (match s.fnc.invals.find? (fun x => x.q == q.val && x.idx == idx.toNat) with
    | some x =>
      if s.invalDone x then
        endDesc { s with fnc := { s.fnc with invals := s.fnc.invals.filter (fun y => !(y.q == x.q && y.idx == x.idx)) } } q x.idx stOK 0
      else s
    | none => s)
/-- FAULT_RESOLVE_RETRY (R290, R292). -/
def execFaultResolveRetry (q : SqIx) (s : State) : Res :=
  .next (withReady s q 0x19 (fun d => if bits (d.f 36 1) 0 2 = 0 then resolveFault s q d 0 else s))
/-- FAULT_RESOLVE_ERROR (R291, R292). -/
def execFaultResolveError (q : SqIx) (s : State) : Res :=
  .next (withReady s q 0x19 (fun d => if bits (d.f 36 1) 0 2 = 1 then resolveFault s q d 1 else s))
/-- SET_SWAP of a Setting (R393, R394, R396). -/
def execSetSwap (q : SqIx) (s : State) : Res :=
  .next (withReady s q 0x20 (fun d => if bit (d.f 32 1) 0 then s else settle (beginSwap (beginDesc s q d.idx) q d) q))

/-- SET_SWAP with TARGET 1 (R410, R433). -/
def swapLocket (s : State) (q : Nat) (d : Desc) : State :=
  let l := d.f 33 1
  let x := s.slot l
  if x.active.valid && (x.state != 1 || x.resetting || x.teardown.isSome) then endDesc s q d.idx stBUSY (swapDetail 0 0 0xFFFF 0)
  else
    match locketChecks s l true with
    | some st => endDesc s q d.idx st (swapDetail 0 0 0xFFFF 0)
    | none => swapDone (endDesc (exchangeLocket s l) q d.idx stOK (swapDetail 0 0 0xFFFF 0)) l (s.sq q).qp (0x8000 + l) 0 0 0 0 0

/-- SET_SWAP_LOCKET (R336, R410). -/
def execSetSwapLocket (q : SqIx) (s : State) : Res :=
  .next (withReady s q 0x20 (fun d => if bit (d.f 32 1) 0 then swapLocket s q d else s))
/-- LOCKET_CREATE (R432). -/
def execLocketCreate (q : SqIx) (s : State) : Res :=
  .next (withReady s q 0x28 (fun d => let r := createLocket s (d.f 32 1); endDesc r.1 q d.idx r.2 0))
/-- LOCKET_TEARDOWN (R451, R452); it waits for a reset of the Locket that runs. -/
def execLocketTeardown (q : SqIx) (s : State) : Res :=
  .next (withReady s q 0x29 (fun d =>
    if (s.slot (d.f 32 1)).resetting then s else settle (locketTeardown (beginDesc s q d.idx) q d.idx (d.f 32 1)) q))
/-- TEARDOWN_MEMBER_MISSING (R453). -/
def execTeardownMemberMissing (l : SlotIx) (m : ModIx) (s : State) : Res := .next (memberMissing s l m)
/-- ROLE_POOL (R411, R412). -/
def execRolePool (q : SqIx) (s : State) : Res :=
  .next (withReady s q 0x2A (fun d => if bit (d.f 32 1) 0 then settle (rolePool (beginDesc s q d.idx) q d.idx) q else s))
/-- ROLE_COMPUTE (R414). -/
def execRoleCompute (q : SqIx) (s : State) : Res :=
  .next (withReady s q 0x2A (fun d =>
    if bit (d.f 32 1) 0 then s else settle (roleCompute (beginDesc s q d.idx) q d.idx) q))

/-! ## Registers of queues and rings -/

/-- SQ_ENABLE (R319, R634). -/
def execSqEnable (fn : FnIx) (q : SqIx) (value : BitVec 64) (s : State) : Res :=
  .next (if s.reaches fn (s.sq q).func then writeSqCtl s q value.toNat fullMask else s)
/-- SQ_DISABLE (R319): ENABLE is cleared. -/
def execSqDisable (fn : FnIx) (q : SqIx) (s : State) : Res :=
  .next (if s.reaches fn (s.sq q).func then writeSqCtl s q 0 1 else s)
/-- CQ_ENABLE (R323, R350). -/
def execCqEnable (fn : FnIx) (c : CqIx) (value : BitVec 64) (s : State) : Res :=
  .next (if s.reaches fn (s.cq c).func then writeCqCtl s c value.toNat fullMask else s)
/-- EV_ENABLE (R326, R633): a function's own ring. -/
def execEvEnable (fn : FnIx) (value : BitVec 64) (s : State) : Res :=
  .next (if s.reaches fn fn then writeEvCtl s fn value.toNat fullMask else s)
/-- FQ_ENABLE (R280). -/
def execFqEnable (fn : FnIx) (l : SlotIx) (value : BitVec 64) (s : State) : Res :=
  .next (if s.reaches fn (l.val + 1) then writeFqCtl s l value.toNat fullMask else s)
/-- CQ_CONS_WRITE (R323, R324). -/
def execCqConsWrite (fn : FnIx) (c : CqIx) (value : BitVec 32) (s : State) : Res :=
  .next (if s.reaches fn (s.cq c).func then writeCqCons s c value.toNat else s)
/-- EV_CONS_WRITE (R327). -/
def execEvConsWrite (fn : FnIx) (value : BitVec 32) (s : State) : Res :=
  .next (if s.reaches fn fn then writeEvCons s fn value.toNat else s)
/-- FQ_CONS_WRITE (R278, R283). -/
def execFqConsWrite (fn : FnIx) (l : SlotIx) (value : BitVec 32) (s : State) : Res :=
  .next (if s.reaches fn (l.val + 1) then writeFqCons s l value.toNat else s)
/-- MSIX_MODERATION_TIMEOUT (R347): kind 0 completion ring, 1 event ring, 2 fault queue. -/
def execMsixModerationTimeout (kind : Fin 3) (ring : Fin 1024) (s : State) : Res := .next (moderate s kind ring)
/-- MSIX_UNMASK (R347). -/
def execMsixUnmask (fn : FnIx) (vec : Fin 2048) (s : State) : Res :=
  .next (if s.reaches fn fn && decide (vec.val < s.msixCountOf fn) then unmask s fn vec else s)
/-- QUE_FN_MSIX_WRITE (R345, R350): the PF writes a function's vectors. -/
def execQueFnMsixWrite (fn : FnIx) (value : BitVec 64) (s : State) : Res :=
  .next (if s.pfAnswers then writeFnMsix s fn value.toNat fullMask else s)

end Sys2Proof.Machine
end

