-- ==== Sys2Proof/Machine/Fences.lean ====
section
/-! DEFINITION. The commands of the fence table (09), of the pool and the lease table (11) and of the signed inventory (12). -/

namespace Sys2Proof.Machine

/-! ## Fences -/

/-- FNC_CMD_ARG and FNC_CMD_INIT as they stand. -/
def Fnc.arg (f : Fnc) : FenceArg :=
  { locket := f.argLocket, sigValid := f.argSigValid, sigCtx := f.argSigCtx, recOff := f.argRec, init := f.cmdInit }

/-- The first condition of R365 that fails, as RESULT; 0 when none does. -/
def createResult (s : State) (i : Nat) (a : FenceArg) : Nat :=
  let placed := match s.mapDram a.recOff with
    | some m => decide (a.recOff < dramEnd) && decide (m.set < 64) && (s.setting m.set).active.locket == a.locket
    | none => false
  if (s.fence i).valid then 1
  else if !s.holdsLocket a.locket then 2
  else if !placed || s.fnc.fences.any (fun e => e.2.valid && e.2.recOff == a.recOff) then 3
  else if a.sigValid && !((s.ctx a.sigCtx).state == 1 && (s.ctx a.sigCtx).locket == a.locket) then 4
  else if a.init.toNat = terminal then 5
  else 0

def fenceResult (s : State) (r : Nat) : State := { s with fnc := { s.fnc with result := r } }

/-- The full DPA of a local offset of this module (R17). -/
def State.ownDpa (s : State) (off : Nat) : Nat := 2 ^ 42 * s.trb.idModule + off

/-- Write the record of a new fence: a partial write of the module's own, which the sector's fence mark does not turn away (R365). -/
def writeRecord (s : State) (c off : Nat) (r : FenceRec) (x : Xmit) (w : Cause) : State × HomeOutcome :=
  match s.chanError c with
  | some st => chanAnswers s c st
  | none => modifySector s c (off / 64) 0 (fun l => (some (patch l (off % 64) r.encode), [])) x w

/-- The create of R365 when its conditions hold: the record is written, and unless that fails the sector's mark is set and the entry made. -/
def makeFence (s : State) (i : Nat) (a : FenceArg) (m : Mapped) (x : Xmit) : State :=
  let gen := (s.fence i).gen % 63 + 1
  let rec0 : FenceRec := { v := a.init.toNat, state := 0, regress := false, err := 0, index := i, gen := gen, errCtx := noCtx }
  let o := writeRecord s m.c m.off rec0 x { dpa := s.ownDpa a.recOff, access := 2, wr := true }
  if o.2.status ≠ stOK then fenceResult (o.2.failed.foldl channelFailed o.1) 6
  else
    let f : Fence := { valid := true, gen := gen, locket := a.locket, sigValid := a.sigValid, sigCtx := a.sigCtx, recOff := a.recOff
                       home := (m.c, m.off / 64) }
    let s1 := noteOwn ((markFence o.1 m.c (m.off / 64) true).setFence i f) (fenceLabels noLocket 0) m.c 16 true
    o.2.failed.foldl channelFailed { s1 with fnc := { s1.fnc with result := 0, handle := s1.handleOf i } }

/-- A create or destroy command waits: its record lies at a move destination that holds requests (R399), and FNC_CMD_STATUS.BUSY reads 1. -/
def holdFence (s : State) (c : FenceCmd) : State := { s with fnc := { s.fnc with cmd := some c } }

/-- A create command (R365). -/
def createWith (s : State) (i : Nat) (a : FenceArg) (x : Xmit) : State :=
  let r := createResult s i a
  if r ≠ 0 then fenceResult s r
  else if s.heldAt a.recOff then holdFence s (.create i a x)
  else
    match s.mapDram a.recOff with
    | none => fenceResult s 3
    | some m => makeFence s i a m x

/-- FNC_CMD with OP 1 (R365, R379), ignored while BUSY. -/
def createFence (s : State) (i : Nat) (x : Xmit) : State := if s.fnc.cmd.isSome then s else createWith s i s.fnc.arg x

/-- FENCE_CREATE (R365, R379). -/
def execFenceCreate (index : FenceIx) (x : Xmit) (s : State) : Res := .next (if s.pfAnswers then createFence s index x else s)

/-- A destroy command (R366). -/
def destroyWith (s : State) (i : Nat) : State :=
  if (s.fence i).valid && s.heldAt (s.fence i).recOff then holdFence s (.destroy i)
  else if (s.fence i).valid then fenceResult (destroyFence (errorFence s i stABORTED noCtx) i) 0 else fenceResult s 1

/-- FNC_CMD with OP 2 (R366, R379), ignored while BUSY. -/
def destroyCommand (s : State) (i : Nat) : State := if s.fnc.cmd.isSome then s else destroyWith s i

/-- FENCE_DESTROY (R366, R379). -/
def execFenceDestroy (index : FenceIx) (s : State) : Res := .next (if s.pfAnswers then destroyCommand s index else s)

/-- A create or destroy command that waited goes on when its record is held no more (step 8 of R396, R399). -/
def fenceProgress (s : State) : State :=
  let s1 : State := { s with fnc := { s.fnc with cmd := none } }
  match s.fnc.cmd with
  | some (.create i a x) => createWith s1 i a x
  | some (.destroy i) => destroyWith s1 i
  | none => s

/-- FENCE_POLL (R371): the queue processor reads the record again, and registers if it can. -/
def pollFence (s : State) (q : Nat) (x : Xmit) : State :=
  match (s.sq q).next with
  | none => s
  | some d => if d.phase ≠ .polling || s.waitHeld q d then s else settle (startWait s q d x) q

/-- FENCE_POLL (R371). -/
def execFencePoll (q : SqIx) (x : Xmit) (s : State) : Res := .next (pollFence s q x)

/-- TEARDOWN_DRAIN_END (step 3 of R452). -/
def execTeardownDrainEnd (l : SlotIx) (s : State) : Res := .next (poolProgress (fenceProgress (teardownDrained s l)))

/-! ## Pool and leases -/

/-- ALLOC (R420, R427). -/
def execAlloc (locket : SlotIx) (block : BitVec 19) (s : State) : Res := .next (if s.pfAnswers then poolCommand s block.toNat (.alloc locket) else s)
/-- REVOKE (R417, R420, R422). -/
def execRevoke (block : BitVec 19) (s : State) : Res := .next (if s.pfAnswers then poolCommand s block.toNat .revoke else s)
/-- FREE (R417, R420, R422). -/
def execFree (block : BitVec 19) (s : State) : Res := .next (if s.pfAnswers then poolCommand s block.toNat .free else s)
/-- BLOCK_CLEAR_DONE (R422). -/
def execBlockClearDone (block : BitVec 19) (s : State) : Res := .next (blockCleared s block.toNat)
/-- ACCEPT (R420, R421). -/
def execAccept (block : BitVec 19) (s : State) : Res := .next (if s.pfAnswers then leaseCommand s 1 block.toNat else s)
/-- GRANT (R420, R421). -/
def execGrant (block : BitVec 19) (s : State) : Res := .next (if s.pfAnswers then leaseCommand s 2 block.toNat else s)
/-- RELEASE (R420, R421). -/
def execRelease (block : BitVec 19) (s : State) : Res := .next (if s.pfAnswers then leaseCommand s 3 block.toNat else s)
/-- PROBE (R420, R423). -/
def execProbe (block : BitVec 19) (s : State) : Res := .next (if s.pfAnswers then leaseCommand s 4 block.toNat else s)
/-- DROP (R428). -/
def execDrop (block : BitVec 19) (s : State) : Res := .next (if s.pfAnswers then leaseCommand s 5 block.toNat else s)
/-- LEASE_PROBE_TIMEOUT (R424, R425). -/
def execLeaseProbeTimeout (s : State) : Res := .next (leaseTimeout s)

/-! ## The signed inventory (R447 to R450) -/

/-- LKT_SCHED of a copy. -/
def LktCopy.schedWord (c : LktCopy) : Nat := c.slice + b2n c.preempt <<< 17 + c.switchClass <<< 18 + c.qp <<< 24

/-- FAULT_DOMAIN (R450). -/
def LktCopy.faultDomain (c : LktCopy) : Nat :=
  b2n (c.inHalf 0) + b2n (c.inHalf 1) <<< 1 + ofBitList (((upto 12).filter (fun p => c.floorAt (p + 1) != 0)).map (· + 2)) + 1 <<< 14

/-- The 4 bytes of one Setting in the record. -/
def State.settingNote (s : State) (l i : Nat) : Nat :=
  let x := s.setting i
  if x.active.valid && x.active.locket == l then x.active.ncore + x.active.list.length <<< 11 + x.epoch <<< 19 else 0

/-- Bytes 0 to 703 of the record of slot `l` (R448). -/
def State.inventory (s : State) (l seq : Nat) : List (BitVec 8) :=
  let x := s.slot l
  let c := x.active
  let owned := ofBitList (s.settingIds.filter (fun i => (s.setting i).active.valid && (s.setting i).active.locket == l))
  let members := if c.home = s.trb.idModule then ofBitList c.member else 0
  leBytes 4 1 ++ leBytes 4 seq ++ leBytes 2 s.trb.idModule ++ leBytes 2 l ++ leBytes 2 c.tag ++ leBytes 2 c.home
  ++ leBytes 8 x.nonce0.toNat ++ leBytes 8 x.nonce1.toNat ++ leBytes 24 c.cores.toNat ++ leBytes 16 c.chans.toNat
  ++ leBytes 8 c.facet.toNat ++ (upto 15).flatMap (fun r => leBytes 2 (c.floorAt r)) ++ leBytes 2 0
  ++ (upto 4).flatMap (fun k => (upto 8).flatMap (fun i => leBytes 2 (c.shareAt k i)))
  ++ leBytes 8 c.schedWord ++ leBytes 8 c.faultDomain ++ leBytes 8 owned ++ leBytes 4 x.keygen ++ leBytes 4 0
  ++ leBytes 128 members ++ leBytes 32 (identityPublic (b2n s.mgt.debugId)).toNat ++ leBytes 16 0
  ++ (upto 64).flatMap (fun i => leBytes 4 (s.settingNote l i)) ++ leBytes 64 0

/-- GO of LKT_INV_CTL (R447). -/
def inventoryGo (s : State) (l : Nat) : State := if s.holdsLocket l then s.updSlot l (fun x => { x with invBusy := true }) else s

/-- INVENTORY_GO (R447, R459). -/
def execInventoryGo (fn : FnIx) (l : SlotIx) (s : State) : Res := .next (if s.reaches fn (l.val + 1) then inventoryGo s l else s)

/-- INVENTORY_COMPLETE (R447, R448, R449). -/
def execInventoryComplete (l : SlotIx) (s : State) : Res :=
  let x := s.slot l
  .next (if x.invBusy then
      let seq := x.invSeq + 1
      let body := s.inventory l seq
      let sign := leBytes 64 (identitySign (b2n s.mgt.debugId) body).toNat
      s.setSlot l { x with invBusy := false, invReady := true, invSeq := seq, invRec := body ++ sign }
    else s)

end Sys2Proof.Machine
end

