-- ==== Sys2Proof/Machine/Channels.lean ====
section
/-! DEFINITION. The commands of the channels, the tile-memory windows and the copy engines (05, 10). -/

namespace Sys2Proof.Machine

/-- The request in flight with this number. -/
def State.flying (s : State) (rid : Nat) : Option Req := s.mem.inflight.find? (fun r => r.rid == rid)

/-- Whether the part of a request at place `i` has its turn: no request sent before it has that line still to perform (R237, R242). -/
def State.lineFree (s : State) (r : Req) (i : Nat) : Bool :=
  !(s.mem.inflight.takeWhile (fun x => x.rid != r.rid)).any (fun x => x.bars r i)

/-- Whether every part of a request has its turn. -/
def State.wholeFree (s : State) (r : Req) : Bool := (upto r.lines).all (s.lineFree r)

/-- The request with this number, when none comes before any part of it. -/
def State.nextReq (s : State) (rid : Nat) : Option Req :=
  match s.flying rid with
  | none => none
  | some r => if s.wholeFree r then some r else none

def takeReq (s : State) (rid : Nat) : State := { s with mem := { s.mem with inflight := s.mem.inflight.filter (fun r => r.rid != rid) } }

def putReq (s : State) (r : Req) : State := { s with mem := { s.mem with inflight := mapWhere (fun x => x.rid == r.rid) (fun _ => r) s.mem.inflight } }

/-! ## The sectors of a request (R36, R213) -/

/-- The places of a request's sectors, where the request begins at byte `off` of its home. -/
def Req.places (r : Req) (off : Nat) : List Nat := upto (sectorsOf off r.len).length

/-- Of the sectors that a command names, those that have not been performed and have their turn. -/
def State.toServe (s : State) (r : Req) (off : Nat) (part : BitVec 4) : List Nat :=
  (r.places off).filter (fun i => part.getLsbD i && !r.parts.any (fun p => p.1 == i) && s.lineFree r i)

/-- Whether every sector has been performed. -/
def Req.whole (r : Req) (off : Nat) : Bool := (r.places off).all (fun i => r.parts.any (fun p => p.1 == i))

/-- What the sectors of a request returned, in the order of their places. -/
def Req.result (r : Req) : List (BitVec 8) := (upto 5).flatMap (fun i => (r.parts.filter (fun p => p.1 == i)).flatMap (fun p => p.2))

/-- A request after one of its sectors has been performed: the first error that a sector meets is the request's (log 57). -/
def Req.served (r : Req) (i : Nat) (o : HomeOutcome) : Req :=
  { r with parts := r.parts ++ [(i, o.data)], bad := if r.bad.isSome || o.status == stOK then r.bad else some o.status }

/-- The bytes that a write gives the sector at place `i`. -/
def Req.piece (r : Req) (off i : Nat) : List (BitVec 8) := (r.data.drop (64 * i - (if i = 0 then 0 else off % 64))).take (sectorSpan off r.len i).2

/-- A request is answered: its answer goes back, and what waited for it goes on (R36, R248, R391). -/
def concludeReq (s : State) (r : Req) (status : Nat) (data : List (BitVec 8)) (unit : Option Nat) : State :=
  let s1 := r.cross (takeReq s r.rid) r.dest.half (s.backHalf r) (if status = stOK then r.bytesBack else 0)
  settleEndings (answer (noteDrained s1 r) r status data unit)

/-- A request comes to its home with its first sector: it crosses the seam (R446). -/
def Req.enter (r : Req) (s : State) : State := if r.parts.isEmpty then r.cross s r.source.half r.dest.half r.bytesOut else s

/-- Perform some sectors of a request one after another with `f`, and answer the request when none is left (R213): the channels that
failed. -/
def serveSectors (s : State) (r : Req) (off : Nat) (f : State → Req → Nat → State × HomeOutcome) : List Nat → State × List Nat
  | [] => (if r.whole off then concludeReq s r (r.bad.getD stOK) r.result none else putReq s r, [])
  | i :: is =>
    let o := f (r.enter s) r i
    let rest := serveSectors o.1 (r.served i o.2) off f is
    (rest.1, o.2.failed ++ rest.2)

/-- The unit that a PARKED error names (R57). -/
def parkedUnit (status unit : Nat) : Option Nat := if status = stPARKED then some unit else none

/-- A request is refused at its home, `unit`, with an error, once every part of it has its turn. -/
def refuseReq (s : State) (r : Req) (st unit : Nat) : State :=
  if s.wholeFree r then
    concludeReq (r.enter (if st = stPARKED then countParked s unit else s)) r st [] (parkedUnit st unit)
  else s

/-- A request of another module comes to its home: none when the time on the way, a free value, has used its budget up; what is left of the budget
is its answer's (R481). -/
def Req.reach (r : Req) (k : Nat) : Option Req :=
  match r.src with
  | .remote p id m budget ctx tag =>
    if !r.parts.isEmpty then some r
    else if budget ≤ Config.waitTenths k then none
    else some { r with src := .remote p id m (budget - Config.waitTenths k) ctx tag }
  | _ => some r

/-- A request of another module whose budget is used up is discarded and counted in EXPIRED of its port; it is not answered (R481). -/
def expireReq (s : State) (r : Req) : State :=
  let s1 := takeReq s r.rid
  releaseHeld (match r.src with | .remote p .. => countExpired s1 p | _ => s1)

/-! ## Channels -/

/-- What the memory events and counters say of a request (R231, R233). -/
def Req.cause (r : Req) : Cause :=
  { ctx := r.ctx
    dpa := match r.src with | .jobRead .. => 0 | _ => r.dpa
    access := match r.src, r.kind with
      | .jobRead .., _ => 4
      | .jobWrite .., _ => 4
      | _, .read => 0
      | _, .write _ => 1
      | _, _ => 3
    wr := match r.kind with | .write _ => true | _ => false
    counted := r.bad == some stPOISON
    accepted := r.accepted }

/-- A grant at a channel: its arbiter and monitor, and the bytes performed (R442, R446). -/
def noteChannel (s : State) (r : Req) (c n : Nat) (ok : Bool) : State :=
  let s1 := noteGrant s r.locket r.facet 64 (chanUnit c) 0 n
  if ok then countDram s1 r.ownCtx r.locket n else s1

/-- Perform the sector at place `i` of a request other than a fence operation (R206, R212 to R215). -/
def performSector (c off : Nat) (x : Xmit) (s : State) (r : Req) (i : Nat) : State × HomeOutcome :=
  let span := sectorSpan off r.len i
  let sec := off / 64 + i
  let o := match r.kind with
    | .read => let o := homeRead s c sec i x r.cause; (o.1, { o.2 with data := (o.2.data.drop span.1).take span.2 })
    | .write poison => homeStore s c sec i span.1 (r.piece off i) poison x r.cause
    | .atom op size a b => homeAtom s c sec span.1 op size a b x r.cause
    | _ => (s, { status := stDENIED })
  (noteChannel o.1 r c span.2 (o.2.status == stOK), o.2)

/-- Whether a request has a part that its channel could perform now. -/
def State.partReady (s : State) (r : Req) : Bool :=
  (upto r.lines).any (fun i => !r.parts.any (fun p => p.1 == i) && s.lineFree r i)

/-- Whether the arbiter of channel `c` serves the pair of a request now (R438). Besides it those wait there of which it is known that they have
come: they have been performed in part. `aged` is as for `State.arbitrate`. Which others have come is the commands' to say (log 39). -/
def State.servesPair (s : State) (r : Req) (c : Nat) (aged : Bool) : Bool :=
  let here := s.mem.inflight.filter (fun x =>
    (match x.place with | .chan d _ => d == c | _ => false) && (x.rid == r.rid || (!x.parts.isEmpty && s.partReady x)))
  let pair (x : Req) : Nat := s.pairOf x.locket x.facet 64 (chanUnit c) 0
  match s.arbitrate (chanUnit c) 0 aged (here.zipIdx.map (fun x => (x.2, pair x.1))) with
  | some i => (here[i]?).any (fun x => pair x == pair r)
  | none => true

/-- A channel performs the sectors of a request that `part` names, when its arbiter serves the request's pair, or answers the request with the
error that its state gives. -/
def channelRequest (s : State) (r : Req) (c off : Nat) (part : BitVec 4) (x : Xmit) : State :=
  match s.chanError c r.accepted with
  | some st => refuseReq s r st (chanUnit c)
  | none =>
    let (k, s0) := s.takeFree
    let s1 := ageCredits s0 (chanUnit c) 0 (Config.arbiterNs k)
    let is := s.toServe r off part
    if is.isEmpty || !s1.servesPair r c (decide (1024 ≤ Config.waitSeen k)) then s
    else
      match r.reach k with
      | none => poolProgress (expireReq s1 r)
      | some r1 =>
        let o := serveSectors (s1.updChan c (fun ch => ch.correct x)) r1 off (performSector c off { x with corrected := 0 }) is
        poolProgress (o.2.foldl channelFailed o.1)

/-- CHANNEL_REQUEST (R212, R213): a channel performs sectors of the request, and answers it when all are performed. -/
def execChannelRequest (w : Part) (x : Xmit) (s : State) : Res :=
  .next (match s.flying w.rid with
    | none => s
    | some r =>
      match r.place with
      | .chan c off => if r.kind.isFence then s else channelRequest s r c off w.sectors x
      | _ => s)

/-- A home performs a signal or an error, answers it, and releases the waits (R216, R364, R367, R370, R373). The queue whose descriptor sent it
goes on: it may have had to register a wait on the same record (R237). -/
def serveFence (s : State) (r : Req) (c off : Nat) (x : Xmit) : State :=
  let o := performFence (r.enter (takeReq s r.rid)) r c off x
  let s1 := noteChannel o.1 r c 8 (o.2.status == stOK)
  let s2 := r.cross (noteDrained s1 r) r.dest.half (s1.backHalf r) (if o.2.status = stOK then r.bytesBack else 0)
  let s3 := match r.src with
    | .desc q idx => settle (if r.dropped then s2 else descSignalled s2 q idx) q
    | _ => answer s2 r o.2.status (leBytes 8 o.2.afsig) (parkedUnit o.2.status (chanUnit c))
  o.2.failed.foldl channelFailed (settleEndings (wakeFence (releaseHeld s3) o.2))

def fenceRequest (s : State) (r : Req) (c off : Nat) (x : Xmit) : State :=
  let (k, s1) := s.takeFree
  match r.reach k with
  | none => expireReq s1 r
  | some r1 => serveFence s1 r1 c off x

/-- FENCE_SIGNAL (R216, R364, R367, R370, R373). -/
def execFenceSignal (rid : Nat) (x : Xmit) (s : State) : Res :=
  .next (match s.nextReq rid with
    | none => s
    | some r =>
      match r.place with
      | .chan c off => if r.kind.isFence then fenceRequest s r c off x else s
      | _ => s)

/-- CHANNEL_REFRESH (R209): a bank is refreshed; no data and no register changes. -/
def execChannelRefresh (_c : ChIx) (_bank : Nat) (s : State) : Res := .next s

/-- Whether core `n` is running a task, as its window sees it (R223). -/
def State.windowOpen (s : State) (n : Nat) : Bool :=
  (s.coreTask n).isSome && ((s.core n).phase == 1 || (s.core n).phase == 2 || (s.core n).phase == 4)

/-- Whether a window takes a request: reads and whole-sector writes (R139, R223). -/
def Req.fitsWindow (r : Req) (off : Nat) : Bool :=
  match r.kind with
  | .read => true
  | .write _ => decide (off % 64 = 0) && decide (r.len % 64 = 0)
  | _ => false

/-- The error that a core's window gives a request, if any (R57, R139, R223). -/
def State.windowError (s : State) (r : Req) (n off : Nat) : Option Nat :=
  if s.halfClosed (coreHalf n) r.accepted then some stPARKED
  else if !r.fitsWindow off then some stDENIED
  else if !s.windowOpen n then some stNOTASK
  else none

/-- Perform one sector of a request at a core's window (R225). Poisoned data is not written (R207). -/
def performLine (n off : Nat) (s : State) (r : Req) (i : Nat) : State × HomeOutcome :=
  let span := sectorSpan off r.len i
  let at' := (off / 64 + i) * 64 + span.1
  match r.kind with
  | .read => (s, { status := stOK, data := (s.core n).tm.readN at' span.2 })
  | .write poison =>
    if poison then (s, { status := stPOISON })
    else (s.updCore n (fun c => { c with tm := c.tm.writeN at' (r.piece off i) }), { status := stOK })
  | _ => (s, { status := stDENIED })

/-- WINDOW_ACCESS (R73, R213, R223): sectors of a window access find their banks free. -/
def execWindowAccess (w : Part) (s : State) : Res :=
  .next (match s.flying w.rid with
    | none => s
    | some r =>
      match r.place with
      | .window n off =>
        match s.windowError r n off with
        | some st => refuseReq s r st n
        | none =>
          let is := s.toServe r off w.sectors
          let (k, s1) := s.takeFree
          if is.isEmpty then s
          else
            match r.reach k with
            | none => expireReq s1 r
            | some r1 => (serveSectors s1 r1 off (performLine n off) is).1
      | _ => s)

/-- WINDOW_ACCESS_TIMEOUT (R224): no bank was free within 4,096 cycles. -/
def execWindowAccessTimeout (rid : Nat) (s : State) : Res :=
  .next (match s.nextReq rid with
    | none => s
    | some r =>
      match r.place with
      | .window n off => if (s.windowError r n off).isSome then s else refuseReq s r stTMBUSY n
      | _ => s)

/-- SCRUB_COMPLETE (R221). -/
def execScrubComplete (c : ChIx) (us : BitVec 32) (s : State) : Res := .next (endScrub s c us.toNat)

/-- COPY_JOB_COMPLETE (R219): every write of the job has been performed. -/
def execCopyJobComplete (jid : Nat) (s : State) : Res :=
  .next (match s.job? jid with
    | some j => if j.ended && !j.code && !s.jobWritesOut jid then endJob s jid else s
    | none => s)

/-- MOVE_JOB_COMPLETE (R397, R398). -/
def execMoveJobComplete (i : SetIx) (k : Fin 128) (e : MoveEnd) (s : State) : Res :=
  let o := endMove s i k e
  .next (o.2.foldl channelFailed o.1)

/-- SWAP_DRAIN_COMPLETE (steps 7 and 8 of R396). -/
def execSwapDrainComplete (i : SetIx) (s : State) : Res := .next (fenceProgress (endDrain s i))

/-- SWAP_UNLOCK (steps 9 and 10 of R396). -/
def execSwapUnlock (i : SetIx) (us : BitVec 32) (s : State) : Res := .next (unlockSwap s i us.toNat)

end Sys2Proof.Machine
end

