-- ==== Sys2Proof/Machine/Interrupts.lean ====
section
/-! DEFINITION. The interrupt controller (15): selection, delivery, masking. The targets reach it through their own port (R539). -/

namespace Sys2Proof.Machine

/-! ## Selection (R532 to R534) -/

/-- Running priority of a target (R533): 0x100 when nothing is active. -/
def IntTgt.running (t : IntTgt) : Nat := match t.stack with | [] => 0x100 | (_, p) :: _ => p

/-- Whether PRIO `p` pre-empts the running priority under PRIGROUP `g`: a strictly more urgent group (R532, R533). -/
def preempts (g p running : Nat) : Bool := decide (running = 0x100) || decide (p / 2 ^ g < running / 2 ^ g)

/-- A source is eligible for target `t` (R531, R533, R534). -/
def State.eligible (s : State) (t i : Nat) : Bool :=
  let x := s.intSrc i
  let y := s.intTgt t
  x.pend && x.enable && !x.active && x.target == t && decide (y.stack.length < 8) && preempts y.prigroup x.prio y.running

/-- More urgent: the lower PRIO, then the lower number (R533). -/
def moreUrgent (a b : Nat × Nat) : Bool := decide (a.1 < b.1) || (a.1 == b.1 && decide (a.2 < b.2))

/-- The source that a target would be given (R533). Sources that are listed nowhere are not pending. -/
def State.selected (s : State) (t : Nat) : Option Nat :=
  (s.int.srcs.foldl (fun (best : Option (Nat × Nat)) (e : Nat × IntSrc) =>
    if s.eligible t e.1 then
      match best with
      | none => some (e.2.prio, e.1)
      | some b => if moreUrgent (e.2.prio, e.1) b then some (e.2.prio, e.1) else best
    else best) none).map (fun b => b.2)

/-- The interrupt line of a target (R535). -/
def State.intLine (s : State) (t : Nat) : Bool := (s.intTgt t).enable && (s.selected t).isSome

/-! ## Delivery (R535) -/

/-- ENABLE of a source after it has been returned: one that a write has cleared, and whose window still runs, is returned no more (R536). -/
def IntSrc.enableAfter (x : IntSrc) : Bool :=
  match x.newCfg with
  | some (_, _, e) => x.enable && e
  | none => x.enable

/-- A read of INT_TGT_ACK: the selected source becomes active (R530, R535). -/
def ackTarget (s : State) (t : Nat) : State × Nat :=
  match s.selected t with
  | none => (s, 0xFFFF)
  | some i =>
    let x := s.intSrc i
    let y := s.intTgt t
    ((s.setIntSrc i { x with pend := false, active := true, enable := x.enableAfter }).setIntTgt t { y with stack := (i, x.prio) :: y.stack }, i)

/-- A written PRIO and TARGET come into force (R537). -/
def IntSrc.takePrio (x : IntSrc) : IntSrc :=
  match x.newCfg with
  | some (p, t, _) => { x with prio := p, target := t }
  | none => x

/-- A write to INT_TGT_EOI: it must name the top of the stack (R530, R534, R537). -/
def endInterrupt (s : State) (t i : Nat) : State :=
  let y := s.intTgt t
  match y.stack with
  | (j, _) :: rest =>
    if j = i then
      (s.setIntSrc i { (s.intSrc i).takePrio with active := false }).setIntTgt t { y with stack := rest }
    else s.setIntTgt t { y with eoiErr := true }
  | [] => s.setIntTgt t { y with eoiErr := true }

/-- A write to INT_SWTRIG (R528, R541). -/
def swTrigger (s : State) (i : Nat) : State := if 0x3F0 ≤ i ∧ i < 0x400 then raise s i else s

/-- A write to INT_SRC_CFG by a target (R536, R537, R541): PEND acts at once, the rest when it takes effect. A TARGET above 8 is
ignored. -/
def writeIntSrc (s : State) (i v : Nat) : State :=
  let x := s.intSrc i
  let t := if bits v 8 4 ≤ 8 then bits v 8 4 else (match x.newCfg with | some (_, t, _) => t | none => x.target)
  s.setIntSrc i { x with
    newCfg := some (bits v 0 8, t, bit v 12)
    pend := if bit v 16 && !x.active then false else x.pend }

/-- The window of 4 cycles has passed (R536, R537): ENABLE is in force; PRIO and TARGET too unless the source is active. -/
def settleIntSrc (s : State) (i : Nat) : State :=
  let x := s.intSrc i
  match x.newCfg with
  | none => s
  | some (_, _, e) =>
    if x.active then s.setIntSrc i { x with enable := e }
    else s.setIntSrc i { x.takePrio with enable := e, newCfg := none }

/-! ## The commands -/

/-- INTERRUPT_EDGE (R529, R530). -/
def execInterruptEdge (i : SrcIx) (s : State) : Res := .next (raise s i)
/-- INT_TGT_ACK (R535). -/
def execIntTgtAck (t : TgtIx) (s : State) : Res := .next (let r := ackTarget s t; answerRead r.1 r.2)
/-- INT_TGT_EOI (R534). -/
def execIntTgtEoi (t : TgtIx) (source : BitVec 10) (s : State) : Res := .next (endInterrupt s t source.toNat)
/-- INT_SWTRIG (R539). -/
def execIntSwtrig (source : BitVec 10) (s : State) : Res := .next (swTrigger s source.toNat)
/-- INT_SRC_CFG_WRITE (R536, R537). -/
def execIntSrcCfgWrite (i : SrcIx) (value : BitVec 32) (s : State) : Res := .next (writeIntSrc s i value.toNat)
/-- INT_MASK_EFFECT (R536, R537). -/
def execIntMaskEffect (i : SrcIx) (s : State) : Res := .next (settleIntSrc s i)

/-! ## Registers as read (R541) -/

def intSrcWord (x : IntSrc) : Nat :=
  let c := x.newCfg.getD (x.prio, x.target, x.enable)
  c.1 + c.2.1 <<< 8 + b2n c.2.2 <<< 12 + b2n x.pend <<< 16 + b2n x.active <<< 17
def intTgtCtlWord (t : IntTgt) : Nat := t.prigroup + b2n t.enable <<< 8
def State.intTgtStatus (s : State) (t : Nat) : Nat :=
  let y := s.intTgt t
  y.running + y.stack.length <<< 16 + b2n (s.intLine t) <<< 24 + b2n y.eoiErr <<< 25

end Sys2Proof.Machine
end

