-- ==== Sys2Proof/Machine/Halves.lean ====
section
/-! DEFINITION. The mesh: clocks and the seam (R49 to R53), park and unpark (R54 to R58, R62). -/

namespace Sys2Proof.Machine

/-- C_seam per direction in GB/s (R49), from the mesh clocks in sixteenths of 2.0 GHz. -/
def seamCap (west east : Nat) : Nat := 192 * min west east

/-- The mesh clock a half takes: RATE less what the power controller and throttle have taken, never below 4 (R52, R504, R520); 0.5 GHz
while it is parked, until its unpark completes (R56, R58). -/
def Half.target (h : Half) : Nat := if h.state = 2 ∨ h.state = 3 then 4 else max 4 (h.rate - h.lowered - h.heatLowered)

/-- STATE of a half changes (R54 to R58), with the half's interrupt (R528). -/
def setHalfState (s : State) (h st : Nat) : State := raise (s.updHalf h (fun x => { x with state := st })) (0x180 + h)

/-- RATE_EFF changes, with the half's interrupt (R528); a change of C_seam posts SEAM_RATE, with a copy to every Locket whose seam FLOOR is non-zero (R51, R53). -/
def setRateEff (s : State) (h rate cause : Nat) : State :=
  let s0 := s.updHalf h (fun x => { x with rateEff := rate, want := none })
  let s1 := if rate = (s.half h).rateEff then s0 else raise s0 (0x180 + h)
  let old := s.mesh.cap
  let new := seamCap s1.mesh.west.rateEff s1.mesh.east.rateEff
  if new = old then s1
  else
    let s2 := { s1 with mesh := { s1.mesh with cap := new } }
    let x : Record :=
      { type := 0x0240, source := halfUnit h
        detail := detail [(16, 2, new), (18, 2, old), (20, 1, s1.mesh.west.rateEff), (21, 1, s1.mesh.east.rateEff), (22, 1, cause)] }
    let ls := s2.slotIds.filter (fun l => s2.holdsLocket l && (s2.slot l).active.floorAt 0 != 0)
    (postEvent s2 x).forAll ls (fun s l => postCopy s x l)

/-- A change of a half's clock is asked for; it takes effect later (R52), and not while the module has tripped (R521). Its CAUSE is that of
what moved the clock wanted last (R53). -/
def wantRate (s : State) (h cause : Nat) : State :=
  if s.pdyn.trip then s
  else
    s.updHalf h (fun x =>
      if x.target = x.rateEff then { x with want := none }
      else if x.want = some x.target then x
      else { x with want := some x.target, wantCause := cause })

/-- RATE of MSH_HALF_CTL is written (R52, R60). -/
def writeRate (s : State) (h rate : Nat) : State :=
  if 4 ≤ rate ∧ rate ≤ 16 then wantRate (s.updHalf h (fun x => { x with rate := rate })) h 0
  else s.updHalf h (fun x => { x with err := 1, boundUnit := 0 })

/-- MSH_RATE_WRITE (R52, R60). -/
def execMeshRateWrite (h : HalfIx) (rate : BitVec 5) (s : State) : Res := .next (if s.pfAnswers then writeRate s h rate.toNat else s)

/-- MESH_RATE_EFFECT (R52, R53). -/
def execMeshRateEffect (h : HalfIx) (s : State) : Res :=
  .next (match (s.half h).want with
    | some r => setRateEff s h r (s.half h).wantCause
    | none => s)

/-- The first unit of a half that is bound (R54), or whose core reset runs (R558). A module in the pool role has no bound core (R10); the
channels of its region are bound (R413). -/
def State.boundIn (s : State) (h : Nat) : Option Nat :=
  match (upto 192).find? (fun n => coreHalf n == h && ((s.coreOwner n).isSome || (s.core n).resetting)) with
  | some n => some n
  | none => ((upto 128).find? (fun c => chanHalf c == h && ((s.chanOwner c).isSome || (s.chan c).bist || (s.inPool && s.pool.chans.contains c)))).map chanUnit

/-- The half whose core or memory stop a request goes to. -/
def Place.half : Place → Option Nat
  | .chan c _ => some (chanHalf c)
  | .window n _ => some (coreHalf n)
  | _ => none

/-- A half begins to park: requests that its stops have accepted complete normally (step 2 of R56). Those performed in part have been; of the
others on their way which have been is a free choice. -/
def acceptReqs (s : State) (h : Nat) : State :=
  let (k, s1) := s.takeFree
  let here (r : Req) : Bool := r.place.half == some h && (!r.parts.isEmpty || Config.atStop k r.rid)
  { s1 with mem := { s1.mem with inflight := mapWhere here (fun r => { r with accepted := true }) s1.mem.inflight } }

/-- Whether a request that a half's stops had accepted is still to complete. -/
def State.acceptedOut (s : State) (h : Nat) : Bool := s.mem.inflight.any (fun r => r.accepted && r.place.half == some h)

/-- A write of 1 to PARK (R54, R55, R58). Of several writes to PARK that are held during one change the last one counts, and PARK reads its
old value while a write is held: the spec states neither (DESIGN CHOICE, log 56). -/
def requestPark (s : State) (h : Nat) : State :=
  let x := s.half h
  match x.state with
  | 0 =>
    match s.boundIn h with
    | some u => s.setHalf h { x with park := true, err := 2, boundUnit := u }
    | none => acceptReqs (setHalfState (s.setHalf h { x with park := true }) h 1) h
  | 2 => s.setHalf h { x with park := true }
  | _ => s.setHalf h { x with heldPark := some true }

/-- A write of 0 to PARK (R58). -/
def requestUnpark (s : State) (h : Nat) : State :=
  let x := s.half h
  match x.state with
  | 0 => s.setHalf h { x with park := false }
  | 2 => setHalfState (s.setHalf h { x with park := false }) h 3
  | _ => s.setHalf h { x with heldPark := some false }

/-- A write to PARK that was held takes its turn. -/
def takeHeldPark (s : State) (h : Nat) : State :=
  let x := s.half h
  match x.heldPark with
  | none => s
  | some b => let s1 := s.setHalf h { x with heldPark := none }; if b then requestPark s1 h else requestUnpark s1 h

/-- PARK_REQUEST (R54, R55). -/
def execParkRequest (h : HalfIx) (s : State) : Res := .next (if s.pfAnswers then requestPark s h else s)
/-- UNPARK_REQUEST (R58). -/
def execUnparkRequest (h : HalfIx) (s : State) : Res := .next (if s.pfAnswers then requestUnpark s h else s)

def coresOfHalf (h : Nat) : List Nat := (upto 192).filter (fun n => coreHalf n == h)
def chansOfHalf (h : Nat) : List Nat := (upto 128).filter (fun c => chanHalf c == h)

/-- A core whose die has been powered down: what a core reset keeps stays (R551; log 6), but nothing learned of it or of its die (R509). -/
def powerDownCore (s : State) (n : Nat) : State :=
  let s1 := (s.updPcore n PCore.poweredUp).setDie (n / 48) {}
  dropHeld (s1.updCore n (fun c => { resetCore c n with resetting := c.resetting, parked := true })) n

/-- PARK_COMPLETE (steps 3 to 5 of R56); scrubs and requests accepted before the park end first. -/
def execParkComplete (h : HalfIx) (s : State) : Res :=
  .next (if (s.half h).state = 1 && !s.acceptedOut h && !(chansOfHalf h).any (fun c => (s.chan c).state == 2) then
      let s1 := s.forAll (coresOfHalf h) powerDownCore
      let s2 := s1.forAll (chansOfHalf h) (fun s c => s.updChan c (fun x => if x.state = 0 then { x with state := 3 } else x))
      takeHeldPark (setRateEff (setHalfState s2 h 2) h 4 3) h
    else s)

/-- UNPARK_COMPLETE (R58). -/
def execUnparkComplete (h : HalfIx) (s : State) : Res :=
  .next (if (s.half h).state = 3 then
      let s1 := s.forAll (coresOfHalf h) State.powerUpCore
      let s2 := s1.forAll (chansOfHalf h) (fun s c => s.updChan c (fun x => if x.state = 3 then { x with state := 0 } else x))
      let s3 := setHalfState s2 h 0
      takeHeldPark (setRateEff s3 h (s3.half h).target 3) h
    else s)

/-- MSH_HALF_STATUS as read (R61). -/
def Half.statusWord (x : Half) : Nat := x.rateEff + x.state <<< 8 + x.err <<< 12 + x.boundUnit <<< 16

/-- MSH_HALF_STATUS_READ (R61): ERR is cleared, and BOUND_UNIT with it. -/
def readHalfStatus (s : State) (h : Nat) : State × Nat :=
  (s.updHalf h (fun x => { x with err := 0, boundUnit := 0 }), (s.half h).statusWord)
def execMshHalfStatusRead (h : HalfIx) (s : State) : Res := .next (if s.pfAnswers then (let r := readHalfStatus s h; answerRead r.1 r.2) else s)

/-- MSH_PARKED_CNT_READ (R62). -/
def readParkedCnt (s : State) : State × Nat := ({ s with mesh := { s.mesh with parkedCnt := 0 } }, s.mesh.parkedCnt)
def execMshParkedCntRead (s : State) : Res := .next (if s.pfAnswers then (let r := readParkedCnt s; answerRead r.1 r.2) else s)

end Sys2Proof.Machine
end

