-- ==== Sys2Proof/Machine/TrbHandle.lean ====
section
/-! DEFINITION. What a module does with flits and packets that arrive (R466 to R472, R475, R477, R478, R480, R481, R486, R490 to R492) and
with the answers of its own requests. -/

namespace Sys2Proof.Machine

/-! ## Flits -/

/-- Units of a packet run in a BODY (R467): packets that end, and what is left of the last. -/
def parseBody : Nat → List (BitVec 8) → List (BitVec 8) → List (List (BitVec 8)) × List (BitVec 8)
  | 0, acc, _ => ([], acc)
  | n + 1, acc, rest =>
    if rest.isEmpty then ([], acc)
    else if acc.isEmpty && nth rest 0 0 == 0 then ([], [])
    else
      let need := packetLength (if acc.isEmpty then rest else acc) - acc.length
      if rest.length < need then ([], acc ++ rest)
      else
        let (ps, left) := parseBody n [] (rest.drop need)
        ((acc ++ rest.take need) :: ps, left)

/-- Take the BODY of an accepted DATA flit into the receive buffer of its channel (R467). -/
def takeBody (s : State) (p : Nat) (f : Flit) : State :=
  let d := s.dyn p
  let a := SMap.get asmD d.link.asm f.fvc
  let from' := if a.bytes.isEmpty then (if f.start < 15 then f.body.drop (16 * f.start) else []) else f.body
  let hold := max a.hold f.hold
  let (ps, left) := parseBody 16 a.bytes from'
  let d1 := { d with link := { d.link with
    asm := SMap.set asmD d.link.asm f.fvc (if left.isEmpty then {} else { bytes := left, hold := if ps.isEmpty then hold else f.hold }) } }
  (s.setDyn p d1).forAll (ps.zipIdx) (fun s x =>
    let (pid, s1) := s.fresh
    let k : Arrived := { pid := pid, port := p, vc := f.fvc, hold := if x.2 = 0 then hold else f.hold, units := (x.1.length + 15) / 16
                         pkt := Packet.decode x.1 }
    let s2 := { s1 with trb := { s1.trb with arrived := s1.trb.arrived ++ [k] } }
    if k.pkt.pkind = 0x10 ∧ k.pkt.dst = s.trb.idModule then raise s2 0x2A0 else s2)

/-- Send one NAK until the expected flit arrives (R469). -/
def sendNak (s : State) (p : Nat) : State :=
  let d := s.dyn p
  if d.link.nakSent then s
  else sendFlit (s.setDyn p { d with link := { d.link with nakSent := true } }) p 0 { kind := 2 }

/-- A DATA flit (R468, R469). -/
def receiveData (s : State) (p : Nat) (f : Flit) : State :=
  let s1 := takeHeader s p f
  let l := (s1.dyn p).link
  if f.seq = l.expect then
    let s2 := s1.updDyn p (fun d => { d with link := { d.link with expect := (l.expect + 1) % 4096, nakSent := false } })
    sendFlit (takeBody s2 p f) p f.fvc { kind := 0 }
  else sendNak s1 p

/-- A flit that is ignored (R463, R466): counted, and answered with a NAK. `overlap` is 0, or how many flits from this one on an uncorrectable
codeword overlaps: every one of them is bad. -/
def receiveBad (s : State) (p overlap : Nat) : State :=
  let s1 := (countCrc s p).updDyn p (fun d => { d with marked := max (d.marked - 1) (overlap - 1) })
  let s2 := if overlap = 0 then s1 else s1.updPort p (fun x => { x with fecUncorr := satAdd 32 x.fecUncorr 1 })
  if s2.portLive p then sendNak s2 p else s2

/-! ## HELLO (R490, R491) -/

/-- Initial credits of a channel (R471). -/
def vcCredits (vc : Nat) : Nat := if vc < 4 then 2048 else 256

/-- The HELLO that a port sends. -/
def helloFlit (s : State) (p : Nat) (seen : Bool) : Flit :=
  let t := s.trb
  { kind := 3
    body := leBytes 2 t.idModule ++ leBytes 1 p ++ leBytes 2 (t.kxM1 + t.kyM1 <<< 3 + t.kzM1 <<< 6)
      ++ leBytes 1 (b2n seen + b2n (s.port p).reflect <<< 1) ++ leBytes 2 1 ++ leBytes 4 t.parure
      ++ (upto 6).flatMap (fun vc => leBytes 2 (vcCredits vc)) }

/-- The arrived packets of a port are from before its link started anew. -/
def markStale (s : State) (p : Nat) : State :=
  { s with trb := { s.trb with arrived := mapWhere (fun a => a.port == p) (fun a => { a with stale := true }) s.trb.arrived } }

def sendHello (s : State) (p : Nat) : State := sendFlit s p 0 (helloFlit s p (s.dyn p).link.helloIn)

/-- The reason of the first check of R491 that fails; 0 when all pass. -/
def helloReason (s : State) (p : Nat) (body : List (BitVec 8)) : Nat :=
  let t := s.trb
  let f (b n : Nat) : Nat := leNat ((body.drop b).take n)
  if f 8 4 ≠ t.parure then 1
  else if f 3 2 % 1024 ≠ t.kxM1 + t.kyM1 <<< 3 + t.kzM1 <<< 6 then 2
  else if f 0 2 % 1024 ≠ t.neighbour (portDir p) then 3
  else if f 2 1 % 16 ≠ partnerPort p then 4
  else if !t.names t.idModule || t.dim (portDir p / 2) == 1 then 5
  else 0

/-- The link layer of a port as it starts: SEQ, ACK and CRED at 0, credits from the HELLO (R490). -/
def freshLink (credits : List Nat) : LinkState13 :=
  { credits := (credits.zipIdx).foldl (fun (m : SMap Nat) x => SMap.set zeroD (SMap.set zeroD m x.2 x.1) (x.2 + 8) x.1) []
    helloIn := true }

/-- A HELLO flit arrives (R490, R491). -/
def receiveHello (s : State) (p : Nat) (f : Flit) : State :=
  let x := s.port p
  if x.state = 3 then sendHello s p
  else if x.state ≠ 2 ∧ x.state ≠ 4 then s
  else
    let g (b n : Nat) : Nat := leNat ((f.body.drop b).take n)
    let s1 := s.updDyn p (fun d => { d with link := { d.link with helloIn := true } })
    let reason := helloReason s p f.body
    let x1 := { x with nbrMod := g 0 2 % 1024, nbrPort := g 2 1 % 16 }
    if reason ≠ 0 then sendHello (changePort s1 p { x1 with state := 4, reason := reason, nbrValid := false }) p
    else
      let s2 := sendHello s1 p
      if bit (g 5 1) 0 then
        let s3 := (markStale s2 p).updDyn p (fun d => { d with link := freshLink ((upto 6).map (fun vc => g (12 + 2 * vc) 2 % 4096)) })
        txPump (changePort s3 p { x1 with state := 3, reason := 0, nbrValid := true }) p 0 txFuel
      else s2.setPort p { x1 with nbrValid := true }

/-! ## Answers of this module's requests -/

/-- A remote fence is not valid, or its owner cannot be asked (R372). -/
def checkFailed (s : State) (q idx : Nat) : State :=
  match s.desc? q idx with
  | some d => if d.phase = .checking then settle (refuseDesc s q idx stFENCE) q else s
  | none => s

/-- Registered waits on a fence whose module no longer answers complete with WAIT_ERRORED (R372). `gone` picks the modules. -/
def ownersGone (s : State) (gone : Nat → Bool) : State :=
  let hits := s.que.sqs.flatMap (fun e =>
    (e.2.descs.filter (fun d => d.phase == .registered && handleModule d.waitFence != s.trb.idModule && gone (handleModule d.waitFence))).map
      (fun d => (e.1, d.idx)))
  s.forAll hits (fun s h => settle (finishDesc s h.1 h.2 stWAITERR 0) h.1)

/-- Waits on modules that no port leads to any more: their route reports NOROUTE (R372, R476). -/
def routesLost (s : State) : State := ownersGone s (fun m => (s.egress m).isNone)

/-- What a request of this module that ends without an answer of its own kind leaves to whoever sent it. -/
def requestEnds (s : State) (t : Tracked) (status : Nat) : State :=
  match t.purpose with
  | .access r =>
    match r.src with
    | .desc q idx => settle (descSignalled s q idx) q
    | _ => answer s r status []
  | .fenceCheck q idx => checkFailed s q idx
  | .fenceWait q idx => settle (finishDesc s q idx stWAITERR 0) q
  | .fenceSignal q idx => settle (descSignalled s q idx) q
  | .leaseOp => s
  | .launch q idx t => taskPart s q idx t status {}
  | .teardown .. => s
  | .echo => { s with trb := { s.trb with echoBusy := false, echoResult := if status = stDEADLINE then 2 else 1 } }
  | .notice => s

/-- A request of this module ends without an answer of its own kind: a status from the way (R477) or its deadline (R480). -/
def endRequest (s : State) (t : Tracked) (status : Nat) : State :=
  let s1 := settleEndings (requestEnds s t status)
  if status = stNOROUTE ∨ status = stDEADLINE then ownersGone s1 (· == t.dst) else s1

/-- A response arrives at port `p` for a request: its tracker entry is freed; one with none is late (R479, R480). -/
def takeResponse (s : State) (p reqid : Nat) (k : State → Tracked → State) : State :=
  match s.tracked reqid with
  | none => countLate s p
  | some t => k (untrack s reqid) t

/-- RESP_DATA or RESP_ACK for a request of this module, from port `p`. OWNERSHIP_LOST is for the lease that the request carried (R419). -/
def accessAnswered (s : State) (p : Nat) (t : Tracked) (status : Nat) (data : List (BitVec 8)) : State :=
  match t.purpose with
  | .access r =>
    let s0 := r.cross s (portHalf p) r.source.half (if status = stOK then r.bytesBack else 0)
    let s1 := if status = stOWNLOST then leaseLost s0 (dpaModule r.dpa) (dpaLocal r.dpa / blockBytes) r.locket t.pkt.gen else s0
    let s2 := match r.src, r.dropped with
      | .desc q idx, false => settle (descSignalled s1 q idx) q
      | _, _ => answer s1 r status (data.take r.bytesBack) (stop := portStop p)
    let s3 := settleEndings (leaseProgress s2)
    if status = stNOROUTE then ownersGone s3 (· == t.dst) else s3
  | _ => endRequest s t status

/-- Payload of the answer to a fence query or registration: the subcode, the outcome, the handle and the record's DPA (log 31). -/
def queryAnswer (code handle dpa : Nat) : List (BitVec 8) := leBytes 1 1 ++ leBytes 1 code ++ leBytes 4 handle ++ leBytes 8 dpa

/-- CONTROL_RESP for a request of this module (R475; log 31). -/
def controlAnswered (s : State) (t : Tracked) (reqid : Nat) (payload : List (BitVec 8)) : State :=
  let f (b n : Nat) : Nat := leNat ((payload.drop b).take n)
  match t.purpose with
  | .fenceCheck q idx =>
    if f 1 1 ≠ 0 then checkFailed s q idx
    else
      match s.desc? q idx with
      | none => s
      | some d =>
        if d.phase ≠ .checking then s
        else
          let left := d.checks.filter (· != reqid)
          let mine := d.hasSignal && f 2 4 == d.sigFence
          let s1 := s.updDesc q idx (fun d => { d with
            checks := left, sigRec := if mine then f 6 8 else d.sigRec, phase := if left.isEmpty then .checked else d.phase })
          settle s1 q
  | .fenceWait q idx =>
    match s.desc? q idx with
    | some d => if d.phase = .querying then settle (waitOutcome s q idx (f 1 1)) q else s
    | none => s
  | .fenceSignal q idx =>
    match s.desc? q idx with
    | some d =>
      if d.phase ≠ .signalling then s
      else if f 1 1 = 0 then
        let d1 := { d with sigRec := f 6 8 }
        settle (signalAway (s.updDesc q idx (fun _ => d1)) q d1) q
      else settle (descSignalled s q idx) q
    | none => s
  | .leaseOp => leaseAnswered s reqid (f 1 1 == 0) (HomeRec.ofBytes (payload.drop 2))
  | .launch q idx i => taskPart s q idx i (f 1 1) (guardOf (BitVec.ofNat 128 (f 2 16)))
  | _ => s

/-! ## Packets for this module (R486) -/

/-- What came of steps 1 to 4 of R486. -/
inductive Opened where
  | done (s : State)
  | ok (s : State) (locket : Nat) (payload : List (BitVec 8))

/-- An answer without data to a request (R475, R477, R486): `tag` 0 for the module key. -/
def denyPacket (s : State) (k : Packet) (tag status : Nat) : State :=
  sendResponse s 1 { pkind := 0x09, dst := k.src, src := s.trb.idModule, tag := tag, budget := k.budget, facet := k.facet, reqid := k.reqid
                     ctx := k.ctx, status := status }

/-- An arrived packet with what its residence so far leaves of its budget, from which its answer is subtracted on (R481). -/
def Arrived.spent (a : Arrived) (resid : Nat) : Arrived := { a with pkt := { a.pkt with budget := a.pkt.budget - (a.hold + resid) } }

/-- Steps 1 to 4 of R486 for an arrived packet, which leaves its buffer. `resid` is its residence so far in 0.1 µs, the time its flits
were held apart (R481). What has no slot for its tag is answered with DENIED whatever its kind (step 2). A packet counts at its port inbound; a request is of another module's context (R442, R446). -/
def openPacket (s : State) (a : Arrived) (resid : Nat) : Opened :=
  let k := a.pkt
  let s1 := consumePacket s a
  if s.trb.retired.contains k.tag then .done (countAuth s1 a.port)
  else
    let slot := if k.tag = 0 then some noLocket else s.slotOfTag k.tag
    match slot with
    | none => .done (denyPacket s1 (a.spent resid).pkt 0 stDENIED)
    | some l =>
      match unprotect s k with
      | none => .done (countAuth s1 a.port)
      | some payload =>
        if k.budget ≤ a.hold + resid then .done (countExpired s1 a.port)
        else
          let n := k.bytes.length
          let s2 := noteGrant s1 l k.facet 64 (portUnit a.port) 1 n
          .ok (countTrb s2 (if k.isRequest then noCtx else k.ctx) l n) l payload

/-- The packet of this number, of one kind, for this module. -/
def State.arrivedFor (s : State) (pid : Nat) (kinds : List Nat) : Option Arrived :=
  match s.trb.arrived.find? (fun a => a.pid == pid) with
  | some a =>
    if a.pkt.dst == s.trb.idModule && kinds.contains a.pkt.pkind
      && !(s.trb.arrived.takeWhile (fun x => x.pid != pid)).any (fun x => x.port == a.port && x.vc == a.vc) then some a else none
  | none => none

/-- Handle an arrived packet of a kind. -/
def handlePacket (s : State) (pid resid : Nat) (kinds : List Nat) (f : State → Arrived → Nat → List (BitVec 8) → State) : State :=
  match s.arrivedFor pid kinds with
  | none => s
  | some a =>
    match openPacket s a resid with
    | .done s1 => s1
    | .ok s1 l payload => f s1 (a.spent resid) l payload

/-- Whether the ingress port stops answer requests of a Locket with DENIED: it is being torn down, or the module is fenced (R452, R550). -/
def State.ingressCloses (s : State) (l : Nat) : Bool :=
  s.moduleFenced || (decide (l < 32) && decide (2 ≤ (s.slot l).state) && !(s.slot l).resetting)

/-- What the home decides about an access before it maps it; a fence operation of a PF queue comes under tag 0 and reaches the fences of every
Locket whose TDI is not locked, as the query of its handle does (R338, R372, R588) (R273, R414, R415, R419, R452, R550). -/
def State.remoteCheck (s : State) (k : Packet) (l : Nat) (fence : Bool := false) : Option Nat :=
  if s.ingressCloses l then some stDENIED
  else if dpaModule k.addr ≠ s.trb.idModule then some stDENIED
  else
    match localPlace (dpaLocal k.addr) with
    | .dram a =>
      if s.pool.state = 2 && decide (a < slotBytes * s.pool.chans.length) then
        let b := a / blockBytes
        let r := s.homeRec b
        if b < s.pool.recordBlocks then some stDENIED
        else if !k.lease then some stDENIED
        else if r.state = 2 && r.owner == k.src && r.gen == k.gen && r.locket == l then none
        else some stOWNLOST
      else if s.pool.state = 3 && decide (a < slotBytes * s.pool.chans.length) then some stNOREGION
      else if k.lease then some stOWNLOST
      else
        match s.mapDram a with
        | none => some stNOREGION
        | some m =>
          let o := (s.setting m.set).active.locket
          if m.set < 64 && (o == l || (fence && l == noLocket && !s.tdiClosed o)) then none else some stDENIED
    | .window n _ => if l < 32 && s.coreOwner n == some l then none else some stDENIED
    | _ => some stDENIED

/-- A request is sent on to its home on this module. -/
def remoteAccess (s : State) (a : Arrived) (l : Nat) (kind : ReqKind) (len : Nat) (data : List (BitVec 8)) : State :=
  let k := a.pkt
  let w : Sender := { src := .remote a.port k.reqid k.src k.budget k.ctx k.tag, locket := l, ctx := k.ctx, facet := k.facet
                      source := portStop a.port }
  match s.remoteCheck k l kind.isFence with
  | some st => denyPacket s k k.tag st
  | none =>
    if 256 < k.addr % 256 + len then denyPacket s k k.tag stDENIED
    else
      match sendLocal s w kind k.addr len data with
      | (s1, none) => s1
      | (s1, some st) => denyPacket s1 k k.tag st

/-- The answer of a CONTROL packet (log 31). -/
def controlAnswer (s : State) (k : Packet) (payload : List (BitVec 8)) : State :=
  sendResponse s 1 { pkind := 0x11, dst := k.src, src := s.trb.idModule, tag := k.tag, budget := k.budget, facet := k.facet, reqid := k.reqid
                     ctx := k.ctx, payload := payload }

/-- The subcode of a CONTROL payload. -/
def subcode (payload : List (BitVec 8)) : Nat := (nth payload 0 0).toNat

/-- A fence query or a registration (R369, R371, R372); none while the record that a registration reads is held at a move destination
(R399). -/
def answerQuery (s : State) (k : Packet) (l : Nat) (payload : List (BitVec 8)) : Option State :=
  let f (b n : Nat) : Nat := leNat ((payload.drop b).take n)
  let h := f 1 4
  let i := handleIndex h
  let x := s.fence i
  let ok := s.handleValid h && (if l < 32 then x.locket == l else !s.tdiClosed x.locket)
  let reply (s : State) (code : Nat) : State := controlAnswer s k (queryAnswer code h (s.ownDpa x.recOff))
  if f 13 1 = 0 then some (reply s (if ok then 0 else 1))
  else if !ok then some (reply s 3)
  else if s.heldAt x.recOff then none
  else
    let labels := fenceLabels l k.facet
    let r := registerWait s labels i (handleGen h) (f 5 8) (.remote k.src (f 14 8) k.tag) {}
    some (reply r.1 r.2)

/-- A wait on a fence of another module is released (R370). -/
def takeRelease (s : State) (k : Packet) (payload : List (BitVec 8)) : State :=
  let f (b n : Nat) : Nat := leNat ((payload.drop b).take n)
  let q := f 14 8 / 2 ^ 32 % 1024
  let idx := f 14 8 % 2 ^ 32
  let s1 := match s.desc? q idx with
    | some d =>
      if (d.phase == .registered || d.phase == .querying) && d.waitFence == f 1 4 then
        settle (waitOutcome s q idx (if f 13 1 = 1 then 3 else 2)) q
      else s
    | none => s
  controlAnswer s1 k (leBytes 1 2)

/-- A lease operation at the home (R420): the payload holds POOL_LEASE_ARG, POOL_LEASE_CMD and GEN as `leasePayload` lays them out; a PROBE
returns the record of any block (log 31). -/
def answerLease (s : State) (k : Packet) (l : Nat) (payload : List (BitVec 8)) : State :=
  let f (b n : Nat) : Nat := leNat ((payload.drop b).take n)
  let b := f 13 4
  let reply (s : State) (ok : Bool) (r : HomeRec) : State := controlAnswer s k (leBytes 1 3 ++ leBytes 1 (b2n (!ok)) ++ leBytes 16 r.word)
  if s.pool.state ≠ 2 ∨ s.pool.blocks ≤ b then reply s false {}
  else if b < s.pool.recordBlocks then reply s (f 9 1 % 8 == 4) (s.homeRec b)
  else
    let op : RecordOp := match f 9 1 % 8 with
      | 1 => .accept k.src l
      | 2 => .grant k.src (f 5 2 % 1024) (f 17 4)
      | 3 => .release k.src (f 17 4)
      | _ => .probe
    let r := recordOp s b op
    reply r.1 r.2.1 r.2.2

/-- The status of a launch that names a core through PEER (R405); 0 when the work may start. -/
def State.launchCheck (s : State) (l peer core ctx : Nat) : Nat :=
  let m := (s.setting peer).active
  let c := s.ctx ctx
  if !(decide (peer < 64) && m.valid && m.locket == l && (s.localCores m).contains core) || s.fenced l then stSETTING
  else if !(decide (ctx < 4096) && c.state == 1 && c.locket == l && c.set == peer) then stCONTEXT
  else 0

/-- A task or code load that another module launches here, laid out as `launchPayload` says (R405; log 31). -/
def takeLaunch (s : State) (a : Arrived) (l : Nat) (payload : List (BitVec 8)) : State :=
  let k := a.pkt
  let f (b n : Nat) : Nat := leNat ((payload.drop b).take n)
  let core := f 65 1
  let peer := f 66 1
  let d : Desc := { idx := 0, data := BitVec.ofNat 512 (f 1 64) }
  let st := s.launchCheck l peer core d.context
  let who : Launcher := .remote k.src a.port k.reqid k.budget
  if st ≠ 0 then controlAnswer s k (launchAnswer st {})
  else
    let m := (s.setting peer).active
    let v := ((upto m.ncore).find? (fun v => s.localEntry m v && m.coreNum v == core)).getD 0
    if d.op = 1 then newTask s d who (f 68 4) d.context l peer v (f 67 1 != 0)
    else startLoad s d who [core] d.context l peer 0

/-- Forward a packet for another module (R47, R477, R478, R481): it crosses the seam where its ports lie in different halves, in the class of
its tag, and it is charged to the remainder of its Locket at the port (R435, R441). -/
def forwardPacket (s : State) (a : Arrived) (resid : Nat) : State :=
  let k := a.pkt
  let s1 := consumePacket s a
  let cls := classVc k.pkind
  if (cls == 0 || cls == 4) && s.trb.hold.contains k.dst then countDiscard s1 a.port
  else
    match s1.egress k.dst with
    | none => denyPacket s1 (a.spent resid).pkt 0 stNOROUTE
    | some p =>
      let l := s1.locketOfTag k.tag
      let n := k.bytes.length
      let s2 := crossSeam (noteGrant s1 l k.facet 64 (portUnit a.port) 1 n) l k.facet noCtx (portHalf a.port) (portHalf p) n
      if k.budget ≤ max 1 (a.hold + resid) + (s1.port p).dly then countExpired s2 p
      else enqueue s2 p (s2.outVc p k.pkind (some (a.vc, a.port))) k.budget (a.hold + resid) (s2.pairOf l k.facet 64 (portUnit p) 0) k.bytes

end Sys2Proof.Machine
end

