-- ==== Sys2Proof/Machine/TrbCmds.lean ====
section
/-! DEFINITION. The commands of Trebry (13): flits, port events, packets. The number `wait` of a flit command is what a packet that
leaves because of it has waited in the queue at least, in 0.1 µs; `resid` of a packet command is its residence so far. -/

namespace Sys2Proof.Machine

/-! ## Flits -/

/-- The decoder of port `p` has corrected codewords of a flit, a free number of them (R463, R498). -/
def corrected (s : State) (p : Nat) : State :=
  s.takeFree.2.updPort p (fun x => { x with fecCorr := satAdd 32 x.fecCorr (Config.codewordsCorrected s.takeFree.1) })

/-- Whether flits of port `p` are told apart: in HELLO only once eight in a row have passed their CRC (step 5 of R490). -/
def State.delineated (s : State) (p : Nat) : Bool := (s.port p).state != 2 || decide (8 ≤ (s.dyn p).good)

/-- Take a good flit of kind `k` at port `p`; none is good that an uncorrectable codeword overlaps (R463). One that comes before delineation
is found only helps to find it. -/
def goodFlit (s : State) (p : Nat) (w : BitVec 2048) (k : Nat) (f : State → Flit → State) : State :=
  let x := Flit.decode w
  if (s.dyn p).marked == 0 && flitGood w && x.kind == k && decide (x.fvc < 6) then
    if s.delineated p then f (corrected s p) x else (corrected s p).updDyn p (fun d => { d with good := d.good + 1 })
  else s

/-- A port whose EN is 0 and whose ALLOW_REFLECT is 1 sends the flits of its partner's loop-back back, unless it runs a test itself (R495). -/
def State.reflects (s : State) (p : Nat) : Bool := !(s.port p).en && (s.port p).reflect && !(s.dyn p).testBusy
def reflectFlit (s : State) (p : Nat) (f : Flit) : State :=
  if s.reflects p then s.updDyn p (fun d => { d with sentFlits := d.sentFlits ++ [f.encode] }) else s

/-- What a loop-back test sends (R495): the next DATA flit with counted SEQ. -/
def sendPattern (s : State) (p : Nat) : State :=
  match (s.dyn p).pattern with
  | .flits n => sendFlit (s.updDyn p (fun d => { d with pattern := .flits ((n + 1) % 4096) })) p 0 { kind := 1, seq := n }
  | _ => s

/-- Count `units` flits or bits tested, `errors` of them wrong (R495, R498). -/
def countTest (s : State) (p errors : Nat) (units : BitVec 64) : State :=
  s.updDyn p (fun d => { d with
    testErrors := satAdd 32 d.testErrors errors, testUnits := d.testUnits + units, testBad := d.testBad || errors != 0 })

/-- Whether port `p` tests the loop to its partner's link layer, whose flits come back one by one. -/
def State.testsFlits (s : State) (p : Nat) : Bool :=
  (s.dyn p).testBusy && (s.port p).loop == 4 && (s.dyn p).pattern != .loops

/-- A flit of the pattern has come back, good or bad: it is counted and the next one goes. -/
def patternBack (s : State) (p errors : Nat) : State := sendPattern (countTest s p errors 1) p

/-- A LOOP flit has come back to a port that tests: the pattern begins (R495). -/
def loopBack (s : State) (p : Nat) : State :=
  if (s.dyn p).testBusy && (s.dyn p).pattern == .loops then
    sendPattern (s.updDyn p (fun d => { d with pattern := if (s.port p).loop = 4 then .flits 0 else .prbs31 })) p
  else s

/-- DATA (R467 to R469), the pattern of a partner's loop-back at depth 4, or that of the port's own come back (R495). -/
def execData (p : PortIx) (flit : BitVec 2048) (wait : Nat) (s : State) : Res :=
  .next (if s.portLive p then goodFlit s p flit 1 (fun s f => txPump (receiveData s p f) p wait txFuel)
    else if s.reflects p then goodFlit s p flit 1 (fun s f => reflectFlit s p f)
    else if s.testsFlits p then goodFlit s p flit 1 (fun s _ => patternBack s p 0)
    else s)
/-- NAK (R469): every unacknowledged flit after ACK is sent again. -/
def execNak (p : PortIx) (flit : BitVec 2048) (wait : Nat) (s : State) : Res :=
  .next (if s.portLive p then goodFlit s p flit 2 (fun s f => txPump (replayAll (takeHeader s p f) p) p wait txFuel) else s)
/-- IDLE (R465, R472). -/
def execIdle (p : PortIx) (flit : BitVec 2048) (wait : Nat) (s : State) : Res :=
  .next (if s.portLive p then goodFlit s p flit 0 (fun s f => txPump (takeHeader s p f) p wait txFuel) else s)
/-- HELLO (R490, R491). -/
def execHello (p : PortIx) (flit : BitVec 2048) (s : State) : Res := .next (goodFlit s p flit 3 (fun s f => receiveHello s p f))
/-- LOOP (R495): reflected for a partner's test, or come back from it. -/
def execLoopFlit (p : PortIx) (flit : BitVec 2048) (s : State) : Res := .next (goodFlit s p flit 4 (fun s f => loopBack (reflectFlit s p f) p))
/-- HELLO_TIMER (step 5 of R490, R491). -/
def execHelloTimer (p : PortIx) (s : State) : Res :=
  .next (if (s.port p).state = 2 ∨ (s.port p).state = 4 then sendHello s p else s)
/-- REPLAY_TIMEOUT (R470): ACK has not advanced for 4 µs. -/
def execReplayTimeout (p : PortIx) (s : State) : Res :=
  .next (if s.portLive p && !(s.dyn p).link.replay.isEmpty then replayAll s p else s)
/-- BAD_FLIT (R463, R466): a flit that an uncorrectable codeword overlaps, or one wrong in itself. `overlap` is 0, or the number of flits from
this one on that a codeword overlaps which the decoder could not correct. -/
def execBadFlit (p : PortIx) (overlap : Fin 5) (flit : BitVec 2048) (s : State) : Res :=
  .next (if (s.port p).state = 3 ∨ (s.port p).state = 2 ∨ (s.port p).state = 4 then
      if overlap.val ≠ 0 || (s.dyn p).marked ≠ 0 || !flitGood flit then
        (receiveBad s p overlap).updDyn p (fun d => { d with good := if s.delineated p then d.good else 0 })
      else s
    else if s.testsFlits p && (overlap.val ≠ 0 || (s.dyn p).marked ≠ 0 || !flitGood flit) then patternBack (receiveBad s p overlap) p 1
    else s)

/-! ## Ports -/

/-- TRB_PORT_CTL with EN written 1 (R490, R498). -/
def startPort (s : State) (p : Nat) : State :=
  let x := s.port p
  if x.en || (s.dyn p).testBusy then s
  else changePort (s.updDyn p (fun d => { d with link := {} })) p { x with en := true, state := 1, reason := 0, lanes := 0, nbrValid := false }
/-- TRB_PORT_CTL with EN written 0. -/
def stopPort (s : State) (p : Nat) : State :=
  let x := s.port p
  if !x.en then s else routesLost (changePort s p { x with en := false, state := 0, lanes := 0, nbrValid := false })

/-- The fields of TRB_PORT_CTL but EN (R498). -/
def setPortCtl (x : Port) (w : Nat) : Port :=
  { x with
    auto := bit w 1, reflect := bit w 2
    loop := if x.en then x.loop else if bits w 4 3 ≤ 4 then bits w 4 3 else x.loop
    maxLanes := if bits w 8 2 ≤ 2 then bits w 8 2 else x.maxLanes
    slow := bit w 10
    dly := if bits w 16 8 = 0 then x.dly else bits w 16 8 }

def portCtlWord (x : Port) : Nat :=
  b2n x.en + b2n x.auto <<< 1 + b2n x.reflect <<< 2 + x.loop <<< 4 + x.maxLanes <<< 8 + b2n x.slow <<< 10 + x.dly <<< 16

/-- A write to TRB_PORT_CTL. -/
def writePortCtl (s : State) (p v m : Nat) : State :=
  let w := mergeW (portCtlWord (s.port p)) v m
  let s1 := s.updPort p (fun x => setPortCtl x w)
  if bit w 0 then startPort s1 p else stopPort s1 p

/-- PORT_ENABLE (R490, R498): the whole register is written. -/
def execPortEnable (p : PortIx) (value : BitVec 64) (s : State) : Res :=
  .next (if s.pfAnswers then writePortCtl s p (value.toNat ||| 1) fullMask else s)
/-- PORT_DISABLE (R498). -/
def execPortDisable (p : PortIx) (s : State) : Res := .next (if s.pfAnswers then writePortCtl s p 0 1 else s)
/-- PORT_TRAINED (steps 1 to 4 of R490): lanes as TRB_PORT_STATUS codes them. -/
def execPortTrained (p : PortIx) (lanes : Fin 4) (slow : Bool) (s : State) : Res :=
  let x := s.port p
  .next (if x.state = 1 ∧ lanes.val ≠ 0 ∧ lanes.val ≤ x.maxLanes + 1 ∧ (x.slow → slow) then
      sendHello (changePort (s.updDyn p (fun d => { d with link := {}, marked := 0, good := 0 })) p { x with state := 2, lanes := lanes, rate := b2n slow }) p
    else s)
/-- FEC_LOCK_LOSS (R492). -/
def execFecLockLoss (p : PortIx) (s : State) : Res := .next (startRetrain s p)
/-- RETRAIN_COMPLETE (R472, R492): within 100 µs; credits of packets consumed meanwhile go back, and what waited goes on. -/
def execRetrainComplete (p : PortIx) (s : State) : Res :=
  .next (if (s.port p).state = 7 then
      let s1 := changePort (s.updDyn p (fun d => { d with marked := 0 })) p { s.port p with state := 3 }
      txPump (returnCredits s1 p) p 0 txFuel
    else s)

/-- A port goes DOWN, and trains again when AUTO is set (R492). -/
def portDown (s : State) (p reason : Nat) : State :=
  let s1 := changePort s p { s.port p with state := 5, reason := reason, lanes := 0, nbrValid := false }
  let x := s1.port p
  routesLost (if x.auto && x.en then changePort (s1.updDyn p (fun d => { d with link := {} })) p { x with state := 1 } else s1)

/-- RETRAIN_TIMEOUT (R490, R492): a retrain ran out of time, or a training failed. -/
def execRetrainTimeout (p : PortIx) (failed : Bool) (s : State) : Res :=
  .next (if (s.port p).state = 7 then portDown s p (if failed then 6 else 7)
    else if ((s.port p).state = 1 || (s.port p).state = 2) && failed then portDown s p 6 else s)
/-- ROUTE_HOLD_END (R478): 64 µs have passed. -/
def execRouteHoldEnd (m : ModIx) (s : State) : Res :=
  .next (releaseWaiting { s with trb := { s.trb with hold := setDel m.val s.trb.hold } })

/-- What a running test has counted since it was last looked at (R495): `errors` and `units`, where its units are not flits that come back one
by one, and nothing before its LOOP flit has come back. -/
def testCounts (s : State) (p errors : Nat) (units : BitVec 64) : State :=
  if (s.dyn p).testBusy && (s.port p).loop != 4 && (s.dyn p).pattern != .loops then countTest s p errors units else s

/-- GO of TRB_PORT_TEST (R495): starts a loop-back, or stops the one that runs, `errors` and `units` being what it has counted since it was last
looked at. At depths 3 and 4 a LOOP flit goes first; a test that ends before one has come back ends with NOREFLECT. -/
def testGo (s : State) (p errors : Nat) (units : BitVec 64) : State :=
  let x := s.port p
  if (s.dyn p).testBusy then
    let s1 := testCounts s p errors units
    changePort (s1.updDyn p (fun d => { d with
        testBusy := false, testResult := if d.pattern = .loops then 2 else if d.testBad then 1 else 0, pattern := .none }))
      p { x with state := 0 }
  else if x.en || x.loop == 0 then s
  else
    let first : TestPattern := if x.loop = 1 then .flits 0 else if x.loop = 2 then .prbs31 else .loops
    let s1 := changePort (s.updDyn p (fun d => { d with testBusy := true, testBad := false, testUnits := 0, testResult := 3, pattern := first }))
      p { x with state := 6 }
    if first = .loops then sendFlit s1 p 0 { kind := 4 } else s1
/-- TEST_GO (R495). -/
def execTestGo (p : PortIx) (errors : BitVec 32) (units : BitVec 64) (s : State) : Res :=
  .next (if s.pfAnswers then testGo s p errors.toNat units else s)
/-- NOREFLECT_TIMEOUT (R495): no LOOP flit has come back within 10 ms. -/
def execNoreflectTimeout (p : PortIx) (s : State) : Res :=
  let d := s.dyn p
  .next (if d.testBusy && d.pattern == .loops then
      changePort (s.setDyn p { d with testBusy := false, testResult := 2, pattern := .none }) p { s.port p with state := 0 }
    else s)

/-! ## Packets -/

/-- Give a packet up as one of R475's dropped. -/
def dropBad (s : State) (a : Arrived) : State := countBadpkt s a.port

/-- READ (R206, R475). -/
def execRead (pid resid : Nat) (s : State) : Res :=
  .next (handlePacket s pid resid [0x01] (fun s a l _ => remoteAccess s a l .read (sizeBytes a.pkt.size) []))
/-- WRITE (R206, R207, R475). -/
def execWrite (pid resid : Nat) (s : State) : Res :=
  .next (handlePacket s pid resid [0x02] (fun s a l payload =>
    let n := sizeBytes a.pkt.size
    if payload.length < n then dropBad s a else remoteAccess s a l (.write a.pkt.poison) n (payload.take n)))
/-- ATOMIC (R214, R475): an atomic, or a fence signal or error (log 31). -/
def execAtomic (pid resid : Nat) (s : State) : Res :=
  .next (handlePacket s pid resid [0x03] (fun s a l payload =>
    let n := sizeBytes a.pkt.size
    match atomOf n a.pkt.status payload with
    | some (.atom op size x y) => remoteAccess s a l (.atom op size x y) size []
    | some kind => remoteAccess s a l kind 8 []
    | none => dropBad s a))
/-- RESP_DATA (R475, R479). -/
def execRespData (pid resid : Nat) (s : State) : Res :=
  .next (handlePacket s pid resid [0x08] (fun s a _ payload =>
    takeResponse s a.port a.pkt.reqid (fun s t => accessAnswered s a.port t a.pkt.status payload)))
/-- RESP_ACK (R475, R477, R479). -/
def execRespAck (pid resid : Nat) (s : State) : Res :=
  .next (handlePacket s pid resid [0x09] (fun s a _ _ =>
    takeResponse s a.port a.pkt.reqid (fun s t => accessAnswered s a.port t a.pkt.status [])))
/-- A CONTROL packet whose subcode `code` picks; one with another subcode is left where it is. A fenced Locket's requests, its teardown apart,
and every request to a fenced module are answered with DENIED (R452, R550). -/
def handleControl (s : State) (pid resid : Nat) (code : Nat → Bool) (f : State → Arrived → Nat → List (BitVec 8) → Option State) : State :=
  match s.arrivedFor pid [0x10] with
  | none => s
  | some a =>
    match openPacket s a resid with
    | .done s1 => s1
    | .ok s1 l payload =>
      let c := subcode payload
      if !code c then s
      else if (decide (1 ≤ c ∧ c ≤ 6) && s.moduleFenced) || (decide (1 ≤ c ∧ c ≤ 4) && s.ingressCloses l) then denyPacket s1 (a.spent resid).pkt a.pkt.tag stDENIED
      else (f s1 (a.spent resid) l payload).getD s
/-- FENCE_QUERY (R369, R372): a query or a registration. -/
def execFenceQuery (pid resid : Nat) (s : State) : Res :=
  .next (handleControl s pid resid (· == 1) (fun s a l payload => answerQuery s a.pkt l payload))
/-- FENCE_RELEASE (R370). -/
def execFenceRelease (pid resid : Nat) (s : State) : Res :=
  .next (handleControl s pid resid (· == 2) (fun s a _ payload => some (takeRelease s a.pkt payload)))
/-- LEASE_OPERATION (R420). -/
def execLeaseOperation (pid resid : Nat) (s : State) : Res :=
  .next (handleControl s pid resid (· == 3) (fun s a l payload => some (answerLease s a.pkt l payload)))
/-- REMOTE_LAUNCH (R405). -/
def execRemoteLaunch (pid resid : Nat) (s : State) : Res :=
  .next (handleControl s pid resid (· == 4) (fun s a l payload => some (takeLaunch s a l payload)))

/-- The step and the tag of a teardown message. -/
def teardownOf (s : State) (payload : List (BitVec 8)) : Option (Nat × Nat) :=
  (s.slotOfTag (leNat ((payload.drop 2).take 2))).map (fun l => (l, (nth payload 1 0).toNat))

/-- TEARDOWN_STEP (R452): a message of the home. -/
def execTeardownStep (pid resid : Nat) (s : State) : Res :=
  .next (handleControl s pid resid (· == 5) (fun s a _ payload =>
    let s1 := controlAnswer s a.pkt (leBytes 1 5)
    some (match teardownOf s payload with
      | some (l, step) => memberStep s1 l a.pkt.src step
      | none => s1)))
/-- TEARDOWN_REPORT (R452, R456): a member's report. -/
def execTeardownReport (pid resid : Nat) (s : State) : Res :=
  .next (handleControl s pid resid (· == 6) (fun s a _ payload =>
    let s1 := controlAnswer s a.pkt (leBytes 1 6)
    some (match teardownOf s payload with
      | some (l, step) => teardownReported s1 l a.pkt.src step
      | none => s1)))
/-- CONTROL_RESP (R475). -/
def execControlResp (pid resid : Nat) (s : State) : Res :=
  .next (handlePacket s pid resid [0x11] (fun s a _ payload =>
    takeResponse s a.port a.pkt.reqid (fun s t => controlAnswered s t a.pkt.reqid payload)))
/-- ECHO (R494): answered under the module key; DENIED while the module is fenced (R550). -/
def execEcho (pid resid : Nat) (s : State) : Res :=
  .next (handlePacket s pid resid [0x20] (fun s a _ payload =>
    if s.moduleFenced then denyPacket s a.pkt 0 stDENIED
    else sendResponse s 1 { pkind := 0x21, dst := a.pkt.src, src := s.trb.idModule, budget := a.pkt.budget, reqid := a.pkt.reqid
                            payload := payload.take 16 ++ leBytes 2 s.trb.idModule ++ leBytes 14 a.port }))
/-- ECHO_RESP (R494, R497). -/
def execEchoResp (pid resid : Nat) (rttNs : BitVec 32) (s : State) : Res :=
  .next (handlePacket s pid resid [0x21] (fun s a _ payload =>
    takeResponse s a.port a.pkt.reqid (fun s t =>
      if t.purpose = .echo then
        { s with trb := { s.trb with
            echoBusy := false, echoResult := 0, echoResponder := leNat ((payload.drop 16).take 2) % 1024
            echoIngress := leNat ((payload.drop 18).take 1) % 16, echoRtt := rttNs.toNat } }
      else s)))
/-- TRANSIT_FORWARD (R47, R477, R478). -/
def execTransitForward (pid resid : Nat) (s : State) : Res :=
  .next (match s.trb.arrived.find? (fun a => a.pid == pid) with
    | some a =>
      if a.pkt.dst != s.trb.idModule
          && !(s.trb.arrived.takeWhile (fun x => x.pid != pid)).any (fun x => x.port == a.port && x.vc == a.vc) then
        forwardPacket s a resid
      else s
    | none => s)
/-- BADPKT (R475): a packet of another PKIND or subcode is dropped, once it has passed the steps of R486 that come first. -/
def execBadpkt (pid resid : Nat) (s : State) : Res :=
  let known : List Nat := [0x01, 0x02, 0x03, 0x08, 0x09, 0x10, 0x11, 0x20, 0x21]
  .next (match s.trb.arrived.find? (fun a => a.pid == pid) with
    | some a =>
      if a.pkt.dst ≠ s.trb.idModule then s
      else if !known.contains a.pkt.pkind then handlePacket s pid resid [a.pkt.pkind] (fun s a _ _ => dropBad s a)
      else handleControl s pid resid (fun c => c == 0 || decide (6 < c)) (fun s a _ _ => some (dropBad s a))
    | none => s)
/-- REQUEST_DEADLINE (R480). Lease operations use PROBE_US instead. -/
def execRequestDeadline (p : PortIx) (reqid : BitVec 16) (s : State) : Res :=
  .next (match ((s.dyn p).tracker ++ (s.dyn p).waiting).find? (fun t => t.reqid == reqid.toNat) with
    | some t => if t.purpose = .leaseOp then s else leaseProgress (endRequest (untrack s t.reqid) t stDEADLINE)
    | none => s)
/-- ECHO_GO (R494, R497). RESULT has no code for an echo that finds no module key: it reads as NOROUTE (DESIGN CHOICE, log 43). -/
def sendEcho (s : State) (dst : Nat) : State :=
  if s.trb.echoBusy then s
  else
    let k : Packet := { pkind := 0x20, dst := dst, src := s.trb.idModule, payload := leBytes 16 0 }
    match sendRequest s k .echo with
    | (s1, .sent _) => { s1 with trb := { s1.trb with echoBusy := true } }
    | (s1, .refused _) => { s1 with trb := { s1.trb with echoResult := 1 } }
/-- ECHO_GO (R494): TRB_ECHO is written with DST and GO. -/
def execEchoGo (dst : ModIx) (s : State) : Res :=
  .next (if s.pfAnswers then sendEcho { s with trb := { s.trb with echoDst := dst.val } } dst else s)
/-- RETIRED_CLR (R488, R497). -/
def clearRetired (s : State) : State := { s with trb := { s.trb with retired := [] } }
def execRetiredClr (s : State) : Res := .next (if s.pfAnswers then clearRetired s else s)

end Sys2Proof.Machine
end

