-- ==== Sys2Proof/Machine/ResetOps.lean ====
section
/-! DEFINITION. What the whole module does at once: the log reaching flash (R570), the fence of the module (R550, R556), the reset of
everything outside the always-on domain (R551, R552, R601), the loss of power (R615) and the thermal trip (R521). -/

namespace Sys2Proof.Machine

/-- Sensor 0x0220 (R572). -/
def State.moduleState (s : State) : Nat :=
  if s.mgt.fw.recovery then 3 else if s.pdyn.trip && !s.rst.running then 2
  else if s.rst.running || s.mgt2.power != 1 then 1 else 0

/-- The state sensors of R572: ports, link, module. -/
def stateSensors : List Nat := (upto 12).map (0x200 + ·) ++ [0x210, 0x220]
def State.stateSensor (s : State) (n : Nat) : Nat :=
  if n = 0x220 then s.moduleState else if n = 0x210 then s.que.link.rate.val else (s.port (n - 0x200)).state

/-- Messages for the state sensors that have changed from `old` on (R573). -/
def noteChanges (old s : State) : State :=
  s.forAll (stateSensors.filter (fun n => old.stateSensor n != s.stateSensor n)) (fun s n => platformEvent s (.change n (s.stateSensor n)))

/-- Log entries reach flash; a full ring overwrites its oldest (R570). -/
def flushLog (s : State) : State :=
  let all := s.mgt.flash ++ s.mgt.buffer
  { s with mgt := { s.mgt with flash := all.drop (all.length - 65536), buffer := [] } }

/-- Fence operations of descriptors that are outstanding are given up, and their descriptors complete. -/
def settleFenceOpsAll (s : State) : State :=
  let ofDesc (r : Req) : Option (Nat × Nat) := match r.src with | .desc q i => some (q, i) | _ => none
  let away := (upto 12).flatMap (fun p => ((s.dyn p).tracker ++ (s.dyn p).waiting).filterMap (fun t =>
    match t.purpose with | .access r => ofDesc r | _ => none))
  let hits := (s.mem.inflight ++ s.mem.held).filterMap ofDesc ++ away
  let s1 := { s with mem := { s.mem with
    inflight := s.mem.inflight.filter (fun r => (ofDesc r).isNone), held := s.mem.held.filter (fun r => (ofDesc r).isNone) } }
  s1.forAll hits (fun s h => completeDesc s h.1 h.2)

/-- Every task stops without saving. -/
def stopTasks (s : State) : State :=
  let busy := (s.cores.filter (fun e => e.2.task.isSome)).map (fun e => e.1)
  { s.forAll busy clearCore with tasks := [] }

/-- Steps 2 and 3 of R556, and R550: unbegun descriptors complete with ABORTED, every queue stops, tasks stop without saving, what is
outstanding is discarded, every valid fence is errored with ABORTED. -/
def fenceModule (s : State) : State :=
  let s1 := settleFenceOpsAll (abortUnbegun s (fun _ _ => true)).1
  let s2 := stopTasks (s1.forAll s1.queueIds stopQueue)
  let s3 := { s2 with
    mem := { s2.mem with inflight := [], held := [], answers := [], jobs := [] }
    xlt := { s2.xlt with walks := [] }
    fnc := { s2.fnc with aborts := [], invals := [] } }
  s3.forAll (s3.fencesWhere (fun _ => true)) (fun s i => errorFence s i stABORTED noCtx)

/-- Every port goes DOWN (step 5 of R556). -/
def portsDown (s : State) : State :=
  s.forAll ((s.trb.ports.filter (fun e => e.2.state != 0 && e.2.state != 5)).map (fun e => e.1)) (fun s p =>
    changePort s p { s.port p with state := 5, lanes := 0, nbrValid := false })

/-- A unit of the retirement table whose retirement is not lifted (R559, R595). -/
def State.keptCores (s : State) : List Nat := s.rst.retiredCores.filter (fun n => !s.rst.lifted.contains n)
def State.keptChans (s : State) : List Nat := (upto 128).filter (fun c => (s.chan c).retired && !s.rst.lifted.contains (chanUnit c))

/-- Everything outside the always-on domain at its reset value, with the retirement marks applied (R551, R552, R601, R629). The
readings of the sensors, which lie in the always-on domain (R565), the brake's pin, what the module has written on its link, and the model's own
counters and waiting commands stay. -/
def State.blank (s : State) : State :=
  let chans := s.keptChans.foldl (fun m c => SMap.set chanD m c { state := 5, retired := true }) []
  { mem := { chans := chans }
    que := { out := s.que.out, sris := s.que.sris }
    pwr := { temps := s.pwr.temps, sFailed := s.pwr.sFailed }
    pdyn := { brake := s.pdyn.brake, brakeHold := s.pdyn.brake }
    rst := { retiredCores := s.keptCores, failTimes := s.rst.failTimes, clock := s.rst.clock }
    mgt := s.mgt, mgt2 := s.mgt2
    lastRead := s.lastRead, freeCtr := s.freeCtr, nextId := s.nextId, pending := s.pending }

/-- Decrid at a module reset: debug access and the debug identity end, with the sessions of that identity; TDIs and IDE streams
are gone (R579, R586, R589, R594). -/
def Mgt.afterReset (m : Mgt) : Mgt :=
  { m with
    dbgState := 0, dbgScope := 0, dbgKey := 0, dbgLeft := 0, debugId := false
    sessions := if m.debugId then [] else m.sessions
    tdi := [], ide := [], ideKeys := [], tdiReport := [] }

/-- What a power cycle leaves of Decrid (R551, R567, R570, R578): flash, the fuses, the owner root. -/
def Mgt.afterPowerLoss (m : Mgt) : Mgt :=
  { udsOpen := true
    fw := { m.fw with update := 0, agent := none, err := 0, restarting := false, thenReset := false, applied := false }
    flash := m.flash, boots := m.boots, owner := m.owner
    nextLseq := match m.flash.getLast? with | some e => e.lseq + 1 | none => 0 }

/-- Units that failed BIST are retired (step 7 of R598, R559 reason 3), and RST_SELFTEST shows them (R608). -/
def applyBist (s : State) (cores chans : List Nat) : State :=
  let cs := cores.filter (fun n => decide (n < 192))
  let hs := chans.filter (fun c => decide (c < 128))
  let units := cs ++ hs.map chanUnit
  let s1 := s.forAll units (fun s u => retire s u 3)
  { s1 with test := { s1.test with coresFailed := cs.length, chansFailed := hs.length, failUnit := units.headD 0 } }

/-! ## Channel capacity (R209, R210, R233) -/

/-- C_ch of a row of R209. -/
def rowCap (row : Nat) : Nat := if row = 0 then 240 else if row = 1 then 224 else 112
/-- The row in force: that of the temperature, and the second at least with REFRESH2X. -/
def Chan.row (c : Chan) : Nat := max c.hot (if c.refresh2x then 1 else 0)
/-- The capacity under the row and the steps that measure 3 has taken (R504). -/
def Chan.capFor (c : Chan) (steps : Nat) : Nat :=
  max 112 (rowCap c.row - 16 * steps)

/-- C_ch follows; a change posts CH_RATE (R210, R233, R528). A rise is a return toward normal. -/
def recap (s : State) (c cause : Nat) : State :=
  let h := s.chan c
  let new := h.capFor s.pdyn.meas.caps
  if new = h.cap then s
  else
    raise (postEvent (s.setChan c { h with cap := new })
      { type := 0x0232, locket := (s.chanOwner c).getD 0xFF, source := chanUnit c, object := c
        detail := detail [(16, 2, new), (18, 2, h.cap), (20, 1, if h.cap < new then 5 else cause), (21, 1, h.temp)] }) (0x0C0 + c)

/-- The row a stack temperature gives, with 3 °C of hysteresis on the way down (R209). -/
def hotRow (old : Nat) (t : Int) : Nat :=
  if 95 * 8 < t then 2
  else if 2 ≤ old && decide (92 * 8 < t) then 2
  else if 85 * 8 < t then 1
  else if 1 ≤ old && decide (82 * 8 < t) then 1
  else 0

/-- A stack sensor sets the refresh rate and throttle of its stack's channels (R209). -/
def stackStep (s : State) (k : Nat) (t : Int) : State :=
  s.forAll ((upto 16).map (fun i => 16 * k + i)) (fun s c =>
    let h := s.chan c
    let row := hotRow h.hot t
    recap (s.setChan c { h with hot := row, temp := min 255 (t / 8).toNat }) c (if row = 2 then 2 else 1))

/-- Every stack's capacity follows its last reading before step 8 ends (R209, R601). -/
def stacksUp (s : State) : State :=
  s.forAll ((upto 8).filter (fun k => s.pwr.temps.any (fun e => e.1 == 224 + k))) (fun s k =>
    stackStep s k (SMap.get (fun _ => (0 : Int)) s.pwr.temps (224 + k)))

/-- The module leaves a reset or power-up: registers at their reset values; of the events that wait for the PF event ring RESET_DONE is
the first, UNIT_RETIRED follows, and what has been raised before comes after them (R600, R633). -/
def comeUp (s : State) (cause count us : Nat) (cores chans : List Nat) : State :=
  let s1 := { s with rst := { s.rst with cause := cause, count := count }, que := { s.que with held := [] } }
  let s2 := applyBist (resetDone s1 3 0 decridUnit noLocket noCtx cause us) cores chans
  stacksUp { s2 with que := { s2.que with held := s2.que.held ++ s.que.held } }

/-- Whether every thermal sensor reads below 95 °C (R521, R598). -/
def State.cool (s : State) : Bool := s.pwr.temps.all (fun e => decide (e.2 < 95 * 8))

/-- A module reset starts (R556, R558): the cause, the fence, the log, ports and PCIe. It takes over a lower level that runs, and a
request while one runs completes with it. At a trip the fence has been made already (R521, R556), and the reset waits until the
module is cool. `cause` as RST_CAUSE codes it. -/
def startModuleReset (s : State) (cause : Nat) (esc : Bool) : State :=
  if s.rst.running || s.mgt2.trayReq || s.mgt2.power != 1 || (s.pdyn.trip && !s.cool) then s
  else
    let r : Rst := { s.rst with
      cause := cause, count := satAdd 16 s.rst.count 1, busy := true, level := 3, running := true, curEsc := esc }
    let s1 := { s with rst := r }
    let s2 := if s.pdyn.trip then s1 else fenceModule s1
    portsDown (flushLog (noteChanges s s2))

/-- Steps 6 and 7 of R556: RESET_DONE and UNIT_RETIRED wait for the PF event ring (step 8). -/
def endModuleReset (s : State) (cores chans : List Nat) (us : Nat) : State :=
  if s.rst.running && !s.mgt2.trayReq && !s.mgt.fw.recovery && !s.mgt.fw.restarting && (!s.pdyn.trip || s.cool) then
    let r := s.rst
    let s1 := { s.blank with mgt := s.mgt.afterReset, mgt2 := { s.mgt2 with thermTrip := false, drive := 0 } }
    let s2 := { s1 with rst := { s1.rst with lastLevel := 3, escalated := r.curEsc, duration := us } }
    noteChanges s (comeUp s2 r.cause r.count us cores chans)
  else s

/-- Every supply is off (R615): a power cycle. -/
def powerOff (s : State) : State :=
  let b := s.blank
  { b with
    que := { b.que with sris := 0 }
    pwr := {}
    mgt := s.mgt.afterPowerLoss
    mgt2 := { perst := s.mgt2.perst, power := 0, events := s.mgt2.events } }

/-- Decrid asks the tray to remove the input (R557, R621): what is in SRAM reaches the flash log first; every domain outside the
always-on domain is held in reset until the input goes, and the module's state is 1 (R573). -/
def requestTray (s : State) : State :=
  if s.mgt2.trayReq || s.mgt2.power = 0 then s
  else
    let s1 := flushLog s
    let b := s1.blank
    let s2 := { b with
      rst := { b.rst with cause := s.rst.cause, count := s.rst.count, running := true, busy := true, level := 4 }
      mgt := s1.mgt, mgt2 := { s1.mgt2 with trayReq := true } }
    noteChanges s s2

/-! ## The thermal trip (R521) -/

/-- The unit that a PARKED error names for a place; the registers are reached at the host interface (log 57). -/
def Place.unit : Place → Nat
  | .chan c _ => chanUnit c
  | .window n _ => n
  | _ => pcieUnit

/-- Requests still outstanding are answered with PARKED; they are not awaited. -/
def parkOutstanding (s : State) : State :=
  let rs := s.mem.inflight ++ s.mem.held
  let s1 := { s with mem := { s.mem with inflight := [], held := [], answers := [] } }
  s1.forAll rs (fun s r =>
    let s2 := countParked s r.place.unit
    match r.src with
    | .desc q i => completeDesc s2 q i
    | _ => answer s2 r stPARKED [] (some r.place.unit))

/-- Both meshes go to 0.5 GHz, which breaks the pin of a half set higher (R506, R521, R523). -/
def tripMesh (s : State) (h : Nat) : State :=
  let x := s.half h
  let s1 := setRateEff s h 4 2
  if x.state = 2 || x.state = 3 || x.rate ≤ 4 || s.pdyn.meshOvr.contains h then s1
  else
    postEvent { s1 with pdyn := { s1.pdyn with meshOvr := setIns h s1.pdyn.meshOvr } }
      { type := 0x0291, sev := 1, source := decridUnit, object := halfUnit h, detail := detail [(16, 1, 1), (17, 1, 3), (18, 2, x.rate), (20, 2, 4)] }

/-- The module trips: cores stop without saving and lose their supplies, the stacks enter self-refresh, both meshes go to 0.5 GHz,
the module is fenced (R521, R550, R556, R622). -/
def tripModule (s : State) : State :=
  let s1 := { s with pdyn := { s.pdyn with trip := true }, mgt2 := { s.mgt2 with thermTrip := true } }
  let s2 := stopTasks (s1.forAll s1.queueIds stopQueue)
  let s3 := parkOutstanding s2
  let s4 := (abortUnbegun s3 (fun _ _ => true)).1
  let s5 := { parkOutstanding s4 with xlt := { s4.xlt with walks := [] } }
  let s6 := s5.forAll (upto 192) powerDownCore
  let s7 := s6.forAll (upto 128) (fun s c => s.updChan c (fun x => if x.state = 4 ∨ x.state = 5 then x else { x with state := 3 }))
  noteChanges s (tripMesh (tripMesh s7 0) 1)

end Sys2Proof.Machine
end

