-- ==== Sys2Proof/Machine/Power.lean ====
section
/-! DEFINITION. Power, droop and heat (14): the control step and its measures, the peak path, the brake, droop, the margin monitors,
thermal sensors and voltage monitors. Clocks are in steps of 25 MHz, temperatures in 1/8 °C. -/

namespace Sys2Proof.Machine

/-! ## Clocks and SKIP (R499, R503) -/

/-- F_MAX (R503, R507, R527). -/
def State.fMax (s : State) (n : Nat) : Nat := 0x40 + Config.fusedFMax n % 9 + (s.pcore n).fUp
/-- The guard band of a die in mV (R508). -/
def State.guardMv (s : State) (d : Nat) : Nat := Config.fusedGFull d - (s.die d).down
/-- SKIP in force (R499): what R504 and throttle set, 12 at most; the peak path and the brake hold it higher (R513, R514). -/
def State.skipOf (s : State) (n : Nat) : Nat :=
  let p := s.pcore n
  max (min 12 (p.skip + p.heatSkip)) (max s.pdyn.peakSkip (if s.pdyn.brakeHold then 12 else 0))
/-- The value a pin holds (R503). -/
def State.pinned (s : State) (n : Nat) : Nat := min (s.pcore n).fmin (s.fMax n)
/-- A core whose clock the controller governs: powered, not retired. -/
def State.governed (s : State) (n : Nat) : Bool := !(s.core n).parked && !s.coreRetired n && !s.pdyn.trip

/-- A core with a running task whose clock the controller governs. -/
def State.runs (s : State) (n : Nat) : Bool := s.governed n && (s.core n).task.isSome

/-- The setpoint of a core under the measures (R503, R504). The controller moves an unpinned core only while it runs a task; an idle one keeps its
setpoint within its bounds (R501). -/
def State.baseSet (s : State) (m : Measures) (n : Nat) : Nat :=
  let p := s.pcore n
  let hi := min p.fmax (s.fMax n)
  if p.pin then max 0x20 (s.pinned n - m.pinLow)
  else
    let lo := max 0x20 (min hi p.fmin - m.below)
    max lo (min (if (s.core n).task.isSome then m.level else p.base) hi)

/-- The setpoint in force: throttle lowers it further (R520). -/
def State.setpoint (s : State) (m : Measures) (n : Nat) : Nat := max 0x20 (s.baseSet m n - (s.pcore n).heatSteps)

/-- SKIP of a core under the measures and throttle (R504, R520). -/
def State.skipUnder (s : State) (m : Measures) (n : Nat) : Nat :=
  let p := s.pcore n
  min 12 ((if p.pin then m.pinSkip else m.skip) + p.heatSkip)

/-- The effective clock that a setpoint and the SKIP in force give, rounded down (R499, R523). -/
def State.effective (s : State) (n : Nat) : Nat :=
  let p := s.pcore n
  p.want.getD p.fSet * (16 - s.skipOf n) / 16

/-! ## Core supplies (R500, R501) -/

def dieCores (d : Nat) : List Nat := (upto 48).map (fun i => 48 * d + i)

/-- V_die in mV: what the most demanding setpoint among the die's running cores needs, and the guard band on top. A setpoint that is to rise counts
from the control step that chose it, and one that is to fall until it has fallen, so that the voltage rises first and falls last (R501). No value
is stated for a die without a running core. -/
def State.vDie (s : State) (d : Nat) : Option Nat :=
  match (dieCores d).filter s.runs with
  | [] => none
  | ns => some ((ns.map (fun n =>
      let p := s.pcore n
      max (Config.fusedVMin n p.fSet) (Config.fusedVMin n (p.want.getD p.fSet)))).foldl max 0 + s.guardMv d)

/-- What the activity model sums before the gain (R518). -/
def rawActivity (r : PowerReading) : Nat := (r.events.map (fun e => Config.eventEnergy e.1 * e.2)).foldl (· + ·) 0

/-- The leakage term of the activity model (R518). -/
def State.leakage (s : State) : Nat :=
  Config.fusedLeakage ((upto 232).map (SMap.get (fun _ => (0 : Int)) s.pwr.temps)) ((upto 4).map s.vDie)

/-! ## Pins (R506, R523) -/

/-- Why safety moves a core's pin: 1 cap, 2 peak, 3 thermal, 4 fallback, 5 brake. -/
def State.pinReason (s : State) (n : Nat) : Nat :=
  let p := s.pcore n
  if s.pdyn.brakeHold then 5 else if s.pdyn.peakSkip ≠ 0 then 2 else if p.heatSteps ≠ 0 || p.heatSkip ≠ 0 then 3
  else if s.pdyn.fallback then 4 else 1

/-- Whether safety lowers the setpoint of pinned cores, or of this one by heat (R504, R520). -/
def State.lowersPin (s : State) (n : Nat) : Bool := s.pdyn.meas.pinLow != 0 || (s.pcore n).heatSteps != 0

/-- One core's pin: an episode begins with PIN_OVERRIDDEN and OVR, and ends when the pinned value is back. -/
def checkPin (s : State) (n : Nat) : State :=
  let p := s.pcore n
  let off := p.pin && s.governed n && (s.skipOf n != 0 || (s.lowersPin n && decide (p.want.getD p.fSet < s.pinned n)))
  if off && !p.episode then
    let x : Record :=
      { type := 0x0291, sev := 1, source := decridUnit, object := n
        detail := detail [(17, 1, s.pinReason n), (18, 2, p.fmin), (20, 2, s.effective n)] }
    let s1 := postEvent (s.setPcore n { p with ovr := true, episode := true }) x
    match s.coreOwner n with
    | some l => postCopy s1 x l
    | none => s1
  else if !off && p.episode then s.setPcore n { p with episode := false }
  else s
def checkPins (s : State) : State := s.forAll (upto 192) checkPin

/-- One half's pin: MSH_HALF_CTL.RATE (R505, R506). -/
def checkMeshPin (s : State) (h : Nat) : State :=
  let x := s.half h
  let off := x.state ≠ 2 && x.state ≠ 3 && decide (x.target < x.rate)
  if off && !s.pdyn.meshOvr.contains h then
    postEvent { s with pdyn := { s.pdyn with meshOvr := setIns h s.pdyn.meshOvr } }
      { type := 0x0291, sev := 1, source := decridUnit, object := halfUnit h
        detail := detail [(16, 1, 1), (17, 1, if x.heatLowered ≠ 0 then 3 else if s.pdyn.fallback then 4 else 1), (18, 2, x.rate), (20, 2, x.target)] }
  else if !off then { s with pdyn := { s.pdyn with meshOvr := setDel h s.pdyn.meshOvr } }
  else s

/-! ## The control step (R504, R515, R518) -/

/-- The measures of R504 by number: how many steps each is taken, and how many it has at most. -/
def Measures.taken (m : Measures) (i : Nat) : Nat :=
  nth [0x48 - m.level, m.below, m.caps, m.skip, m.pinLow, m.pinSkip, m.mesh] i 0
def measureEnd (i : Nat) : Nat := nth [0x28, 0x28, 8, 12, 0x28, 12, 12] i 0
/-- Measure `i` taken `k` steps. -/
def Measures.take (m : Measures) (i k : Nat) : Measures :=
  match i with
  | 0 => { m with level := 0x48 - k }
  | 1 => { m with below := k }
  | 2 => { m with caps := k }
  | 3 => { m with skip := k }
  | 4 => { m with pinLow := k }
  | 5 => { m with pinSkip := k }
  | _ => { m with mesh := k }

/-- What the measures put in force: setpoint and SKIP of every core that they move, the capacity of every channel, both mesh clocks. -/
def State.effect (s : State) (m : Measures) : List Nat :=
  ((upto 192).filter (fun n => s.runs n || ((s.pcore n).pin && s.governed n))).flatMap (fun n => [s.setpoint m n, s.skipUnder m n])
  ++ (upto 128).map (fun c => (s.chan c).capFor m.caps)
  ++ [0, 1].map (fun h => ({ s.half h with lowered := m.mesh } : Half).target)

/-- Measure `i` taken further until it changes what is in force, if it can. -/
def State.deeper (s : State) (m : Measures) (i : Nat) : Option Measures :=
  ((upto (measureEnd i - m.taken i)).map (fun j => m.take i (m.taken i + j + 1))).find? (fun x => s.effect x != s.effect m)
/-- Measure `i` undone until that changes what is in force, if it does. -/
def State.shallower (s : State) (m : Measures) (i : Nat) : Option Measures :=
  ((upto (m.taken i)).map (fun j => m.take i (m.taken i - (j + 1)))).find? (fun x => s.effect x != s.effect m)

/-- The next step of the measures of R504 in their order, if any is left; measure 3 where `saves` of it. -/
def State.lower (s : State) (saves : Measures → Bool) (m : Measures) : Option Measures :=
  (upto 7).findSome? (fun i => (s.deeper m i).filter (fun x => i != 2 || saves x))
/-- One step of the measures undone, in the reverse order. -/
def State.undo (s : State) (m : Measures) : Option Measures := (upto 7).reverse.findSome? (s.shallower m)

/-- A measure beyond the first is in force (R525, CAP_LIM). -/
def State.capLimits (s : State) : Bool :=
  let m := s.pdyn.meas
  m != { level := m.level } && s.effect m != s.effect { level := m.level }

/-- The power predicted under the measures (R504). -/
def predicted (k : Nat) (m : Measures) : Nat :=
  Config.predictPower k [m.level, m.below, m.caps, m.skip, m.pinLow, m.pinSkip, m.mesh]

/-- Measures are taken in order while the predicted power exceeds the aim. Measure 3 goes on only while it is predicted to save. -/
def lowerTo (s : State) (k aim : Nat) : Nat → Measures → Measures
  | 0, m => m
  | fuel + 1, m =>
    if predicted k m ≤ aim then m
    else
      match s.lower (fun x => decide (predicted k x < predicted k m)) m with
      | some m' => lowerTo s k aim fuel m'
      | none => m
def measureFuel : Nat := 200

/-- The measures of the next step: lowered to the aim, or one step undone when power allows (R504). -/
def nextMeasures (s : State) (k aim : Nat) (m : Measures) : Measures :=
  if predicted k m ≤ aim then
    match s.undo m with
    | some m' => if predicted k m' ≤ aim then m' else m
    | none => m
  else lowerTo s k aim measureFuel m

/-- What the next step may use so that the average of the last 100 steps stays at L (R515); the window holds what is present. -/
def aimOf (window : List Nat) (l : Nat) : Nat :=
  let w := window.drop (window.length - 99)
  l * (w.length + 1) - w.foldl (· + ·) 0

/-- POWER_FALLBACK (R514, R523). -/
def fallbackEvent (s : State) (state cause : Nat) : State :=
  postEvent s
    { type := 0x0292, sev := 1, source := decridUnit, object := 0
      detail := detail [(16, 1, state), (17, 1, cause), (18, 2, s.pwr.pEst), (20, 2, s.pwr.pMeas.getD 0xFFFF), (22, 2, s.pwr.limit)] }

/-- Whether measurement and estimate differ by at most 15 % of the estimate (R518). -/
def agrees (m e : Nat) : Bool := decide ((max m e - min m e) * 100 ≤ 15 * e)

/-- The gain under which the estimate over the steps of a drift equals the measurement, before it is clamped (R518): past every bound
when no event was counted. -/
def driftGain (meas raw leak : Nat) : Nat :=
  if raw = 0 then (if leak < meas then 2 ^ 64 else 0) else (meas - leak) * 1024 / raw

/-- The drift counter and recalibration (R518). -/
def driftStep (s : State) (r : PowerReading) (est leak : Nat) : State :=
  match r.meas with
  | some m =>
    if agrees m est then { s with pdyn := { s.pdyn with driftRun := 0, driftMeas := 0, driftRaw := 0, driftLeak := 0 } }
    else
      let d := s.pdyn
      let n := d.driftRun + 1
      let (sm, sr, sl) := (d.driftMeas + m, d.driftRaw + rawActivity r, d.driftLeak + leak)
      if n < 20 then { s with pdyn := { d with driftRun := n, driftMeas := sm, driftRaw := sr, driftLeak := sl } }
      else
        let old := s.pwr.gain.getD Config.fusedGain
        let g := driftGain sm sr sl
        let new := min Config.fusedGainMax (max Config.fusedGainMin g)
        postEvent { s with
            pwr := { s.pwr with gain := some new, drifts := satAdd 16 s.pwr.drifts 1 }
            pdyn := { d with driftRun := 0, driftMeas := 0, driftRaw := 0, driftLeak := 0 } }
          { type := 0x0290, sev := 1, source := decridUnit
            detail := detail [(16, 2, est), (18, 2, m), (20, 2, old), (22, 2, new), (24, 1, b2n (decide (new ≠ g)))] }
  | none => { s with pdyn := { s.pdyn with driftRun := 0, driftMeas := 0, driftRaw := 0, driftLeak := 0 } }

/-- L: CAP_W, or 70 % of it during fallback (R504). -/
def State.limitNow (s : State) : Nat := if s.pdyn.fallback then s.pwr.capW * 70 / 100 else s.pwr.capW
def setLimit (s : State) : State := { s with pwr := { s.pwr with limit := s.limitNow } }

/-- Fallback begins and ends (R518). -/
def fallbackStep (s : State) (r : PowerReading) (est : Nat) : State :=
  let d := s.pdyn
  let above := match r.meas with | some m => if 140 * est < m * 100 then d.overRun + 1 else 0 | none => 0
  let miss := if r.meas.isNone || !r.telemetry then d.missRun + 1 else 0
  let ok := r.telemetry && (match r.meas with | some m => agrees m est | none => false)
  let agree := if d.fallback && ok then d.agree + 1 else 0
  let s1 := { s with pdyn := { d with overRun := above, missRun := miss, agree := agree } }
  if !d.fallback && (decide (5 ≤ above) || decide (2 ≤ miss)) then
    let cause := if 5 ≤ above then 1 else 2
    fallbackEvent (setLimit { s1 with pdyn := { s1.pdyn with fallback := true, fbCause := cause, agree := 0 } }) 1 cause
  else if d.fallback && decide (100 ≤ agree) then
    fallbackEvent (setLimit { s1 with pdyn := { s1.pdyn with fallback := false, agree := 0 } }) 0 d.fbCause
  else setLimit s1

/-- Sensors that throttle lower what they watch by one step (R520). Base-die sensors 192 to 207 lie in the west half (log 33). -/
def heatCore (s : State) (n : Nat) : State :=
  s.updPcore n (fun p => if 0x20 < (p.want.getD p.fSet) then { p with heatSteps := p.heatSteps + 1 }
    else if p.skip + p.heatSkip < 12 then { p with heatSkip := p.heatSkip + 1 } else p)
def sensorHalf (i : Nat) : Nat := if i < 208 then 0 else 1
def heatStep (s : State) : State :=
  let s1 := s.forAll (s.pwr.hotSensors.filter (fun i => decide (i < 192))) heatCore
  s1.forAll [0, 1] (fun s h =>
    if s.pwr.hotSensors.any (fun i => decide (192 ≤ i) && decide (i < 224) && sensorHalf i == h) then
      wantRate (s.updHalf h (fun x => if 4 < x.target then { x with heatLowered := x.heatLowered + 1 } else x)) h 2
    else s)

/-- A core takes its setpoint later (R501) and its SKIP at once. -/
def applyCore (m : Measures) (s : State) (n : Nat) : State :=
  if s.governed n then
    let f := s.setpoint m n
    let b := s.baseSet m n
    s.updPcore n (fun p => { p with skip := if p.pin then m.pinSkip else m.skip, base := b, want := if f = p.fSet then none else some f })
  else s

/-- The measures take effect: clocks, capacities, meshes, and the pins they break (R504, R506). -/
def applyMeasures (s : State) (m : Measures) : State :=
  let s1 := { s with pdyn := { s.pdyn with meas := m } }
  let s2 := checkPins (s1.forAll (upto 192) (applyCore m))
  let s3 := s2.forAll (upto 128) (fun s c => recap s c 3)
  s3.forAll [0, 1] (fun s h =>
    let s4 := s.updHalf h (fun x => { x with lowered := m.mesh })
    checkMeshPin (wantRate s4 h 1) h)

/-- Energy of the step for each context and its Locket (R446, R515). -/
def chargeEnergy (s : State) : State :=
  s.forAll ((s.fnc.ctxs.filter (fun e => e.2.state != 0)).map (fun e => e.1)) (fun s n =>
    let (k, s1) := s.takeFree
    let j := Config.contextEnergy k n
    let s2 := s1.updCtx n (fun c => { c with acct := { c.acct with energy := satAdd 64 c.acct.energy j } })
    s2.updSlot (s1.ctx n).locket (fun l => { l with acct := { l.acct with energy := satAdd 64 l.acct.energy j } }))

/-- The power that the controller limits on: the larger of measurement and estimate, the estimate alone in a fallback for missing telemetry
(R518). -/
def State.usedPower (s : State) (meas : Option Nat) (est : Nat) : Nat :=
  match meas with
  | some m => if s.pdyn.fallback && (s.pdyn.fbCause == 2 || decide (2 ≤ s.pdyn.missRun)) then est else max m est
  | none => est

/-- A reading passes a threshold (R573). -/
def crossed (old new thr : Int) : Bool := decide (thr ≤ old) != decide (thr ≤ new)
def crossing (s : State) (sensor : Nat) (old new thr : Int) : State :=
  if crossed old new thr then platformEvent s (.crossing sensor new thr) else s

/-- POWER_CONTROL_STEP (R504, R515, R518). The step does not run while the Decrid processor restarts (R557). -/
def execPowerControlStep (r : PowerReading) (s : State) : Res :=
  .next (if s.mgt.fw.restarting || s.moduleFenced then s
    else
      let leak := s.leakage
      let est := rawActivity r * s.pwr.gain.getD Config.fusedGain / 1024 + leak
      let old := s.pwr
      let s1 := { s with pwr := { s.pwr with pMeas := r.meas, pEst := est }, mgt2 := { s.mgt2 with watts := r.meas } }
      let s2 := fallbackStep (driftStep s1 r est leak) r est
      let s3 := chargeEnergy { s2 with pdyn := { s2.pdyn with window := (s2.pdyn.window ++ [s2.usedPower r.meas est]).drop (s2.pdyn.window.length + 1 - 100) } }
      let cap : Int := s3.pwr.capW
      let s4 := crossing (crossing (crossing s3 0x100 (old.pMeas.getD 0) (r.meas.getD 0) cap) 0x101 old.pEst est cap) 0x102 old.limit s3.pwr.limit cap
      let (k, s5) := s4.takeFree
      applyMeasures (heatStep s5) (nextMeasures s5 k (aimOf s5.pdyn.window s5.pwr.limit) s5.pdyn.meas))

/-- SETPOINT_TRANSITION_COMPLETE (R501). -/
def execSetpointTransitionComplete (n : CoreIx) (s : State) : Res :=
  .next (s.updPcore n (fun p => match p.want with | some f => { p with fSet := f, want := none } | none => p))

/-! ## Peak path and brake (R513, R514) -/

/-- INPUT_POWER_SAMPLE (R513): above PEAK_W on the average of the last 100 µs, SKIP rises to 8 on every core. -/
def execInputPowerSample (watts : Option Nat) (s : State) : Res :=
  .next (match watts with
    | none => s
    | some w =>
      let f := (s.pdyn.fast ++ [w]).drop (s.pdyn.fast.length + 1 - 100)
      let s1 := { s with pdyn := { s.pdyn with fast := f } }
      if s.pwr.peakW * f.length < f.foldl (· + ·) 0 && !s.pdyn.trip then
        let s2 := { s1 with pdyn := { s1.pdyn with peak := true, peakSkip := 8 } }
        checkPins (if s.pdyn.peak then s2 else raise s2 0x188)
      else s1)

/-- PEAK_SKIP_RELEASE (R513): 10 µs have passed with the average below 95 % of PEAK_W. The path ends when it holds SKIP above
the value that R504 sets on no core that runs. -/
def execPeakSkipRelease (s : State) : Res :=
  .next (let f := s.pdyn.fast
    if s.pdyn.peak && decide (f.foldl (· + ·) 0 * 100 < 95 * s.pwr.peakW * f.length) then
      let k := s.pdyn.peakSkip - 1
      if (upto 192).all (fun n => !s.governed n || decide (k ≤ (s.pcore n).skip)) then
        checkPins (raise { s with pdyn := { s.pdyn with peak := false, peakSkip := 0 } } 0x188)
      else { s with pdyn := { s.pdyn with peakSkip := k } }
    else s)

/-- BRAKE_ASSERT (R514, R620): while the module is fenced or powers up, the assertion is posted and takes effect when the cores run; it
changes nothing during a trip, or without power. -/
def execBrakeAssert (s : State) : Res :=
  .next (if s.pdyn.brake then s
    else
      let s1 := { s with pdyn := { s.pdyn with brake := true } }
      if s.pdyn.trip || decide (s.mgt2.power = 0) then s1
      else if s.moduleFenced then fallbackEvent s1 1 3
      else
        let s2 := fallbackEvent { s1 with pdyn := { s1.pdyn with brakeHold := true } } 1 3
        checkPins (if s.pdyn.brakeHold then s2 else raise s2 0x188))

/-- BRAKE_DEASSERT (R514): the hold goes on for 1 ms. -/
def execBrakeDeassert (s : State) : Res := .next { s with pdyn := { s.pdyn with brake := false } }

/-- BRAKE_HOLD_END (R514). -/
def execBrakeHoldEnd (s : State) : Res :=
  .next (if s.pdyn.brakeHold && !s.pdyn.brake && !s.pdyn.trip then
      checkPins (raise (fallbackEvent { s with pdyn := { s.pdyn with brakeHold := false } } 0 3) 0x188)
    else s)

/-! ## Droop and margin (R507 to R510) -/

/-- Samples after a die is powered up in which nothing is learned (R509). -/
def quietSamples : Nat := 100
/-- Whether a core has passed them. -/
def PCore.learns (p : PCore) : Bool := decide (quietSamples ≤ p.samples)

/-- G rises by 5 mV after an alert or a droop trip, and does not fall again for 1 s (R508). -/
def raiseGuard (s : State) (n : Nat) : State :=
  if s.pwr.ageMode || !(s.pcore n).learns then s
  else
    let d := n / 48
    (s.setDie d { s.die d with down := (s.die d).down - 5 }).forAll (dieCores d) (fun s m => s.updPcore m (fun p => { p with block := 10000, trimRun := 0 }))

/-- G falls by 5 mV when every monitor of the die has shown margin for 100 ms (R508); a core that is retired is not sampled. -/
def lowerGuard (s : State) (d : Nat) : State :=
  if ((dieCores d).filter s.governed).all (fun n => decide (1000 ≤ (s.pcore n).trimRun) && (s.pcore n).block == 0) then
    (if (s.die d).down + 5 ≤ Config.fusedGFull d - Config.fusedGMin d then s.setDie d { s.die d with down := (s.die d).down + 5 } else s).forAll
      (dieCores d) (fun s m => s.updPcore m (fun p => { p with trimRun := 0 }))
  else s

/-- DROOP_TRIP (R508, R510): the clock period doubles, the trip counts, and F_SET stays. -/
def execDroopTrip (n : CoreIx) (s : State) : Res :=
  .next (raiseGuard (s.updPcore n (fun p => { p with stretched := true, droops := satAdd 16 p.droops 1 })) n)
/-- DROOP_RECOVERY (R510). -/
def execDroopRecovery (n : CoreIx) (s : State) : Res := .next (s.updPcore n (fun p => { p with stretched := false }))

/-- One sample of a core's monitor (R508, R509). -/
def coreMargin (s : State) (n : Nat) (alert : Bool) (margin : Nat) : State :=
  let p := s.pcore n
  let s1 := s.setPcore n { p with samples := p.samples + 1, block := p.block - 1 }
  if !p.learns then s1
  else if s.pwr.ageMode then
    if alert then s1.updPcore n (fun p => { p with fUp := p.fUp - 1, monRun := 0 })
    else if p.fSet = s.fMax n && Config.fusedRaise < margin then
      if 10000 ≤ p.monRun + 1 then
        s1.updPcore n (fun p => { p with monRun := 0, fUp := if s.fMax n < 0x48 then p.fUp + 1 else p.fUp })
      else s1.updPcore n (fun p => { p with monRun := p.monRun + 1 })
    else s1.updPcore n (fun p => { p with monRun := 0 })
  else if alert then raiseGuard s1 n
  else lowerGuard (s1.updPcore n (fun p => { p with trimRun := if Config.fusedTrim < margin then p.trimRun + 1 else 0 })) (n / 48)

/-- MARGIN_SAMPLE (R508, R509, R568): a core's monitor adapts G or F_MAX; one of the base die is reported to Decrid and acts on nothing. -/
def execMarginSample (n : MonitorIx) (alert : Bool) (margin : Nat) (s : State) : Res :=
  .next (if s.mgt.fw.restarting || decide (s.mgt2.power = 0) then s
    else if 192 ≤ n.val then { s with mgt2 := { s.mgt2 with margins := SMap.set zeroD s.mgt2.margins (n - 192) margin } }
    else if s.governed n then coreMargin s n alert margin
    else s)

/-! ## Heat and supplies (R519 to R521, R568, R616) -/

/-- THERMAL (R523). -/
def thermalEvent (s : State) (sensor reason sev : Nat) (t : Int) : State :=
  postEvent s
    { type := 0x0293, sev := sev, source := decridUnit, object := sensor
      detail := detail [(16, 1, reason), (18, 2, ofSigned 16 t), (20, 1, s.pwr.throttleC)] }

/-- The sensors that throttle after a reading; THERMAL when the first begins and when the last ends (R520, R528). -/
def throttleStep (s : State) (i : Nat) (t : Int) : State :=
  let lim : Int := s.pwr.throttleC * 8
  let old := s.pwr.hotSensors
  let new := if lim ≤ t then setIns i old else if t < lim - 24 then setDel i old else old
  let s1 := { s with pwr := { s.pwr with hotSensors := new } }
  if old.isEmpty && !new.isEmpty then raise (thermalEvent s1 i 1 1 t) 0x188
  else if !old.isEmpty && new.isEmpty then raise (thermalEvent s1 i 2 1 t) 0x188
  else s1

/-- The unit that the log names for a sensor (R13): its core, the half of the base die, or the first channel of the stack (log 33). -/
def sensorUnit (i : Nat) : Nat := if i < 192 then i else if i < 224 then halfUnit (sensorHalf i) else chanUnit (16 * (i - 224))

/-- THERMAL_SAMPLE (R519 to R521, R568): an invalid reading counts as THROTTLE_C. The trip is a hardware path: it acts whatever else the module does. -/
def execThermalSample (sensor : Fin 232) (eighths : Option Int) (s : State) : Res :=
  .next (if s.mgt2.power = 0 then s
    else
      let i := sensor.val
      let lim : Int := s.pwr.throttleC * 8
      let t := eighths.getD lim
      let old := SMap.get (fun _ => (0 : Int)) s.pwr.temps i
      let fails := eighths.isNone
      let s1 := { s with pwr := { s.pwr with temps := SMap.set (fun _ => (0 : Int)) s.pwr.temps i t, sFailed := setPut fails i s.pwr.sFailed } }
      let s2 := if fails && !s.pwr.sFailed.contains i then thermalEvent (logEntry s1 6 1 4 (sensorUnit i) 0 none) i 4 1 t else s1
      let s3 := crossing (crossing s2 (i + 1) old t lim) (i + 1) old t (105 * 8)
      let s4 := if s.moduleFenced || s.pdyn.trip then s3
        else if 224 ≤ i then stackStep s3 (i - 224) t else s3
      let s5 := if s.moduleFenced || s.pdyn.trip then s4 else throttleStep s4 i t
      if decide (105 * 8 ≤ t) && !s.pdyn.trip then tripModule (thermalEvent s5 i 3 5 t) else s5)

/-- THROTTLE_RELEASE_STEP (R520): 10 ms have passed; what sensors no longer throttling had lowered returns by one step. -/
def execThrottleReleaseStep (s : State) : Res :=
  .next (if s.mgt.fw.restarting || s.pdyn.trip then s
    else
      let back := (s.pdyn.cores.filter (fun e => (e.2.heatSteps != 0 || e.2.heatSkip != 0) && !s.pwr.hotSensors.contains e.1)).map (fun e => e.1)
      let s1 := s.forAll back (fun s n =>
        let s' := s.updPcore n (fun p => if 0 < p.heatSkip then { p with heatSkip := p.heatSkip - 1 } else { p with heatSteps := p.heatSteps - 1 })
        checkPin (applyCore s'.pdyn.meas s' n) n)
      s1.forAll [0, 1] (fun s h =>
        if (s.half h).heatLowered ≠ 0 && !s.pwr.hotSensors.any (fun i => decide (192 ≤ i) && decide (i < 224) && sensorHalf i == h) then
          checkMeshPin (wantRate (s.updHalf h (fun x => { x with heatLowered := x.heatLowered - 1 })) h 2) h
        else s))

/-- VOLTAGE_SAMPLE (R568, R616): a supply other than VAON and V3P3_AON out of its range ends operation by a module reset. -/
def execVoltageSample (monitor : Fin 12) (mv : Nat) (inRange : Bool) (s : State) : Res :=
  .next (if s.mgt2.power = 0 then s
    else
      let was := s.mgt2.voltBad.contains monitor.val
      let s1 := { s with mgt2 := { s.mgt2 with
          voltages := SMap.set zeroD s.mgt2.voltages monitor mv, voltBad := setPut (!inRange) monitor s.mgt2.voltBad } }
      let s2 := if was == inRange then platformEvent s1 (.crossing (0x110 + monitor) mv (Config.voltLimit monitor)) else s1
      if !inRange && decide (monitor.val < 10) then startModuleReset s2 6 false else s2)

end Sys2Proof.Machine
end

