-- ==== Sys2Proof/Machine/Containment.lean ====
section
/-! DEFINITION. Watchdogs, resets, escalation and retirement (16), and the log's events (R570). -/

namespace Sys2Proof.Machine

/-! ## Watchdogs (R546, R549) -/

/-- WATCHDOG (R561): SEV 3 when its action is a context or core reset. Actions: 1 context, 2 core, 3 Locket, 4 module, 5 power cycle. -/
def watchdog (s : State) (src object ctx kind action level bound : Nat) : State :=
  postEvent s
    { type := 0x0221, sev := if action ≤ 2 then 3 else 4, ctx := ctx, source := src, object := object
      detail := detail [(16, 1, kind), (17, 1, action), (18, 1, level), (20, 4, bound)] }

/-- Whether a task of a queue's begun work is elsewhere than waiting for a core or a save slot (R546). -/
def Task.ofQueue (t : Task) (q : Nat) : Bool := match t.launcher with | .desc p _ => p == q | _ => false
def State.watchPaused (s : State) (q : Nat) : Bool :=
  let ts := s.tasks.filter (fun t => t.ofQueue q)
  !ts.isEmpty && ts.all (fun t => t.st == .waiting || t.st == .runnable)

/-- PROGRESS_WATCHDOG (R546): QUEUE_MS has passed without progress of the queue's oldest begun descriptor. -/
def execProgressWatchdog (q : SqIx) (s : State) : Res :=
  .next (if s.rst.queueMs = 0 || s.watchPaused q then s
    else
      let x := s.sq q
      match x.descs.find? (fun d => d.begun) with
      | none => s
      | some d =>
        let n := d.recordCtx x
        if n < 4096 then
          startAbort (watchdog s (qpUnit x.qp) q n 1 1 0 s.rst.queueMs) n none 1
        else if x.func ≠ 0 then
          startLocketReset (watchdog s (qpUnit x.qp) q noCtx 1 3 0 s.rst.queueMs) (x.func - 1) 1
        else s)

/-- The reset of core `n` takes the abort of a context over (R549). -/
def takeCore (s : State) (ctx n : Nat) : State :=
  if (s.core n).resetting then
    { s with fnc := { s.fnc with aborts := mapWhere (fun a => a.ctx == ctx) (fun a => { a with takers := setIns n a.takers }) s.fnc.aborts } }
  else s

/-- OVERRUN (R549): a step of a reset exceeds its bound. `level` is the level overrun, in the ladder's order; `target` the context,
core or slot; `late` the cores that have not stopped the context's task. -/
def execOverrun (level : Fin 5) (target : Nat) (late : List (Fin 192)) (boundUs : BitVec 32) (s : State) : Res :=
  let b := boundUs.toNat
  .next (match level.val with
    | 0 =>
      if s.fnc.aborts.any (fun a => a.ctx == target) then
        let l := (s.ctx target).locket
        let u := qpUnit (s.slot l).active.qp
        if late.isEmpty then startLocketReset (watchdog s u u target 2 3 0 b) l 2
        else s.forAll late (fun s n => takeCore (startCoreReset (watchdog s n n target 2 2 0 b) n 2 2 true) target n)
      else s
    | 1 =>
      if target < 192 && (s.core target).resetting then
        match s.coreOwner target with
        | some l =>
          let s1 := startLocketReset (watchdog s target target noCtx 2 3 1 b) l 2
          s1.updCore target (fun c => { c with taken := (s1.slot l).resetting })
        | none => startModuleReset (watchdog s target target noCtx 2 4 1 b) 4 true
      else s
    | 2 =>
      if target < 32 && (s.slot target).resetting then
        let u := qpUnit (s.slot target).active.qp
        startModuleReset (watchdog s u u noCtx 2 4 2 b) 4 true
      else s
    | 3 => if s.rst.running then requestTray (watchdog s decridUnit decridUnit noCtx 2 5 3 b) else s
    | _ => s)

/-- ECC_UNCORRECTABLE (R542, R543): in a core's storage a task fault and a core reset of its own; in a shared structure a module
reset. -/
def execEccUncorrectable (core : Option CoreIx) (s : State) : Res :=
  .next (match core with
    | some n => if (s.core n).parked || s.moduleFenced then s else startCoreReset s n 1 1 true
    | none => startModuleReset s 6 false)

/-! ## The ladder (R550 to R558) -/

/-- A core reset that RST_CTL asks for (R554). -/
def requestCoreReset (s : State) (n : Nat) : State := if (s.core n).parked then s else startCoreReset s n 0 2 false
/-- CORE_RESET (R554, R564): RST_CTL level 1. -/
def execCoreReset (n : CoreIx) (s : State) : Res := .next (if s.pfAnswers then requestCoreReset s n else s)
/-- A running reset of its Locket took the core's reset over (R549). -/
def State.coreTaken (s : State) (n : Nat) : Bool :=
  (s.core n).taken && (match s.coreOwner n with | some l => (s.slot l).resetting | none => false)

/-- CORE_RESET_COMPLETE (R554, R559), with the aborts that the reset took over. One that a Locket reset took over completes with that (R549). -/
def execCoreResetComplete (n : CoreIx) (us : BitVec 32) (s : State) : Res :=
  .next (if s.coreTaken n then s else endTaken (endCoreReset s n us.toNat) n)
/-- LOCKET_RESET (R555, R564): RST_CTL level 2. -/
def execLocketReset (l : SlotIx) (s : State) : Res := .next (if s.pfAnswers then startLocketReset s l 0 else s)
/-- LOCKET_RESET_COMPLETE (R555): core resets that this one took over complete with it (R549). -/
def execLocketResetComplete (l : SlotIx) (us : BitVec 32) (s : State) : Res :=
  .next (if (s.slot l).resetting then
      let s1 := fenceProgress (endLocketReset s l us.toNat)
      s1.forAll ((s1.slot l).active.coreList.filter (fun n => (s1.core n).taken)) (fun s n => endTaken (endCoreReset s n us.toNat) n)
    else s)

/-- MODULE_RESET (R556): RST_CTL level 3 (cause 1), or one of the module's own causes; 0 is the cause of power-up alone. -/
def execModuleReset (cause : Fin 7) (s : State) : Res :=
  .next (if cause.val = 0 || (cause.val == 1 && !s.pfAnswers) || (cause.val == 5 && !s.pdyn.trip) then s
    else startModuleReset s cause (cause.val == 4))
/-- MODULE_RESET_COMPLETE (R556, R598). -/
def execModuleResetComplete (failedCores failedChans : List Nat) (us : BitVec 32) (s : State) : Res :=
  .next (endModuleReset s failedCores failedChans us.toNat)

/-- POWER_CYCLE (R557, R564): RST_CTL level 4. -/
def execPowerCycle (s : State) : Res := .next (if s.pfAnswers then requestTray s else s)
/-- RETIRE_UNIT (R559, R564): RST_CTL level 5. -/
def execRetireUnit (unit : BitVec 16) (s : State) : Res := .next (if s.pfAnswers then retire s unit.toNat 4 else s)

/-- DECRID_WATCHDOG (R557): a first expiry restarts the processor alone; a second within 10 s asks for a power cycle. -/
def execDecridWatchdog (withinTenSeconds : Bool) (s : State) : Res :=
  .next (if s.mgt2.power = 0 then s
    else if withinTenSeconds then requestTray (logEntry s 1 4 0x0100 decridUnit 2 none)
    else
      let s1 := logEntry s 1 3 0x0100 decridUnit 1 none
      { s1 with mgt := { s1.mgt with fw := { s1.mgt.fw with restarting := true, update := 0, agent := none, applied := false } } })

/-! ## The log (R570) -/

/-- LOG_FLUSH (R570). -/
def execLogFlush (s : State) : Res := .next (flushLog s)
/-- CORRECTED_SUMMARY (R543, R570): once an hour, while any count is non-zero. -/
def execCorrectedSummary (count : BitVec 64) (s : State) : Res :=
  .next (if count = 0 then s else logEntry s 5 0 0 decridUnit count.toNat none)

end Sys2Proof.Machine
end

