-- ==== Sys2Proof/Machine/Firmware.lean ====
section
/-! DEFINITION. Firmware images, the ROM's selection, the Type 5 update and its registers (R566, R574 to R578, R597), and the
sensors and events of PLDM Type 2 (R571 to R573). PLDM completion codes are those of the DMTF standards named (log 34). -/

namespace Sys2Proof.Machine

/-! ## Images (R574 to R576) -/

def imageField (l : List (BitVec 8)) (off n : Nat) : Nat := leNat ((l.drop off).take n)
def Image.version (i : Image) : Nat := if i.factory then Config.factoryField 0 else imageField i.bytes 8 8
def Image.svn (i : Image) : Nat := if i.factory then Config.factoryField 1 % 65 else imageField i.bytes 16 8
def Image.keyIndex (i : Image) : Nat := if i.factory then Config.factoryField 2 % 4 else (imageField i.bytes 24 1) % 4
/-- REVOKE as a list of release keys. -/
def Image.revokes (i : Image) : List Nat := bitList (if i.factory then Config.factoryField 3 else imageField i.bytes 25 1) 4
/-- Digest of component `c` as the manifest names it. -/
def Image.digest (i : Image) (c : Nat) : BitVec 512 :=
  if i.factory then Config.romDigest (c + 1) else BitVec.ofNat 512 (imageField i.bytes (64 + 80 * c + 16) 64)
/-- Component `c` matches its digest. -/
def Image.componentOk (i : Image) (c : Nat) : Bool :=
  let at' := 64 + 80 * c
  digestOf ((i.bytes.drop (imageField i.bytes (at' + 4) 4)).take (imageField i.bytes (at' + 8) 4)) == i.digest c

/-- R576. The image of manufacture passed its signature there. -/
def Fw.valid (f : Fw) (i : Image) : Bool :=
  !f.revoked.contains i.keyIndex && decide (f.svnCnt ≤ i.svn) && (i.factory ||
    (digestOf ((i.bytes.drop 32).take 32) == Config.releaseKeyDigest i.keyIndex
      && ed25519Verify (BitVec.ofNat 256 (imageField i.bytes 32 32)) (i.bytes.take 384) (BitVec.ofNat 512 (imageField i.bytes 384 64))
      && [0, 1, 2, 3].all i.componentOk))

def Fw.image (f : Fw) (b : Bool) : Image := if b then f.b else f.a
def Fw.setImage (f : Fw) (b : Bool) (i : Image) : Fw := if b then { f with b := i } else { f with a := i }
def Fw.mark (f : Fw) (b : Bool) (st : ImgState) : Fw := f.setImage b { f.image b with st := st }
/-- Which image has a mark: false A, true B. -/
def Fw.find (f : Fw) (st : ImgState) : Option Bool := if f.a.st = st then some false else if f.b.st = st then some true else none
/-- The image that is not ACTIVE (step 2 of R578). -/
def Fw.spare (f : Fw) : Bool := f.a.st == .active

/-- Boot one image if it is valid, else the other, else recovery (R577). -/
def Fw.boot (f : Fw) (b : Bool) : Fw :=
  if f.valid (f.image b) then { f with booted := b, recovery := false }
  else if f.valid (f.image (!b)) then { f with booted := !b, recovery := false }
  else { f with recovery := true }

/-- Step 6 of R578: the fuses of an image are blown; it becomes ACTIVE and the old one VALID. -/
def Fw.finishCommit (f : Fw) (b : Bool) : Fw :=
  let i := f.image b
  let f1 := { f with svnCnt := max f.svnCnt (min 64 i.svn), revoked := i.revokes.foldl (fun l k => setIns k l) f.revoked }
  let f2 := if (f1.image (!b)).st = .active then f1.mark (!b) .valid else f1
  f2.mark b .active

/-- The ROM's selection (R577). -/
def Fw.select (f : Fw) : Fw :=
  match f.find .committing with
  | some b => (f.finishCommit b).boot b
  | none =>
    match f.find .trial with
    | some b =>
      if f.trialBoots < 2 then { f with trialBoots := f.trialBoots + 1 }.boot b
      else (f.mark b .failed).boot (!b)
    | none => f.boot (match f.find .active with | some b => b | none => f.booted)

/-- A PENDING image becomes TRIAL (step 5 of R578). -/
def Fw.tryPending (f : Fw) : Fw :=
  match f.find .pending with
  | some b => { f.mark b .trial with trialBoots := 0 }
  | none => f

def State.setFw (s : State) (f : Fw) : State := { s with mgt := { s.mgt with fw := f } }
/-- Whether Decrid answers: powered, and its processor not restarting (R557). -/
def State.decridUp (s : State) : Bool := decide (s.mgt2.power ≠ 0) && !s.mgt.fw.restarting
/-- Beyond recovery, where ROM code answers MCTP control and PLDM Type 5 alone (R577). -/
def State.decridRuns (s : State) : Bool := s.decridUp && !s.mgt.fw.recovery
def State.allFree (s : State) : Bool := s.lkt.slots.all (fun e => e.2.state == 0)

/-! ## MGT_FW_CTL (R578, R597) -/

def fwError (s : State) (e : Nat) : State := s.setFw { s.mgt.fw with err := e }

/-- A firmware command is logged, whatever becomes of it (R570). -/
def logFw (s : State) (code svn : Nat) : State := logEntry s 1 0 code decridUnit svn none

/-- Decrid restarts, and a module reset follows (step 5 of R578). -/
def activationReset (s : State) (f : Fw) : State :=
  s.setFw { f with restarting := true, thenReset := true, update := 0, agent := none, applied := false }

/-- ACTIVATE (step 5 of R578). -/
def activate (s0 : State) : State :=
  let s := logFw s0 1 0
  let f := s.mgt.fw
  if !s.allFree then fwError s 1
  else if (f.find .pending).isNone then fwError s 2
  else activationReset s f.tryPending
def execActivate (s : State) : Res := .next (if s.pfAnswers && s.decridRuns then activate s else s)

/-- COMMIT (step 6 of R578): with a fuse that fails the image stays COMMITTING. -/
def commit (s : State) (fuseFail : Bool) : State :=
  let f := s.mgt.fw
  match f.find .trial with
  | none => fwError (logFw s 2 0) 3
  | some b =>
    let f1 := f.mark b .committing
    let s1 := logFw s 2 (f.image b).svn
    if fuseFail then fwError (s1.setFw f1) 4 else s1.setFw (f1.finishCommit b)
def execCommit (fuseFail : Bool) (s : State) : Res := .next (if s.pfAnswers && s.decridRuns then commit s fuseFail else s)

/-- REVERT (R578). -/
def revert (s0 : State) : State :=
  let s := logFw s0 3 0
  let f := s.mgt.fw
  match f.find .trial with
  | none => fwError s 3
  | some b => activationReset s (f.mark b .failed)
def execRevert (s : State) : Res := .next (if s.pfAnswers && s.decridRuns then revert s else s)

/-- The image whose ROM patch the ROM has applied: that which it started (R566); none in recovery. -/
def Fw.patchedBy (f : Fw) : Option Image := if f.recovery then none else some (f.image f.booted)

/-- What a read of the UDS gives (R566): zero from the start of the firmware to the next power cycle. The identity keys have been derived of it by
then and stay in Decrid's SRAM (R579). -/
def State.udsRead (s : State) : List (BitVec 8) := if s.mgt.udsOpen then leBytes 32 Config.uds.toNat else List.replicate 32 0

/-- DECRID_RESTART_COMPLETE (R557, R566, R577): the ROM selects an image; an activation goes on with a module reset. -/
def execDecridRestartComplete (s : State) : Res :=
  .next (if s.mgt.fw.restarting then
      let again := s.mgt.fw.thenReset
      let s0 := s.setFw { s.mgt.fw.select with restarting := false, thenReset := false }
      let s1 := noteChanges s (if s0.mgt.fw.recovery then s0 else { s0 with mgt := { s0.mgt with udsOpen := false } })
      if again then startModuleReset s1 1 false else s1
    else s)

/-! ## The update (R578) -/

def plAlready : Nat := 0x81
def plIncomplete : Nat := 0x85
def plUnexpected : Nat := 0x88
def plUnable : Nat := 0x8A
def plRange : Nat := 0x82

/-- REQUEST_UPDATE (steps 1 and 2 of R578): over MCTP; in recovery over the BMC bindings alone (R577). -/
def execRequestUpdate (t : Transport) (s : State) : Res :=
  let f := s.mgt.fw
  .next (if !s.decridUp || t = .doe || (f.recovery && t = .vdm) then s
    else if (f.find .trial).isSome then reply (logFw s 4 0) plUnable []
    else if f.update ≠ 0 && f.agent ≠ some t then reply (logFw s 4 0) plAlready []
    else reply (logFw (s.setFw { f.setImage f.spare {} with update := 1, agent := some t, applied := false }) 4 0) 0 [])

/-- Bytes of one image region (R567). -/
def imageRegion : Nat := 28 * 2 ^ 20
/-- Write bytes into an erased region, whose unwritten bytes read as 0xFF. -/
def putBytes (l : List (BitVec 8)) (off : Nat) (d : List (BitVec 8)) : List (BitVec 8) :=
  let l1 := l ++ List.replicate (off - l.length) 0xFF
  l1.take off ++ d ++ l1.drop (off + d.length)

/-- REQUEST_FIRMWARE_DATA (steps 2 and 3 of R578): the last one is followed by TransferComplete. -/
def execRequestFirmwareData (off : Nat) (data : List (BitVec 8)) (last : Bool) (s : State) : Res :=
  let f := s.mgt.fw
  .next (if !s.decridUp || f.update ≠ 1 || f.applied then s
    else if imageRegion < off + data.length then reply s plRange []
    else
      let i := f.image f.spare
      s.setFw { f.setImage f.spare { i with bytes := putBytes i.bytes off data } with update := if last then 2 else 1 })

/-- VERIFY_COMPLETE (steps 3 and 4 of R578): a valid image becomes PENDING; a bad one stays EMPTY and the update ends. -/
def execVerifyComplete (s : State) : Res :=
  let f := s.mgt.fw
  .next (if !s.decridUp || f.update ≠ 2 then s
    else if f.valid (f.image f.spare) then reply (s.setFw { f.mark f.spare .pending with update := 1, applied := true }) 0 []
    else reply (s.setFw { f with update := 0, agent := none }) 2 [])

/-- ACTIVATE_FIRMWARE (step 4 of R578): activation needs an activation reset or a power cycle. -/
def execActivateFirmware (s : State) : Res :=
  let f := s.mgt.fw
  .next (if !s.decridUp then s
    else if f.applied then reply (logFw (s.setFw { f with update := 0, agent := none, applied := false }) 5 0) 0 []
    else reply (logFw s 5 0) (if f.update = 0 then 0x80 else plIncomplete) [])

/-- MGT_FW_STATUS (R597). -/
def Fw.statusWord (f : Fw) : Nat :=
  let i := f.image f.booted
  let o := f.image (!f.booted)
  b2n f.booted + b2n (i.st == .trial) <<< 1 + b2n (o.st == .pending) <<< 2 + b2n (o.st == .valid) <<< 3 + f.update <<< 4
    + f.trialBoots <<< 8 + (i.svn % 2 ^ 8) <<< 16 + f.err <<< 56

/-! ## MCTP and the sensors (R571 to R573) -/

/-- The MCTP message types that Decrid carries: control, PLDM, SPDM, secured messages (R571). -/
def mctpTypes : List Nat := [0x00, 0x01, 0x05, 0x06]

/-- What Decrid does with a message of a type over a binding: 0 it does not answer, 1 it takes it up, 2 it answers that the type is unsupported. In
recovery the ROM takes up control and PLDM on the BMC's bindings alone (R571, R577). -/
def State.mctpTakes (s : State) (t : Transport) (type : Nat) : Nat :=
  if !s.decridUp || t = .doe || (s.mgt.fw.recovery && t = .vdm) then 0
  else if mctpTypes.contains type && (!s.mgt.fw.recovery || decide (type ≤ 1)) then 1
  else 2

/-- The number of a transport in tables. -/
def transportNo : Transport → Nat
  | .i3c => 0
  | .smbus => 1
  | .vdm => 2
  | .doe => 3
/-- The SMBus address, of which the straps SMB_ADDR1 and SMB_ADDR0 give the two lowest bits (R618). -/
def smbAddress : Nat := 0x60 + 2 * b2n Config.smbAddr1 + b2n Config.smbAddr0

/-- SET_ENDPOINT_ID (R571): each MCTP binding takes one EID. -/
def execSetEndpointId (t : Transport) (eid : BitVec 8) (s : State) : Res :=
  .next (if !s.decridUp || t = .doe || (s.mgt.fw.recovery && t = .vdm) then s
    else reply { s with mgt := { s.mgt with eids := SMap.set zeroD s.mgt.eids (transportNo t) eid.toNat } } 0 [eid])

/-- SET_EVENT_RECEIVER (R573). What waited for a receiver on SMBus is sent (R618). -/
def execSetEventReceiver (t : Transport) (eid : BitVec 8) (s : State) : Res :=
  .next (if !s.decridRuns || t = .doe then s
    else reply { s with mgt2 := { s.mgt2 with receiver := some (t, eid.toNat), smbAlert := false } } 0 [])

/-- A sensor's reading (R572), if the repository holds the sensor. -/
def State.sensor (s : State) (n : Nat) : Option Int :=
  if 1 ≤ n ∧ n ≤ 0xE8 then some (SMap.get (fun _ => (0 : Int)) s.pwr.temps (n - 1))
  else if n = 0x100 then some ((s.mgt2.watts.getD 0xFFFF : Nat) : Int)
  else if n = 0x101 then some s.pwr.pEst
  else if n = 0x102 then some s.pwr.limit
  else if 0x110 ≤ n ∧ n ≤ 0x11B then some ((SMap.get zeroD s.mgt2.voltages (n - 0x110) : Nat) : Int)
  else if stateSensors.contains n then some ((s.stateSensor n : Nat) : Int)
  else none

/-- GET_SENSOR_READING (R572): in the sensor's unit, temperatures in 1/8 °C. In recovery the ROM's code answers for the module state
alone (R577). -/
def execGetSensorReading (sensor : BitVec 16) (s : State) : Res :=
  .next (if !(s.decridRuns || (s.decridUp && sensor == 0x220)) then s
    else match s.sensor sensor.toNat with
      | some v => reply s 0 (leBytes 4 (ofSigned 32 v))
      | none => reply s 0x80 [])

end Sys2Proof.Machine
end

