-- ==== Sys2Proof/Machine/Bringup.lean ====
section
/-! DEFINITION. Power-up, the input and its pins (18, 19), the PCIe link, its functions and requests to them (R302 to R313, R351), and
the self-tests (R603 to R605, R608). -/

namespace Sys2Proof.Machine

/-! ## Power-up (R598 to R600, R615) -/

/-- POWER_UP (R566, R577, R598, R599, R603): steps 1 to 4. A failure of step 3 (0) or step 4 (1) stops power-up there; a loop-back of Decrid's own
buses that fails in step 2 is shown and logged, and power-up goes on. In recovery it goes no further. -/
def execPowerUp (tests : PowerUpTests) (s : State) : Res :=
  .next (if s.mgt2.power ≠ 0 then s
    else
      let s1 := { s with mgt := { s.mgt with boots := s.mgt.boots + 1, fw := s.mgt.fw.tryPending.select } }
      if s1.mgt.fw.recovery then { s1 with mgt2 := { s1.mgt2 with power := 2 } }
      else
        let s2 := { s1 with mgt := { s1.mgt with udsOpen := false }, test := { s1.test with dbusFail := tests.busFail } }
        let s3 := if tests.busFail then logEntry s2 6 0 2 decridUnit 0 none else s2
        match tests.failedStep with
        | some k =>
          let s4 := logEntry { s3 with mgt2 := { s3.mgt2 with power := 3 } } 6 4 (k.val + 3) decridUnit 0 none
          { s4 with test := { s4.test with pcieFail := k.val == 1 } }
        | none => { s3 with mgt2 := { s3.mgt2 with power := 2 } })

/-- POWER_UP_COMPLETE (steps 5 to 8 of R598, R600): once every sensor reads below 95 °C and PERST_N is deasserted. A brake that is
asserted holds the cores at SKIP 12 from the first (R620). Every register takes its reset value; RST_SELFTEST shows what the tests have found, and
the link stays as step 4 has trained it. -/
def execPowerUpComplete (failedCores failedChans : List Nat) (s : State) : Res :=
  .next (if s.mgt2.power = 2 && !s.mgt.fw.recovery && !s.mgt.fw.restarting && s.cool && !s.mgt2.perst then
      let b := s.blank
      noteChanges s (comeUp { b with
          mgt2 := { s.mgt2 with power := 1, thermTrip := false }, test := s.test
          que := { b.que with link := s.que.link, degraded := s.que.degraded, held := s.que.held } } 0 0 0 failedCores failedChans)
    else s)

/-- INPUT_OUT_OF_RANGE (R615): every supply goes off. -/
def execInputOutOfRange (s : State) : Res := .next (if s.mgt2.power = 0 then s else powerOff s)

/-! ## PERST_N and the link (R303, R351, R603, R619) -/

/-- No link. -/
def linkNone : LinkState := { rate := 0, width := 0, flit := false, sris := false }

/-- The link settles, or goes down (R303, R344, R528, R572). -/
def setLink (s : State) (l : LinkState) : State :=
  if l = s.que.link then s
  else noteChanges s (raise { s with que := { s.que with link := l } } 0x160)

/-- PERST_ASSERT (R619): the link goes down and a module reset starts, cause 3. -/
def execPerstAssert (s : State) : Res :=
  .next (let s1 := { s with mgt2 := { s.mgt2 with perst := true } }
    if s.mgt2.trayReq || s.mgt2.perst then s1 else startModuleReset (setLink s1 linkNone) 3 false)

/-- PERST_DEASSERT (R598, R619): link training begins. -/
def execPerstDeassert (s : State) : Res := .next { s with mgt2 := { s.mgt2 with perst := false } }

/-- Speed of a RATE code in GT/s, rounded down (R344, R351). -/
def rateGts (r : Nat) : Nat := match r with | 1 => 2 | 2 => 5 | 3 => 8 | 4 => 16 | 5 => 32 | 6 => 64 | _ => 0

/-- PCIE_LINK_TRAINED (R303, R351, R617): PCX_LINK_CFG decides the clocking unless it is automatic. -/
def execPcieLinkTrained (l : LinkState) (s : State) : Res :=
  .next (if s.mgt2.perst || s.mgt2.trayReq || decide (s.mgt2.power = 0) || decide (s.mgt2.power = 3) then s
    else
      let sris := if s.que.sris = 1 then false else if s.que.sris = 2 then true else l.sris
      let low := decide (l.rate.val < 6) || decide (l.width.val < 16)
      let s1 := setLink s { l with sris := sris }
      let s2 := { s1 with que := { s1.que with degraded := low && decide (l.rate.val ≠ 0), loopback := false } }
      jobPumpAll (if l.rate.val ≠ 0 && (low || s.que.loopback) then
          postEvent s2 { type := 0x0206, sev := 1, source := pcieUnit, object := pcieUnit
                         detail := detail [(16, 4, rateGts l.rate), (20, 4, l.width.val)] }
        else s2))

/-- PCIE_LOOPBACK (R603): depth 3 takes the link down. -/
def execPcieLoopback (s : State) : Res :=
  .next (let s1 := setLink s linkNone
    { s1 with que := { s1.que with loopback := true, degraded := false } })

/-! ## Functions (R307, R313) -/

/-- A function's vectors are masked again. -/
def maskAll (s : State) (f : Nat) : State :=
  { s with que := { s.que with
      unmasked := s.que.unmasked.filter (fun e => e.1 != f), msixPend := s.que.msixPend.filter (fun e => e.1 != f) } }

/-- VF_FLR (R313): a Locket reset; the VF's queues and rings are disabled, at once when no Locket reset runs for them. -/
def execVfFlr (v : SlotIx) (s : State) : Res :=
  .next (if s.pfAnswers && s.fnExists (v + 1) then
      let s1 := startLocketReset (raise (maskAll s (v + 1)) 0x161) v 0
      if (s1.slot v).state = 0 then clearLocketQueues s1 v else s1
    else s)

/-- PF_FLR (R313): the module reset. -/
def execPfFlr (s : State) : Res := .next (if s.pfAnswers then startModuleReset (raise s 0x161) 2 false else s)

/-- VF_ENABLE (R307): NumVFs is taken with a rising VF Enable. -/
def execVfEnable (enable : Bool) (numVfs : Fin 33) (s : State) : Res :=
  .next (if s.pfAnswers then
      { s with que := { s.que with vfEnable := enable, numVfs := if s.que.vfEnable && enable then s.que.numVfs else numVfs } }
    else s)

/-- The answer of a configuration or BAR4 request: 0 successful, 1 Unsupported Request, 2 Request Retry Status, 3 poisoned data. -/
def answerPcie (s : State) (status : Nat) (bytes : List (BitVec 8)) : State :=
  { s with que := { s.que with ansStatus := status, ansBytes := bytes } }

/-- The PCIe capabilities of the module, and no others (R304): neither MSI nor INTx, ATS, PRI or PASID is among them. -/
inductive Capability where
  | sriov | ari | msix | aer | tenBitTags | doe | ide | tdisp
deriving DecidableEq, Repr
def capabilities : List Capability := [.sriov, .ari, .msix, .aer, .tenBitTags, .doe, .ide, .tdisp]

/-- TotalVFs of the PF's SR-IOV capability (R307). -/
def totalVfs : Nat := 32

/-- A word of configuration space. Its layout is not stated, so a word is free but for a function's MSI-X Table Size, one less than COUNT in bits
26 to 16 of the word of its Message Control (R345), for TotalVFs in the upper half of its word and for VF Enable and VF Memory Space Enable in
bits 0 and 3 of the SR-IOV control, as the PCIe specification places them (R304, R307; PRESUMED, log 35). -/
def State.configRead (s : State) (fn reg k : Nat) : Nat :=
  let w := (Config.configWord k).toNat
  if Config.isMsixControl reg && s.msixCountOf fn != 0 then w % 2 ^ 16 + ((s.msixCountOf fn - 1) % 2 ^ 11) <<< 16 + bits w 27 5 <<< 27
  else if fn ≠ 0 then w
  else if Config.isTotalVfs reg then w % 2 ^ 16 + totalVfs <<< 16
  else if Config.isSriovControl reg then w / 16 * 16 + b2n s.que.vfEnable + 2 * bits w 1 2 + 8 * b2n s.que.vfMse
  else w

/-- A write to a register of the PF's configuration space: a change to the VFs' BARs puts locked TDIs into ERROR (R589); the SR-IOV control
takes VF Memory Space Enable (R307); a write of ones to the AER status clears what AER has logged (R322; log 35). VF Enable and NumVFs
have a command of their own. -/
def configWrite (s : State) (reg value : Nat) : State :=
  if Config.isVfBar reg then
    { s with que := { s.que with vfBars := SMap.set zeroD s.que.vfBars (Config.vfBarWord reg % 4) value } }.forAll (upto 32) tdiError
  else if Config.isSriovControl reg then { s with que := { s.que with vfMse := bit value 3 } }
  else if Config.isAerStatus reg && value != 0 then { s with que := { s.que with aer := [] } }
  else s

/-- CONFIG_REQUEST (R556, R598, R599, R607, R619, R621): Request Retry Status until the module is ready. -/
def execConfigRequest (fn : FnIx) (wr : Bool) (reg : Fin 1024) (value : BitVec 32) (s : State) : Res :=
  .next (if s.retryStatus then answerPcie s 2 []
    else if !s.fnExists fn then answerPcie s 1 []
    else if wr then answerPcie (if fn.val = 0 then configWrite s reg value.toNat else s) 0 []
    else
      let r := s.takeFree
      answerPcie r.2 0 (leBytes 4 (s.configRead fn reg r.1)))

/-! ## BAR4 (R294, R312, R351) -/

/-- The requests of an access: pieces of at most 256 bytes, each within a 256-byte block (R36). -/
def pieces (off len : Nat) : Nat → List (Nat × Nat)
  | 0 => []
  | k + 1 => if len = 0 then [] else let n := min len (256 - off % 256); (off, n) :: pieces (off + n) (len - n) k

/-- Whether the module refuses an access at a local offset (R351). -/
def State.bar4Refused (s : State) (a : Nat) : Bool :=
  match localPlace a with
  | .dram _ => s.dpaClosed (2 ^ 42 * s.trb.idModule + a)
  | .window _ _ => s.dpaClosed (2 ^ 42 * s.trb.idModule + a)
  | _ => true

/-- The request of one piece, which begins `pos` bytes into the access (R36, R312); the host's requests are of the module class. -/
def sendPiece (bid : Nat) (wr : Bool) (start : Nat) (data : List (BitVec 8)) (s : State) (p : Nat × Nat) : State :=
  let pos := p.1 - start
  let w : Sender := { src := .bar4 bid pos, source := pcieStop }
  match sendLocal s w (if wr then .write false else .read) (s.ownDpa p.1) p.2 ((data.drop pos).take p.2) with
  | (s1, none) => s1
  | (s1, some st) => bar4Answer s1 bid pos st []

/-- A host access through BAR4 from local offset `start` goes to its homes, in requests that are performed like any other's (R312). -/
def sendBar4 (s : State) (tag : Nat) (wr : Bool) (start n : Nat) (data : List (BitVec 8)) : State :=
  let ps := pieces start n 32
  let (bid, s1) := s.fresh
  let op : Bar4Op := { bid := bid, tag := tag, wr := wr, left := ps.length, got := if wr then [] else List.replicate n 0 }
  let s2 := noteGrant { s1 with que := { s1.que with bar4 := s1.que.bar4 ++ [op] } } noLocket 0 64 0x0280 (b2n wr) n
  ps.foldl (fun s p => sendPiece bid wr start data s p) s2

/-- BAR4_ACCESS (R312, R351): refused reads are Unsupported Requests, refused writes are discarded. -/
def execBar4Access (off : BitVec 34) (wr : Bool) (len : Nat) (data : List (BitVec 8)) (tag : BitVec 10) (s : State) : Res :=
  let n := min 4096 (if wr then data.length else len)
  let start := s.que.bar4Base + off.toNat
  .next (if !s.pfAnswers || !s.linkFetches || (pieces start n 32).any (fun p => s.bar4Refused p.1) then
      (if wr then s else answerPcie { s with que := { s.que with ansTag := tag.toNat } } 1 [])
    else sendBar4 s tag.toNat wr start n data)

/-! ## Self-tests (R604, R605, R608) -/

/-- RST_SELFTEST.GO (R604). -/
def selftestGo (s : State) : State :=
  if !s.allFree || s.fnc.ctxs.any (fun e => e.2.state == 1) then { s with test := { s.test with err := true } }
  else if s.test.busy then s
  else { s with test := { s.test with busy := true } }
def execSelftestGo (s : State) : Res := .next (if s.pfAnswers then selftestGo s else s)

/-- SELFTEST_COMPLETE (R604): a failure sets its bit and is logged with KIND 6. `unit` is a unit of R13. -/
def execSelftestComplete (meshFail dbusFail : Bool) (unit : BitVec 16) (s : State) : Res :=
  .next (if s.test.busy && unitNamed unit.toNat then
      let bad := meshFail || dbusFail
      let s1 := { s with test := { s.test with
        busy := false, meshFail := meshFail, dbusFail := dbusFail, failUnit := if bad then unit.toNat else s.test.failUnit } }
      if bad then logEntry s1 6 0 (b2n meshFail + 2 * b2n dbusFail) unit.toNat 0 none else s1
    else s)

/-- MEM_BIST_CTL.GO (R605): the march leaves the channels' content undefined until they are scrubbed. -/
def memBistGo (s : State) : State :=
  let cs := bitList s.mem.bistSel.toNat 128
  let ok (c : Nat) : Bool := (s.chan c).state == 0 && !(s.chan c).retired && !(s.inPool && s.pool.chans.contains c)
  if !cs.all ok then { s with mem := { s.mem with bistErr := true } }
  else
    let s1 := s.forAll cs (fun s c => s.updChan c (fun h => { h.undefine with state := 2, bist := true, clean := false }))
    { s1 with mem := { s1.mem with bistLeft := s1.mem.bistLeft + cs.length } }
def execMemBistGo (s : State) : Res := .next (if s.pfAnswers then memBistGo s else s)

/-- MEM_BIST_CHANNEL_DONE (R559, R605): a channel that passed is scrubbed and CLEAN; one that failed is retired. -/
def execMemBistChannelDone (c : ChIx) (passed : Bool) (us : BitVec 32) (s : State) : Res :=
  .next (if (s.chan c).bist then
      let s1 := { s with mem := { s.mem with bistLeft := s.mem.bistLeft - 1 } }
      let s2 := s1.updChan c (fun h => { h with bist := false, initiator := if passed then some 3 else none })
      if passed then endScrub s2 c us.toNat
      else retire { s2 with mem := { s2.mem with bistFail := s2.mem.bistFail ||| BitVec.ofNat 128 (1 <<< c.val) } } (chanUnit c) 3
    else s)

/-- MEM_BIST_FAIL_LO and _HI: reading clears (R608). -/
def readBistFail (s : State) (high : Bool) : State × Nat :=
  let v := s.mem.bistFail.toNat
  let lo := v % 2 ^ 64
  let hi := v / 2 ^ 64
  ({ s with mem := { s.mem with bistFail := BitVec.ofNat 128 (if high then lo else hi <<< 64) } }, if high then hi else lo)
def execMemBistFailRead (high : Bool) (s : State) : Res := .next (if s.pfAnswers then (let r := readBistFail s high; answerRead r.1 r.2) else s)

end Sys2Proof.Machine
end

