-- ==== Sys2Proof/Machine/Decrid.lean ====
section
/-! DEFINITION. Decrid's identity, SPDM, measurements, vendor commands, keys and the debug lock (R569, R579 to R585, R590 to R595). The
messages themselves are those of the standards named: an answer here is a result code and the content the manual states (log 34). -/

namespace Sys2Proof.Machine

/-! ## Log entries and records as bytes (R340, R569) -/

/-- A record outside any ring: PHASE and SEQ are zero. -/
def Record.bytes (r : Record) : List (BitVec 8) :=
  leBytes 2 r.type ++ leBytes 1 r.sev ++ leBytes 1 r.locket ++ leBytes 4 0 ++ leBytes 2 r.ctx ++ leBytes 2 r.source
  ++ leBytes 4 r.object ++ leBytes 16 r.detail.toNat
def LogEnt.bytes (e : LogEnt) : List (BitVec 8) :=
  leBytes 8 e.lseq ++ leBytes 4 e.boot ++ leBytes 4 e.aon ++ leBytes 1 e.kind ++ leBytes 15 0
  ++ (match e.event with
    | some r => r.bytes
    | none => leBytes 2 e.code ++ leBytes 2 e.unit ++ leBytes 8 e.value ++ leBytes 20 0)

/-- MGT_LOG_DATA (R597): the selected entry of the flash log, zero when it is not there. -/
def State.logData (s : State) : List (BitVec 8) :=
  match s.mgt.flash.find? (fun e => e.lseq == s.mgt.logSel.toNat) with
  | some e => e.bytes
  | none => leBytes 64 0

/-! ## SPDM (R580) -/

def spdmInvalid : Nat := 0x01
def spdmNoSession : Nat := 0x02
def spdmUnexpected : Nat := 0x04
def spdmSessionLimit : Nat := 0x0A

/-- How far a transport's negotiation has come. -/
def State.spdmAt (s : State) (t : Transport) : Nat := SMap.get zeroD s.mgt.spdm (transportNo t)
def setSpdm (s : State) (t : Transport) (k : Nat) : State :=
  { s with mgt := { s.mgt with spdm := SMap.set zeroD s.mgt.spdm (transportNo t) k } }
/-- SPDM is answered once the transport has come as far as `k`; over the PF's DOE mailbox while the PF answers (R556, R580). -/
def withSpdm (s : State) (t : Transport) (k : Nat) (f : State) : State :=
  if !s.decridRuns || (t == .doe && !s.pfAnswers) then s else if s.spdmAt t < k then reply s spdmUnexpected [] else f

/-- The identity in use (R579): 0 production, 1 debug. -/
def State.identity (s : State) : Nat := b2n s.mgt.debugId

/-- GET_VERSION: SPDM 1.2. -/
def execGetVersion (t : Transport) (s : State) : Res := .next (withSpdm s t 0 (reply (setSpdm s t 1) 0 [0x12]))
/-- The capability flags of R580 at the places DSP0274 gives them. -/
def spdmCaps : Nat := 0x6 + 0x10 + 0x40 + 0x80 + 0x100 + 0x200 + 0x2000 + 0x4000
/-- GET_CAPABILITIES. -/
def execGetCapabilities (t : Transport) (s : State) : Res :=
  .next (withSpdm s t 1 (reply (setSpdm s t (max 2 (s.spdmAt t))) 0 (leBytes 4 spdmCaps)))
/-- What is selected (R580), at the places of DSP0274 (log 34): DMTF measurements with SHA-512; Ed25519, SHA-512, secp384r1, AES-256-GCM; Ed25519 for the
requester. -/
def spdmAlgorithms : List (BitVec 8) :=
  leBytes 1 1 ++ leBytes 4 0x8 ++ leBytes 4 0x400 ++ leBytes 4 0x4 ++ leBytes 2 0x10 ++ leBytes 2 0x2 ++ leBytes 2 0x400

/-- The protocols of the PF's DOE mailbox (R580), by the vendor and the type that PCI Express gives them (log 34): discovery, CMA/SPDM, secured
CMA/SPDM. -/
def doeProtocols : List (Nat × Nat) := [(1, 0), (1, 1), (1, 2)]

/-- DOE discovery: the protocol of an index, and the next index, 0 after the last. -/
def doeDiscovery (i : Nat) : List (BitVec 8) :=
  match doeProtocols[i]? with
  | some (v, p) => leBytes 2 v ++ leBytes 1 p ++ leBytes 1 (if i + 1 < doeProtocols.length then i + 1 else 0)
  | none => leBytes 4 0xFFFF

/-- NEGOTIATE_ALGORITHMS: `ok` when the requester offers Ed25519, SHA-512, secp384r1 and AES-256-GCM. -/
def execNegotiateAlgorithms (t : Transport) (ok : Bool) (s : State) : Res :=
  .next (withSpdm s t 2 (if ok then reply (setSpdm s t 3) 0 spdmAlgorithms else reply s spdmInvalid []))
/-- GET_DIGESTS: of the chains of slots 0 and 1 (R579). -/
def execGetDigests (t : Transport) (s : State) : Res :=
  .next (withSpdm s t 3 (reply s 0 ([0, 1].flatMap (fun k => leBytes 64 (digestOf (Config.certificate k)).toNat))))
/-- GET_CERTIFICATE (R579). -/
def execGetCertificate (t : Transport) (slot : Fin 8) (off len : Nat) (s : State) : Res :=
  .next (withSpdm s t 3 (if slot.val ≤ 1 then reply s 0 (((Config.certificate slot).drop off).take len) else reply s spdmInvalid []))
/-- CHALLENGE: signed by the identity in use. -/
def execChallenge (t : Transport) (slot : Fin 8) (nonce : BitVec 256) (s : State) : Res :=
  .next (withSpdm s t 3 (if slot.val ≤ 1 then
      reply s 0 (leBytes 64 (identitySign s.identity (leBytes 64 (digestOf (Config.certificate slot)).toNat ++ leBytes 32 nonce.toNat)).toNat)
    else reply s spdmInvalid []))

/-! ## Measurements (R581, R582) -/

/-- MGT_DBG_STATUS (R597). How much of the token's lifetime is left is a free value within it (log 36). -/
def State.dbgStatus (s : State) : Nat :=
  s.mgt.dbgState + s.mgt.dbgScope <<< 4 + s.mgt.dbgKey <<< 8 + min s.mgt.dbgLeft (Config.secondsLeft s.freeCtr) <<< 32

/-- One entry of block 9 (R582). -/
def State.partition (s : State) (l : Nat) : List (BitVec 8) :=
  let x := s.slot l
  if x.state = 0 then leBytes 64 0
  else
    let owned := ofBitList (s.settingIds.filter (fun i => (s.setting i).active.valid && (s.setting i).active.locket == l))
    leBytes 1 x.state ++ leBytes 1 (s.tdi l) ++ leBytes 2 x.active.tag ++ leBytes 2 x.active.home ++ leBytes 2 x.keygen
      ++ leBytes 24 x.active.cores.toNat ++ leBytes 16 x.active.chans.toNat ++ leBytes 8 owned ++ leBytes 8 0

def State.retiredChans (s : State) : Nat := ofBitList ((upto 128).filter (fun c => (s.chan c).retired))
def State.cleanChans (s : State) : Nat := ofBitList ((upto 128).filter (fun c => (s.chan c).clean))

/-- The block of an index, 1 to 11 (R581). -/
def State.measurement (s : State) (i : Nat) : List (BitVec 8) :=
  let f := s.mgt.fw
  let img := f.image f.booted
  if i = 1 then leBytes 64 (Config.romDigest 0).toNat
  else if 2 ≤ i ∧ i ≤ 5 then leBytes 64 (img.digest (i - 2)).toNat
  else if i = 6 then leBytes 8 img.version ++ leBytes 8 img.svn ++ leBytes 8 f.svnCnt
  else if i = 7 then
    leBytes 1 0x21 ++ leBytes 1 f.svnCnt ++ leBytes 1 (ofBitList f.revoked)
      ++ leBytes 1 (ofBitList ((upto 4).filter Config.debugKeyRevoked)) ++ leBytes 1 1 ++ leBytes 3 0
  else if i = 8 then leBytes 8 s.dbgStatus
  else if i = 9 then (upto 32).flatMap s.partition
  else if i = 10 then
    leBytes 8 s.pool.state ++ leBytes 8 s.trb.idModule ++ leBytes 8 s.trb.parure ++ leBytes 24 (ofBitList s.rst.retiredCores)
      ++ leBytes 16 s.retiredChans ++ leBytes 16 s.cleanChans
  else if i = 11 then leBytes 16 Config.fusedSerial.toNat ++ leBytes 32 (identityPublic s.identity).toNat
  else []

/-- The value type of a block, and whether its value is a digest (R581). -/
def measurementType (i : Nat) : Nat × Bool :=
  nth [(0, true), (0, true), (1, true), (1, true), (1, true), (1, true), (7, false), (2, false), (5, false), (3, false), (3, false), (2, false)] i (0, true)

/-- A block in the DMTF measurement format (R581, DSP0274; log 34): its index, the format's number and size, then the value's type, with bit 7 for a
raw value, and its length before it. -/
def State.measurementBlock (s : State) (i : Nat) : List (BitVec 8) :=
  let v := s.measurement i
  let k := measurementType i
  leBytes 1 i ++ leBytes 1 1 ++ leBytes 2 (v.length + 3) ++ leBytes 1 (k.1 + if k.2 then 0 else 0x80) ++ leBytes 2 v.length ++ v

/-- GET_MEASUREMENTS: index 0 asks for the count, 0xFF for all; the answer is one snapshot, signed. -/
def execGetMeasurements (t : Transport) (index : BitVec 8) (nonce : BitVec 256) (s : State) : Res :=
  let i := index.toNat
  let body := if i = 0 then leBytes 1 11 else if i = 0xFF then (upto 11).flatMap (fun k => s.measurementBlock (k + 1)) else s.measurementBlock i
  .next (withSpdm s t 3 (if i ≤ 11 ∨ i = 0xFF then
      reply s.takeFree.2 0 (body ++ leBytes 64 (identitySign s.identity (body ++ leBytes 32 nonce.toNat)).toNat)
    else reply s spdmInvalid []))

/-! ## Sessions -/

def State.session? (s : State) (sid : Nat) : Option Session := s.mgt.sessions.find? (fun x => x.sid == sid && x.finished)
def setSessions (s : State) (l : List Session) : State := { s with mgt := { s.mgt with sessions := l } }

/-- KEY_EXCHANGE: at most 8 sessions. -/
def execKeyExchange (t : Transport) (_reqId : BitVec 16) (s : State) : Res :=
  .next (withSpdm s t 3 (if 8 ≤ s.mgt.sessions.length then reply s spdmSessionLimit []
    else
      let n := s.mgt.nextSid
      let s1 := setSessions s (s.mgt.sessions ++ [{ sid := n, transport := t }])
      reply { s1 with mgt := { s1.mgt with nextSid := n + 1 } } 0 (leBytes 4 n)))

/-- FINISH: `ok` when its authentication verifies; `mutualKey` the requester's key when it was authenticated. -/
def execFinish (sid : Nat) (mutualKey : Option (BitVec 256)) (ok : Bool) (s : State) : Res :=
  .next (if !s.decridRuns || (!s.pfAnswers && s.mgt.sessions.any (fun x => x.sid == sid && x.transport == .doe)) then s
    else if s.mgt.sessions.any (fun x => x.sid == sid && !x.finished) then
      if ok then reply (setSessions s (mapWhere (fun x => x.sid == sid) (fun x => { x with finished := true, key := mutualKey }) s.mgt.sessions)) 0 []
      else reply (setSessions s (s.mgt.sessions.filter (fun x => x.sid != sid))) spdmInvalid []
    else reply s spdmNoSession [])

/-- Act inside a finished session. -/
def inSession (s : State) (sid : Nat) (f : Session → State) : State :=
  if !s.decridRuns then s
  else match s.session? sid with
    | some x => if x.transport == .doe && !s.pfAnswers then s else f x
    | none => reply s spdmNoSession []

/-- HEARTBEAT. -/
def execHeartbeat (sid : Nat) (s : State) : Res := .next (inSession s sid (fun _ => reply s 0 []))
/-- KEY_UPDATE. -/
def execKeyUpdate (sid : Nat) (s : State) : Res :=
  .next (inSession s sid (fun _ =>
    reply (setSessions s (mapWhere (fun x => x.sid == sid) (fun x => { x with keyPhase := x.keyPhase + 1 }) s.mgt.sessions)) 0 []))
/-- END_SESSION. -/
def execEndSession (sid : Nat) (s : State) : Res :=
  .next (inSession s sid (fun _ => reply (setSessions s (s.mgt.sessions.filter (fun x => x.sid != sid))) 0 []))

/-! ## Vendor commands (R583 to R585) -/

def rcNotAuthorised : Nat := 1
def rcBadArg : Nat := 2
def rcBusy : Nat := 3
def rcBadToken : Nat := 4
def rcExpired : Nat := 5

def Session.byBmc (x : Session) : Bool := x.transport == .i3c || x.transport == .smbus
/-- An owner session (R583). -/
def State.ownerSession (s : State) (x : Session) : Bool :=
  match x.key, s.mgt.owner with
  | some k, some root => digestOf (leBytes 32 k.toNat) == root
  | _, _ => false

/-- OWNER_SET (R583). -/
def execOwnerSet (sid : Nat) (root : BitVec 512) (sig : BitVec 512) (s : State) : Res :=
  .next (inSession s sid (fun x =>
    let may := match s.mgt.owner, x.key with
      | none, _ => x.byBmc
      | some _, some k => s.ownerSession x && ed25519Verify k (leBytes 64 root.toNat) sig
      | some _, none => false
    let s1 := logEntry s 3 0 0x01 0 0 none
    if may then reply { s1 with mgt := { s1.mgt with owner := some root } } 0 [] else reply s1 rcNotAuthorised []))

/-- Whether a tag is the module's own or that of a slot (R584, R585). -/
def State.tagHeld (s : State) (t : Nat) : Bool := t == 0 || (s.slotOfTag t).isSome
/-- LKT_CFG.KEYGEN shows a tag's current generation. -/
def showKeygen (s : State) (t g : Nat) : State :=
  match s.slotOfTag t with
  | some l => if t = 0 then s else s.updSlot l (fun x => { x with keygen := g })
  | none => s
/-- The counters of a tag and generation start at 0 (R484). -/
def clearIvs (s : State) (t g : Nat) : State :=
  { s with trb := { s.trb with ivs := s.trb.ivs.filter (fun e => !(upto 12).any (fun p => e.1 == ivKey p t g)) } }

/-- KEY_INSTALL (R584, R585): the result and the state. -/
def installKey (s : State) (t g : Nat) (k : BitVec 256) : State × Nat :=
  let key : Key := { gen := g, key := k }
  if s.tagHeld t then
    let x := s.tagKeys t
    match x.cur, x.other with
    | none, _ => (showKeygen (clearIvs (s.setTagKeys t { cur := some key }) t g) t g, 0)
    | some c, none =>
      if g = (c.gen + 1) % 65536 then (clearIvs (s.setTagKeys t { x with other := some key, otherNext := true }) t g, 0) else (s, rcBadArg)
    | some _, some _ => (s, rcBusy)
  else if s.trb.staged.any (fun e => e.1 == t) || decide (32 ≤ s.trb.staged.length) then (s, rcBusy)
  else (clearIvs { s with trb := { s.trb with staged := s.trb.staged ++ [(t, key)] } } t g, 0)

/-- KEY_COMMIT (R584). -/
def commitKey (s : State) (t g : Nat) : State × Nat :=
  let x := s.tagKeys t
  match x.other with
  | some n => if x.otherNext && n.gen == g then (showKeygen (s.setTagKeys t { cur := some n, other := x.cur, otherNext := false }) t g, 0) else (s, rcBadArg)
  | none => (s, rcBadArg)

/-- KEY_RETIRE_GEN (R584). -/
def retireGen (s : State) (t g : Nat) : State × Nat :=
  let x := s.tagKeys t
  match x.other with
  | some n => if n.gen = g then (s.setTagKeys t { x with other := none, otherNext := false }, 0) else (s, rcBadArg)
  | none => (s, rcBadArg)

/-- A key command of an owner session; it is logged, whatever becomes of it (R570, R583). -/
def keyCommand (s : State) (sid code t g : Nat) (f : State → State × Nat) : State :=
  inSession s sid (fun x =>
    let r := if s.ownerSession x then f s else (s, rcNotAuthorised)
    reply (logEntry r.1 3 0 code t g none) r.2 [])

/-- KEY_INSTALL. -/
def execKeyInstall (sid : Nat) (tag gen : BitVec 16) (key : BitVec 256) (s : State) : Res :=
  .next (keyCommand s sid 0x10 tag.toNat gen.toNat (fun s => installKey s tag.toNat gen.toNat key))
/-- KEY_COMMIT. -/
def execKeyCommit (sid : Nat) (tag gen : BitVec 16) (s : State) : Res :=
  .next (keyCommand s sid 0x11 tag.toNat gen.toNat (fun s => commitKey s tag.toNat gen.toNat))
/-- KEY_RETIRE_GEN. -/
def execKeyRetireGen (sid : Nat) (tag gen : BitVec 16) (s : State) : Res :=
  .next (keyCommand s sid 0x12 tag.toNat gen.toNat (fun s => retireGen s tag.toNat gen.toNat))

/-- LOG_READ (R583): entries of the flash log from LSEQ `first`. -/
def execLogRead (sid : Nat) (first : Nat) (count : Nat) (s : State) : Res :=
  .next (inSession s sid (fun x =>
    if !(x.byBmc || s.ownerSession x) then reply s rcNotAuthorised []
    else if 64 < count then reply s rcBadArg []
    else reply s 0 (((s.mgt.flash.filter (fun e => decide (first ≤ e.lseq))).take count).flatMap LogEnt.bytes)))

/-! ## Debug access and lifted retirements (R590 to R595) -/

/-- DEBUG_NONCE (R592). -/
def execDebugNonce (sid : Nat) (s : State) : Res :=
  .next (inSession s sid (fun _ =>
    let r := s.takeFree
    let n := Config.randomNonce r.1
    reply (logEntry { r.2 with mgt := { r.2.mgt with nonce := some n } } 2 0 0x30 0 0 none) 0 (leBytes 32 n.toNat)))

/-- What a token is worth (R591, R592): 0 good, else a result. -/
def State.tokenResult (s : State) (format : Nat) (token : List (BitVec 8)) (pub : BitVec 256) : Nat :=
  let k := imageField token 64 1 % 4
  let signed := digestOf (leBytes 32 pub.toNat) == Config.debugKeyDigest k && !Config.debugKeyRevoked k
    && ed25519Verify pub (token.take 128) (BitVec.ofNat 512 (imageField token 128 64))
  if token.length ≠ 192 || imageField token 0 4 ≠ format || !signed || imageField token 8 16 ≠ Config.fusedSerial.toNat then rcBadToken
  else
    match s.mgt.nonce with
    | some n => if imageField token 24 32 = n.toNat then 0 else rcExpired
    | none => rcExpired

/-- The nonce is consumed. -/
def useNonce (s : State) : State := { s with mgt := { s.mgt with nonce := none } }

/-- DEBUG_UNLOCK (R593): a change of identity ends every session (R580). -/
def execDebugUnlock (sid : Nat) (token : List (BitVec 8)) (pub : BitVec 256) (s : State) : Res :=
  .next (inSession s sid (fun _ =>
    let life := imageField token 56 8
    let s1 := logEntry (useNonce s) 2 0 0x31 0 0 none
    let r := s.tokenResult 1 token pub
    if r ≠ 0 then reply s1 r []
    else if life = 0 ∨ 28800 < life then reply s1 rcBadToken []
    else if !s.allFree then reply s1 rcBusy []
    else
      let m := { s1.mgt with
        dbgState := 1, dbgScope := imageField token 4 1 % 4, dbgKey := imageField token 64 1 % 4, dbgLeft := life, debugId := true
        sessions := if s.mgt.debugId then s1.mgt.sessions else [] }
      reply { s1 with mgt := m } 0 []))

/-- Debug access ends (R594). -/
def endDebug (s : State) : State :=
  if s.mgt.dbgState = 1 then { s with mgt := { s.mgt with dbgState := 2, dbgScope := 0, dbgLeft := 0 } } else s
/-- DEBUG_LOCK (R594). -/
def execDebugLock (sid : Nat) (s : State) : Res :=
  .next (inSession s sid (fun _ => reply (logEntry (endDebug s) 2 0 0x32 0 0 none) 0 []))
/-- DEBUG_LIFETIME_END (R594). -/
def execDebugLifetimeEnd (s : State) : Res := .next (endDebug s)
/-- DEBUG_NONCE_EXPIRY (R592): 600 s have passed. -/
def execDebugNonceExpiry (s : State) : Res := .next (useNonce s)

/-- Whether a unit is retired and its retirement not lifted. -/
def State.unitRetired (s : State) (u : Nat) : Bool :=
  !s.rst.lifted.contains u && ((decide (u < 192) && s.coreRetired u) || (decide (0x100 ≤ u) && decide (u < 0x180) && (s.chan (u - 0x100)).retired))

/-- RETIRE_LIFT (R595): the unit returns to service at the next module reset. -/
def execRetireLift (sid : Nat) (token : List (BitVec 8)) (pub : BitVec 256) (s : State) : Res :=
  .next (inSession s sid (fun _ =>
    let u := imageField token 68 2
    let s1 := useNonce s
    let r := s.tokenResult 2 token pub
    if r ≠ 0 then reply (logEntry s1 2 0 0x40 0 0 none) r []
    else if !s.unitRetired u then reply (logEntry s1 2 0 0x40 u 0 none) rcBadArg []
    else reply (logEntry { s1 with rst := { s1.rst with lifted := setIns u s1.rst.lifted } } 4 0 0x40 u 0 none) 0 []))

end Sys2Proof.Machine
end

