-- ==== Sys2Proof/Machine/Tdisp.lean ====
section
/-! DEFINITION. IDE streams and TDISP (R586 to R589), and the TAP (R606, R607). Error codes of TDISP are those of its standard
(log 34). -/

namespace Sys2Proof.Machine

/-! ## IDE -/

def setIde (s : State) (f : Nat) (k : Option Nat) : State := { s with mgt := { s.mgt with ide := SMap.set noneD s.mgt.ide f k } }

/-- The key of a function's stream and key set. -/
def State.ideKey (s : State) (f k : Nat) : Option (BitVec 256) := SMap.get noneD s.mgt.ideKeys (2 * f + k)
/-- IDE_KM programs a key. -/
def programIde (s : State) (f k : Nat) (key : Option (BitVec 256)) : State :=
  match key with
  | some v => { s with mgt := { s.mgt with ideKeys := SMap.set noneD s.mgt.ideKeys (2 * f + k) (some v) } }
  | none => s

/-- K_SET_GO (R586): in a secured session of the PF's DOE mailbox, the function's stream runs under a key set that has a key: one that
IDE_KM programmed earlier, or the one that has come since the last (log 34). -/
def execKSetGo (m : IdeMessage) (k : IdeKeySet) (s : State) : Res :=
  .next (if s.pfAnswers && s.fnExists m.fn then
      inSession s m.sid (fun x =>
        let s1 := programIde s m.fn k.set k.key
        if x.transport == .doe && (s1.ideKey m.fn k.set).isSome then reply (setIde s1 m.fn (some k.set)) 0 [] else reply s rcBadArg [])
    else s)

/-- IDE_STREAM_FAILURE (R589). -/
def execIdeStreamFailure (fn : FnIx) (s : State) : Res :=
  .next (let s1 := setIde s fn none
    if fn.val = 0 then s1 else tdiError s1 (fn - 1))

/-! ## TDISP -/

def tdInvalidState : Nat := 0x04
/-- Act on the TDI of slot `v`, whose VF exists. -/
def onTdi (s : State) (v : Nat) (f : State) : State :=
  if !s.decridRuns || !s.pfAnswers then s else if s.fnExists (v + 1) then f else reply s 0x101 []

/-- GET_TDISP_VERSION. -/
def execGetTdispVersion (v : SlotIx) (s : State) : Res := .next (onTdi s v (reply s 0 [0x10]))
/-- GET_TDISP_CAPABILITIES: the seven requests of R587. -/
def execGetTdispCapabilities (v : SlotIx) (s : State) : Res :=
  .next (onTdi s v (reply s 0 [0x81, 0x82, 0x83, 0x84, 0x85, 0x86, 0x87]))

/-- The range of a BAR of VF `v` whose size is `n`: where the host has put it and how long it is (R307). VF BARs follow one another in the order of
the VFs, as PCI Express places them; bit 3 to 0 of the low word are not address (log 35). -/
def State.vfRange (s : State) (v bar n : Nat) : List (BitVec 8) :=
  let w (k : Nat) : Nat := SMap.get zeroD s.que.vfBars (2 * bar + k)
  leBytes 8 (w 0 / 16 * 16 + w 1 <<< 32 + v * n) ++ leBytes 8 n

/-- The report (R587): the ranges of the VF's BAR0 and BAR2, and an inventory record with a zero nonce, which counts itself in SEQ (R448). -/
def State.tdiReportOf (s : State) (l : Nat) : List (BitVec 8) :=
  let s1 := s.updSlot l (fun x => { x with nonce0 := 0, nonce1 := 0 })
  let body := s1.inventory l ((s.slot l).invSeq + 1)
  s.vfRange l 0 0x10000 ++ s.vfRange l 1 0x80000 ++ body ++ leBytes 64 (identitySign s.identity body).toNat

/-- LOCK_INTERFACE_REQUEST (R587, R593). -/
def execLockInterfaceRequest (v : SlotIx) (s : State) : Res :=
  .next (onTdi s v (
    if s.tdi v = 0 && (s.slot v).state == 1 && s.mgt.dbgState == 0 && (s.ideOf (v + 1)).isSome then
      let s1 := (s.setTdi v 1).updSlot v (fun x => { x with invSeq := x.invSeq + 1 })
      reply { s1 with mgt := { s1.mgt with tdiReport := SMap.set (fun _ => []) s1.mgt.tdiReport v (s.tdiReportOf v) } } 0 []
    else reply s tdInvalidState []))

/-- GET_DEVICE_INTERFACE_REPORT: of a locked or running TDI. -/
def execGetDeviceInterfaceReport (v : SlotIx) (s : State) : Res :=
  .next (onTdi s v (if s.tdiClosed v then reply s 0 (SMap.get (fun _ => []) s.mgt.tdiReport v) else reply s tdInvalidState []))
/-- GET_DEVICE_INTERFACE_STATE. -/
def execGetDeviceInterfaceState (v : SlotIx) (s : State) : Res := .next (onTdi s v (reply s 0 (leBytes 1 (s.tdi v))))
/-- START_INTERFACE_REQUEST (R588): the queues of a running TDI fetch. -/
def execStartInterfaceRequest (v : SlotIx) (s : State) : Res :=
  .next (onTdi s v (if s.tdi v = 1 then reply (s.setTdi v 2) 0 [] else reply s tdInvalidState []))

/-- STOP_INTERFACE_REQUEST (R589): from any state the slot is torn down on this module alone; it answers when that has ended, and takes over
from a home that has gone. -/
def execStopInterfaceRequest (v : SlotIx) (s : State) : Res :=
  .next (onTdi s v (
    let x := s.slot v
    if x.state = 0 then reply (s.setTdi v 0) 0 []
    else
      match x.teardown with
      | some t =>
        let (k, s1) := s.takeFree
        if t.runs k then updTeardown s1 v (fun t => { t with tdi := true }) else takeOver s1 v { t with tdi := true }
      | none => beginTeardown s v { tdi := true, tag := x.active.tag }))

/-! ## The TAP (R590, R606, R607) -/

/-- Load an instruction. -/
def setTap (s : State) (op : Nat) : State := { s with mgt2 := { s.mgt2 with tap := op } }

/-- IDCODE. -/
def execIdcode (s : State) : Res := .next (answerRead (setTap s 0x01) 0x109A5537)
/-- SAMPLE/PRELOAD: the cells are sampled and preloaded; what they sample is not stated (log 36). -/
def execSamplePreload (cells : Nat) (s : State) : Res :=
  .next (let r := s.takeFree
    let s1 := setTap r.2 0x02
    answerRead { s1 with mgt2 := { s1.mgt2 with cells := cells } } (Config.scanOut r.1))

/-- An instruction that takes the pins (R607): with every slot FREE it fences the module as in steps 2 to 4 of R556; at any other
time it acts as BYPASS and is logged. RST_STATUS shows the fence; no cause of RST_CAUSE names it (log 49). -/
def takePins (s : State) (op : Nat) : State :=
  if s.allFree then
    let s1 := if s.moduleFenced then s else flushLog (fenceModule s)
    { s1 with rst := { s1.rst with jtag := true, busy := true, level := 3 }, mgt2 := { s1.mgt2 with tap := op, drive := op } }
  else logEntry (setTap s 0xFF) 2 0 op decridUnit 0 none
/-- EXTEST. -/
def execExtest (s : State) : Res := .next (takePins s 0x03)
/-- CLAMP. -/
def execClamp (s : State) : Res := .next (takePins s 0x04)
/-- HIGHZ. -/
def execHighz (s : State) : Res := .next (takePins s 0x05)
/-- EXTEST_PULSE. -/
def execExtestPulse (s : State) : Res := .next (takePins s 0x06)
/-- EXTEST_TRAIN. -/
def execExtestTrain (s : State) : Res := .next (takePins s 0x07)
/-- BYPASS, and every opcode not listed while debug is locked (R606). -/
def execBypass (s : State) : Res := .next (setTap s 0xFF)
/-- Test-Logic-Reset: IDCODE is loaded. Leaving what has taken the pins needs a module reset (R607). -/
def execTapReset (s : State) : Res := .next (setTap s 0x01)

end Sys2Proof.Machine
end

