-- ==== Sys2Proof/Machine/RegRead.lean ====
section
/-! DEFINITION. What the registers read as, and what a read changes: counters of access RC, INT_TGT_ACK (R22, R23). Every block is
read in words of 8 bytes: offset `o` is a multiple of 8, and `m` marks the bytes that are read. Fields of access WO and reserved
bits read as zero. -/

namespace Sys2Proof.Machine

/-- Whether an access to the bits of `m` touches a field. -/
def hit (m lo w : Nat) : Bool := bits m lo w != 0
/-- A counter of access RC after a read of the bits of `m` (R23, log 37). -/
def cleared (m lo w v : Nat) : Nat := if hit m lo w then 0 else v
/-- `n` entries of `w` bits from entry `i` on, the first lowest. -/
def packed (w : Nat) (f : Nat → Nat) : Nat → Nat → Nat
  | _, 0 => 0
  | i, n + 1 => f i % 2 ^ w + packed w f (i + 1) n <<< w
/-- Word `k` of a set of numbers: its members from 64 k to 64 k + 63. -/
def setWord (l : List Nat) (k : Nat) : Nat := ofBitList ((l.filter (fun i => i / 64 == k)).map (fun i => i % 64))
/-- The 8 bytes of a string from byte `o` on. -/
def bytesWord (l : List (BitVec 8)) (o : Nat) : Nat := leNat ((l.drop o).take 8)

/-! ## PCX (R309, R311, R345, R351) -/

def linkWord (l : LinkState) (degraded : Bool) : Nat :=
  l.rate.val + l.width.val <<< 3 + b2n l.flit <<< 8 + b2n l.sris <<< 9 + b2n degraded <<< 10

/-- MSI-X table of function `f`: 16 bytes an entry, as PCIe lays them out (log 13). Entries from COUNT on are reserved. -/
def State.msixWord (s : State) (f o : Nat) : Nat :=
  let v := o / 16
  if s.msixCountOf f ≤ v then 0
  else if o % 16 = 0 then SMap.get zeroD s.que.msixAddr (2048 * f + v)
  else SMap.get zeroD s.que.msixData (2048 * f + v) + b2n (!s.que.unmasked.contains (f, v)) <<< 32
/-- Word `k` of the PBA of function `f`. -/
def State.pbaWord (s : State) (f k : Nat) : Nat := setWord ((s.que.msixPend.filter (fun e => e.1 == f)).map (fun e => e.2)) k

def readPcx (s : State) (o : Nat) : Nat :=
  if o = 0x00 then s.que.sris
  else if o = 0x08 then linkWord s.que.link s.que.degraded
  else if o = 0x10 then s.que.bar4Base
  else if 0x8000 ≤ o ∧ o < 0x10000 then s.msixWord 0 (o - 0x8000)
  else if 0x10000 ≤ o ∧ o < 0x10100 then s.pbaWord 0 ((o - 0x10000) / 8)
  else 0

/-! ## QUE (R348 to R350) -/

def cqStatusWord (x : CqRing) : Nat := b2n x.ring.consErr + b2n x.stalled <<< 1 + (x.reserved % 2 ^ 16) <<< 16
def evStatusWord (x : EvRing) : Nat := b2n x.ring.consErr + b2n x.overflow <<< 1 + x.lost <<< 16
def fnMsixWord (s : State) (f : Nat) : Nat := s.msixBaseOf f + s.msixCountOf f <<< 16

/-- QUE_SQ_STATUS: reading clears DB_IGNORED. -/
def readSqStatus (s : State) (q m : Nat) : State × Nat :=
  (s.updSq q (fun x => { x with dbIgnored := cleared m 32 16 x.dbIgnored }), sqStatusWord (s.sq q))
/-- QUE_EV_STATUS: reading clears LOST. -/
def readEvStatus (s : State) (f m : Nat) : State × Nat :=
  (s.setEv f { s.ev f with lost := cleared m 16 16 (s.ev f).lost }, evStatusWord (s.ev f))

def readSqSet (s : State) (q r m : Nat) : State × Nat :=
  let x := s.sq q
  if r = 0x00 then (s, sqBaseWord x) else if r = 0x08 then (s, sqCtlWord x) else if r = 0x10 then (s, sqCfgWord x)
  else if r = 0x18 then (s, x.prod.toNat) else if r = 0x20 then (s, x.cons.toNat)
  else if r = 0x28 then readSqStatus s q m else if r = 0x30 then (s, sqCwbWord x) else (s, 0)
def readCqSet (s : State) (c r : Nat) : Nat :=
  let x := s.cq c
  if r = 0x00 then x.ring.base else if r = 0x08 then ringCtlWord x.ring else if r = 0x10 then x.func + x.slot <<< 8
  else if r = 0x18 then x.ring.prod.toNat else if r = 0x20 then x.ring.cons.toNat else if r = 0x28 then cqStatusWord x else 0
def readEvSet (s : State) (f r m : Nat) : State × Nat :=
  let x := s.ev f
  if r = 0x00 then (s, x.ring.base) else if r = 0x08 then (s, ringCtlWord x.ring + b2n x.mirror <<< 6)
  else if r = 0x18 then (s, x.ring.prod.toNat) else if r = 0x20 then (s, x.ring.cons.toNat)
  else if r = 0x28 then readEvStatus s f m else (s, 0)

def readQue (s : State) (o m : Nat) : State × Nat :=
  if o < 0x10000 then readSqSet s (o / 0x40) (o % 0x40) m
  else if o < 0x20000 then (s, readCqSet s ((o - 0x10000) / 0x40) (o % 0x40))
  else if o < 0x20000 + 33 * 0x40 then readEvSet s ((o - 0x20000) / 0x40) (o % 0x40) m
  else if 0x21000 ≤ o ∧ o < 0x21000 + 33 * 8 then (s, fnMsixWord s ((o - 0x21000) / 8))
  else (s, 0)

/-! ## FNC (R378 to R380) -/

def Fence.word (f : Fence) : Nat :=
  b2n f.valid + f.gen <<< 1 + f.locket <<< 8 + b2n f.sigValid <<< 13 + f.sigCtx <<< 16 + (f.recOff / 16) <<< 28
def Fnc.argWord (f : Fnc) : Nat := f.argLocket + b2n f.argSigValid <<< 5 + f.argSigCtx <<< 8 + (f.argRec / 16) <<< 28
def Ctx.word (c : Ctx) : Nat := c.state + c.locket <<< 8 + c.set <<< 16 + c.used.length <<< 32 + c.saveN <<< 48
/-- FNC_WAITS: reading clears FULL. -/
def readWaits (s : State) (m : Nat) : State × Nat :=
  ({ s with fnc := { s.fnc with full := cleared m 16 16 s.fnc.full } }, s.fnc.waits.length + s.fnc.full <<< 16)

def readFnc (s : State) (o m : Nat) : State × Nat :=
  if o < 0x80000 then (s, (s.fence (o / 8)).word)
  else if o < 0x90000 then
    let c := s.ctx ((o - 0x80000) / 16)
    (s, if o % 16 = 0 then c.word else if c.state = 1 ∨ c.state = 2 then c.root.toNat else 0)
  else if o = 0x90000 then (s, s.fnc.argWord)
  else if o = 0x90008 then (s, s.fnc.cmdInit.toNat)
  else if o = 0x90018 then (s, b2n s.fnc.cmd.isSome + s.fnc.result <<< 1 + s.fnc.handle <<< 32)
  else if o = 0x90020 then readWaits s m
  else (s, 0)

/-! ## XLT (R298 to R301) -/

/-- XLT_FQ_STATUS: reading clears DEFERRED. -/
def readFqStatus (s : State) (l m : Nat) : State × Nat :=
  let x := s.fq l
  (s.updFq l (fun x => { x with deferred := cleared m 16 16 x.deferred }),
   b2n x.overflow + b2n x.ring.consErr <<< 1 + x.deferred <<< 16 + s.heldCount l <<< 32)
def readFqSet (s : State) (l r m : Nat) : State × Nat :=
  let x := s.fq l
  if r = 0x00 then (s, x.ring.base) else if r = 0x08 then (s, ringCtlWord x.ring)
  else if r = 0x10 then (s, x.ring.prod.toNat) else if r = 0x18 then (s, x.ring.cons.toNat)
  else if r = 0x20 then readFqStatus s l m else (s, 0)
/-- XLT_STATUS: reading clears STALE and MERGED. -/
def readXltStatus (s : State) (m : Nat) : State × Nat :=
  ({ s with xlt := { s.xlt with stale := cleared m 16 16 s.xlt.stale, merged := cleared m 32 16 s.xlt.merged } },
   s.xlt.outst.length + s.xlt.stale <<< 16 + s.xlt.merged <<< 32)
def readXlt (s : State) (o m : Nat) : State × Nat :=
  if o < 0x800 then readFqSet s (o / 0x40) (o % 0x40) m else if o = 0x1000 then readXltStatus s m else (s, 0)

/-! ## MEM (R228 to R232, R426 to R428, R608) -/

def Chan.ctlWord (c : Chan) : Nat := c.inj + b2n c.injRd <<< 4 + b2n c.refresh2x <<< 5
def State.chanStatus (s : State) (c : Nat) : Nat :=
  let h := s.chan c
  h.state + b2n (decide (1 ≤ h.row)) <<< 4 + b2n (decide (h.row = 2)) <<< 5 + (s.chanOwner c).getD 0xFF <<< 8 + h.cap <<< 16 + h.temp <<< 32
/-- MEM_CH_CORR, MEM_CH_RETRY and MEM_CH_POISON: reading clears COUNT. -/
def readChCorr (s : State) (c m : Nat) : State × Nat := (s.updChan c (fun h => { h with corr := cleared m 0 32 h.corr }), (s.chan c).corr)
def readChRetry (s : State) (c m : Nat) : State × Nat := (s.updChan c (fun h => { h with retry := cleared m 0 32 h.retry }), (s.chan c).retry)
def readChPoison (s : State) (c m : Nat) : State × Nat :=
  let h := s.chan c
  (s.updChan c (fun h => { h with poison := cleared m 0 16 h.poison }), h.poison + h.last <<< 16 + b2n h.lastWr <<< 43)
/-- MEM_RGN_STATUS (R232). -/
def Setting.rgnWord (x : Setting) : Nat := (if x.active.valid then bits x.active.rgn.toNat 0 18 else 0) + x.epoch <<< 18
/-- MEM_SCRUB_BUSY (R232). -/
def State.scrubbing (s : State) : Nat := ofBitList ((upto 128).filter (fun c => (s.chan c).state == 2 && !(s.chan c).bist))
def Pool.ctlWord (p : Pool) : Nat := p.gran + p.genBase <<< 32
/-- MEM_POOL_STATUS (R414, R415, R427): the region, and with it N and BLOCKS, stands in POOL and, until it is dissolved, in LEAVING. -/
def Pool.statusWord (p : Pool) : Nat :=
  if p.state = 2 ∨ p.state = 3 then p.state + p.chans.length <<< 8 + (p.blocks - p.recordBlocks) <<< 32 else p.state
def Pool.cmdWord (p : Pool) : Nat := b2n p.busy + p.result <<< 1 + p.record <<< 8
def Pool.leaseCtl (p : Pool) : Nat := p.probeUs + p.leases.length <<< 32
def Pool.leaseArg (p : Pool) : Nat := p.argPool + p.argLocket <<< 16 + p.argTarget <<< 32
def Pool.leaseStatus (p : Pool) : Nat := b2n p.lbusy + p.lresult <<< 1 + p.lgen <<< 32

def readMem (s : State) (o m : Nat) : State × Nat :=
  if o < 0x2000 then
    let c := o / 0x40
    let r := o % 0x40
    if r = 0x00 then (s, (s.chan c).ctlWord) else if r = 0x08 then (s, s.chanStatus c)
    else if r = 0x10 then readChCorr s c m else if r = 0x18 then readChRetry s c m
    else if r = 0x20 then readChPoison s c m else (s, 0)
  else if 0x4000 ≤ o ∧ o < 0x4400 then (s, if o % 16 = 0 then (s.setting ((o - 0x4000) / 16)).rgnWord else 0)
  else if o = 0x5000 then (s, s.scrubbing % 2 ^ 64)
  else if o = 0x5008 then (s, s.scrubbing / 2 ^ 64)
  else if o = 0x6000 then (s, s.pool.ctlWord)
  else if o = 0x6008 then (s, s.pool.statusWord)
  else if o = 0x6018 then (s, s.pool.cmdWord)
  else if o = 0x6100 then (s, s.pool.leaseCtl)
  else if o = 0x6108 then (s, s.pool.leaseArg)
  else if o = 0x6118 then (s, s.pool.leaseStatus)
  else if o = 0x7000 then (s, s.mem.bistSel.toNat % 2 ^ 64)
  else if o = 0x7008 then (s, s.mem.bistSel.toNat / 2 ^ 64)
  else if o = 0x7018 then (s, b2n (decide (s.mem.bistLeft ≠ 0)) + b2n s.mem.bistErr <<< 1 + s.mem.bistLeft <<< 8)
  else if o = 0x7020 then readBistFail s false
  else if o = 0x7028 then readBistFail s true
  else (s, 0)

/-! ## MSH (R59 to R62) -/

def Half.ctlWord (x : Half) : Nat := x.rate + b2n x.park <<< 8
def Mesh.seamWord (x : Mesh) : Nat := x.cap + b2n x.weFull <<< 16 + b2n x.ewFull <<< 17
def readMsh (s : State) (o m : Nat) : State × Nat :=
  if o = 0x00 then (s, s.mesh.west.ctlWord)
  else if o = 0x10 then (s, s.mesh.east.ctlWord)
  else if o = 0x08 then (if hit m 12 3 then readHalfStatus s 0 else (s, s.mesh.west.statusWord))
  else if o = 0x18 then (if hit m 12 3 then readHalfStatus s 1 else (s, s.mesh.east.statusWord))
  else if o = 0x20 then (s, s.mesh.seamWord)
  else if o = 0x28 then (if hit m 0 32 then readParkedCnt s else (s, s.mesh.parkedCnt))
  else (s, 0)

/-! ## CORE (R98 to R102) -/

def readCoreReg (s : State) (n r : Nat) : Nat :=
  let c := s.core n
  if r = 0x00 then b2n c.stop
  else if r = 0x08 then s.coreStatus n
  else if r = 0x10 then c.arch.live.toNat
  else if r = 0x18 then c.cycle % 2 ^ 64
  else if r = 0x20 then c.retire % 2 ^ 64
  else if r = 0x28 then c.fault.word
  else if r = 0x30 then c.arch.seed.toNat
  else 0
def readCore (s : State) (o : Nat) : Nat := if o < 192 * 0x100 then readCoreReg s (o / 0x100) (o % 0x100) else 0

/-! ## SET (R385 to R388) -/

/-- SET_STATUS (R388). -/
def State.setStatusWord (s : State) (i : Nat) : Nat :=
  let x := s.setting i
  x.epoch + x.phase <<< 2 + b2n x.shLock <<< 4 + countP (fun (k : Move) => k.set == i && !k.done) s.mem.moves <<< 8
    + min (s.oldOut i) (2 ^ 32 - 1) <<< 16 + x.shIgnored <<< 48
/-- SET_STATUS: reading clears SH_IGNORED. -/
def readSetStatus (s : State) (i m : Nat) : State × Nat :=
  (s.updSetting i (fun x => { x with shIgnored := cleared m 48 16 x.shIgnored }), s.setStatusWord i)
/-- The tables of one copy. -/
def SetCopy.readAt (c : SetCopy) (r : Nat) : Nat :=
  if r = 0x00 then c.hdr.toNat
  else if r = 0x08 then c.rgn.toNat
  else if 0x40 ≤ r ∧ r < 0xC0 then packed 8 (fun i => (c.chanAt i).toNat) (r - 0x40) 8
  else if 0xC0 ≤ r ∧ r < 0xD8 then packed 16 (fun i => (c.linkAt i).toNat) ((r - 0xC0) / 2) 4
  else if 0x100 ≤ r ∧ r < 0x180 then setWord c.qset ((r - 0x100) / 8)
  else if 0x1000 ≤ r ∧ r < 0x2000 then packed 32 (fun i => (c.coreAt i).toNat) ((r - 0x1000) / 4) 2
  else 0
def readSet (s : State) (o m : Nat) : State × Nat :=
  let i := o / 0x4000
  let r := o % 0x4000
  if r = 0x10 then readSetStatus s i m
  else if r < 0x2000 then (s, (s.setting i).active.readAt r)
  else (s, (s.setting i).shadow.readAt (r - 0x2000))

/-! ## LKT (R457 to R459) -/

def LktCopy.cfgWord (c : LktCopy) : Nat := b2n c.valid + c.tag <<< 8 + c.home <<< 32
/-- The tables of one copy, without KEYGEN and LKT_STATUS. -/
def LktCopy.readAt (c : LktCopy) (r : Nat) : Nat :=
  if r = 0x00 then c.cfgWord
  else if r = 0x08 then c.schedWord
  else if 0x20 ≤ r ∧ r < 0x38 then bits c.cores.toNat (8 * (r - 0x20)) 64
  else if 0x40 ≤ r ∧ r < 0x50 then bits c.chans.toNat (8 * (r - 0x40)) 64
  else if r = 0x50 then c.facet.toNat
  else if 0x60 ≤ r ∧ r < 0x80 then packed 16 c.floorAt ((r - 0x60) / 2) 4
  else if 0x80 ≤ r ∧ r < 0xC0 then packed 16 (fun i => c.shareAt (i / 8) (i % 8)) ((r - 0x80) / 2) 4
  else if 0x100 ≤ r ∧ r < 0x180 then setWord c.member ((r - 0x100) / 8)
  else 0
def readTables (s : State) (l r : Nat) : Nat :=
  let x := s.slot l
  if r = 0x00 then x.active.cfgWord + x.keygen <<< 48
  else if r = 0x10 then x.state
  else if r < 0x2000 then x.active.readAt r
  else x.shadow.readAt (r - 0x2000)
/-- The counters that LKT_ACCT_SEL selects (R446, R459). -/
def State.acctShown (s : State) (l : Nat) : Acct :=
  let x := s.slot l
  if x.acctSel = 0xFFFF then x.acct
  else if x.acctSel < 4096 && (s.ctx x.acctSel).state != 0 && (s.ctx x.acctSel).locket == l then (s.ctx x.acctSel).acct
  else {}
def Slot.latSelKey (x : Slot) : Nat := latKey x.latUnit x.latClass x.latDir
/-- LKT_LAT_VAL: reading clears the monitor read (R442). -/
def readLatVal (s : State) (l m : Nat) : State × Nat :=
  let x := s.slot l
  (s.updSlot l (fun x => { x with lat := SMap.upd zeroD x.lat x.latSelKey (cleared m 0 32) }), SMap.get zeroD x.lat x.latSelKey)
def readAcct (s : State) (l r m : Nat) : State × Nat :=
  let x := s.slot l
  let a := s.acctShown l
  if r = 0x00 then (s, x.acctSel) else if r = 0x08 then (s, a.time / 1000) else if r = 0x10 then (s, a.energy)
  else if r = 0x18 then (s, a.dram) else if r = 0x20 then (s, a.seam) else if r = 0x28 then (s, a.trb) else if r = 0x30 then (s, a.pcie)
  else if r = 0x40 then (s, x.latUnit + x.latClass <<< 16 + x.latDir <<< 19)
  else if r = 0x48 then readLatVal s l m else (s, 0)
def readInv (s : State) (l r : Nat) : Nat :=
  let x := s.slot l
  if r < 768 then bytesWord x.invRec r
  else if r = 0x400 then x.nonce0.toNat else if r = 0x408 then x.nonce1.toNat
  else if r = 0x410 then b2n x.invBusy <<< 1 + b2n x.invReady <<< 2 + x.invSeq <<< 32 else 0
def readLkt (s : State) (o m : Nat) : State × Nat :=
  if o < 0x80000 then (s, readTables s (o / 0x4000) (o % 0x4000))
  else if o = 0x80000 then (s, s.lkt.floorSeam + s.lkt.floorPort <<< 16 + s.lkt.floorPcie <<< 32)
  else if o = 0x80008 then (s, s.cleanChans % 2 ^ 64)
  else if o = 0x80010 then (s, s.cleanChans / 2 ^ 64)
  else if 0x90000 ≤ o ∧ o < 0x92000 then readAcct s ((o - 0x90000) / 0x100) (o % 0x100) m
  else if 0xA0000 ≤ o ∧ o < 0xC0000 then (s, readInv s ((o - 0xA0000) / 0x1000) (o % 0x1000))
  else (s, 0)

/-! ## TRB (R496 to R498) -/

def Trb.idWord (t : Trb) : Nat := t.idModule + t.kxM1 <<< 10 + t.kyM1 <<< 13 + t.kzM1 <<< 16 + t.parure <<< 32
/-- TRB_ROUTE (R497). -/
def State.routeWord (s : State) : Nat :=
  let up := (upto 6).filter (fun d => (upto 12).any (fun p => portDir p == d && (s.port p).state == 3))
  let hold := (upto 6).filter (fun d => s.trb.hold.any (fun m => match s.egress m with | some p => portDir p == d | none => false))
  ofBitList up + ofBitList hold <<< 8
def Trb.echoWord (t : Trb) : Nat :=
  b2n t.echoBusy + t.echoResult <<< 1 + t.echoResponder <<< 16 + t.echoIngress <<< 26 + t.echoRtt <<< 32
def Port.statusWord (x : Port) : Nat := x.state + x.lanes <<< 3 + x.rate <<< 5 + x.reason <<< 8 + x.cap <<< 16
def Port.nbrWord (x : Port) : Nat := x.nbrMod + x.nbrPort <<< 10 + b2n x.nbrValid <<< 14
/-- TRB_PORT_FEC, TRB_PORT_LINK, TRB_PORT_DROP and TRB_PORT_TEST: reading clears their counters. -/
def readPortFec (s : State) (p m : Nat) : State × Nat :=
  (s.updPort p (fun x => { x with fecCorr := cleared m 0 32 x.fecCorr, fecUncorr := cleared m 32 32 x.fecUncorr }),
   (s.port p).fecCorr + (s.port p).fecUncorr <<< 32)
def readPortLink (s : State) (p m : Nat) : State × Nat :=
  let x := s.port p
  (s.updPort p (fun x => { x with
      lnkCrc := cleared m 0 16 x.lnkCrc, lnkReplay := cleared m 16 16 x.lnkReplay
      lnkRetrain := cleared m 32 16 x.lnkRetrain, lnkBadpkt := cleared m 48 16 x.lnkBadpkt }),
   x.lnkCrc + x.lnkReplay <<< 16 + x.lnkRetrain <<< 32 + x.lnkBadpkt <<< 48)
def readPortDrop (s : State) (p m : Nat) : State × Nat :=
  let d := s.dyn p
  (s.updDyn p (fun d => { d with
      auth := cleared m 0 16 d.auth, expired := cleared m 16 16 d.expired
      discard := cleared m 32 16 d.discard, late := cleared m 48 16 d.late }),
   d.auth + d.expired <<< 16 + d.discard <<< 32 + d.late <<< 48)
/-- What a running loop-back test shows (R498): it has gone on counting, a free number of units and of errors among them. -/
def lookAtTest (s : State) (p : Nat) : State :=
  if !(s.dyn p).testBusy then s
  else
  let (k, s1) := s.takeFree
  let units := Config.testUnits k
  testCounts s1 p (Config.testErrors k % 2 ^ 32 % (units + 1)) (BitVec.ofNat 64 units)
def readPortTest (s0 : State) (p m : Nat) : State × Nat :=
  let s := lookAtTest s0 p
  let d := s.dyn p
  (s.updDyn p (fun d => { d with testErrors := cleared m 32 32 d.testErrors }),
   b2n d.testBusy <<< 1 + d.testResult <<< 2 + d.testErrors <<< 32)

def readTrb (s : State) (o m : Nat) : State × Nat :=
  if o = 0x00 then (s, s.trb.idWord)
  else if o = 0x08 then (s, s.trb.deadline + b2n s.trb.lock <<< 31)
  else if o = 0x10 then (s, s.routeWord)
  else if o = 0x18 then (s, s.trb.retired.length)
  else if o = 0x20 then (s, s.trb.echoDst)
  else if o = 0x28 then (s, s.trb.echoWord)
  else if 0x1000 ≤ o ∧ o < 0x1C00 then
    let p := (o - 0x1000) / 0x100
    let r := o % 0x100
    if r = 0x00 then (s, portCtlWord (s.port p)) else if r = 0x08 then (s, (s.port p).statusWord)
    else if r = 0x10 then (s, (s.port p).nbrWord) else if r = 0x18 then readPortFec s p m
    else if r = 0x20 then readPortLink s p m else if r = 0x28 then readPortDrop s p m
    else if r = 0x30 then readPortTest s p m else if r = 0x38 then (let s1 := lookAtTest s p; (s1, (s1.dyn p).testUnits.toNat)) else (s, 0)
  else (s, 0)

/-! ## PWR (R524 to R527) -/

def Pwr.ctlWord (p : Pwr) : Nat := p.capW + p.peakW <<< 16 + b2n p.ageMode <<< 32 + b2n p.lock <<< 63
/-- PWR_STATUS: reading clears ERR. Powers above the field show its largest value; 0x3FF is "missing". -/
def readPwrStatus (s : State) (m : Nat) : State × Nat :=
  let p := s.pwr
  let d := s.pdyn
  ({ s with pwr := { p with err := cleared m 56 3 p.err } },
   min 0x3FF (p.pMeas.getD 0x3FF) + min 0x3FF p.pEst <<< 16 + p.limit <<< 32 + b2n s.capLimits <<< 48 + b2n d.peak <<< 49
     + b2n (!p.hotSensors.isEmpty) <<< 50 + b2n d.fallback <<< 51 + b2n d.brakeHold <<< 52 + b2n d.trip <<< 53 + p.err <<< 56)
/-- PWR_STAGGER: reading clears HELD and ADMITTED. -/
def readStagger (s : State) (m : Nat) : State × Nat :=
  let p := s.pwr
  ({ s with pwr := { p with held := cleared m 16 16 p.held, admitted := cleared m 32 32 p.admitted } },
   p.budget + s.staggerBudget <<< 8 + p.held <<< 16 + p.admitted <<< 32)
/-- The hottest reading in 1/8 °C and its sensor; the lowest index of several. -/
def Pwr.hottest (p : Pwr) : Int × Nat :=
  (upto 232).foldl (fun (b : Int × Nat) i =>
    let t := SMap.get (fun _ => (0 : Int)) p.temps i
    if b.1 < t then (t, i) else b) (SMap.get (fun _ => (0 : Int)) p.temps 0, 0)
def Pwr.thermWord (p : Pwr) : Nat :=
  p.throttleC + min 255 (p.hottest.1 / 8).toNat <<< 8 + p.hottest.2 <<< 16 + p.sFailed.length <<< 32
/-- PWR_MODEL: reading clears DRIFTS. -/
def readModel (s : State) (m : Nat) : State × Nat :=
  let p := s.pwr
  ({ s with pwr := { p with drifts := cleared m 48 16 p.drifts } },
   p.gain.getD Config.fusedGain % 2 ^ 16 + (Config.fusedGainMin % 2 ^ 16) <<< 16 + (Config.fusedGainMax % 2 ^ 16) <<< 32 + p.drifts <<< 48)
def PCore.ctlWord (p : PCore) : Nat := p.fmin + p.fmax <<< 8 + b2n p.pin <<< 15
/-- PWR_CORE_STATUS: reading clears DROOPS. -/
def readPwrCore (s : State) (n m : Nat) : State × Nat :=
  let p := s.pcore n
  (s.updPcore n (fun p => { p with droops := cleared m 32 16 p.droops }),
   p.fSet + (s.fMax n % 128) <<< 8 + s.skipOf n <<< 16 + b2n p.ovr <<< 20 + b2n p.err <<< 21
     + min 255 (SMap.get (fun _ => (0 : Int)) s.pwr.temps n / 8).toNat <<< 24 + p.droops <<< 32
     + (s.guardMv (n / 48) % 256) <<< 48)
def readPwr (s : State) (o m : Nat) : State × Nat :=
  if o = 0x00 then (s, s.pwr.ctlWord)
  else if o = 0x08 then readPwrStatus s m
  else if o = 0x10 then readStagger s m
  else if o = 0x18 then (s, s.pwr.thermWord)
  else if o = 0x20 then readModel s m
  else if 0x1000 ≤ o ∧ o < 0x1C00 then
    let n := (o - 0x1000) / 16
    if o % 16 = 0 then (s, (s.pcore n).ctlWord) else readPwrCore s n m
  else (s, 0)

/-! ## INT (R539 to R541) -/

/-- A read of INT_SRC_CFG returns after every earlier write to it has taken effect (R536). -/
def readInt (s : State) (o m : Nat) : State × Nat :=
  if o < 0x2000 then (settleIntSrc s (o / 8), intSrcWord (s.intSrc (o / 8)))
  else if 0x2000 ≤ o ∧ o < 0x2000 + 9 * 0x40 then
    let t := (o - 0x2000) / 0x40
    let r := o % 0x40
    if r = 0x00 then (s, intTgtCtlWord (s.intTgt t)) else if r = 0x08 then (s, s.intTgtStatus t)
    else if r = 0x10 then (if hit m 0 16 then ackTarget s t else (s, (s.selected t).getD 0xFFFF))
    else (s, 0)
  else (s, 0)

/-! ## RST (R563, R564, R608) -/

def Rst.statusWord (r : Rst) : Nat :=
  b2n r.busy + r.level <<< 1 + r.lastLevel <<< 4 + b2n r.escalated <<< 7 + (r.duration % 2 ^ 32) <<< 32
def Rst.wdogWord (r : Rst) : Nat := r.queueMs + r.retireLog2 <<< 16 + r.dmaUs <<< 32
def SelfTest.word (t : SelfTest) : Nat :=
  b2n t.busy <<< 1 + b2n t.err <<< 2 + b2n t.meshFail <<< 8 + b2n t.dbusFail <<< 9 + b2n t.pcieFail <<< 10 + b2n t.sramFail <<< 11
    + t.coresFailed <<< 16 + t.chansFailed <<< 24 + t.failUnit <<< 32
def readRst (s : State) (o : Nat) : Nat :=
  if o = 0x08 then s.rst.statusWord
  else if o = 0x10 then s.rst.wdogWord
  else if o = 0x18 then s.rst.cause + s.rst.count <<< 16
  else if 0x20 ≤ o ∧ o < 0x38 then setWord s.rst.retiredCores ((o - 0x20) / 8)
  else if o = 0x38 then s.retiredChans % 2 ^ 64
  else if o = 0x40 then s.retiredChans / 2 ^ 64
  else if o = 0x48 then s.test.word
  else 0

/-! ## MGT (R596, R597) -/

/-- MGT_FW_STATUS: reading clears ERR. -/
def readFwStatus (s : State) (m : Nat) : State × Nat :=
  (s.setFw { s.mgt.fw with err := cleared m 56 3 s.mgt.fw.err }, s.mgt.fw.statusWord)
/-- MGT_LOG_STATUS: reading clears LOST. -/
def readLogStatus (s : State) (m : Nat) : State × Nat :=
  let newest := match s.mgt.flash.getLast? with | some e => e.lseq | none => 0
  ({ s with mgt := { s.mgt with lost := cleared m 0 16 s.mgt.lost } }, s.mgt.lost + (newest % 2 ^ 32) <<< 32)
def readMgt (s : State) (o m : Nat) : State × Nat :=
  if o = 0x00 then (s, 0x21 + s.mgt.fw.svnCnt <<< 8)
  else if o = 0x08 then (s, Config.fusedSerial.toNat % 2 ^ 64)
  else if o = 0x10 then (s, Config.fusedSerial.toNat / 2 ^ 64)
  else if o = 0x18 then readFwStatus s m
  else if o = 0x28 then (s.takeFree.2, s.dbgStatus)
  else if o = 0x30 then (s, packed 2 s.tdi 0 32)
  else if o = 0x38 then readLogStatus s m
  else if o = 0x40 then (s, s.mgt.logSel.toNat)
  else if 0x80 ≤ o ∧ o < 0xC0 then (s, bytesWord s.logData (o - 0x80))
  else (s, 0)

/-! ## The image of PF BAR0 (R309, R310) -/

/-- One word of the set-up registers: offset `off`, a multiple of 8, and the bits `m` that are read. -/
def readWord (s : State) (off m : Nat) : State × Nat :=
  let o := off % 2 ^ 20
  match off / 2 ^ 20 with
  | 0x0 => (s, readPcx s o)
  | 0x1 => readQue s o m
  | 0x2 => readFnc s o m
  | 0x3 => readXlt s o m
  | 0x4 => readMem s o m
  | 0x5 => readMsh s o m
  | 0x6 => (s, readCore s o)
  | 0x8 => readSet s o m
  | 0x9 => readLkt s o m
  | 0xA => readTrb s o m
  | 0xB => readPwr s o m
  | 0xC => readInt s o m
  | 0xD => (s, readRst s o)
  | 0xE => readMgt s o m
  | _ => (s, 0)

/-- The words that `size` bytes from `off` on touch: the word's offset, how many of its bytes, and the first of them. -/
def wordsOf (off size : Nat) : List (Nat × Nat × Nat) :=
  (upto ((off % 8 + size + 7) / 8)).map (fun k =>
    let w := off / 8 * 8 + 8 * k
    let a := max off w
    (w, min (off + size) (w + 8) - a, a - w))

/-- The bits of `n` bytes from byte `b` of a word. -/
def byteMask (n b : Nat) : Nat := (2 ^ (8 * n) - 1) <<< (8 * b)

/-- Read `size` bytes, word by word. -/
def readRegs (s : State) (get : State → Nat → Nat → State × Nat) (off size : Nat) : State × List (BitVec 8) :=
  (wordsOf off size).foldl (fun (a : State × List (BitVec 8)) x =>
    let r := get a.1 x.1 (byteMask x.2.1 x.2.2)
    (r.1, a.2 ++ leBytes x.2.1 (r.2 >>> (8 * x.2.2)))) (s, [])

/-! ## VF BAR0 (R311) -/

/-- PCX_VF_INFO: the Locket's slot and the module's ID. -/
def State.vfInfo (s : State) (f : Nat) : Nat := f - 1 + s.trb.idModule <<< 16

/-- One word of VF `f`'s BAR0: the registers of its own Locket. -/
def readVfWord (s : State) (f off m : Nat) : State × Nat :=
  let l := f - 1
  if off = 0 then (s, s.vfInfo f)
  else if 0x1000 ≤ off ∧ off < 0x1040 then readFqSet s l (off - 0x1000) m
  else if 0x2000 ≤ off ∧ off < 0x2040 then readEvSet s f (off - 0x2000) m
  else if 0x4000 ≤ off ∧ off < 0x6000 then
    match s.pageQueue f ((off - 0x4000) / 0x40) with
    | some q => readSqSet s q (off % 0x40) m
    | none => (s, 0)
  else if 0x6000 ≤ off ∧ off < 0x8000 then
    match s.slotRing f ((off - 0x6000) / 0x40) with
    | some c => (s, readCqSet s c (off % 0x40))
    | none => (s, 0)
  else if 0xA000 ≤ off ∧ off < 0xA100 then readAcct s l (off - 0xA000) m
  else if 0xC000 ≤ off ∧ off < 0xD000 then (s, readInv s l (off - 0xC000))
  else if 0xE000 ≤ off ∧ off < 0xF000 then (s, s.msixWord f (off - 0xE000))
  else if 0xF000 ≤ off ∧ off < 0xF020 then (s, s.pbaWord f ((off - 0xF000) / 8))
  else (s, 0)

/-! ## Reads by the host -/

/-- The host reads `size` bytes of a function: BAR0 holds the registers, and BAR2 the doorbell pages, which read as zero (R303, R307,
R309, R311, R321); none where the function answers with Unsupported Request. -/
def hostRead (s : State) (f : Nat) (doorbells : Bool) (off size : Nat) : Option (State × List (BitVec 8)) :=
  if !(if f = 0 then s.pfAnswers && (s.linkFetches || !doorbells) else s.vfAnswers f) then none
  else if doorbells then some (s, List.replicate size 0)
  else some (if f = 0 then readRegs s readWord off size else readRegs s (fun s => readVfWord s f) off size)

end Sys2Proof.Machine
end

