-- ==== Sys2Proof/Machine/RegWrite.lean ====
section
/-! DEFINITION. Writes to registers under their access codes (R22, R23), in words of 8 bytes: `v` is the word as written and `m` the
bits that the write covers. Fields of access RO, reserved bits and words that hold no register take no write. -/

namespace Sys2Proof.Machine

/-- Write the entries of `w` bits that a word holds, `n` of them from entry `i` on. -/
def unpackInto {α : Type} (x : α) (w : Nat) (put : α → Nat → Nat → α) (old : α → Nat → Nat) (v m : Nat) : Nat → Nat → Nat → α
  | _, _, 0 => x
  | i, k, n + 1 =>
    let y := if hit m (w * k) w then put x i (bits (mergeW (old x i) (bits v (w * k) w) (bits m (w * k) w)) 0 w) else x
    unpackInto y w put old v m (i + 1) (k + 1) n

/-- Word `k` of a set of numbers is written. -/
def putSetWord (l : List Nat) (k v m : Nat) : List Nat :=
  let w := mergeW (setWord l k) v m
  (upto 64).foldl (fun l i => setPut (bit w i) (64 * k + i) l) l

/-- A W1C bit after a write. -/
def w1c (b : Bool) (v m i : Nat) : Bool := b && !bit (v &&& m) i
/-- A W1S bit is written 1. -/
def w1s (v m i : Nat) : Bool := bit (v &&& m) i

/-! ## PCX (R345, R347, R351) -/

/-- An entry of the MSI-X table of function `f` (log 13). -/
def writeMsix (s : State) (f o v m : Nat) : State :=
  let n := o / 16
  let k := 2048 * f + n
  if s.msixCountOf f ≤ n then s
  else if o % 16 = 0 then
    { s with que := { s.que with msixAddr := SMap.upd zeroD s.que.msixAddr k (fun a => mergeW a v m / 4 * 4) } }
  else
    let s1 := { s with que := { s.que with msixData := SMap.upd zeroD s.que.msixData k (fun d => bits (mergeW d v m) 0 32) } }
    if !hit m 32 1 then s1 else if bit v 32 then maskVector s1 f n else unmask s1 f n

def writePcx (s : State) (o v m : Nat) : State :=
  if o = 0x00 then
    let c := bits (mergeW s.que.sris v m) 0 2
    if c = 3 then s else { s with que := { s.que with sris := c } }
  else if o = 0x10 then { s with que := { s.que with bar4Base := bits (mergeW s.que.bar4Base v m) 16 26 * 2 ^ 16 } }
  else if 0x8000 ≤ o ∧ o < 0x10000 then writeMsix s 0 (o - 0x8000) v m
  else s

/-! ## QUE (R348 to R350): `pf` tells a write of the PF from one of the VF that owns the object -/

def writeSqSet (s : State) (q r v m : Nat) (pf : Bool) : State :=
  if r = 0x00 then writeSqBase s q v m
  else if r = 0x08 then writeSqCtl s q v m
  else if r = 0x10 then (if pf then writeSqCfg s q v m else s)
  else if r = 0x28 then writeSqStatus s q v m
  else if r = 0x30 then writeSqCwb s q v m
  else s
/-- A write to CONS counts when it covers the field's 4 bytes; bytes not written keep their value. -/
def writeCqSet (s : State) (c r v m : Nat) (pf : Bool) : State :=
  if r = 0x00 then writeCqBase s c v m
  else if r = 0x08 then writeCqCtl s c v m
  else if r = 0x10 then (if pf then writeCqCfg s c v m else s)
  else if r = 0x20 then (if hit m 0 32 then writeCqCons s c (bits (mergeW (s.cq c).ring.cons.toNat v m) 0 32) else s)
  else if r = 0x28 then writeCqStatus s c v m
  else s
def writeEvSet (s : State) (f r v m : Nat) : State :=
  if r = 0x00 then writeEvBase s f v m
  else if r = 0x08 then writeEvCtl s f v m
  else if r = 0x20 then (if hit m 0 32 then writeEvCons s f (bits (mergeW (s.ev f).ring.cons.toNat v m) 0 32) else s)
  else if r = 0x28 then writeEvStatus s f v m
  else s
def writeQue (s : State) (o v m : Nat) (pf : Bool) : State :=
  if o < 0x10000 then writeSqSet s (o / 0x40) (o % 0x40) v m pf
  else if o < 0x20000 then writeCqSet s ((o - 0x10000) / 0x40) (o % 0x40) v m pf
  else if o < 0x20000 + 33 * 0x40 then writeEvSet s ((o - 0x20000) / 0x40) (o % 0x40) v m
  else if 0x21000 ≤ o ∧ o < 0x21000 + 33 * 8 then writeFnMsix s ((o - 0x21000) / 8) v m
  else s

/-! ## FNC (R365, R366, R379) -/

def writeFnc (s : State) (o v m : Nat) : State :=
  if o = 0x90000 then
    let w := mergeW s.fnc.argWord v m
    { s with fnc := { s.fnc with argLocket := bits w 0 5, argSigValid := bit w 5, argSigCtx := bits w 8 12, argRec := bits w 28 36 * 16 } }
  else if o = 0x90008 then { s with fnc := { s.fnc with cmdInit := BitVec.ofNat 64 (mergeW s.fnc.cmdInit.toNat v m) } }
  else if o = 0x90010 then
    let w := v &&& m
    if bits w 0 2 = 1 then createFence s (bits w 16 16) {}
    else if bits w 0 2 = 2 then destroyCommand s (bits w 16 16)
    else s
  else s

/-! ## XLT (R298 to R300) -/

def writeFqSet (s : State) (l r v m : Nat) : State :=
  if r = 0x00 then writeFqBase s l v m
  else if r = 0x08 then writeFqCtl s l v m
  else if r = 0x18 then (if hit m 0 32 then writeFqCons s l (bits (mergeW (s.fq l).ring.cons.toNat v m) 0 32) else s)
  else if r = 0x20 then writeFqStatus s l v m
  else s
def writeXlt (s : State) (o v m : Nat) : State := if o < 0x800 then writeFqSet s (o / 0x40) (o % 0x40) v m else s

/-! ## MEM (R229, R427, R428, R608) -/

/-- MEM_CH_CTL (R229): REFRESH2X changes the capacity (R209, R210). -/
def writeChCtl (s : State) (c v m : Nat) : State :=
  let h := s.chan c
  let w := mergeW h.ctlWord v m
  recap (s.setChan c { h with inj := bits w 0 4, injRd := bit w 4, refresh2x := bit w 5 }) c 4
/-- MEM_POOL_CTL (R427): GRAN stays outside STATE COMPUTE; a GEN_BASE of 0 is stored as 1. -/
def writePoolCtl (s : State) (v m : Nat) : State :=
  let p := s.pool
  let w := mergeW p.ctlWord v m
  let g := bits w 32 32
  { s with pool := { p with gran := if p.state = 0 then bits w 0 2 else p.gran, genBase := if g = 0 then 1 else g } }
def writePoolCmd (s : State) (v m : Nat) : State :=
  let w := v &&& m
  let b := bits w 32 19
  match bits w 0 2 with
  | 1 => poolCommand s b (.alloc (bits w 8 5))
  | 2 => poolCommand s b .revoke
  | 3 => poolCommand s b .free
  | _ => s
def writeLeaseCtl (s : State) (v m : Nat) : State :=
  let u := bits (mergeW s.pool.probeUs v m) 0 7
  if hit m 0 7 && decide (2 ≤ u) && decide (u ≤ 64) then { s with pool := { s.pool with probeUs := u } } else s
def writeLeaseArg (s : State) (v m : Nat) : State :=
  let w := mergeW s.pool.leaseArg v m
  { s with pool := { s.pool with argPool := bits w 0 10, argLocket := bits w 16 5, argTarget := bits w 32 10 } }
def writeLeaseCmd (s : State) (v m : Nat) : State :=
  let w := v &&& m
  let op := bits w 0 3
  if 1 ≤ op ∧ op ≤ 5 then leaseCommand s op (bits w 32 19) else s
def writeBistSel (s : State) (high : Bool) (v m : Nat) : State :=
  let k := if high then 64 else 0
  { s with mem := { s.mem with bistSel := BitVec.ofNat 128 (
      let old := s.mem.bistSel.toNat
      if high then old % 2 ^ 64 + mergeW (old / 2 ^ 64) v m <<< k else mergeW (old % 2 ^ 64) v m + (old / 2 ^ 64) <<< 64) } }

def writeMem (s : State) (o v m : Nat) : State :=
  if o < 0x2000 then (if o % 0x40 = 0 then writeChCtl s (o / 0x40) v m else s)
  else if o = 0x6000 then writePoolCtl s v m
  else if o = 0x6010 then writePoolCmd s v m
  else if o = 0x6100 then writeLeaseCtl s v m
  else if o = 0x6108 then writeLeaseArg s v m
  else if o = 0x6110 then writeLeaseCmd s v m
  else if o = 0x7000 then writeBistSel s false v m
  else if o = 0x7008 then writeBistSel s true v m
  else if o = 0x7010 then (if w1s v m 0 then memBistGo s else s)
  else if o = 0x7018 then { s with mem := { s.mem with bistErr := w1c s.mem.bistErr v m 1 } }
  else s

/-! ## MSH (R52, R54, R58, R60, R62) -/

def writeHalfCtl (s : State) (h v m : Nat) : State :=
  let w := mergeW (s.half h).ctlWord v m
  let s1 := if hit m 0 5 then writeRate s h (bits w 0 5) else s
  if !hit m 8 1 then s1 else if bit w 8 then requestPark s1 h else requestUnpark s1 h
def writeMsh (s : State) (o v m : Nat) : State :=
  if o = 0x00 then writeHalfCtl s 0 v m
  else if o = 0x10 then writeHalfCtl s 1 v m
  else if o = 0x20 then { s with mesh := { s.mesh with weFull := w1c s.mesh.weFull v m 16, ewFull := w1c s.mesh.ewFull v m 17 } }
  else s

/-! ## CORE (R98, R99) -/

/-- CORE_CTL: STOP as written, and a step where STOP stood at 1. -/
def writeCoreCtl (s : State) (n v m : Nat) : State :=
  if !s.coreDebug then s
  else
    let stop := (s.core n).stop
    let s1 := s.updCore n (fun c => { c with stop := if hit m 0 1 then bit v 0 else c.stop })
    if stop && w1s v m 1 then runBundle s1 n 0 else s1
def writeCore (s : State) (o v m : Nat) : State := if o < 192 * 0x100 && o % 0x100 == 0 then writeCoreCtl s (o / 0x100) v m else s

/-! ## SET (R383, R385 to R387, R588) -/

def setHdrMask : Nat := 1 + 31 <<< 8 + 0x7FF <<< 16
def setRgnMask : Nat := 0x7FFF + 3 <<< 16
def setCoreMask : Nat := 0xFFFFFF + 1 <<< 31
/-- The tables of a shadow copy take a write. -/
def SetCopy.writeAt (c : SetCopy) (r v m : Nat) : SetCopy :=
  if r = 0x00 then { c with hdr := BitVec.ofNat 64 (mergeW c.hdr.toNat v m &&& setHdrMask) }
  else if r = 0x08 then { c with rgn := BitVec.ofNat 64 (mergeW c.rgn.toNat v m &&& setRgnMask) }
  else if 0x40 ≤ r ∧ r < 0xC0 then
    unpackInto c 8 (fun c i x => { c with chan := SMap.set (fun _ => 0) c.chan i (BitVec.ofNat 8 x) }) (fun c i => (c.chanAt i).toNat) v m (r - 0x40) 0 8
  else if 0xC0 ≤ r ∧ r < 0xD8 then
    unpackInto c 16 (fun c i x => { c with link := SMap.set (fun _ => 0) c.link i (BitVec.ofNat 16 (x % 2 ^ 11)) }) (fun c i => (c.linkAt i).toNat) v m ((r - 0xC0) / 2) 0 4
  else if 0x100 ≤ r ∧ r < 0x180 then { c with qset := putSetWord c.qset ((r - 0x100) / 8) v m }
  else if 0x1000 ≤ r ∧ r < 0x2000 then
    unpackInto c 32 (fun c i x => { c with core := SMap.set (fun _ => 0) c.core i (BitVec.ofNat 32 (x &&& setCoreMask)) }) (fun c i => (c.coreAt i).toNat) v m ((r - 0x1000) / 4) 0 2
  else c

/-- Whether the shadow tables of a Setting belong to a closed TDI: the active copy's Locket, or the shadow's when none is active. -/
def State.setClosed (s : State) (i : Nat) : Bool :=
  let x := s.setting i
  if x.active.valid then s.tdiClosed x.active.locket else false
/-- A write to the SET block: the active copies are read only; a locked shadow copy counts the write. -/
def writeSet (s : State) (o v m : Nat) : State :=
  let i := o / 0x4000
  let r := o % 0x4000
  let x := s.setting i
  if r < 0x2000 then s
  else if s.setClosed i then s
  else if x.shLock then s.setSetting i { x with shIgnored := satAdd 16 x.shIgnored 1 }
  else s.setSetting i { x with shadow := x.shadow.writeAt (r - 0x2000) v m }

/-! ## LKT (R431, R457 to R459, R588) -/

/-- A field of a wide table row: 64 bits at bit `k` of `n`. -/
def putWide (old k v m : Nat) : Nat := (old - (bits old k 64) <<< k) + mergeW (bits old k 64) v m <<< k

def LktCopy.writeAt (c : LktCopy) (r v m : Nat) : LktCopy :=
  if r = 0x00 then
    let w := mergeW c.cfgWord v m
    { c with valid := bit w 0, tag := bits w 8 16, home := bits w 32 10 }
  else if r = 0x08 then
    let w := mergeW c.schedWord v m
    { c with slice := bits w 0 17, preempt := bit w 17, switchClass := bits w 18 3, qp := bits w 24 3 }
  else if 0x20 ≤ r ∧ r < 0x38 then { c with cores := BitVec.ofNat 192 (putWide c.cores.toNat (8 * (r - 0x20)) v m) }
  else if 0x40 ≤ r ∧ r < 0x50 then { c with chans := BitVec.ofNat 128 (putWide c.chans.toNat (8 * (r - 0x40)) v m) }
  else if r = 0x50 then { c with facet := BitVec.ofNat 48 (mergeW c.facet.toNat v m) }
  else if 0x60 ≤ r ∧ r < 0x80 then
    unpackInto c 16 (fun c i x => if i < 15 then { c with floor := SMap.set zeroD c.floor i (x % 2 ^ 11) } else c) LktCopy.floorAt v m ((r - 0x60) / 2) 0 4
  else if 0x80 ≤ r ∧ r < 0xC0 then
    unpackInto c 16 (fun c i x => { c with share := SMap.set zeroD c.share i (x % 2 ^ 11) }) (fun c i => c.shareAt (i / 8) (i % 8)) v m ((r - 0x80) / 2) 0 4
  else if 0x100 ≤ r ∧ r < 0x180 then { c with member := putSetWord c.member ((r - 0x100) / 8) v m }
  else c
def writeTables (s : State) (l r v m : Nat) : State :=
  let x := s.slot l
  if r < 0x2000 ∨ x.teardown.isSome ∨ s.tdiClosed l then s
  else s.setSlot l { x with shadow := x.shadow.writeAt (r - 0x2000) v m }
/-- LKT_MOD_FLOOR (R459). -/
def writeModFloor (s : State) (v m : Nat) : State :=
  let k := s.lkt
  let w := mergeW (k.floorSeam + k.floorPort <<< 16 + k.floorPcie <<< 32) v m
  let a := bits w 0 11
  let b := bits w 16 11
  let c := bits w 32 11
  if 1024 < a ∨ 1024 < b ∨ 1024 < c then s else { s with lkt := { k with floorSeam := a, floorPort := b, floorPcie := c } }
def writeAcct (s : State) (l r v m : Nat) : State :=
  let x := s.slot l
  if r = 0x00 then s.setSlot l { x with acctSel := bits (mergeW x.acctSel v m) 0 16 }
  else if r = 0x40 then
    let w := mergeW (x.latUnit + x.latClass <<< 16 + x.latDir <<< 19) v m
    s.setSlot l { x with latUnit := bits w 0 16, latClass := bits w 16 3, latDir := bits w 19 1 }
  else s
def writeInv (s : State) (l r v m : Nat) : State :=
  let x := s.slot l
  if r = 0x400 then s.setSlot l { x with nonce0 := BitVec.ofNat 64 (mergeW x.nonce0.toNat v m) }
  else if r = 0x408 then s.setSlot l { x with nonce1 := BitVec.ofNat 64 (mergeW x.nonce1.toNat v m) }
  else if r = 0x410 then (if w1s v m 0 then inventoryGo s l else s)
  else s
def writeLkt (s : State) (o v m : Nat) : State :=
  if o < 0x80000 then writeTables s (o / 0x4000) (o % 0x4000) v m
  else if o = 0x80000 then writeModFloor s v m
  else if 0x90000 ≤ o ∧ o < 0x92000 then writeAcct s ((o - 0x90000) / 0x100) (o % 0x100) v m
  else if 0xA0000 ≤ o ∧ o < 0xC0000 then writeInv s ((o - 0xA0000) / 0x1000) (o % 0x1000) v m
  else s

/-! ## TRB (R490, R495, R497, R498) -/

def writeTrbId (s : State) (v m : Nat) : State :=
  let w := mergeW s.trb.idWord v m
  if s.trb.lock then s
  else { s with trb := { s.trb with idModule := bits w 0 10, kxM1 := bits w 10 3, kyM1 := bits w 13 3, kzM1 := bits w 16 4, parure := bits w 32 32 } }
def writeTrbCtl (s : State) (v m : Nat) : State :=
  let d := bits (mergeW s.trb.deadline v m) 0 7
  { s with trb := { s.trb with deadline := if 2 ≤ d ∧ d ≤ 64 then d else s.trb.deadline, lock := s.trb.lock || w1s v m 31 } }
def writeEcho (s : State) (v m : Nat) : State :=
  let d := bits (mergeW s.trb.echoDst v m) 0 10
  let s1 := { s with trb := { s.trb with echoDst := d } }
  if w1s v m 16 then sendEcho s1 d else s1
/-- GO written through the register image: what the loop-back counted is a free value (log 38). -/
def testGoFree (s : State) (p : Nat) : State :=
  let (k, s1) := s.takeFree
  testGo s1 p (Config.loopErrors k % 2 ^ 32) (BitVec.ofNat 64 (Config.loopUnits k))
def writeTrb (s : State) (o v m : Nat) : State :=
  if o = 0x00 then writeTrbId s v m
  else if o = 0x08 then writeTrbCtl s v m
  else if o = 0x18 then (if w1s v m 8 then clearRetired s else s)
  else if o = 0x20 then writeEcho s v m
  else if 0x1000 ≤ o ∧ o < 0x1C00 then
    let p := (o - 0x1000) / 0x100
    if o % 0x100 = 0 then writePortCtl s p v m
    else if o % 0x100 = 0x30 && w1s v m 0 then testGoFree s p else s
  else s

/-! ## PWR (R503, R507, R525 to R527) -/

/-- CAP_W and PEAK_W as a write leaves them (R525): each within its range against the other as it will stand. -/
def capPeak (p : Pwr) (cap peak : Nat) : Nat × Nat :=
  let limit := if peak ≤ 900 then peak else p.peakW
  let c := if 300 ≤ cap ∧ cap ≤ 750 ∧ cap ≤ limit then cap else p.capW
  (c, if c ≤ peak ∧ peak ≤ 900 then peak else p.peakW)
/-- A change of AGE_MODE (R507, R508): the quantity that the mode holds goes back to its fused value. -/
def setAgeMode (s : State) (b : Bool) : State :=
  let s1 := { s with pwr := { s.pwr with ageMode := b } }
  if b then { s1 with pdyn := { s1.pdyn with dies := [] } }
  else s1.forAll (s1.pdyn.cores.map (fun e => e.1)) (fun s n => s.updPcore n (fun p => { p with fUp := 0 }))
def writePwrCtl (s : State) (v m : Nat) : State :=
  let p := s.pwr
  let w := mergeW p.ctlWord v m
  let cap := bits w 0 10
  let peak := bits w 16 10
  let cp := capPeak p cap peak
  let ignored := cp.1 != cap || cp.2 != peak
  let s1 := { s with pwr := { p with capW := cp.1, peakW := cp.2, err := if ignored then 1 else p.err, lock := p.lock || w1s v m 63 } }
  let age := bit w 32
  if age = p.ageMode then s1
  else if p.lock || (upto 192).any (fun n => (s.coreOwner n).isSome) then { s1 with pwr := { s1.pwr with err := 2 } }
  else setAgeMode s1 age
/-- PWR_STAGGER and PWR_THERM take values within their ranges (R526). -/
def writeStagger (s : State) (v m : Nat) : State :=
  let b := bits (mergeW s.pwr.budget v m) 0 7
  if 4 ≤ b ∧ b ≤ 96 then { s with pwr := { s.pwr with budget := b } } else s
def writeTherm (s : State) (v m : Nat) : State :=
  let t := bits (mergeW s.pwr.throttleC v m) 0 8
  if 85 ≤ t ∧ t ≤ 100 then { s with pwr := { s.pwr with throttleC := t } } else s
/-- PWR_CORE_CTL (R527): the next control step takes it up. -/
def writePwrCore (s : State) (n v m : Nat) : State :=
  let p := s.pcore n
  let w := mergeW p.ctlWord v m
  let lo := bits w 0 7
  let hi := bits w 8 7
  let pin := bit w 15
  let bad (x : Nat) : Bool := decide (x < 0x20) || decide (0x48 < x)
  if bad lo || bad hi || (!pin && decide (hi < lo)) then s.setPcore n { p with err := true }
  else s.setPcore n { p with fmin := lo, fmax := hi, pin := pin }
def writePwr (s : State) (o v m : Nat) : State :=
  if o = 0x00 then writePwrCtl s v m
  else if o = 0x10 then writeStagger s v m
  else if o = 0x18 then writeTherm s v m
  else if 0x1000 ≤ o ∧ o < 0x1C00 then
    let n := (o - 0x1000) / 16
    if o % 16 = 0 then writePwrCore s n v m
    else s.updPcore n (fun p => { p with ovr := w1c p.ovr v m 20, err := w1c p.err v m 21 })
  else s

/-! ## INT (R539, R541) -/

/-- A write by a target through its own port. -/
def writeIntOwn (s : State) (o v m : Nat) : State :=
  if o < 0x2000 then writeIntSrc s (o / 8) (mergeW (intSrcWord (s.intSrc (o / 8)) &&& (2 ^ 16 - 1)) v m)
  else if 0x2000 ≤ o ∧ o < 0x2000 + 9 * 0x40 then
    let t := (o - 0x2000) / 0x40
    let y := s.intTgt t
    let r := o % 0x40
    if r = 0x00 then
      let w := mergeW (intTgtCtlWord y) v m
      s.setIntTgt t { y with prigroup := bits w 0 3, enable := bit w 8 }
    else if r = 0x08 then s.setIntTgt t { y with eoiErr := w1c y.eoiErr v m 25 }
    else if r = 0x18 then (if hit m 0 10 then endInterrupt s t (bits (v &&& m) 0 10) else s)
    else s
  else if o = 0x3000 then (if hit m 0 10 then swTrigger s (bits (v &&& m) 0 10) else s)
  else s
/-- The host's writes reach INT_SWTRIG alone (R539). -/
def writeInt (s : State) (o v m : Nat) : State := if o = 0x3000 then writeIntOwn s o v m else s

/-! ## RST (R564, R608) -/

def writeRstCtl (s : State) (v m : Nat) : State :=
  let w := v &&& m
  let t := bits w 16 16
  match bits w 0 3 with
  | 1 => if t < 192 then requestCoreReset s t else s
  | 2 => if t < 32 then startLocketReset s t 0 else s
  | 3 => startModuleReset s 1 false
  | 4 => requestTray s
  | 5 => retire s t 4
  | _ => s
def writeWdog (s : State) (v m : Nat) : State :=
  let r := s.rst
  let w := mergeW r.wdogWord v m
  let q := bits w 0 16
  let l := bits w 16 6
  let d := bits w 32 16
  { s with rst := { r with
      queueMs := if q = 0 ∨ 10 ≤ q then q else r.queueMs
      retireLog2 := if l = 0 ∨ (20 ≤ l ∧ l ≤ 40) then l else r.retireLog2
      dmaUs := if 100 ≤ d then d else r.dmaUs } }
def writeRst (s : State) (o v m : Nat) : State :=
  if o = 0x00 then writeRstCtl s v m
  else if o = 0x10 then writeWdog s v m
  else if o = 0x48 then
    let s1 := { s with test := { s.test with err := w1c s.test.err v m 2 } }
    if w1s v m 0 then selftestGo s1 else s1
  else s

/-! ## MGT (R597) -/

/-- MGT_FW_CTL: Decrid takes the commands while it runs its firmware. -/
def writeFwCtl (s : State) (v m : Nat) : State :=
  if !s.decridRuns then s
  else
    let s1 := if w1s v m 0 then activate s else s
    let s2 := if w1s v m 1 then commit s1 false else s1
    if w1s v m 2 then revert s2 else s2
def writeMgt (s : State) (o v m : Nat) : State :=
  if o = 0x20 then writeFwCtl s v m
  else if o = 0x40 then { s with mgt := { s.mgt with logSel := BitVec.ofNat 64 (mergeW s.mgt.logSel.toNat v m) } }
  else s

/-! ## The image of PF BAR0 and of a VF's BAR0 (R309 to R311) -/

/-- A word of the set-up registers is written, by the PF or through the image. -/
def writeWord (s : State) (off v m : Nat) : State :=
  let o := off % 2 ^ 20
  match off / 2 ^ 20 with
  | 0x0 => writePcx s o v m
  | 0x1 => writeQue s o v m true
  | 0x2 => writeFnc s o v m
  | 0x3 => writeXlt s o v m
  | 0x4 => writeMem s o v m
  | 0x5 => writeMsh s o v m
  | 0x6 => writeCore s o v m
  | 0x8 => writeSet s o v m
  | 0x9 => writeLkt s o v m
  | 0xA => writeTrb s o v m
  | 0xB => writePwr s o v m
  | 0xC => writeInt s o v m
  | 0xD => writeRst s o v m
  | 0xE => writeMgt s o v m
  | _ => s

/-- A word of the BAR0 of VF `f` is written (R311, R348, R457). -/
def writeVfWord (s : State) (f off v m : Nat) : State :=
  let l := f - 1
  if 0x1000 ≤ off ∧ off < 0x1040 then writeFqSet s l (off - 0x1000) v m
  else if 0x2000 ≤ off ∧ off < 0x2040 then writeEvSet s f (off - 0x2000) v m
  else if 0x4000 ≤ off ∧ off < 0x6000 then
    match s.pageQueue f ((off - 0x4000) / 0x40) with
    | some q => writeSqSet s q (off % 0x40) v m false
    | none => s
  else if 0x6000 ≤ off ∧ off < 0x8000 then
    match s.slotRing f ((off - 0x6000) / 0x40) with
    | some c => writeCqSet s c (off % 0x40) v m false
    | none => s
  else if 0xA000 ≤ off ∧ off < 0xA100 then writeAcct s l (off - 0xA000) v m
  else if 0xC000 ≤ off ∧ off < 0xD000 then writeInv s l (off - 0xC000) v m
  else if 0xE000 ≤ off ∧ off < 0xF000 then writeMsix s f (off - 0xE000) v m
  else s

/-- Write bytes of a number from `off` on, word by word. -/
def writeRegs (s : State) (put : State → Nat → Nat → Nat → State) (off size value : Nat) : State :=
  (wordsOf off size).foldl (fun s x =>
    put s x.1 ((value >>> (8 * (x.1 + x.2.2 - off))) <<< (8 * x.2.2) % 2 ^ 64) (byteMask x.2.1 x.2.2)) s

end Sys2Proof.Machine
end

