-- ==== Sys2Proof/Machine/Registers.lean ====
section
/-! DEFINITION. The commands that reach registers: a write to a register without a row of its own, the reads that clear (R23), and the
answers that cores and copy engines take from the block (R86, R310, R332, R333). -/

namespace Sys2Proof.Machine

/-! ## A write by the host or by a target -/

/-- REGISTER_WRITE (R22, R23, R309 to R311, R539): `size` bytes from `off` on, in the writer's own view of the registers. -/
def registerWrite (s : State) (w : Writer) (off size value : Nat) : State :=
  match w with
  | .target => writeRegs s writeIntOwn off size value
  | .host fn =>
    if fn.val = 0 then (if s.pfAnswers then writeRegs s writeWord off size value else s)
    else if s.vfAnswers fn then writeRegs s (fun s => writeVfWord s fn) off size value
    else s

/-- REGISTER_WRITE (R23). -/
def execRegisterWrite (w : Writer) (off : Nat) (size : Nat) (value : BitVec 64) (s : State) : Res :=
  .next (registerWrite s w off size value.toNat)

/-! ## Reads that clear -/

/-- The host reads a whole register of the PF's BAR0. -/
def hostReads (s : State) (r : State × Nat) : State := if s.pfAnswers then answerRead r.1 r.2 else s

/-- A VF reads the whole register at offset `off` of its BAR0 (R307, R311); nothing is read where the VF does not answer or where its
BAR0 does not hold the register. -/
def vfReads (s : State) (fn : FnIx) (off : Option Nat) : State :=
  match off.bind (fun o => hostRead s fn false o 8) with
  | some r => answerRead r.1 (leNat r.2)
  | none => s

/-- MEM_CH_CORR_READ (R231). -/
def execMemChCorrRead (c : ChIx) (s : State) : Res := .next (hostReads s (readChCorr s c fullMask))
/-- MEM_CH_RETRY_READ (R231). -/
def execMemChRetryRead (c : ChIx) (s : State) : Res := .next (hostReads s (readChRetry s c fullMask))
/-- MEM_CH_POISON_READ (R231). -/
def execMemChPoisonRead (c : ChIx) (s : State) : Res := .next (hostReads s (readChPoison s c fullMask))
/-- XLT_FQ_STATUS_READ (R300). -/
def execXltFqStatusRead (r : ReadBy SlotIx) (s : State) : Res :=
  .next (if r.fn = 0 then hostReads s (readFqStatus s r.ix fullMask)
    else vfReads s r.fn (if r.ix.val + 1 = r.fn.val then some 0x1020 else none))
/-- XLT_STATUS_READ (R301). -/
def execXltStatusRead (s : State) : Res := .next (hostReads s (readXltStatus s fullMask))
/-- QUE_SQ_STATUS_READ (R349): a VF reads the queue in its slot. -/
def execQueSqStatusRead (r : ReadBy SqIx) (s : State) : Res :=
  .next (if r.fn = 0 then hostReads s (readSqStatus s r.ix fullMask)
    else vfReads s r.fn (if (s.sq r.ix).func = r.fn.val then some (0x4028 + (s.sq r.ix).slot * 0x40) else none))
/-- QUE_EV_STATUS_READ (R350). -/
def execQueEvStatusRead (r : ReadBy FnIx) (s : State) : Res :=
  .next (if r.fn = 0 then hostReads s (readEvStatus s r.ix fullMask)
    else vfReads s r.fn (if r.ix = r.fn then some 0x2028 else none))
/-- FNC_WAITS_READ (R379). -/
def execFncWaitsRead (s : State) : Res := .next (hostReads s (readWaits s fullMask))
/-- SET_STATUS_READ (R388). -/
def execSetStatusRead (i : SetIx) (s : State) : Res := .next (hostReads s (readSetStatus s i fullMask))
/-- LKT_LAT_VAL_READ (R442). -/
def execLktLatValRead (r : ReadBy SlotIx) (s : State) : Res :=
  .next (if r.fn = 0 then hostReads s (readLatVal s r.ix fullMask)
    else vfReads s r.fn (if r.ix.val + 1 = r.fn.val then some 0xA048 else none))
/-- TRB_PORT_FEC_READ (R498). -/
def execTrbPortFecRead (p : PortIx) (s : State) : Res := .next (hostReads s (readPortFec s p fullMask))
/-- TRB_PORT_LINK_READ (R498). -/
def execTrbPortLinkRead (p : PortIx) (s : State) : Res := .next (hostReads s (readPortLink s p fullMask))
/-- TRB_PORT_DROP_READ (R498). -/
def execTrbPortDropRead (p : PortIx) (s : State) : Res := .next (hostReads s (readPortDrop s p fullMask))
/-- TRB_PORT_TEST_READ (R498). -/
def execTrbPortTestRead (p : PortIx) (s : State) : Res := .next (hostReads s (readPortTest s p fullMask))
/-- PWR_STATUS_READ (R525). -/
def execPwrStatusRead (s : State) : Res := .next (hostReads s (readPwrStatus s fullMask))
/-- PWR_STAGGER_READ (R526). -/
def execPwrStaggerRead (s : State) : Res := .next (hostReads s (readStagger s fullMask))
/-- PWR_MODEL_READ (R526). -/
def execPwrModelRead (s : State) : Res := .next (hostReads s (readModel s fullMask))
/-- PWR_CORE_STATUS_READ (R527). -/
def execPwrCoreStatusRead (n : CoreIx) (s : State) : Res := .next (hostReads s (readPwrCore s n fullMask))
/-- MGT_FW_STATUS_READ (R597). -/
def execMgtFwStatusRead (s : State) : Res := .next (hostReads s (readFwStatus s fullMask))
/-- MGT_LOG_STATUS_READ (R597). -/
def execMgtLogStatusRead (s : State) : Res := .next (hostReads s (readLogStatus s fullMask))

/-! ## Answers to engines -/

/-- A request of a privileged task to the module's registers is performed (R310): as an access of the PF through its BAR0. -/
def performMmio (s : State) (r : Req) (off : Nat) : State × List (BitVec 8) :=
  match r.kind with
  | .write _ => (writeRegs s writeWord off r.data.length (leNat r.data), [])
  | _ => readRegs s readWord off r.len

/-- Whether an answer is the next on its way: answers from one stop to one core come in order (R39). -/
def State.nextAnswer (s : State) (a : Answer) : Bool :=
  !((s.mem.answers.takeWhile (fun b => b.req.rid != a.req.rid)).any (fun b => b.from' == a.from' && b.req.source == a.req.source))

/-- The core of a request takes its answer (R86); nobody waits for the answer of a request that was given up. -/
def takeAnswer (s : State) (r : Req) (status : Nat) (data : List (BitVec 8)) : State :=
  match r.src, r.dropped with
  | .op tid seq row off, false => deliver s tid seq row off status data
  | _, _ => s

/-- STREAM_RESPONSE (R86): the core takes an answer, or a register access is performed and answered. -/
def streamResponse (s : State) (rid : Nat) : State :=
  match s.mem.answers.find? (fun a => a.req.rid == rid) with
  | some a =>
    if s.nextAnswer a then
      takeAnswer { s with mem := { s.mem with answers := s.mem.answers.filter (fun b => b.req.rid != rid) } } a.req a.status a.data
    else s
  | none =>
    match s.nextReq rid with
    | none => s
    | some r =>
      match r.place with
      | .mmio off =>
        let o := performMmio (takeReq s rid) r off
        takeAnswer (settleEndings (releaseHeld o.1)) r stOK o.2
      | _ => s

/-- STREAM_RESPONSE (R86). -/
def execStreamResponse (rid : Nat) (s : State) : Res := .next (streamResponse s rid)

/-- HOST_READ_COMPLETION (R332, R333): host memory answers a read of a copy job or of a load, or refuses it. -/
def hostReadCompletion (s : State) (rid : Nat) (ok : Bool) (data : List (BitVec 8)) : State :=
  match s.mem.jobs.find? (fun j => j.fetchId == rid + 1) with
  | none => s
  | some j =>
    if !ok then jobPumpEngine ((jobFail s j.jid stHOSTERR).updJob j.jid (fun j => { j with fetchId := 0 })) j.ce
    else if data.length ≠ j.pieceLen then s
    else
      let s1 := notePcie s j.locket j.facet j.ctx 1 data.length
      let s2 := s1.updJob j.jid (fun j =>
        let j1 := { j with fetchId := 0 }
        if j.code then { j1 with got := patch j1.got j.pos data }
        else { j1 with ready := j1.ready ++
          (upto (data.length / 64)).map (fun i => (j.pos + 64 * i, (data.drop (64 * i)).take 64, false, pcieStop)) })
      jobPumpEngine s2 j.ce

/-- HOST_READ_COMPLETION (R332, R333). -/
def execHostReadCompletion (rid : Nat) (ok : Bool) (data : List (BitVec 8)) (s : State) : Res :=
  .next (hostReadCompletion s rid ok data)

end Sys2Proof.Machine
end

