-- ==== Sys2Proof/Machine/Dispatch.lean ====
section
/-! DEFINITION. The one match over commands: each arm calls the meaning of its command. -/

namespace Sys2Proof.Machine

/-- The effect of a command on everything but the queue of commands. -/
def exec (i : Instr) (s : State) : Host.Outcome State Fault Refusal :=
  match i with
  | .bundleIssue n extra => Sys2Proof.Machine.execBundleIssue n extra s
  | .streamResponse rid => Sys2Proof.Machine.execStreamResponse rid s
  | .farCacheLookup e evicted => Sys2Proof.Machine.execFarCacheLookup e evicted s
  | .rangeWalkStep e x => Sys2Proof.Machine.execRangeWalkStep e x s
  | .tileOccupancyEnd n a => Sys2Proof.Machine.execTileOccupancyEnd n a s
  | .tileSecondPassEnd n a => Sys2Proof.Machine.execTileSecondPassEnd n a s
  | .staggerStep => Sys2Proof.Machine.execStaggerStep s
  | .arrayRampComplete n a => Sys2Proof.Machine.execArrayRampComplete n a s
  | .arrayIdle n a => Sys2Proof.Machine.execArrayIdle n a s
  | .arrayRowGate n a => Sys2Proof.Machine.execArrayRowGate n a s
  | .taskStart tid => Sys2Proof.Machine.execTaskStart tid s
  | .taskCompletion n => Sys2Proof.Machine.execTaskCompletion n s
  | .sliceExpiry n => Sys2Proof.Machine.execSliceExpiry n s
  | .switchOutStart n progress => Sys2Proof.Machine.execSwitchOutStart n progress s
  | .switchDrainTimeout n => Sys2Proof.Machine.execSwitchDrainTimeout n s
  | .switchOutComplete n => Sys2Proof.Machine.execSwitchOutComplete n s
  | .switchInStart n tid => Sys2Proof.Machine.execSwitchInStart n tid s
  | .switchInComplete n => Sys2Proof.Machine.execSwitchInComplete n s
  | .noRetireTimeout n => Sys2Proof.Machine.execNoRetireTimeout n s
  | .dmaStallTimeout u => Sys2Proof.Machine.execDmaStallTimeout u s
  | .coreStop n => Sys2Proof.Machine.execCoreStop n s
  | .coreResume n => Sys2Proof.Machine.execCoreResume n s
  | .coreStep n extra => Sys2Proof.Machine.execCoreStep n extra s
  | .channelRequest w x => Sys2Proof.Machine.execChannelRequest w x s
  | .fenceSignal rid x => Sys2Proof.Machine.execFenceSignal rid x s
  | .channelRefresh c bank => Sys2Proof.Machine.execChannelRefresh c bank s
  | .windowAccess w => Sys2Proof.Machine.execWindowAccess w s
  | .windowAccessTimeout rid => Sys2Proof.Machine.execWindowAccessTimeout rid s
  | .scrubComplete c us => Sys2Proof.Machine.execScrubComplete c us s
  | .copyJobComplete jid => Sys2Proof.Machine.execCopyJobComplete jid s
  | .moveJobComplete ix k e => Sys2Proof.Machine.execMoveJobComplete ix k e s
  | .swapDrainComplete ix => Sys2Proof.Machine.execSwapDrainComplete ix s
  | .swapUnlock ix us => Sys2Proof.Machine.execSwapUnlock ix us s
  | .doorbell fn page off size value => Sys2Proof.Machine.execDoorbell fn page off size value s
  | .descriptorFetch q => Sys2Proof.Machine.execDescriptorFetch q s
  | .descriptorArrival q idx data => Sys2Proof.Machine.execDescriptorArrival q idx data s
  | .descriptorFetchError q idx err => Sys2Proof.Machine.execDescriptorFetchError q idx err s
  | .completionTimeout q idx => Sys2Proof.Machine.execCompletionTimeout q idx s
  | .nopDescriptor q => Sys2Proof.Machine.execNopDescriptor q s
  | .task q => Sys2Proof.Machine.execTask q s
  | .codeLoad q => Sys2Proof.Machine.execCodeLoad q s
  | .codeLoadComplete load => Sys2Proof.Machine.execCodeLoadComplete load s
  | .copy q ce => Sys2Proof.Machine.execCopy q ce s
  | .scrub q => Sys2Proof.Machine.execScrub q s
  | .contextCreate q => Sys2Proof.Machine.execContextCreate q s
  | .contextDestroy q => Sys2Proof.Machine.execContextDestroy q s
  | .contextAbort q => Sys2Proof.Machine.execContextAbort q s
  | .contextAbortDrained ctx => Sys2Proof.Machine.execContextAbortDrained ctx s
  | .rangeInval q => Sys2Proof.Machine.execRangeInval q s
  | .rangeInvalComplete q idx => Sys2Proof.Machine.execRangeInvalComplete q idx s
  | .faultResolveRetry q => Sys2Proof.Machine.execFaultResolveRetry q s
  | .faultResolveError q => Sys2Proof.Machine.execFaultResolveError q s
  | .setSwap q => Sys2Proof.Machine.execSetSwap q s
  | .setSwapLocket q => Sys2Proof.Machine.execSetSwapLocket q s
  | .locketCreate q => Sys2Proof.Machine.execLocketCreate q s
  | .locketTeardown q => Sys2Proof.Machine.execLocketTeardown q s
  | .teardownDrainEnd l => Sys2Proof.Machine.execTeardownDrainEnd l s
  | .teardownMemberMissing l m => Sys2Proof.Machine.execTeardownMemberMissing l m s
  | .rolePool q => Sys2Proof.Machine.execRolePool q s
  | .roleCompute q => Sys2Proof.Machine.execRoleCompute q s
  | .sqEnable fn q value => Sys2Proof.Machine.execSqEnable fn q value s
  | .sqDisable fn q => Sys2Proof.Machine.execSqDisable fn q s
  | .cqEnable fn c value => Sys2Proof.Machine.execCqEnable fn c value s
  | .evEnable fn value => Sys2Proof.Machine.execEvEnable fn value s
  | .fqEnable fn l value => Sys2Proof.Machine.execFqEnable fn l value s
  | .cqConsWrite fn c value => Sys2Proof.Machine.execCqConsWrite fn c value s
  | .evConsWrite fn value => Sys2Proof.Machine.execEvConsWrite fn value s
  | .fqConsWrite fn l value => Sys2Proof.Machine.execFqConsWrite fn l value s
  | .msixModerationTimeout kind ring => Sys2Proof.Machine.execMsixModerationTimeout kind ring s
  | .msixUnmask fn vec => Sys2Proof.Machine.execMsixUnmask fn vec s
  | .queFnMsixWrite fn value => Sys2Proof.Machine.execQueFnMsixWrite fn value s
  | .fenceCreate index x => Sys2Proof.Machine.execFenceCreate index x s
  | .fenceDestroy index => Sys2Proof.Machine.execFenceDestroy index s
  | .fencePoll q x => Sys2Proof.Machine.execFencePoll q x s
  | .alloc locket block => Sys2Proof.Machine.execAlloc locket block s
  | .revoke block => Sys2Proof.Machine.execRevoke block s
  | .free block => Sys2Proof.Machine.execFree block s
  | .blockClearDone block => Sys2Proof.Machine.execBlockClearDone block s
  | .accept block => Sys2Proof.Machine.execAccept block s
  | .grant block => Sys2Proof.Machine.execGrant block s
  | .release block => Sys2Proof.Machine.execRelease block s
  | .probe block => Sys2Proof.Machine.execProbe block s
  | .drop block => Sys2Proof.Machine.execDrop block s
  | .leaseProbeTimeout => Sys2Proof.Machine.execLeaseProbeTimeout s
  | .inventoryGo fn l => Sys2Proof.Machine.execInventoryGo fn l s
  | .inventoryComplete l => Sys2Proof.Machine.execInventoryComplete l s
  | .meshRateWrite h rate => Sys2Proof.Machine.execMeshRateWrite h rate s
  | .meshRateEffect h => Sys2Proof.Machine.execMeshRateEffect h s
  | .parkRequest h => Sys2Proof.Machine.execParkRequest h s
  | .parkComplete h => Sys2Proof.Machine.execParkComplete h s
  | .unparkRequest h => Sys2Proof.Machine.execUnparkRequest h s
  | .unparkComplete h => Sys2Proof.Machine.execUnparkComplete h s
  | .data p flit wait => Sys2Proof.Machine.execData p flit wait s
  | .nak p flit wait => Sys2Proof.Machine.execNak p flit wait s
  | .idle p flit wait => Sys2Proof.Machine.execIdle p flit wait s
  | .hello p flit => Sys2Proof.Machine.execHello p flit s
  | .loopFlit p flit => Sys2Proof.Machine.execLoopFlit p flit s
  | .helloTimer p => Sys2Proof.Machine.execHelloTimer p s
  | .replayTimeout p => Sys2Proof.Machine.execReplayTimeout p s
  | .portEnable p value => Sys2Proof.Machine.execPortEnable p value s
  | .portDisable p => Sys2Proof.Machine.execPortDisable p s
  | .portTrained p lanes slow => Sys2Proof.Machine.execPortTrained p lanes slow s
  | .fecLockLoss p => Sys2Proof.Machine.execFecLockLoss p s
  | .retrainComplete p => Sys2Proof.Machine.execRetrainComplete p s
  | .retrainTimeout p failed => Sys2Proof.Machine.execRetrainTimeout p failed s
  | .routeHoldEnd m => Sys2Proof.Machine.execRouteHoldEnd m s
  | .read pid resid => Sys2Proof.Machine.execRead pid resid s
  | .write pid resid => Sys2Proof.Machine.execWrite pid resid s
  | .atomic pid resid => Sys2Proof.Machine.execAtomic pid resid s
  | .respData pid resid => Sys2Proof.Machine.execRespData pid resid s
  | .respAck pid resid => Sys2Proof.Machine.execRespAck pid resid s
  | .fenceQuery pid resid => Sys2Proof.Machine.execFenceQuery pid resid s
  | .fenceRelease pid resid => Sys2Proof.Machine.execFenceRelease pid resid s
  | .leaseOperation pid resid => Sys2Proof.Machine.execLeaseOperation pid resid s
  | .remoteLaunch pid resid => Sys2Proof.Machine.execRemoteLaunch pid resid s
  | .teardownStep pid resid => Sys2Proof.Machine.execTeardownStep pid resid s
  | .teardownReport pid resid => Sys2Proof.Machine.execTeardownReport pid resid s
  | .controlResp pid resid => Sys2Proof.Machine.execControlResp pid resid s
  | .echo pid resid => Sys2Proof.Machine.execEcho pid resid s
  | .echoResp pid resid rttNs => Sys2Proof.Machine.execEchoResp pid resid rttNs s
  | .transitForward pid resid => Sys2Proof.Machine.execTransitForward pid resid s
  | .requestDeadline p reqid => Sys2Proof.Machine.execRequestDeadline p reqid s
  | .echoGo dst => Sys2Proof.Machine.execEchoGo dst s
  | .retiredClr => Sys2Proof.Machine.execRetiredClr s
  | .testGo p errors units => Sys2Proof.Machine.execTestGo p errors units s
  | .powerControlStep r => Sys2Proof.Machine.execPowerControlStep r s
  | .inputPowerSample watts => Sys2Proof.Machine.execInputPowerSample watts s
  | .peakSkipRelease => Sys2Proof.Machine.execPeakSkipRelease s
  | .setpointTransitionComplete n => Sys2Proof.Machine.execSetpointTransitionComplete n s
  | .droopTrip n => Sys2Proof.Machine.execDroopTrip n s
  | .droopRecovery n => Sys2Proof.Machine.execDroopRecovery n s
  | .brakeAssert => Sys2Proof.Machine.execBrakeAssert s
  | .brakeDeassert => Sys2Proof.Machine.execBrakeDeassert s
  | .brakeHoldEnd => Sys2Proof.Machine.execBrakeHoldEnd s
  | .marginSample n alert margin => Sys2Proof.Machine.execMarginSample n alert margin s
  | .thermalSample sensor eighths => Sys2Proof.Machine.execThermalSample sensor eighths s
  | .throttleReleaseStep => Sys2Proof.Machine.execThrottleReleaseStep s
  | .voltageSample monitor mv inRange => Sys2Proof.Machine.execVoltageSample monitor mv inRange s
  | .interruptEdge ix => Sys2Proof.Machine.execInterruptEdge ix s
  | .intTgtAck t => Sys2Proof.Machine.execIntTgtAck t s
  | .intTgtEoi t source => Sys2Proof.Machine.execIntTgtEoi t source s
  | .intSwtrig source => Sys2Proof.Machine.execIntSwtrig source s
  | .intSrcCfgWrite ix value => Sys2Proof.Machine.execIntSrcCfgWrite ix value s
  | .intMaskEffect ix => Sys2Proof.Machine.execIntMaskEffect ix s
  | .progressWatchdog q => Sys2Proof.Machine.execProgressWatchdog q s
  | .overrun level target late boundUs => Sys2Proof.Machine.execOverrun level target late boundUs s
  | .eccUncorrectable core => Sys2Proof.Machine.execEccUncorrectable core s
  | .coreReset n => Sys2Proof.Machine.execCoreReset n s
  | .coreResetComplete n us => Sys2Proof.Machine.execCoreResetComplete n us s
  | .locketReset l => Sys2Proof.Machine.execLocketReset l s
  | .locketResetComplete l us => Sys2Proof.Machine.execLocketResetComplete l us s
  | .moduleReset cause => Sys2Proof.Machine.execModuleReset cause s
  | .moduleResetComplete failedCores failedChans us => Sys2Proof.Machine.execModuleResetComplete failedCores failedChans us s
  | .powerCycle => Sys2Proof.Machine.execPowerCycle s
  | .retireUnit unit => Sys2Proof.Machine.execRetireUnit unit s
  | .decridWatchdog withinTenSeconds => Sys2Proof.Machine.execDecridWatchdog withinTenSeconds s
  | .logFlush => Sys2Proof.Machine.execLogFlush s
  | .correctedSummary count => Sys2Proof.Machine.execCorrectedSummary count s
  | .powerUp failedStep => Sys2Proof.Machine.execPowerUp failedStep s
  | .powerUpComplete failedCores failedChans => Sys2Proof.Machine.execPowerUpComplete failedCores failedChans s
  | .inputOutOfRange => Sys2Proof.Machine.execInputOutOfRange s
  | .perstAssert => Sys2Proof.Machine.execPerstAssert s
  | .perstDeassert => Sys2Proof.Machine.execPerstDeassert s
  | .pcieLinkTrained l => Sys2Proof.Machine.execPcieLinkTrained l s
  | .pcieLoopback => Sys2Proof.Machine.execPcieLoopback s
  | .vfFlr v => Sys2Proof.Machine.execVfFlr v s
  | .pfFlr => Sys2Proof.Machine.execPfFlr s
  | .vfEnable enable numVfs => Sys2Proof.Machine.execVfEnable enable numVfs s
  | .configRequest fn wr reg value => Sys2Proof.Machine.execConfigRequest fn wr reg value s
  | .bar4Access off wr len data tag => Sys2Proof.Machine.execBar4Access off wr len data tag s
  | .selftestGo => Sys2Proof.Machine.execSelftestGo s
  | .selftestComplete meshFail dbusFail unit => Sys2Proof.Machine.execSelftestComplete meshFail dbusFail unit s
  | .memBistGo => Sys2Proof.Machine.execMemBistGo s
  | .memBistChannelDone c passed us => Sys2Proof.Machine.execMemBistChannelDone c passed us s
  | .activate => Sys2Proof.Machine.execActivate s
  | .commit fuseFail => Sys2Proof.Machine.execCommit fuseFail s
  | .revert => Sys2Proof.Machine.execRevert s
  | .setEndpointId t eid => Sys2Proof.Machine.execSetEndpointId t eid s
  | .getSensorReading sensor => Sys2Proof.Machine.execGetSensorReading sensor s
  | .setEventReceiver t eid => Sys2Proof.Machine.execSetEventReceiver t eid s
  | .requestUpdate t => Sys2Proof.Machine.execRequestUpdate t s
  | .requestFirmwareData off data last => Sys2Proof.Machine.execRequestFirmwareData off data last s
  | .verifyComplete => Sys2Proof.Machine.execVerifyComplete s
  | .activateFirmware => Sys2Proof.Machine.execActivateFirmware s
  | .getVersion t => Sys2Proof.Machine.execGetVersion t s
  | .getCapabilities t => Sys2Proof.Machine.execGetCapabilities t s
  | .negotiateAlgorithms t ok => Sys2Proof.Machine.execNegotiateAlgorithms t ok s
  | .getDigests t => Sys2Proof.Machine.execGetDigests t s
  | .getCertificate t slot off len => Sys2Proof.Machine.execGetCertificate t slot off len s
  | .challenge t slot nonce => Sys2Proof.Machine.execChallenge t slot nonce s
  | .getMeasurements t index nonce => Sys2Proof.Machine.execGetMeasurements t index nonce s
  | .keyExchange t reqId => Sys2Proof.Machine.execKeyExchange t reqId s
  | .finish sid mutualKey ok => Sys2Proof.Machine.execFinish sid mutualKey ok s
  | .heartbeat sid => Sys2Proof.Machine.execHeartbeat sid s
  | .keyUpdate sid => Sys2Proof.Machine.execKeyUpdate sid s
  | .endSession sid => Sys2Proof.Machine.execEndSession sid s
  | .ownerSet sid root sig => Sys2Proof.Machine.execOwnerSet sid root sig s
  | .keyInstall sid tag gen key => Sys2Proof.Machine.execKeyInstall sid tag gen key s
  | .keyCommit sid tag gen => Sys2Proof.Machine.execKeyCommit sid tag gen s
  | .keyRetireGen sid tag gen => Sys2Proof.Machine.execKeyRetireGen sid tag gen s
  | .logRead sid first count => Sys2Proof.Machine.execLogRead sid first count s
  | .debugNonce sid => Sys2Proof.Machine.execDebugNonce sid s
  | .debugUnlock sid token pub => Sys2Proof.Machine.execDebugUnlock sid token pub s
  | .debugLock sid => Sys2Proof.Machine.execDebugLock sid s
  | .retireLift sid token pub => Sys2Proof.Machine.execRetireLift sid token pub s
  | .debugLifetimeEnd => Sys2Proof.Machine.execDebugLifetimeEnd s
  | .debugNonceExpiry => Sys2Proof.Machine.execDebugNonceExpiry s
  | .kSetGo msg keys => Sys2Proof.Machine.execKSetGo msg keys s
  | .ideStreamFailure fn => Sys2Proof.Machine.execIdeStreamFailure fn s
  | .getTdispVersion v => Sys2Proof.Machine.execGetTdispVersion v s
  | .getTdispCapabilities v => Sys2Proof.Machine.execGetTdispCapabilities v s
  | .lockInterfaceRequest v => Sys2Proof.Machine.execLockInterfaceRequest v s
  | .getDeviceInterfaceReport v => Sys2Proof.Machine.execGetDeviceInterfaceReport v s
  | .getDeviceInterfaceState v => Sys2Proof.Machine.execGetDeviceInterfaceState v s
  | .startInterfaceRequest v => Sys2Proof.Machine.execStartInterfaceRequest v s
  | .stopInterfaceRequest v => Sys2Proof.Machine.execStopInterfaceRequest v s
  | .idcode => Sys2Proof.Machine.execIdcode s
  | .samplePreload cells => Sys2Proof.Machine.execSamplePreload cells s
  | .extest => Sys2Proof.Machine.execExtest s
  | .clamp => Sys2Proof.Machine.execClamp s
  | .highz => Sys2Proof.Machine.execHighz s
  | .extestPulse => Sys2Proof.Machine.execExtestPulse s
  | .extestTrain => Sys2Proof.Machine.execExtestTrain s
  | .bypass => Sys2Proof.Machine.execBypass s
  | .tapReset => Sys2Proof.Machine.execTapReset s
  | .mshHalfStatusRead h => Sys2Proof.Machine.execMshHalfStatusRead h s
  | .mshParkedCntRead => Sys2Proof.Machine.execMshParkedCntRead s
  | .memChCorrRead c => Sys2Proof.Machine.execMemChCorrRead c s
  | .memChRetryRead c => Sys2Proof.Machine.execMemChRetryRead c s
  | .memChPoisonRead c => Sys2Proof.Machine.execMemChPoisonRead c s
  | .xltFqStatusRead r => Sys2Proof.Machine.execXltFqStatusRead r s
  | .xltStatusRead => Sys2Proof.Machine.execXltStatusRead s
  | .queSqStatusRead r => Sys2Proof.Machine.execQueSqStatusRead r s
  | .queEvStatusRead r => Sys2Proof.Machine.execQueEvStatusRead r s
  | .fncWaitsRead => Sys2Proof.Machine.execFncWaitsRead s
  | .setStatusRead ix => Sys2Proof.Machine.execSetStatusRead ix s
  | .lktLatValRead r => Sys2Proof.Machine.execLktLatValRead r s
  | .trbPortFecRead p => Sys2Proof.Machine.execTrbPortFecRead p s
  | .trbPortLinkRead p => Sys2Proof.Machine.execTrbPortLinkRead p s
  | .trbPortDropRead p => Sys2Proof.Machine.execTrbPortDropRead p s
  | .trbPortTestRead p => Sys2Proof.Machine.execTrbPortTestRead p s
  | .pwrStatusRead => Sys2Proof.Machine.execPwrStatusRead s
  | .pwrStaggerRead => Sys2Proof.Machine.execPwrStaggerRead s
  | .pwrModelRead => Sys2Proof.Machine.execPwrModelRead s
  | .pwrCoreStatusRead n => Sys2Proof.Machine.execPwrCoreStatusRead n s
  | .mgtFwStatusRead => Sys2Proof.Machine.execMgtFwStatusRead s
  | .mgtLogStatusRead => Sys2Proof.Machine.execMgtLogStatusRead s
  | .memBistFailRead high => Sys2Proof.Machine.execMemBistFailRead high s
  | .registerWrite w off size value => Sys2Proof.Machine.execRegisterWrite w off size value s
  | .badFlit p overlap flit => Sys2Proof.Machine.execBadFlit p overlap flit s
  | .badpkt pid resid => Sys2Proof.Machine.execBadpkt pid resid s
  | .hostReadCompletion rid ok data => Sys2Proof.Machine.execHostReadCompletion rid ok data s
  | .decridRestartComplete => Sys2Proof.Machine.execDecridRestartComplete s
  | .noreflectTimeout p => Sys2Proof.Machine.execNoreflectTimeout p s

end Sys2Proof.Machine
end

