-- ==== Sys2Proof/Safety.lean ====
section
/-! DEFINITION. What counts as a safe state of the block, in the terms the statements use: byte memories in canonical form, interrupt
nesting within bounds, power limits within theirs, the tables of cores and of interrupt sources in their one form. -/

namespace Sys2Proof.Machine

/-- Every byte memory is in the one canonical form: the DRAM channels, tile memories and instruction memories. -/
def Memory.wf (s : State) : Bool :=
  s.mem.chans.all (fun e => e.2.mem.wf) && s.cores.all (fun e => e.2.tm.wf && e.2.im.wf)

/-- No target has more than 8 active sources (R534). -/
def State.nesting (s : State) : Prop := ∀ t, (s.intTgt t).stack.length ≤ 8

/-- CAP_W and PEAK_W within the limits of R525: 300 ≤ CAP_W ≤ 750 and CAP_W ≤ PEAK_W ≤ 900. -/
def State.limits (s : State) : Prop := 300 ≤ s.pwr.capW ∧ s.pwr.capW ≤ 750 ∧ s.pwr.capW ≤ s.pwr.peakW ∧ s.pwr.peakW ≤ 900

/-- The tables that the model walks entry by entry, those of the cores' power state and of the interrupt sources, are in their one canonical
form: rising keys, no entry that equals an unlisted one. -/
def State.tables (s : State) : Prop := SMap.wf pcoreD s.pdyn.cores = true ∧ SMap.wf intSrcD s.int.srcs = true

end Sys2Proof.Machine
end

