-- ==== Sys2Proof/Certificates/Slice0/Obligations.lean ====
section
/-! DEFINITION. The statements for the provers. Each says of one family of commands, for every state and operands that meet its
hypotheses, that the command answers a next state, what that state holds, and what it leaves as it was. -/

open Sys2Proof Sys2Proof.Machine

/-! ## Mesh (01) -/

/-- R52, R60, R521: a RATE from 4 to 16 written to a half is stored and its clock is asked for, to take effect later: what is asked for
stays where it already is that clock, and nothing is asked for when the half has it or while the module has tripped. Any other RATE is
not stored and sets ERR 1.
R49, R52, R53, R528: when a half's clock takes effect RATE_EFF shows it, and the seam's capacity is 192 GB/s for each sixteenth of the
slower half; a clock that differs sets the half's interrupt source pending. The other half, the cores, the channels, the tasks and every
queue's state stay. With no clock asked for nothing changes.
R54, R55, R58, R528: a write of 1 to PARK in RUN begins to park a half none of whose units is bound, and is refused with ERR 2 and the
bound unit otherwise; in PARKED it only sets PARK. A write of 0 in PARKED begins to unpark, and in RUN it only clears PARK. A write during
a park or unpark is held. A half that changes STATE sets its interrupt source pending. The requests for the half's units that have had a
sector performed are accepted from then on; which others have reached their stop is a free value (log 59).
R56, R57, R58: at the end of a park, which waits for every accepted request and every refresh, the half is PARKED at 0.5 GHz, its cores are powered down, and its channels out of service
read state 3 with their contents kept; at the end of an unpark the half is in RUN and those channels are back in state 0. A write to PARK
that was held is served then, and not before. -/
def Obligations.MeshesAndHalves : Prop :=
  (∀ (s : State) (h : HalfIx) (r : BitVec 5), s.pfAnswers = true →
    (4 ≤ r.toNat → r.toNat ≤ 16 → ∀ x : Half, x = { s.half h with rate := r.toNat } →
      (s.pdyn.trip = true → exec (.meshRateWrite h r) s = .next (s.setHalf h x))
      ∧ (s.pdyn.trip = false → x.target = x.rateEff → exec (.meshRateWrite h r) s = .next (s.setHalf h { x with want := none }))
      ∧ (s.pdyn.trip = false → x.target ≠ x.rateEff → x.want = some x.target → exec (.meshRateWrite h r) s = .next (s.setHalf h x))
      ∧ (s.pdyn.trip = false → x.target ≠ x.rateEff → x.want ≠ some x.target →
          exec (.meshRateWrite h r) s = .next (s.setHalf h { x with want := some x.target, wantCause := 0 })))
    ∧ (r.toNat < 4 ∨ 16 < r.toNat → exec (.meshRateWrite h r) s = .next (s.setHalf h { s.half h with err := 1, boundUnit := 0 })))
  ∧ (∀ (s : State) (h : HalfIx),
    (∀ r, (s.half h).want = some r →
      ∃ u, exec (.meshRateEffect h) s = .next u
        ∧ u.half h = { s.half h with rateEff := r, want := none }
        ∧ u.mesh.cap = 192 * min u.mesh.west.rateEff u.mesh.east.rateEff
        ∧ (r ≠ (s.half h).rateEff → (u.intSrc (0x180 + h)).pend = true)
        ∧ (h.val = 0 → u.mesh.east = s.mesh.east) ∧ (h.val = 1 → u.mesh.west = s.mesh.west)
        ∧ u.cores = s.cores ∧ u.mem = s.mem ∧ u.tasks = s.tasks ∧ u.que.sqs = s.que.sqs ∧ u.que.cqs = s.que.cqs)
    ∧ ((s.half h).want = none → exec (.meshRateEffect h) s = .next s))
  ∧ (∀ (s : State) (h : HalfIx), s.pfAnswers = true →
    ((s.half h).state = 0 → s.boundIn h = none →
      exec (.parkRequest h) s = .next (acceptReqs (raise (s.setHalf h { s.half h with park := true, state := 1 }) (0x180 + h)) h)
      ∧ ∀ t : State, ∀ r ∈ (acceptReqs t h).mem.inflight, r.place.half = some h.val → r.parts ≠ [] → r.accepted = true)
    ∧ (∀ n, (s.half h).state = 0 → s.boundIn h = some n →
      exec (.parkRequest h) s = .next (s.setHalf h { s.half h with park := true, err := 2, boundUnit := n }))
    ∧ ((s.half h).state = 2 → exec (.parkRequest h) s = .next (s.setHalf h { s.half h with park := true })
      ∧ exec (.unparkRequest h) s = .next (raise (s.setHalf h { s.half h with park := false, state := 3 }) (0x180 + h)))
    ∧ ((s.half h).state = 0 → exec (.unparkRequest h) s = .next (s.setHalf h { s.half h with park := false }))
    ∧ ((s.half h).state = 1 ∨ (s.half h).state = 3 →
      exec (.parkRequest h) s = .next (s.setHalf h { s.half h with heldPark := some true })
      ∧ exec (.unparkRequest h) s = .next (s.setHalf h { s.half h with heldPark := some false })))
  ∧ (∀ (s : State) (h : HalfIx),
    ((s.half h).state = 1 → s.acceptedOut h = false → (∀ c, c < 128 → chanHalf c = h → (s.chan c).state ≠ 2) →
      ∃ u, exec (.parkComplete h) s = .next (takeHeldPark u h) ∧ ((s.half h).heldPark = none → takeHeldPark u h = u)
        ∧ (u.half h).state = 2 ∧ (u.half h).rateEff = 4 ∧ (u.half h).heldPark = (s.half h).heldPark
        ∧ (∀ n, n < 192 → coreHalf n = h → (u.core n).parked = true ∧ (u.core n).fault = (s.core n).fault)
        ∧ (∀ c, c < 128 → u.chan c = if chanHalf c = h ∧ (s.chan c).state = 0 then { s.chan c with state := 3 } else s.chan c)
        ∧ (s.xlt.heldQueue = [] → s.xlt.heldTable = [] → (∀ n, n < 192 → coreHalf n ≠ h → u.core n = s.core n) ∧ u.tasks = s.tasks)
        ∧ u.que.sqs = s.que.sqs)
    ∧ ((s.half h).state = 1 → (s.acceptedOut h = true ∨ ∃ c, c < 128 ∧ chanHalf c = h ∧ (s.chan c).state = 2) → exec (.parkComplete h) s = .next s)
    ∧ ((s.half h).state ≠ 1 → exec (.parkComplete h) s = .next s)
    ∧ ((s.half h).state = 3 →
      ∃ u, exec (.unparkComplete h) s = .next (takeHeldPark u h) ∧ ((s.half h).heldPark = none → takeHeldPark u h = u)
        ∧ (u.half h).state = 0 ∧ (u.half h).heldPark = (s.half h).heldPark
        ∧ (∀ n, n < 192 → u.core n = if coreHalf n = h then { s.core n with parked := false } else s.core n)
        ∧ (∀ c, c < 128 → u.chan c = if chanHalf c = h ∧ (s.chan c).state = 3 then { s.chan c with state := 0 } else s.chan c)
        ∧ u.tasks = s.tasks ∧ u.que.sqs = s.que.sqs)
    ∧ ((s.half h).state ≠ 3 → exec (.unparkComplete h) s = .next s))

/-! ## Cores (02, 03, 04) -/

/-- R64, R68, R96, R99, R152: what the next bundle of a running core comes to. A head outside the window or in an unloaded block stops
the task with cause 0x03; a bundle that waits does not issue; the first cause found at issue stops the task; any other bundle issues.
CORE_STEP does the same on a stopped core while debug access is open, and BUNDLE_ISSUE nothing there. A core that runs no task, or whose
task has ended or stopped, issues nothing.
R65, R120, R144: a bundle whose only slot is a legal scalar operation, of a task with no stream operation and no loop, writes
its result to the destination register alone (nothing at all when that is g0), moves the PC to the next bundle, counts one bundle,
and leaves tile memory, the channels, the queues and every other core as they were. -/
def Obligations.BundlesRun : Prop :=
  (∀ (s : State) (n : CoreIx) (extra : Nat),
    (∀ t, s.coreTask n = some t → t.err = none → (s.core n).phase = 1 →
      ∀ c, c = s.core n → ∀ go, go = (if c.stop then exec (.coreStep n extra) s else exec (.bundleIssue n extra) s) →
        (c.stop = true → s.coreDebug = true ∧ s.pfAnswers = true) →
          (c.fetchable c.arch.pc 16 = false → go = .next (stopTask s n 0x03 0 c.arch.pc 0 0 0))
          ∧ (c.fetchable c.arch.pc 16 = true →
              (issueCycle c t c.bundle = none → go = .next s)
              ∧ (∀ k, issueCycle c t c.bundle = some k →
                  ((bundleCause (c.settleCrw (k + extra)).arch c.tm t.priv c.bundle).1 = 0 → go = .next (issueBundle s n t c.bundle (k + extra)))
                  ∧ (∀ cause slot, bundleCause (c.settleCrw (k + extra)).arch c.tm t.priv c.bundle = (cause, slot) → cause ≠ 0 →
                      go = .next (stopTask s n cause slot c.arch.pc 0 0 0)))))
    ∧ ((s.core n).stop = true → exec (.bundleIssue n extra) s = .next s)
    ∧ ((s.core n).stop = false ∨ s.coreDebug = false ∨ s.pfAnswers = false → exec (.coreStep n extra) s = .next s)
    ∧ ((∀ t, s.coreTask n = some t → t.err ≠ none ∨ (s.core n).phase ≠ 1) →
        exec (.bundleIssue n extra) s = .next s ∧ exec (.coreStep n extra) s = .next s))
  ∧ (∀ (s : State) (n : CoreIx) (extra w k : Nat) (t : Task) (c : Core) (v : BitVec 64), c = s.core n →
    s.coreTask n = some t → t.err = none → t.ops = [] → c.phase = 1 → c.stop = false → c.crw = [] → c.arch.loops = [] →
    c.fetchable c.arch.pc 32 = true → imWord c.im c.arch.pc = 1 → imWord c.im (c.arch.pc + 16) = w →
    (scalarInfo w).bad = false → slotOp w ≠ 0 →
    scalarOp (slotOp w) (c.arch.getG (slotA w)) (if scImmf w then BitVec.ofNat 64 (slotImm w) else c.arch.getG (slotB w)) = some v →
    issueCycle c t (fetchBundle c.im c.arch.pc) = some k →
    ∃ u, exec (.bundleIssue n extra) s = .next u
      ∧ (u.core n).arch = { c.arch.setG (slotDst w) v with pc := c.arch.pc + 32 }
      ∧ (u.core n).retire = c.retire + 1 ∧ (u.core n).tm = c.tm ∧ (u.core n).im = c.im ∧ (u.core n).fault = c.fault
      ∧ (∀ m, m ≠ n.val → u.core m = s.core m) ∧ u.mem = s.mem ∧ u.que = s.que ∧ u.trb = s.trb ∧ u.xlt = s.xlt)

/-- R84, R188, R190, R191, R192: when the occupancy of a direct execution ends, or of a first pass whose counts exceed no threshold of an
operand with a fallback copy, the operation is complete: the array is free, its accumulator readable 24 cycles later and holding the
rows of every step; the summary counts one operation. So it is when a second pass ends, which counts one escalation. The registers,
predicates, vectors, tile memory, the other arrays and their accumulators stay, and nothing outside this core changes.
R188, R191, R192: when a first pass ends and the counts of an operand with a fallback copy exceed a threshold, the second pass begins
one cycle later with that operand's copy, from the accumulator as it stood, and its occupancy lasts what that copy's formats take; the
history learns what escalated, the accumulators stay until the pass ends, and nothing outside this core changes. An array without an
operation, or whose occupancy is not that of the command, stays as it is. -/
def Obligations.TileOperations : Prop :=
  (∀ (s : State) (n : CoreIx) (a : ArrIx) (o x : TileOp) (d : TileDesc), ((s.core n).array a).op = some o → d = TileDesc.ofWord o.desc →
    let kept (c' : Core) : Prop := c'.arch.g = (s.core n).arch.g ∧ c'.arch.v = (s.core n).arch.v ∧ c'.arch.p = (s.core n).arch.p
      ∧ c'.arch.pc = (s.core n).arch.pc ∧ c'.tm = (s.core n).tm ∧ (∀ b, b ≠ a.val → c'.array b = (s.core n).array b)
      ∧ (∀ b r, b < 4 → b ≠ a.val → r < 64 → c'.arch.getAcc b r = (s.core n).arch.getAcc b r)
    let done (c' : Core) : Prop := c'.array a = { phase := .ended, op := none, accAt := o.endAt + 24, freeAt := o.endAt }
      ∧ (∀ r, r < 64 → c'.arch.getAcc a r = (addRows (s.core n) a o o.left).arch.getAcc a r)
      ∧ c'.arch.guard.tileOps = satAdd 32 (s.core n).arch.guard.tileOps 1
    (x = takeCounts (s.core n) o →
      (((s.core n).array a).phase = .direct →
        ∃ c', exec (.tileOccupancyEnd n a) s = .next (s.setCore n c') ∧ done c' ∧ kept c' ∧ c'.hist = (s.core n).hist
          ∧ c'.arch.guard.direct = satAdd 16 (s.core n).arch.guard.direct 1)
      ∧ (((s.core n).array a).phase = .first → (d.fbA ≠ 0 → operandExceeds x false = false) → (d.fbB ≠ 0 → operandExceeds x true = false) →
          ∃ c', exec (.tileOccupancyEnd n a) s = .next (s.setCore n c') ∧ done c' ∧ kept c'
            ∧ c'.hist = (if d.fbA = 0 ∧ d.fbB = 0 then (s.core n).hist else learn (s.core n).hist a x false false)
            ∧ c'.arch.guard.direct = (s.core n).arch.guard.direct ∧ c'.arch.guard.escalated = (s.core n).arch.guard.escalated))
    ∧ (((s.core n).array a).phase = .second →
        ∃ c', exec (.tileSecondPassEnd n a) s = .next (s.setCore n c') ∧ done c' ∧ kept c' ∧ c'.hist = (s.core n).hist
          ∧ c'.arch.guard.escalated = satAdd 16 (s.core n).arch.guard.escalated 1))
  ∧ (∀ (s : State) (n : CoreIx) (a : ArrIx),
    (∀ (o x : TileOp) (d : TileDesc) (ea eb : Bool), ((s.core n).array a).op = some o → ((s.core n).array a).phase = .first →
      x = takeCounts (s.core n) o → d = TileDesc.ofWord o.desc →
      ea = (d.fbA != 0 && operandExceeds x false) → eb = (d.fbB != 0 && operandExceeds x true) → (ea || eb) = true →
      ∃ c' y, exec (.tileOccupancyEnd n a) s = .next (s.setCore n c')
        ∧ (c'.array a).phase = .second ∧ (c'.array a).op = some y
        ∧ y.useA = ea ∧ y.useB = eb ∧ y.desc = o.desc ∧ y.started = false
        ∧ y.endAt = o.endAt + 1 + tileOccupancy d.kb (if ea then (fallbackSide d.fbA).fmt else d.a.fmt) (if eb then (fallbackSide d.fbB).fmt else d.b.fmt)
        ∧ c'.hist = learn (s.core n).hist a x ea eb
        ∧ c'.arch.acc = (s.core n).arch.acc ∧ c'.arch.guard = (s.core n).arch.guard.note a x
        ∧ c'.arch.g = (s.core n).arch.g ∧ c'.arch.v = (s.core n).arch.v ∧ c'.tm = (s.core n).tm
        ∧ (∀ b, b ≠ a.val → c'.array b = (s.core n).array b))
    ∧ (((s.core n).array a).op = none ∨ (((s.core n).array a).phase ≠ .first ∧ ((s.core n).array a).phase ≠ .direct) →
        exec (.tileOccupancyEnd n a) s = .next (s.setCore n (s.core n)))
    ∧ (((s.core n).array a).op = none ∨ ((s.core n).array a).phase ≠ .second →
        exec (.tileSecondPassEnd n a) s = .next (s.setCore n (s.core n))))

/-- R83, R511, R512: a stagger step takes BUDGET and admits the first waiting arrays of that many, counting each in ADMITTED and, as
an admission that waited, in HELD (the moment of counting is log 40); the ramp's end begins the pass 32 cycles later;
the rows of an ended array are gated, and 512 cycles after its end the array is idle. A command that finds the array in another phase
leaves it as it is. -/
def Obligations.ArraysRampAndRest : Prop :=
  ∀ (s : State) (n : CoreIx) (a : ArrIx),
    (∃ u, exec .staggerStep s = .next u ∧ u.pwr.budgetNow = s.pwr.budget
      ∧ (∀ b, b = (if s.pdyn.peak || s.pdyn.brakeHold || decide (s.pdyn.peakSkip ≠ 0) then 4 else s.pwr.budget) →
          u.pwr.admitted = satAdd 32 s.pwr.admitted (min b s.pwr.requests.length)
          ∧ u.pwr.requests = s.pwr.requests.drop b
          ∧ u.pwr.held = satAdd 16 s.pwr.held (min b s.pwr.requests.length)
          ∧ u.pwr.stepUsed = min b s.pwr.requests.length
          ∧ ((n.val, a.val) ∈ s.pwr.requests.take b → ((u.core n).array a).phase = .ramping))
      ∧ u.mem = s.mem ∧ u.que = s.que ∧ u.tasks = s.tasks)
    ∧ (∀ o, ((s.core n).array a).op = some o → ((s.core n).array a).phase = .ramping →
        exec (.arrayRampComplete n a) s = .next (s.setCore n (beginPass (s.core n) a ((s.core n).now + 32) o)))
    ∧ (((s.core n).array a).op = none ∨ ((s.core n).array a).phase ≠ .ramping → exec (.arrayRampComplete n a) s = .next s)
    ∧ exec (.arrayRowGate n a) s = .next (s.setCore n ((s.core n).setArray a
        (if ((s.core n).array a).phase = .ended then { (s.core n).array a with phase := .gated } else (s.core n).array a)))
    ∧ (((s.core n).array a).phase = .ended ∨ ((s.core n).array a).phase = .gated →
        ∃ u, exec (.arrayIdle n a) s = .next u ∧ (u.core n).array a = { (s.core n).array a with phase := .idle }
          ∧ (u.core n).arch = (s.core n).arch ∧ (u.core n).tm = (s.core n).tm
          ∧ (∀ m, m ≠ n.val → u.core m = s.core m) ∧ u.mem = s.mem ∧ u.tasks = s.tasks)
    ∧ (((s.core n).array a).phase ≠ .ended → ((s.core n).array a).phase ≠ .gated → exec (.arrayIdle n a) s = .next s)

/-- R90, R331, R355, R443, R444: a launched task whose turn it is on the core of its virtual core takes the lowest free save slot
and starts there: registers as launched but CORE_SEED n + 1, tile memory zero. A task that does not wait to start, whose core is not
free, or whose turn it is not, does not start.
R92, R101, R118: a task that has issued END, with no operation outstanding and every array free, ends with status OK and its guard
summary, its core cleared: no task, tile memory zero, registers as after reset, CORE_FAULT as it was, the cycles it has spent there
counted. Until then TASK_COMPLETION does nothing. -/
def Obligations.TasksStartAndEnd : Prop :=
  (∀ (s : State) (tid : Nat) (t : Task) (v i : Nat) (n : CoreIx), s.task? tid = some t → s.placeOf t = some v →
    s.coreOfV t.set v = some n.val → (upto (s.ctx t.ctx).saveN).find? (fun i => !(s.ctx t.ctx).used.contains i) = some i →
    (t.st = .waiting → s.coreFree n = true → s.turn t n = true →
      ∃ u x, exec (.taskStart tid) s = .next u
        ∧ u.task? tid = some x ∧ x.st = .onCore ∧ x.slot = some i ∧ x.core = n.val ∧ x.vcore = v
        ∧ (u.core n).task = some tid ∧ (u.core n).phase = 1 ∧ (u.core n).tm = []
        ∧ (u.core n).arch = { t.arch with seed := BitVec.ofNat 64 (n.val + 1) }
        ∧ (u.core n).im = (s.core n).im ∧ (u.core n).fault = (s.core n).fault ∧ (u.core n).cycle = (s.core n).cycle
        ∧ (u.ctx t.ctx).used = setIns i (s.ctx t.ctx).used
        ∧ (∀ m, m ≠ n.val → u.core m = s.core m) ∧ (∀ c, c ≠ t.ctx → u.ctx c = s.ctx c) ∧ u.mem = s.mem ∧ u.que = s.que)
    ∧ (t.st ≠ .waiting ∨ s.coreFree n = false ∨ s.turn t n = false → exec (.taskStart tid) s = .next s))
  ∧ (∀ (s : State) (n : CoreIx) (t : Task), s.coreTask n = some t →
    ((s.core n).phase = 4 → t.ops = [] → (∀ a, a < 4 → ((s.core n).array a).op = none) →
      ∃ v, exec (.taskCompletion n) s = .next (taskEnd v t.tid stOK (s.core n).arch.guard)
        ∧ (v.core n).task = none ∧ (v.core n).tm = [] ∧ (v.core n).fault = (s.core n).fault
        ∧ (v.core n).arch = { seed := BitVec.ofNat 64 (n.val + 1) } ∧ (s.core n).cycle ≤ (v.core n).cycle
        ∧ (∀ m, m ≠ n.val → v.core m = s.core m) ∧ v.tasks = s.tasks ∧ v.mem = s.mem ∧ v.que = s.que)
    ∧ ((s.core n).phase ≠ 4 ∨ t.ops ≠ [] ∨ (∃ a, a < 4 ∧ ((s.core n).array a).op ≠ none) → exec (.taskCompletion n) s = .next s))

/-- R92, R401, R444: at the end of a slice the running task is marked to be switched out when another task of equal or more urgent
priority waits for its core, and goes on otherwise; the switch-out of a task so marked, or of one that PREEMPT or a swap takes off its
core, stops issue and withdraws the core's requests to the stagger; the end of D_dma sets down the reads still out, to be sent again.
Each finds its moment or changes nothing.
R91, R92, R94, R399, R444, R632: a switch-out whose reads are back or set down ends with the image written and the core cleared; the
task keeps its registers and the image, noted as bad if a sector of it failed, and is runnable unless a fault holds it. A switch-in ends
with the image read back: one that reads back as written gives the task its registers, its tile memory and its operations, and it goes on,
or stops with a stream operation's error that came meanwhile; any other stops with cause 0x09. Nothing happens yet while a sector is held at a
move's destination.
R94, R401, R443, R444: a runnable task whose turn it is begins its switch-in on a free core; no other does. -/
def Obligations.TasksSwitch : Prop :=
  (∀ (s : State) (n : CoreIx) (t : Task) (progress : List Nat), s.coreTask n = some t →
    ((s.core n).phase = 1 → (∃ w, w ∈ s.tasks ∧ w.tid ≠ t.tid ∧ s.fits w n = true ∧ w.prio ≤ t.prio) →
      exec (.sliceExpiry n) s = .next (s.setCore n { s.core n with phase := 2 }))
    ∧ ((s.core n).phase ≠ 1 ∨ (∀ w, w ∈ s.tasks → w.tid ≠ t.tid → s.fits w n = true → t.prio < w.prio) →
      exec (.sliceExpiry n) s = .next s)
    ∧ ((s.core n).phase = 2 ∨ ((s.core n).phase = 1 ∧ (s.preempted n t = true ∨ s.misplaced t = true)) →
      ∃ u, exec (.switchOutStart n progress) s = .next u ∧ (u.core n).phase = 5 ∧ (u.core n).task = (s.core n).task
        ∧ (u.core n).tm = (s.core n).tm ∧ (u.core n).drained = false ∧ (u.core n).arch.pc = (s.core n).arch.pc
        ∧ (∀ r, r ∈ u.pwr.requests → r.1 ≠ n.val) ∧ u.walk n = none ∧ u.tasks = s.tasks ∧ u.mem = s.mem
        ∧ (∀ m, m ≠ n.val → u.core m = s.core m))
    ∧ ((s.core n).phase ≠ 2 → ((s.core n).phase ≠ 1 ∨ (s.preempted n t = false ∧ s.misplaced t = false)) →
      exec (.switchOutStart n progress) s = .next s)
    ∧ ((s.core n).phase = 5 →
      ∃ u, exec (.switchDrainTimeout n) s = .next u ∧ (u.core n).drained = true ∧ (u.core n).arch = (s.core n).arch
        ∧ (∀ x o, u.task? t.tid = some x → o ∈ x.ops → o.isRead = true → o.out = [])
        ∧ (∀ r, r ∈ u.mem.inflight → ∃ r', r' ∈ s.mem.inflight ∧ r.rid = r'.rid ∧ r.kind = r'.kind)
        ∧ (∀ m, m ≠ n.val → u.core m = s.core m))
    ∧ ((s.core n).phase ≠ 5 → exec (.switchDrainTimeout n) s = .next s))
  ∧ (∀ (s : State) (n : CoreIx) (t : Task), s.coreTask n = some t →
    ((s.core n).phase = 5 → (s.core n).drained = true ∨ t.readsOut = false →
      ∀ img w, img = imageBytes (s.core n).arch (s.core n).tm s.takeFree.1 → w = writeImage s.takeFree.2 t img →
        (w.2 = .held → exec (.switchOutComplete n) s = .next s)
        ∧ (w.2 ≠ .held →
          ∃ u, exec (.switchOutComplete n) s = .next u ∧ (u.core n).task = none ∧ (u.core n).phase = 0 ∧ (u.core n).tm = []
            ∧ (u.core n).fault = (s.core n).fault
            ∧ (∀ x, u.task? t.tid = some x → x.arch = (s.core n).arch ∧ x.image = [(0, img.length, img)]
                ∧ (x.imageBad = true ↔ w.2 = .failed) ∧ x.st = (if t.st = .onCore then .runnable else t.st))))
    ∧ ((s.core n).phase ≠ 5 ∨ ((s.core n).drained = false ∧ t.readsOut = true) → exec (.switchOutComplete n) s = .next s)
    ∧ ((s.core n).phase = 3 → ∀ addr len img r, t.image = [(addr, len, img)] → r = readImage s t len →
        (r.2.1 = .held → exec (.switchInComplete n) s = .next s)
        ∧ (r.2.1 ≠ .held → t.imageBad = true ∨ r.2.1 = .failed ∨ r.2.2 ≠ img →
            exec (.switchInComplete n) s = .next (stopTask (switchCycles r.1 n t) n 0x09 0 t.arch.pc 0 0 0))
        ∧ (r.2.1 = .ok → t.imageBad = false → r.2.2 = img →
            ∃ v, (v.core n).arch = t.arch ∧ (v.core n).tm = segmentsOf t.arch.liveList (img.drop imageSegments)
              ∧ (v.core n).phase = (if t.ended then 4 else 1) ∧ (v.core n).im = (r.1.core n).im
              ∧ (∀ x, v.task? t.tid = some x → x.image = [] ∧ x.arrOps = [] ∧ x.hold = t.unacked)
              ∧ (t.err = none → exec (.switchInComplete n) s = .next (pumpCore v n))
              ∧ (∀ e, t.err = some e → exec (.switchInComplete n) s = .next (stopTask v n 0x07 e.2.2.1 e.2.1 0 e.1 e.2.2.2))))
    ∧ ((s.core n).phase ≠ 3 → exec (.switchInComplete n) s = .next s))
  ∧ (∀ (s : State) (n : CoreIx) (tid : Nat) (t : Task), s.task? tid = some t →
    (t.st = .runnable → s.coreFree n = true → s.turn t n = true →
      ∃ u x, exec (.switchInStart n tid) s = .next u ∧ u.task? tid = some x ∧ x.st = .onCore ∧ x.core = n.val ∧ x.arch = t.arch
        ∧ x.slot = t.slot ∧ x.vcore = (s.placeOf t).getD t.vcore ∧ (u.core n).task = some tid ∧ (u.core n).phase = 3 ∧ (u.core n).tm = []
        ∧ (∀ m, m ≠ n.val → u.core m = s.core m) ∧ u.mem = s.mem ∧ u.que = s.que ∧ u.fnc = s.fnc)
    ∧ (t.st ≠ .runnable ∨ s.coreFree n = false ∨ s.turn t n = false → exec (.switchInStart n tid) s = .next s))

/-- R547, R548: a core whose task retires nothing for 2^RETIRE_LOG2 cycles stops it with cause 0x0A, unless RETIRE_LOG2 is 0 or the task is
not running there; a DMA tag that stalls stops its task with cause 0x07 and DEADLINE, and a job that stalls keeps its first error, else
DEADLINE, with nothing outstanding, and its engine goes on. A tag or job with nothing outstanding is left alone.
R99: with debug access to CORE_CTL open, CORE_STOP and CORE_RESUME set and clear STOP of that core and change nothing else; with it
closed, or while the module's registers do not answer, they change nothing.
R267, R268, R269: a look-up drops what the far cache has given up since, gives the engine the range that the cache still holds, and goes
on to the root on a miss; a table sector that leaves more to read keeps the walk going at its next stage, and changes no queue, task or
Trebry port; the range or the fault that a read finds ends the walk. A command of the other stage, or for an engine that walks nothing,
changes nothing. -/
def Obligations.WalksStallsAndStops : Prop :=
  (∀ (s : State) (n : CoreIx) (tag : Fin 16) (jid : Nat),
    ((s.core n).phase = 1 ∨ (s.core n).phase = 2 ∨ (s.core n).phase = 4 → s.rst.retireLog2 ≠ 0 →
      exec (.noRetireTimeout n) s = .next (stopTask s n 0x0A 0 (s.core n).arch.pc 0 0 0))
    ∧ (s.rst.retireLog2 = 0 ∨ ((s.core n).phase ≠ 1 ∧ (s.core n).phase ≠ 2 ∧ (s.core n).phase ≠ 4) → exec (.noRetireTimeout n) s = .next s)
    ∧ (∀ t, s.coreTask n = some t →
        (∀ o, t.ops.find? (fun o => o.isDma && o.tag == tag.val && !o.out.isEmpty) = some o →
          exec (.dmaStallTimeout (.tag n tag)) s = .next (streamError
            ((updOp (dropReqs s (Src.ofOp t.tid o.seq)) t.tid o.seq (fun o => { o with out := [], row := o.rows, redo := [] })).updTask t.tid Task.sweep)
            t.tid stDEADLINE o (o.pieceVa (o.out.headD (0, 0)).1 (o.out.headD (0, 0)).2)))
        ∧ ((∀ o, o ∈ t.ops → o.isDma = true → o.tag = tag.val → o.out = []) → exec (.dmaStallTimeout (.tag n tag)) s = .next s))
    ∧ (∀ j, s.job? jid = some j →
        (j.quiet = false →
          ∃ v, exec (.dmaStallTimeout (.job jid)) s = .next (jobPumpEngine v j.ce)
            ∧ v.job? jid = some { j with reads := [], writes := [], fetchId := 0, err := some (j.err.getD stDEADLINE), halt := true }
            ∧ (∀ i, i ≠ jid → v.job? i = s.job? i) ∧ v.cores = s.cores ∧ v.tasks = s.tasks ∧ v.que = s.que)
        ∧ (j.quiet = true → exec (.dmaStallTimeout (.job jid)) s = .next s)))
  ∧ (∀ (s : State) (n : CoreIx),
    (s.coreDebug = true → s.pfAnswers = true →
      exec (.coreStop n) s = .next (s.setCore n { s.core n with stop := true })
      ∧ exec (.coreResume n) s = .next (s.setCore n { s.core n with stop := false }))
    ∧ (s.coreDebug = false ∨ s.pfAnswers = false → exec (.coreStop n) s = .next s ∧ exec (.coreResume n) s = .next s))
  ∧ (∀ (s : State) (e : EngIx) (x : Xmit) (evicted : List (Nat × Nat)),
    (∀ w kept, s.walk e = some w → kept = (s.far e).filter (fun r => !evicted.contains (r.ctx, r.vaGran)) →
      (w.stage = .lookup →
        (∀ ent, findRange kept w.ctx w.va = some ent →
          exec (.farCacheLookup e evicted) s = .next (walkEnd (s.setFar e kept) e w (.found ent)))
        ∧ (findRange kept w.ctx w.va = none →
            (rootOut (s.ctx w.ctx).root.toNat w.va = none →
              exec (.farCacheLookup e evicted) s = .next ((s.setFar e kept).setWalk e (some { w with stage := .level1 })))
            ∧ (∀ kind pos, rootOut (s.ctx w.ctx).root.toNat w.va = some (.fault kind pos) →
              exec (.farCacheLookup e evicted) s = .next (walkEnd (s.setFar e kept) e w (.fault kind pos))))
        ∧ exec (.rangeWalkStep e x) s = .next s)
      ∧ (w.stage ≠ .lookup → exec (.farCacheLookup e evicted) s = .next s
          ∧ ∀ r, r = walkRead s (s.walkRoot e w).1 (s.walkRoot e w).2 w.va w.stage x →
            (∀ st, r.2 = .need st →
              exec (.rangeWalkStep e x) s = .next (r.1.setWalk e (some { w with stage := st }))
                ∧ r.1.que.sqs = s.que.sqs ∧ r.1.tasks = s.tasks ∧ r.1.trb.dyn = s.trb.dyn)
            ∧ ((∀ st, r.2 ≠ .need st) → exec (.rangeWalkStep e x) s = .next (walkEnd r.1 e w r.2))))
    ∧ (s.walk e = none → exec (.farCacheLookup e evicted) s = .next s ∧ exec (.rangeWalkStep e x) s = .next s))

/-! ## Memory (05, 10) -/

/-- R206, R629: at a channel in service, a whole sector written over a good bond without the fence mark reads back as written, with
status OK both times, and every other sector keeps its bytes and its poison mark; no other channel changes but the destination of a mirror.
R36, R205, R206, R212, R213, R221, R231, R438: a channel whose state answers every request with an error gives that error once no other
request of the engine goes before this one; any other performs the sectors that the command names, if the arbiter lets the request's pair go
first. A task's request of one whole sector is performed at once: a read of good data answers OK with the sector, a read of a marked sector
answers POISON and is counted, a write without the fence mark stores its data and answers OK; one answer waits for the core, the request is
gone, and no core, task or other channel has changed. A request whose budget is spent on the way is dropped. A request that must wait for
another of its engine, that is no request of a channel, or a fence operation, is not performed.
R220, R221, R434, R528: the end of a scrub leaves every sector of the channel zero and no mark, the channel unheld (state 0) and clean,
its interrupt source pending, and posts SCRUB_DONE; with nobody waiting for it nothing else changes in memory, cores or tasks. A channel that is not
being scrubbed, or that a test holds, is left alone. -/
def Obligations.DramAnswersWhatItHolds : Prop :=
  (∀ (s : State) (c sec i : Nat) (w w' : Cause) (bytes : List (BitVec 8)), bytes.length = 64 →
    s.chanError c = none → (s.chan c).fences.contains sec = false → (s.chan c).inj = 0 →
    ∃ u, homeWrite s c sec i bytes false {} w = (u, { status := stOK })
      ∧ (homeRead u c sec i {} w').2 = { status := stOK, data := bytes }
      ∧ (∀ k, k ≠ sec → (u.chan c).sector c k = (s.chan c).sector c k ∧ (u.chan c).marked c k = (s.chan c).marked c k)
      ∧ (∀ d, d ≠ c → (∀ m, m ∈ s.mem.moves → m.src = c → m.done = true → m.dst ≠ d) → u.chan d = s.chan d) ∧ u.cores = s.cores)
  ∧ (∀ (s : State) (rid : Nat) (part : BitVec 4) (x : Xmit),
    (∀ r c off, s.flying rid = some r → r.place = .chan c off → r.kind.isFence = false →
      (∀ st, s.chanError c r.accepted = some st →
        (s.wholeFree r = true → exec (.channelRequest ⟨rid, part⟩ x) s = .next (concludeReq
          (r.enter (if st = stPARKED then countParked s (chanUnit c) else s)) r st [] (parkedUnit st (chanUnit c))))
        ∧ (s.wholeFree r = false → exec (.channelRequest ⟨rid, part⟩ x) s = .next s))
      ∧ (s.chanError c r.accepted = none → ∀ k s' s1 is, s.takeFree = (k, s') → is = s.toServe r off part →
          s1 = ageCredits s' (chanUnit c) 0 (Config.arbiterNs k) →
          (is = [] ∨ s1.servesPair r c (decide (1024 ≤ Config.waitSeen k)) = false → exec (.channelRequest ⟨rid, part⟩ x) s = .next s)
          ∧ (is ≠ [] → s1.servesPair r c (decide (1024 ≤ Config.waitSeen k)) = true →
            (r.reach k = none → exec (.channelRequest ⟨rid, part⟩ x) s = .next (poolProgress (expireReq s1 r)))
            ∧ (∀ r1 o, r.reach k = some r1 →
              o = serveSectors (s1.updChan c (fun ch => ch.correct x)) r1 off (performSector c off { x with corrected := 0 }) is →
              exec (.channelRequest ⟨rid, part⟩ x) s = .next (poolProgress (o.2.foldl channelFailed o.1)))
            ∧ (∀ tid seq row p, r.src = .op tid seq row p → r.dropped = false → off % 64 = 0 → r.len = 64 → r.parts = [] → r.bad = none →
              (s.chan c).inj = 0 → x.rdErrs = [] → x.wrErrs = [] →
              s.mem.held = [] → s.que.ending = [] → s.pool.revoking = none → s.pool.state ≠ 3 → s.mem.moves = [] →
              let answered (status : Nat) (data : List (BitVec 8)) (u : State) : Prop :=
                exec (.channelRequest ⟨rid, part⟩ x) s = .next u
                ∧ (∃ a, u.mem.answers = s.mem.answers ++ [a] ∧ a.req.rid = rid ∧ a.req.src = r.src ∧ a.status = status ∧ a.data = data)
                ∧ u.mem.inflight = s.mem.inflight.filter (fun y => y.rid != rid) ∧ u.cores = s.cores ∧ u.tasks = s.tasks
                ∧ (∀ d, d ≠ c → u.chan d = s.chan d)
              (r.kind = .read → (s.chan c).marked c (off / 64) = false →
                ∃ u, answered stOK ((s.chan c).sector c (off / 64)) u ∧ u.chan c = ((s.chan c).correct x).resent 0)
              ∧ (r.kind = .read → (s.chan c).marked c (off / 64) = true →
                ∃ u, answered stPOISON [] u ∧ u.chan c = (((s.chan c).correct x).resent 0).countPoison (off / 64) false)
              ∧ (r.kind = .write false → r.data.length = 64 → (s.chan c).fences.contains (off / 64) = false →
                ∃ u, answered stOK [] u ∧ u.chan c = (((s.chan c).correct x).resent 0).store (off / 64) r.data false)
              ∧ (r.kind = .write false → r.data.length = 64 → (s.chan c).fences.contains (off / 64) = true →
                ∃ u, answered stDENIED [] u ∧ u.chan c = (s.chan c).correct x)))))
    ∧ ((∀ r c off, s.flying rid = some r → r.place = .chan c off → r.kind.isFence = true) → exec (.channelRequest ⟨rid, part⟩ x) s = .next s))
  ∧ (∀ (s : State) (c : ChIx) (us : BitVec 32),
    (∀ k, (s.chan c).state = 2 → (s.chan c).bist = false → (s.chan c).initiator = some k →
      ∀ w, w = postEvent (raise (s.setChan c { (s.chan c).scrubbedClean with state := 0, initiator := none, clean := true }) (0x0C0 + c))
          { type := 0x0233, source := chanUnit c, object := c, detail := detail [(16, 4, us.toNat), (20, 1, k)] } →
        exec (.scrubComplete c us) s = .next (scrubbedFor (teardownScrubbed w c) c)
        ∧ (∀ sec, (w.chan c).sector c sec = List.replicate 64 0 ∧ (w.chan c).marked c sec = false)
        ∧ (w.chan c).state = 0 ∧ (w.chan c).clean = true ∧ (w.intSrc (0x0C0 + c)).pend = true
        ∧ (∀ d, d ≠ c.val → w.chan d = s.chan d) ∧ w.cores = s.cores ∧ w.tasks = s.tasks
        ∧ ((∀ e, e ∈ s.que.sqs → ∀ d, d ∈ e.2.descs → d.scrubs.contains c.val = false) →
           (∀ l t, (s.slot l).teardown = some t → t.scrubs.contains c.val = false) → exec (.scrubComplete c us) s = .next w))
    ∧ ((s.chan c).state ≠ 2 ∨ (s.chan c).bist = true ∨ (s.chan c).initiator = none → exec (.scrubComplete c us) s = .next s))

/-- R216, R367, R370, R373: a signal at or above V raises V and its state; one below V, or of the terminal value, only sets the regression mark
and answers 1; an errored record is left alone and answers 2; an error makes V terminal with its code and context. The command performs
this at the home, answers AFSIG with that status or lets the descriptor that signalled go on, and releases the waits that are satisfied. A
request whose budget is spent on the way is dropped; one that must wait, or is no fence operation of a channel, is not performed. -/
def Obligations.SignalsRaiseFences : Prop :=
  (∀ (v : BitVec 64) (h : Nat) (r : FenceRec),
      (r.state ≠ 2 → r.v ≤ v.toNat → v.toNat ≠ terminal → fenceApply (.signal v h) r = ({ r with v := v.toNat, state := 1 }, 0, false))
      ∧ (r.state ≠ 2 → v.toNat < r.v ∨ v.toNat = terminal → fenceApply (.signal v h) r = ({ r with regress := true }, 1, true))
      ∧ (r.state = 2 → fenceApply (.signal v h) r = (r, 2, false))
      ∧ (∀ code ctx, r.state ≠ 2 → fenceApply (.error h code ctx) r = ({ r with v := terminal, state := 2, err := code, errCtx := ctx }, 0, false)))
  ∧ (∀ (s : State) (rid : Nat) (x : Xmit),
      (∀ r c off k s0, s.nextReq rid = some r → r.place = .chan c off → r.kind.isFence = true → s.takeFree = (k, s0) →
        (r.reach k = none → exec (.fenceSignal rid x) s = .next (expireReq s0 r))
        ∧ (∀ r1 o s2, r.reach k = some r1 → o = performFence (r1.enter (takeReq s0 r1.rid)) r1 c off x →
          s2 = (let s1 := noteChannel o.1 r1 c 8 (o.2.status == stOK)
                r1.cross (noteDrained s1 r1) r1.dest.half (s1.backHalf r1) (if o.2.status = stOK then r1.bytesBack else 0)) →
          ∀ u, ((∃ q idx, r1.src = .desc q idx ∧ r1.dropped = false ∧
                  u = settleEndings (wakeFence (releaseHeld (settle (descSignalled s2 q idx) q)) o.2))
                ∨ ((∀ q idx, r1.src ≠ .desc q idx) ∧
                  u = settleEndings (wakeFence (releaseHeld (answer s2 r1 o.2.status (leBytes 8 o.2.afsig)
                    (parkedUnit o.2.status (chanUnit c)))) o.2))
                ∨ (∃ q idx, r1.src = .desc q idx ∧ r1.dropped = true ∧ u = settleEndings (wakeFence (releaseHeld (settle s2 q)) o.2))) →
            exec (.fenceSignal rid x) s = .next (o.2.failed.foldl channelFailed u)))
      ∧ ((∀ r c off, s.nextReq rid = some r → r.place = .chan c off → r.kind.isFence = false) → exec (.fenceSignal rid x) s = .next s))

/-- R57, R139, R207, R209, R213, R223, R224, R225: a window of a running core is read and written in whole sectors; a parked half answers PARKED
and is counted, an access that is no read and no write of whole sectors DENIED, one to a core without a running task NOTASK; poisoned data is not stored and
answers POISON (the model's reading, log 41); a bank that stays busy answers TMBUSY; a refresh changes nothing. A command that names some of the
sectors only performs those. -/
def Obligations.WindowsReachTileMemory : Prop :=
  ∀ (s : State) (rid : Nat) (ch : ChIx) (bank : Nat) (part : BitVec 4),
    exec (.channelRefresh ch bank) s = .next s
    ∧ (∀ r n off, s.flying rid = some r → r.place = .window n off →
        (∀ st, s.windowError r n off = some st →
          (s.wholeFree r = true → exec (.windowAccess ⟨rid, part⟩) s = .next (concludeReq
            (r.enter (if st = stPARKED then countParked s n else s)) r st [] (parkedUnit st n)))
          ∧ (s.wholeFree r = false → exec (.windowAccess ⟨rid, part⟩) s = .next s)
          ∧ exec (.windowAccessTimeout rid) s = .next s)
        ∧ (s.windowError r n off = none → ∀ k s1, s.takeFree = (k, s1) →
            (s.wholeFree r = true → exec (.windowAccessTimeout rid) s = .next (concludeReq (r.enter s) r stTMBUSY [] none))
            ∧ (s.wholeFree r = false → exec (.windowAccessTimeout rid) s = .next s)
            ∧ (s.toServe r off part = [] → exec (.windowAccess ⟨rid, part⟩) s = .next s)
            ∧ (s.toServe r off part ≠ [] → r.reach k = none → exec (.windowAccess ⟨rid, part⟩) s = .next (expireReq s1 r))
            ∧ (s.toServe r off part ≠ [] → ∀ r1, r.reach k = some r1 →
              exec (.windowAccess ⟨rid, part⟩) s = .next (serveSectors s1 r1 off (performLine n off) (s.toServe r off part)).1
              ∧ (r.parts = [] → r.bad = none → 0 < r.len → r.len ≤ 256 → s.wholeFree r = true → (∀ i, i ∈ r.places off → part.getLsbD i = true) →
                let ends (status : Nat) (data : List (BitVec 8)) (tm : Cells) : Prop :=
                  ∃ v r', exec (.windowAccess ⟨rid, part⟩) s = .next (concludeReq v r' status data none)
                    ∧ r'.rid = r.rid ∧ r'.src = r1.src ∧ (v.core n).tm = tm ∧ (v.core n).arch = (s.core n).arch
                    ∧ (∀ m, m ≠ n → v.core m = s.core m) ∧ v.mem.chans = s.mem.chans
                (r.kind = .read → ends stOK ((s.core n).tm.readN off r.len) (s.core n).tm)
                ∧ (r.kind = .write false → r.data.length = r.len → ends stOK [] ((s.core n).tm.writeN off r.data))
                ∧ (r.kind = .write true → ends stPOISON [] (s.core n).tm)))))
    ∧ ((∀ r n off, s.flying rid = some r → r.place ≠ .window n off) →
        exec (.windowAccess ⟨rid, part⟩) s = .next s ∧ exec (.windowAccessTimeout rid) s = .next s)

/-- R39, R86, R138, R219, R310, R332, R333, R528: the core takes the answer that is next on its way: the data of a load goes to its register alone, those of
a DMA read to tile memory, an acknowledgement to neither, and an error stops the task by R89; a register access is performed and answered. A read of
host memory gives its job the data, or ends it with HOSTERR; the end of a copy job, which waits for every write of it that is out (R248),
frees its place and completes its descriptor. -/
def Obligations.EnginesTakeAnswers : Prop :=
  ∀ (s : State) (rid : Nat),
    (∀ a s1, s.mem.answers.find? (fun a => a.req.rid == rid) = some a →
      s1 = { s with mem := { s.mem with answers := s.mem.answers.filter (fun b => b.req.rid != rid) } } →
      (s.nextAnswer a = false → exec (.streamResponse rid) s = .next s)
      ∧ (s.nextAnswer a = true → a.req.dropped = true → exec (.streamResponse rid) s = .next s1)
      ∧ (∀ tid seq row off t o n, s.nextAnswer a = true → a.req.dropped = false → a.req.src = .op tid seq row off → s.task? tid = some t →
          t.ops.find? (fun o => o.seq == seq) = some o → o.out.contains (row, off) = true → s.onCore tid = some n →
          ∀ s2, s2 = updOp s1 tid seq (fun o => { o with out := o.out.filter (· != (row, off)) }) →
          (a.status = stOK → (s.core n).phase ≠ 3 →
            ∃ v, exec (.streamResponse rid) s = .next (pumpCore v n) ∧ v.tasks = (s2.updTask tid Task.sweep).tasks
              ∧ (∀ m, m ≠ n → v.core m = s.core m) ∧ v.mem.chans = s.mem.chans ∧ v.que = s.que
              ∧ (v.core n).arch = (if o.op ≠ 0x18 ∧ o.returns = true then (s.core n).arch.setG o.dst (returned o a.data) else (s.core n).arch)
              ∧ (v.core n).tm = (if o.op = 0x18 then (s.core n).tm.writeN (o.pieceTm row off) a.data else (s.core n).tm))
          ∧ (a.status ≠ stOK →
            exec (.streamResponse rid) s = .next (streamError (s2.updTask tid Task.sweep) tid a.status o (o.pieceVa row off)))))
    ∧ (∀ r off o, s.mem.answers.find? (fun a => a.req.rid == rid) = none → s.nextReq rid = some r → r.place = .mmio off →
        o = performMmio (takeReq s rid) r off →
        exec (.streamResponse rid) s = .next (takeAnswer (settleEndings (releaseHeld o.1)) r stOK o.2))
    ∧ (∀ j data, s.mem.jobs.find? (fun j => j.fetchId == rid + 1) = some j →
        exec (.hostReadCompletion rid false data) s =
          .next (jobPumpEngine ((jobFail s j.jid stHOSTERR).updJob j.jid (fun j => { j with fetchId := 0 })) j.ce)
        ∧ (data.length = j.pieceLen →
          exec (.hostReadCompletion rid true data) s = .next (jobPumpEngine ((notePcie s j.locket j.facet j.ctx 1 data.length).updJob j.jid (fun x =>
            if x.code then { x with fetchId := 0, got := patch x.got x.pos data }
            else { x with
              fetchId := 0
              ready := x.ready ++ (upto (data.length / 64)).map (fun i => (x.pos + 64 * i, (data.drop (64 * i)).take 64, false, pcieStop)) })) j.ce))
        ∧ (data.length ≠ j.pieceLen → exec (.hostReadCompletion rid true data) s = .next s))
    ∧ (∀ ok data, s.mem.jobs.find? (fun j => j.fetchId == rid + 1) = none → exec (.hostReadCompletion rid ok data) s = .next s)
    ∧ (∀ j, s.job? rid = some j →
        (j.ended = true → j.code = false → s.jobWritesOut rid = false →
          ∃ v, exec (.copyJobComplete rid) s = .next (jobPumpEngine (endDesc v j.q j.idx (j.err.getD 0)
              (detail [(16, 8, j.written), (24, 8, j.skipped.getD 0)])) j.ce)
            ∧ v.job? rid = none ∧ (∀ i, i ≠ rid → v.job? i = s.job? i) ∧ (j.ce < 4 → (v.intSrc (0x170 + j.ce)).pend = true)
            ∧ v.cores = s.cores ∧ v.tasks = s.tasks ∧ v.que = s.que)
        ∧ (j.ended = false ∨ j.code = true ∨ s.jobWritesOut rid = true → exec (.copyJobComplete rid) s = .next s))
    ∧ (s.job? rid = none → exec (.copyJobComplete rid) s = .next s)

/-! ## Queues (08, 09, 10, 12) -/

/-- R303, R308, R320, R321: a doorbell that reaches a running queue takes a producer count that lies between PROD and CONS plus the size, with
its interrupt edge, after the BAR4 writes sent before it, and by any other count sets DB_BAD, with one event until it is cleared; a count equal to
PROD changes nothing (log 55); a write of another offset or size, or to a queue that does not run, is counted in DB_IGNORED alone. One that the function
cannot make, or of a page without a queue, changes nothing.
R315, R317, R322, R324: the queue whose turn it is at its queue processor, the first after the one served last that may fetch, sends the
fetch of its next descriptor with a completion slot reserved, and stalls, with CQ_STALL once, when the ring has none; no other queue fetches. Data that
arrives behind an outstanding fetch waits for it; a fetch that fails stops the queue with STATE 3 and FETCH_ERR, drops that fetch and all after it, frees
their slots, logs the error under AER and posts DESC_FETCH_ERR (kind 2 for a timeout). What arrives or fails without a fetch changes nothing.
R317, R318, R338, R369, R372: a descriptor that arrives in order, ahead of fetches still outstanding, into an empty queue is counted in CONS, which is
written back when that is enabled and it was the last, and looked at: one that fails a check of R338 is refused with the status of the first check that
fails; one with remote fences asks their owners; one without a wait stands ready to begin, and one that waits on a fence of this module registers, unless its
record is held at a move's destination or a signal of its own queue is still on its way there. -/
def Obligations.QueuesFetchAndCheck : Prop :=
  (∀ (s : State) (fn : FnIx) (page off size : Nat) (v : BitVec 32),
    ((if fn.val = 0 then s.pfAnswers && s.linkFetches else s.vfAnswers fn) = true →
      (∀ q x, s.pageQueue fn page = some q → x = s.sq q →
        (x.state = 1 → (x.prod - x.cons).toNat ≤ (v - x.cons).toNat → (v - x.cons).toNat ≤ 2 ^ x.size →
          (v ≠ x.prod → exec (.doorbell fn page 0 4 v) s =
            .next (raise (s.setSq q { x with prod := v, after := (s.que.bar4.filter (fun b => b.wr)).map (fun b => b.bid) }) (0x200 + q / 8)))
          ∧ (v = x.prod → exec (.doorbell fn page 0 4 v) s = .next s))
        ∧ (x.state = 1 → (v - x.cons).toNat < (x.prod - x.cons).toNat ∨ 2 ^ x.size < (v - x.cons).toNat →
          (x.dbBad = true → exec (.doorbell fn page 0 4 v) s = .next s)
          ∧ (x.dbBad = false → exec (.doorbell fn page 0 4 v) s = .next (postEvent (s.setSq q { x with dbBad := true })
              { type := 0x0203, sev := 1, locket := x.locket, source := qpUnit x.qp, object := q
                detail := detail [(16, 4, v.toNat), (20, 4, x.prod.toNat), (24, 4, x.cons.toNat)] })))
        ∧ (off ≠ 0 ∨ size ≠ 4 ∨ x.state ≠ 1 →
          exec (.doorbell fn page off size v) s = .next (s.setSq q { x with dbIgnored := satAdd 16 x.dbIgnored 1 })))
      ∧ (s.pageQueue fn page = none → exec (.doorbell fn page off size v) s = .next s))
    ∧ ((if fn.val = 0 then s.pfAnswers && s.linkFetches else s.vfAnswers fn) = false → exec (.doorbell fn page off size v) s = .next s))
  ∧ (∀ (s : State) (q : SqIx) (idx : BitVec 32) (data : BitVec 512) (err : FetchFail) (x : Sq), x = s.sq q →
    (∀ s0, s0 = { s with que := { s.que with lastFetch := SMap.set (fun _ => 1023) s.que.lastFetch x.qp q } } → s.turnOf x.qp = some q.val →
      ((s.cq x.cq).free = true →
        ∃ u, exec (.descriptorFetch q) s = .next u ∧ u.sq q = { x with fetches := x.fetches ++ [(x.nextFetch, none)] }
          ∧ u.cq x.cq = { s.cq x.cq with reserved := (s.cq x.cq).reserved + 1 }
          ∧ u.que.out = s.que.out ++ [(HostOut.fetch x.func (x.base + x.nextFetch % 2 ^ x.size * 64) 64, s.ideOf x.func)]
          ∧ u.que.lastFetch = s0.que.lastFetch
          ∧ (∀ k, k ≠ q.val → u.sq k = s.sq k) ∧ u.mem = s.mem ∧ u.cores = s.cores ∧ u.tasks = s.tasks)
      ∧ ((s.cq x.cq).free = false → (s.cq x.cq).stalled = true → exec (.descriptorFetch q) s = .next s0)
      ∧ ((s.cq x.cq).free = false → (s.cq x.cq).stalled = false →
          exec (.descriptorFetch q) s = .next (postEvent (s0.setCq x.cq { s.cq x.cq with stalled := true })
            { type := 0x0202, sev := 1, locket := x.locket, source := qpUnit x.qp, object := x.cq, detail := detail [(16, 4, q.val)] })))
    ∧ (s.turnOf x.qp ≠ some q.val → exec (.descriptorFetch q) s = .next s)
    ∧ (∀ k, s.turnOf x.qp = some k → k < 1024 ∧ (s.sq k).qp = x.qp ∧ s.fetchable k = true)
    ∧ (s.fetchable q = true → s.turnOf x.qp ≠ none)
    ∧ (∀ j rest, x.fetches = (j, none) :: rest → j ≠ idx.toNat → rest.any (fun f => f.1 == idx.toNat && f.2.isNone) = true → x.next = none →
        exec (.descriptorArrival q idx data) s = .next (s.setSq q { x with
          fetches := mapWhere (fun f => f.1 == idx.toNat) (fun f => (f.1, some data)) x.fetches }))
    ∧ (x.fetches.any (fun f => f.1 == idx.toNat && f.2.isNone) = true →
        ∃ u keep w, exec (.descriptorFetchError q idx err) s = .next u
          ∧ u = postEvent w { type := 0x0205, sev := 2, locket := x.locket, source := qpUnit x.qp, object := q
                              detail := detail [(16, 4, idx.toNat), (20, 4, err.kind + (if err.kind = 1 then err.status * 16 else 0))] }
          ∧ keep = x.fetches.takeWhile (fun f => f.1 != idx.toNat)
          ∧ u.sq q = { x with fetches := keep, state := 3, fetchErr := true } ∧ u.que.aer = s.que.aer ++ [err.kind.val]
          ∧ (u.cq x.cq).reserved = (s.cq x.cq).reserved - (x.fetches.length - keep.length) ∧ u.mem = s.mem ∧ u.cores = s.cores)
    ∧ (x.fetches.any (fun f => f.1 == idx.toNat && f.2.isNone) = false →
        exec (.descriptorArrival q idx data) s = .next s ∧ exec (.descriptorFetchError q idx err) s = .next s)
    ∧ exec (.completionTimeout q idx) s = exec (.descriptorFetchError q idx { kind := 2, status := 0 }) s)
  ∧ (∀ (s : State) (q : SqIx) (idx : BitVec 32) (data : BitVec 512) (x : Sq) (d : Desc) (rest : List (Nat × Option (BitVec 512))) (w : State), x = s.sq q →
    x.fetches = (idx.toNat, none) :: rest → (∀ f, f ∈ rest → f.2 = none ∧ f.1 ≠ idx.toNat) → x.descs = [] → d = { idx := idx.toNat, data := data } →
    w = (let w0 := notePcie (s.setSq q { x with fetches := rest, descs := [d], cons := x.cons + 1 }) x.locket d.facet (d.recordCtx x) 1 64
         if x.cwbEn = true ∧ x.cons + 1 = x.prod then hostSend w0 (HostOut.cons x.func x.cwbAddr (x.cons + 1))
         else w0) →
    (∀ st, d.check6 w (w.sq q) q = st → st ≠ 0 →
      exec (.descriptorArrival q idx data) s = .next (advanceQueue (refuseDesc w q d.idx st) q (queueFuel - 1)))
    ∧ (d.check6 w (w.sq q) q = 0 → d.remoteFences w ≠ [] →
        exec (.descriptorArrival q idx data) s = .next (advanceQueue (askFences w q d.idx x.locket (d.remoteFences w)) q (queueFuel - 1)))
    ∧ (d.check6 w (w.sq q) q = 0 → d.remoteFences w = [] →
        (d.check7 w ≠ 0 → exec (.descriptorArrival q idx data) s = .next (advanceQueue (refuseDesc w q d.idx (d.check7 w)) q (queueFuel - 1)))
        ∧ (d.check7 w = 0 → d.hasWait = false → ∃ u, exec (.descriptorArrival q idx data) s = .next u
            ∧ u.ready q d.op = some { d with phase := .ready } ∧ (u.sq q).cons = x.cons + 1 ∧ (u.sq q).fetches = rest)
        ∧ (d.check7 w = 0 → d.hasWait = true → w.waitHeld q d = false →
            exec (.descriptorArrival q idx data) s = .next (advanceQueue (startWait w q d) q (queueFuel - 1)))
        ∧ (d.check7 w = 0 → w.waitHeld q d = true → ∃ u, exec (.descriptorArrival q idx data) s = .next u
            ∧ (u.sq q).descs = [{ d with phase := .checked }] ∧ (u.sq q).cons = x.cons + 1)))

/-- R325, R330, R340: a NOP alone in its queue that has no fence to signal completes with OK: its record goes to the next slot of the
queue's completion ring, whose PROD counts it and whose reserved slot is free again; its message follows when it is due; one with NOCOMP leaves no record.
Nothing of memory, tasks or another queue changes. Any NOP that has come to begin ends with OK, its fence signalled first, and
no other descriptor begins by this command.
R331, R405, R406: a TASK whose virtual cores are all local entries of its Setting's active copy creates one waiting task for each, in
order, with the index, the context, the window, the PC and the arguments of the descriptor; with VCORE 0xFFFF it creates as many that are tied to no
virtual core yet, or ends with SETTING when the copy has no local entry. Another queue, or no TASK ready, begins nothing. -/
def Obligations.NopAndTaskBegin : Prop :=
  (∀ (s : State) (q : SqIx),
    (∀ (d : Desc) (x : Sq) (c : CqRing), x = s.sq q → c = s.cq x.cq → s.ready q 0x00 = some d →
      exec (.nopDescriptor q) s = .next (endDesc s q d.idx stOK 0)
      ∧ (x.descs = [d] → x.state = 1 → d.hasSignal = false →
          (d.nocomp = false → ∃ u rest, exec (.nopDescriptor q) s = .next u
            ∧ (u.sq q) = { x with descs := [] }
            ∧ u.cq x.cq = { c with reserved := c.reserved - 1, ring := c.ring.push 0 d.irq }
            ∧ u.que.out = s.que.out ++ [(HostOut.record x.func c.ring.addr c.ring.prod.toNat c.ring.phase
                { type := 0x0100, sev := 0, locket := x.locket, ctx := d.recordCtx x, source := qpUnit x.qp
                  object := d.idx % 65536 + q.val * 65536, detail := 0 }, s.ideOf x.func)] ++ rest
            ∧ (c.ring.sends 0 d.irq = false → rest = []) ∧ rest.length ≤ 1
            ∧ (∀ k, k ≠ q.val → u.sq k = s.sq k) ∧ u.mem = s.mem ∧ u.cores = s.cores ∧ u.tasks = s.tasks ∧ u.sets = s.sets)
          ∧ (d.nocomp = true → ∃ u, exec (.nopDescriptor q) s = .next u ∧ (u.sq q) = { x with descs := [] } ∧ u.que.out = s.que.out
            ∧ (u.cq x.cq).reserved = c.reserved - 1 ∧ (u.cq x.cq).ring = c.ring
            ∧ (∀ k, k ≠ q.val → u.sq k = s.sq k) ∧ u.mem = s.mem ∧ u.cores = s.cores ∧ u.tasks = s.tasks)))
    ∧ (s.ready q 0x00 = none → exec (.nopDescriptor q) s = .next s))
  ∧ (∀ (s : State) (q : SqIx),
    (∀ (d : Desc) (m : SetCopy), s.ready q 0x01 = some d → m = (s.setting d.setting).active →
      let made (v : Nat → Nat) : Prop := ∃ u, exec (.task q) s = .next u ∧ u.tasks.length = s.tasks.length + d.count
        ∧ (∀ i, i < s.tasks.length → u.tasks[i]? = s.tasks[i]?)
        ∧ (∀ t, t < d.count → ∃ x, u.tasks[s.tasks.length + t]? = some x
            ∧ x.launcher = .desc q d.idx ∧ x.idx = t ∧ x.count = d.count ∧ x.ctx = d.context ∧ x.vcore = v t ∧ x.st = .waiting
            ∧ x.slot = none ∧ x.priv = d.priv ∧ x.prio = d.prio
            ∧ x.arch.pc = d.f 40 4 ∧ x.arch.winBase = d.f 44 4 ∧ x.arch.winLimit = d.f 48 4
            ∧ x.arch.getG 1 = BitVec.ofNat 64 (d.f 56 8) ∧ x.arch.getG 2 = BitVec.ofNat 64 t ∧ x.arch.getG 3 = BitVec.ofNat 64 d.count)
        ∧ u.cores = s.cores ∧ u.mem.chans = s.mem.chans
      exec (.task q) s = .next (settle (beginTasks s q d) q)
      ∧ (m.valid = true → d.vcore ≠ 0xFFFF → (∀ t, t < d.count → d.vcore + t < m.ncore ∧ m.coreValid (d.vcore + t) = true ∧ s.localEntry m (d.vcore + t) = true) →
          made (fun t => d.vcore + t))
      ∧ (m.valid = true → d.vcore = 0xFFFF → (upto m.ncore).any (s.localEntry m) = true → made (fun _ => 0xFFFF))
      ∧ (d.vcore = 0xFFFF → m.valid = false ∨ (upto m.ncore).any (s.localEntry m) = false →
          exec (.task q) s = .next (settle (endDesc ((beginDesc s q d.idx).updDesc q d.idx (fun e => { e with left := d.count })) q d.idx stSETTING 0) q)))
    ∧ (s.ready q 0x01 = none → exec (.task q) s = .next s))

/-- R69, R332, R405, R554: a CODE_LOAD of local cores starts to read its source; when the image has been read and no running task's window
overlaps it, it is written to instruction memory of every target core, and exactly those cores; it waits otherwise, and ends with the error that its read
met.
R217, R220, R221, R272, R333, R334: a COPY begins on a copy engine with fewer than 64 jobs, privileged when its queue is a kernel queue, and waits
otherwise; a VF's COPY that names a DPA outside its Locket's own DRAM ends with DENIED. A SCRUB that names a channel held by a Locket or the pool, in a test
or with a request outstanding completes with BUSY and touches none; any other puts each channel that can be reached in state 2, and completes at
once when none can. -/
def Obligations.LoadsCopiesScrubs : Prop :=
  (∀ (s : State) (q : SqIx) (lid : Nat),
    (∀ (d : Desc) (m : SetCopy), s.ready q 0x02 = some d → m = (s.setting d.setting).active →
      exec (.codeLoad q) s = .next (settle (beginLoad s q d) q)
      ∧ ((∀ t, t < d.count → s.localEntry m (d.vcore + t) = true) →
          exec (.codeLoad q) s = .next (settle (startLoad ((beginDesc s q d.idx).updDesc q d.idx (fun e => { e with left := 1 })) d (.desc q d.idx)
            ((upto d.count).map (fun t => m.coreNum (d.vcore + t))) d.context (s.ctx d.context).locket d.setting (s.sq q).func) q)))
    ∧ (s.ready q 0x02 = none → exec (.codeLoad q) s = .next s)
    ∧ (∀ x j, s.que.loads.find? (fun x => x.lid == lid) = some x → s.job? lid = some j →
        (j.ended = false ∨ s.loadWaits x = true → exec (.codeLoadComplete lid) s = .next s)
        ∧ (j.ended = true → s.loadWaits x = false → j.err ≠ none → exec (.codeLoadComplete lid) s = .next (endJob s lid))
        ∧ (j.ended = true → s.loadWaits x = false → j.err = none →
          ∃ v, exec (.codeLoadComplete lid) s = .next (endJob v lid)
            ∧ (∀ n, n ∈ x.cores → (v.core n).im.readN x.off j.got.length = j.got ∧ (v.core n).tm = (s.core n).tm ∧ (v.core n).arch = (s.core n).arch)
            ∧ (∀ n, n ∈ x.cores → ∀ a, a < x.off ∨ x.off + j.got.length ≤ a → (v.core n).im.read a = (s.core n).im.read a)
            ∧ (∀ n, n ∈ x.cores → ∀ b, x.off / 1024 ≤ b → b * 1024 < x.off + x.len → b ∈ (v.core n).loaded)
            ∧ (∀ n, n ∉ x.cores → v.core n = s.core n) ∧ v.tasks = s.tasks ∧ v.mem = s.mem ∧ v.que = s.que))
    ∧ (s.que.loads.find? (fun x => x.lid == lid) = none ∨ s.job? lid = none → exec (.codeLoadComplete lid) s = .next s))
  ∧ (∀ (s : State) (q : SqIx) (ce : CeIx),
    (∀ d denied, s.ready q 0x08 = some d →
      denied = (decide ((s.sq q).func ≠ 0) && ((bits (d.f 34 1) 0 2 == 2 && !s.ownDram (s.ctx d.context).locket (d.f 40 8) (d.f 56 5))
        || (bits (d.f 34 1) 2 2 == 2 && !s.ownDram (s.ctx d.context).locket (d.f 48 8) (d.f 56 5)))) →
      (denied = true → exec (.copy q ce) s = .next (endDesc s q d.idx stDENIED 0))
      ∧ (denied = false → 64 ≤ countP (fun j => j.ce == ce.val) s.mem.jobs → exec (.copy q ce) s = .next s)
      ∧ (denied = false → countP (fun j => j.ce == ce.val) s.mem.jobs < 64 →
        exec (.copy q ce) s = .next (settle (jobPumpEngine { beginDesc s q d.idx with
          nextId := s.nextId + 1
          mem := { s.mem with jobs := s.mem.jobs ++
            [{ jid := s.nextId, ce := ce, q := q, idx := d.idx, ctx := d.context, locket := (s.ctx d.context).locket, set := d.setting
               facet := d.facet, priv := (s.sq q).kernel, fn := (s.sq q).func, srcKind := bits (d.f 34 1) 0 2, dstKind := bits (d.f 34 1) 2 2
               src := d.f 40 8, dst := d.f 48 8, len := d.f 56 5 }] } } ce) q)))
    ∧ (s.ready q 0x08 = none → exec (.copy q ce) s = .next s)
    ∧ (∀ d, s.ready q 0x09 = some d →
      let taken (c : Nat) : Bool := (s.chanOwner c).isSome || s.chanBusy c || (s.inPool && s.pool.chans.contains c) || (s.chan c).bist
      let closed (c : Nat) : Nat :=
        if (s.chan c).state = 4 ∨ (s.chan c).state = 5 then stCHFAIL else if s.halfClosed (chanHalf c) then stPARKED else 0
      (d.scrubMask.any taken = true → exec (.scrub q) s = .next (endDesc s q d.idx stBUSY 0))
      ∧ (d.scrubMask.any taken = false → (∀ c, c ∈ d.scrubMask → closed c ≠ 0) →
          exec (.scrub q) s = .next (endDesc s q d.idx (((d.scrubMask.map closed).find? (· != 0)).getD 0) 0))
      ∧ (d.scrubMask.any taken = false → (∃ c, c ∈ d.scrubMask ∧ closed c = 0) →
          ∃ u, exec (.scrub q) s = .next u
            ∧ (∀ c, u.chan c = if c ∈ d.scrubMask ∧ closed c = 0 ∧ (s.chan c).state ≠ 2 then { s.chan c with state := 2, initiator := some 0 } else s.chan c)
            ∧ u.cores = s.cores ∧ u.tasks = s.tasks))
    ∧ (s.ready q 0x09 = none → exec (.scrub q) s = .next s))

/-- R335, R354, R358, R399: CONTEXT_CREATE and CONTEXT_DESTROY complete with the status of their checks; a creation that passes makes the
context ACTIVE with its Locket, Setting, root and save area and touches no other context, one that fails touches none, and one whose table is held at a
move's destination waits; a destruction makes the context FREE, and one of a context in use completes with BUSY.
R374, R375, R377, R399, R549: a CONTEXT_ABORT of an ACTIVE context makes it ABORTING and leaves none of its tasks; of one that is ABORTING it waits for that
abort; of a FREE or ABORTED one it completes at once. When the drain of an abort has ended the context is ABORTED with its root cleared and no abort of
it runs. A fenced Locket's contexts wait for the Locket, those with a fence held at a move's destination for the move, and an abort that a core
reset has taken over (R549) for that reset. -/
def Obligations.ContextLives : Prop :=
  (∀ (s : State) (q : SqIx),
    (∀ d, s.ready q 0x10 = some d →
      (createContext s q d = none → exec (.contextCreate q) s = .next s)
      ∧ (∀ r, createContext s q d = some r →
          exec (.contextCreate q) s = .next (endDesc r.1 q d.idx r.2 0)
          ∧ ((s.ctx d.context).state ≠ 0 → r = (s, stCONTEXT))
          ∧ ((s.ctx d.context).state = 0 → bit (d.f 40 8) 0 = false ∨ d.f 56 2 = 0 → r = (s, stARG))
          ∧ (r.2 ≠ stOK → ∀ n, r.1.ctx n = s.ctx n)
          ∧ (r.2 = stOK →
              r.1.ctx d.context = {
                state := 1
                locket := if (s.sq q).func = 0 then (s.setting d.setting).active.locket else (s.sq q).locket
                set := d.setting, root := BitVec.ofNat 64 (d.f 40 8), saveVa := d.f 48 7, saveN := d.f 56 2 }
              ∧ (∀ n, n ≠ d.context → r.1.ctx n = s.ctx n)
              ∧ (s.ctx d.context).state = 0 ∧ bit (d.f 40 8) 0 = true ∧ d.f 56 2 ≠ 0 ∧ (s.setting d.setting).active.valid = true)))
    ∧ (s.ready q 0x10 = none → exec (.contextCreate q) s = .next s)
    ∧ (∀ d, s.ready q 0x11 = some d →
      exec (.contextDestroy q) s = .next (endDesc (destroyContext s d.context).1 q d.idx (destroyContext s d.context).2 0)
      ∧ ((s.ctx d.context).state = 2 ∨ s.ctxInUse d.context = true → destroyContext s d.context = (s, stBUSY))
      ∧ ((s.ctx d.context).state ≠ 2 → s.ctxInUse d.context = false →
          (destroyContext s d.context).2 = stOK ∧ (destroyContext s d.context).1.ctx d.context = {}
          ∧ (∀ n, n ≠ d.context → (destroyContext s d.context).1.ctx n = s.ctx n)
          ∧ (destroyContext s d.context).1.tasks = s.tasks ∧ (destroyContext s d.context).1.que = s.que))
    ∧ (s.ready q 0x11 = none → exec (.contextDestroy q) s = .next s))
  ∧ (∀ (s : State) (q : SqIx) (ctx : CtxIx),
    (∀ d, s.ready q 0x12 = some d → d.context = ctx.val →
      ((s.ctx ctx).state = 1 → ∃ u, exec (.contextAbort q) s = .next u ∧ (u.ctx ctx).state = 2 ∧ (∀ t, t ∈ u.tasks → t.ctx ≠ ctx.val)
        ∧ u.fnc.aborts.any (fun a => a.ctx == ctx.val && a.waiters.contains (q.val, d.idx)) = true)
      ∧ ((s.ctx ctx).state = 2 → ∃ u, exec (.contextAbort q) s = .next u ∧ (u.ctx ctx).state = 2
        ∧ u.fnc.aborts.any (fun a => a.ctx == ctx.val && a.waiters.contains (q.val, d.idx)) = true)
      ∧ ((s.ctx ctx).state ≠ 1 → (s.ctx ctx).state ≠ 2 → exec (.contextAbort q) s = .next (endDesc s q d.idx stOK 0)))
    ∧ (s.ready q 0x12 = none → exec (.contextAbort q) s = .next s)
    ∧ (∀ a, s.fnc.aborts.find? (fun a => a.ctx == ctx.val) = some a →
      (s.fenced (s.ctx ctx).locket = true ∨ s.abortHeld ctx = true → exec (.contextAbortDrained ctx) s = .next s)
      ∧ (s.fenced (s.ctx ctx).locket = false → s.abortHeld ctx = false → a.takers ≠ [] → exec (.contextAbortDrained ctx) s = .next
          { s with fnc := { s.fnc with aborts := mapWhere (fun b => b.ctx == a.ctx) (fun b => { b with drained := true }) s.fnc.aborts } })
      ∧ (s.fenced (s.ctx ctx).locket = false → s.abortHeld ctx = false → a.takers = [] → ∃ u, exec (.contextAbortDrained ctx) s = .next u
          ∧ (u.ctx ctx).state = 3 ∧ (u.ctx ctx).root = 0 ∧ (∀ b, b ∈ u.fnc.aborts → b.ctx ≠ ctx.val)))
    ∧ (s.fnc.aborts.find? (fun a => a.ctx == ctx.val) = none → exec (.contextAbortDrained ctx) s = .next s))

/-- R289 to R292, R296, R297: RANGE_INVAL drops the ranges of its context (all, or those its run meets) from every near buffer and both
far caches, and completes when what it waits for has ended; FAULT_RESOLVE of an entry that is outstanding ends that entry, once,
and completes with OK, RETRY or ERROR as it says; of any other fault it completes with STALE and counts it. -/
def Obligations.FaultsAreResolved : Prop :=
  ∀ (s : State) (q : SqIx) (idx : BitVec 32),
    (∀ d, s.ready q 0x18 = some d → ∃ u, exec (.rangeInval q) s = .next u
        ∧ (∀ n e, e ∈ (u.core n).near → e.ctx = d.context → bit (d.f 34 1) 0 = false ∧ e.overlaps (d.f 40 5) (d.f 45 3) = false)
        ∧ (∀ e, e ∈ u.xlt.farWest ∨ e ∈ u.xlt.farEast → e.ctx = d.context → bit (d.f 34 1) 0 = false ∧ e.overlaps (d.f 40 5) (d.f 45 3) = false)
        ∧ (∃ x, x ∈ u.fnc.invals ∧ x.q = q.val ∧ x.idx = d.idx ∧ x.ctx = d.context)
        ∧ (∀ n, (u.core n).arch = (s.core n).arch ∧ (u.core n).tm = (s.core n).tm) ∧ u.tasks = s.tasks)
    ∧ (s.ready q 0x18 = none → exec (.rangeInval q) s = .next s)
    ∧ (∀ x, s.fnc.invals.find? (fun x => x.q == q.val && x.idx == idx.toNat) = some x →
        (s.invalDone x = false → exec (.rangeInvalComplete q idx) s = .next s)
        ∧ (s.invalDone x = true → exec (.rangeInvalComplete q idx) s = .next
          (endDesc { s with fnc := { s.fnc with invals := s.fnc.invals.filter (fun y => !(y.q == x.q && y.idx == x.idx)) } } q x.idx stOK 0)))
    ∧ (s.fnc.invals.find? (fun x => x.q == q.val && x.idx == idx.toNat) = none → exec (.rangeInvalComplete q idx) s = .next s)
    ∧ (∀ d act, s.ready q 0x19 = some d → act = bits (d.f 36 1) 0 2 →
        (∀ go, (act = 0 ∧ go = exec (.faultResolveRetry q) s) ∨ (act = 1 ∧ go = exec (.faultResolveError q) s) →
          (s.faultNamed q (d.f 32 4) = none →
            go = .next (endDesc { s with xlt := { s.xlt with stale := satAdd 16 s.xlt.stale 1 } } q d.idx stSTALE 0))
          ∧ (∀ o, s.faultNamed q (d.f 32 4) = some o → go = .next (endDesc (jobPumpAll
              ((if act = 0 then dropRanges (endEntries s (fun x => x.entry == o.entry)) (fun e => e.ctx == o.fault.ctx && e.overlaps (vaGranule o.fault.va) 0)
                else endEntries s (fun x => x.entry == o.entry)).forAll o.waiters
                (fun s w => if act = 0 then retryWaiter s w else errorWaiter s w))) q d.idx stOK 0)))
        ∧ (act ≠ 0 → exec (.faultResolveRetry q) s = .next s) ∧ (act ≠ 1 → exec (.faultResolveError q) s = .next s))
    ∧ (s.ready q 0x19 = none → exec (.faultResolveRetry q) s = .next s ∧ exec (.faultResolveError q) s = .next s)

/-- R393, R394, R396, R398, R400, R410, R413, R455: a SET_SWAP of a Setting that is locked or swapping, or in the pool one that would bind a
core or a channel, completes with BUSY, and changes nothing; one of a Locket
whose teardown has begun is refused with REFUSED_SETTING; one that fails a check completes with that check's status and number; one that passes with
nothing to move completes with OK, the copies exchanged, the epoch one further and the shadow copy locked; one with moves starts them, PHASE 1, unless a
source or destination has failed.
R202, R204, R208, R364, R397, R398, R400: a move job whose transmissions the bonds did not disturb leaves at its destination channel what
the source holds, poison and fence marks included, and the source's contents as they were but for its count of corrections; a sector whose read
the bond failed five times arrives marked. The swap goes on to step 4 when no move is left. A move whose source or destination has failed
abandons the swap with CHFAIL. No such move: nothing.
R396, R397, R399, R401, R409: with no request of the former epoch left, step 8 disarms the mirrors, clears the sources' fence marks and lets the held
requests of the Setting go; when no task of the Setting is misplaced any more, steps 9 and 10 unlock the shadow copy, return PHASE to 0 and post
SWAP_DONE. Before its moment, or without a swap, neither changes anything but for a fence command that waits and can go on. -/
def Obligations.SettingsSwapAndMove : Prop :=
  (∀ (s : State) (q : SqIx),
    (∀ (d : Desc) (i : Nat) (x : Setting), s.ready q 0x20 = some d → bit (d.f 32 1) 0 = false → i = d.setting → x = s.setting i →
      ((s.settingLocket 0x20 i).any s.fenced = true →
        exec (.setSwap q) s = .next (settle (endDesc (beginDesc s q d.idx) q d.idx stSETTING (swapDetail 0 x.epoch 0xFFFF 0)) q))
      ∧ ((s.settingLocket 0x20 i).any s.fenced = false → x.shLock = true ∨ x.phase ≠ 0 ∨ (s.inPool = true ∧ x.shadow.valid = true ∧
          (x.shadow.rgnValid = true ∨ ∃ v, v < x.shadow.ncore ∧ x.shadow.coreModule v = s.trb.idModule)) →
        exec (.setSwap q) s = .next (settle (endDesc (beginDesc s q d.idx) q d.idx stBUSY (swapDetail 0 x.epoch 0xFFFF 0)) q))
      ∧ ((s.settingLocket 0x20 i).any s.fenced = false → x.shLock = false → x.phase = 0 → s.inPool = false → (∀ n, (s.core n).resetting = false) →
          (∀ f, swapChecks (beginDesc s q d.idx) i x.shadow = some f →
            exec (.setSwap q) s = .next (settle (endDesc (beginDesc s q d.idx) q d.idx f.status (swapDetail f.check x.epoch f.entry 0)) q))
          ∧ (swapChecks (beginDesc s q d.idx) i x.shadow = none → x.shadow.moves = [] →
            ∃ u v, exec (.setSwap q) s = .next u ∧ u = settle (endDesc v q d.idx stOK (swapDetail 0 ((x.epoch + 1) % 4) 0xFFFF 0)) q
              ∧ (v.setting i).active = x.shadow ∧ (v.setting i).shadow = x.active
              ∧ (v.setting i).epoch = (x.epoch + 1) % 4 ∧ (v.setting i).phase = 3 ∧ (v.setting i).shLock = true
              ∧ (∀ k, k ≠ i → v.setting k = s.setting k) ∧ v.mem.chans = s.mem.chans)
          ∧ (swapChecks (beginDesc s q d.idx) i x.shadow = none → x.shadow.moves ≠ [] →
              (∀ k, k ∈ x.shadow.moves → s.chanDown (x.active.ch k) = false ∧ s.chanDown (x.shadow.ch k) = false) →
            ∃ u, exec (.setSwap q) s = .next (settle u q) ∧ (u.setting i).phase = 1 ∧ (u.setting i).shLock = true
              ∧ (u.setting i).active = x.active ∧ (u.setting i).shadow = x.shadow ∧ (u.setting i).epoch = x.epoch
              ∧ (∀ k, k ≠ i → u.setting k = s.setting k)
              ∧ u.mem.moves = s.mem.moves ++ (x.shadow.moves.zipIdx).map (fun k =>
                  ({ set := i, index := k.1, src := x.active.ch k.1, dst := x.shadow.ch k.1, facet := d.facet, ce := k.2 % 4 } : Move))
              ∧ u.mem.chans = s.mem.chans ∧ u.cores = s.cores ∧ u.tasks = s.tasks)))
    ∧ ((∀ d, s.ready q 0x20 = some d → bit (d.f 32 1) 0 = true) → exec (.setSwap q) s = .next s))
  ∧ (∀ (s : State) (i : SetIx) (k : Fin 128) (e : MoveEnd),
    (∀ m, s.mem.moves.find? (fun m => m.set == i.val && m.index == k.val && !m.done) = some m →
      (s.chanDown m.src = true ∨ s.chanDown m.dst = true →
        exec (.moveJobComplete i k e) s = .next (abandonSwap s i stCHFAIL (some e.us.toNat)))
      ∧ (s.chanDown m.src = false → s.chanDown m.dst = false → m.src ≠ m.dst → (s.chan m.src).inj = 0 → (s.chan m.dst).inj = 0 → e.sectors = [] →
          ∃ v, exec (.moveJobComplete i k e) s = .next (if v.mem.moves.any (fun m => m.set == i.val && !m.done) then v else activateSwap v i)
            ∧ (∀ sec, (s.chan m.src).defined sec = true → (v.chan m.dst).defined sec = true
                ∧ (v.chan m.dst).marked m.dst sec = (s.chan m.src).marked m.src sec
                ∧ ((s.chan m.src).marked m.src sec = false → (v.chan m.dst).sector m.dst sec = (s.chan m.src).sector m.src sec))
            ∧ (v.chan m.dst).fences = (s.chan m.src).fences ∧ (v.chan m.dst).state = (s.chan m.dst).state
            ∧ (v.chan m.src).mem = (s.chan m.src).mem ∧ (v.chan m.src).marks = (s.chan m.src).marks ∧ (v.chan m.src).state = (s.chan m.src).state
            ∧ (v.chan m.src).corr = satAdd 32 (s.chan m.src).corr e.corrected
            ∧ (∀ c, c ≠ m.dst → c ≠ m.src → v.chan c = s.chan c)
            ∧ v.mem.moves = mapWhere (· == m) (fun m => { m with done := true }) s.mem.moves ∧ v.cores = s.cores ∧ v.tasks = s.tasks)
      ∧ (∀ x, s.chanDown m.src = false → s.chanDown m.dst = false → m.src ≠ m.dst → (s.chan m.dst).inj = 0 → e.sectors = [x] → x.wrErrs = [] →
          x.poisonFails = 0 →
          (readSector m.src { rdErrs := [x.rdErrs, x.rdErrs], wrErrs := [[], []], poisonFails := [0, 0] } (s.chan m.src) x.sec (min x.sec 1)).2.1 = .bond →
          ∃ v, exec (.moveJobComplete i k e) s = .next (if v.mem.moves.any (fun m => m.set == i.val && !m.done) then v else activateSwap v i)
            ∧ (v.chan m.dst).marks.contains x.sec = true ∧ (v.chan m.src).marks = (s.chan m.src).marks))
    ∧ (s.mem.moves.find? (fun m => m.set == i.val && m.index == k.val && !m.done) = none → exec (.moveJobComplete i k e) s = .next s))
  ∧ (∀ (s : State) (i : SetIx) (us : BitVec 32),
    (s.fnc.cmd = none → fenceProgress s = s)
    ∧ (∀ w, (s.setting i).swap = some w →
      (w.stepFour = true → w.mirrorsOff = false → s.oldOut i = 0 →
        ∃ v, exec (.swapDrainComplete i) s = .next (fenceProgress (settleAll (releaseHeld v)))
          ∧ v.mem.moves = s.mem.moves.filter (fun (m : Move) => m.set != i.val) ∧ v.mem.held = s.mem.held ∧ v.mem.inflight = s.mem.inflight
          ∧ v.setting i = { s.setting i with swap := some { w with mirrorsOff := true } }
          ∧ (∀ j, j ≠ i.val → v.setting j = s.setting j)
          ∧ (∀ c, (v.chan c).mem = (s.chan c).mem ∧ (v.chan c).marks = (s.chan c).marks
              ∧ (v.chan c).fences = (if ∃ m, m ∈ s.mem.moves ∧ m.set = i.val ∧ m.src = c then [] else (s.chan c).fences))
          ∧ v.cores = s.cores ∧ v.tasks = s.tasks)
      ∧ (w.stepFour = false ∨ w.mirrorsOff = true ∨ s.oldOut i ≠ 0 → exec (.swapDrainComplete i) s = .next (fenceProgress s))
      ∧ (w.stepFour = true → w.mirrorsOff = true → (s.tasks.any (fun t => t.set == i.val && s.misplaced t)) = false →
          ∃ u, exec (.swapUnlock i us) s = .next u
            ∧ u = swapDone (s.setSetting i { s.setting i with phase := 0, shLock := false, swap := none })
                (if (s.setting i).active.valid then (s.setting i).active.locket else (s.setting i).shadow.locket) w.qp i (s.setting i).epoch
                w.moves w.tasks w.drained us.toNat
            ∧ u.setting i = { s.setting i with phase := 0, shLock := false, swap := none }
            ∧ (∀ j, j ≠ i.val → u.setting j = s.setting j) ∧ u.mem = s.mem ∧ u.cores = s.cores ∧ u.tasks = s.tasks)
      ∧ (w.stepFour = false ∨ w.mirrorsOff = false ∨ (s.tasks.any (fun t => t.set == i.val && s.misplaced t)) = true →
          exec (.swapUnlock i us) s = .next s))
    ∧ ((s.setting i).swap = none → exec (.swapDrainComplete i) s = .next (fenceProgress s) ∧ exec (.swapUnlock i us) s = .next s))

/-- R410, R432, R433, R434: LOCKET_CREATE of a free slot whose shadow copy passes the checks makes it ACTIVE with those tables, its
channels in service; a slot that holds a Locket, or tables that fail, leave everything as it was but the completion's status. A SET_SWAP
of TARGET 1 exchanges an active slot's copies under the same checks, and completes with BUSY while a reset or a teardown of it runs.
R447 to R449, R459: GO, from the PF or from the VF of the slot's Locket, starts the inventory of a slot that holds a Locket and does nothing for one that
holds none; its end raises SEQ, makes the record ready and signs the 704 bytes before the signature with the identity key in use. A function that does not
reach the slot starts nothing. -/
def Obligations.LocketsAreCreatedAndShown : Prop :=
  (∀ (s : State) (q : SqIx) (l : SlotIx),
    (∀ d, s.ready q 0x28 = some d → d.f 32 1 = l.val →
      ((s.slot l).active.valid = true ∨ (s.slot l).shadow.valid = false ∨ (s.slot l).state ≠ 0 →
          exec (.locketCreate q) s = .next (endDesc s q d.idx stBUSY 0))
      ∧ (∀ st, (s.slot l).active.valid = false → (s.slot l).shadow.valid = true → (s.slot l).state = 0 → locketChecks s l false = some st →
          exec (.locketCreate q) s = .next (endDesc s q d.idx st 0))
      ∧ ((s.slot l).active.valid = false → (s.slot l).shadow.valid = true → (s.slot l).state = 0 → locketChecks s l false = none →
          ∃ u, exec (.locketCreate q) s = .next (endDesc u q d.idx stOK 0)
            ∧ (u.slot l).active = (s.slot l).shadow ∧ (u.slot l).shadow = (s.slot l).active ∧ (u.slot l).state = 1 ∧ (u.slot l).acct = {}
            ∧ (∀ c, (s.slot l).shadow.chanList.contains c = true → (s.chan c).state = 0 → (u.chan c).state = 1 ∧ (u.chan c).clean = false)
            ∧ (∀ c, (s.slot l).shadow.chanList.contains c = false → u.chan c = s.chan c)
            ∧ (∀ k, k ≠ l.val → u.slot k = s.slot k)))
    ∧ (s.ready q 0x28 = none → exec (.locketCreate q) s = .next s)
    ∧ (∀ d, s.ready q 0x20 = some d → bit (d.f 32 1) 0 = true → d.f 33 1 = l.val →
        ((s.slot l).active.valid = true → (s.slot l).state ≠ 1 ∨ (s.slot l).resetting = true ∨ (s.slot l).teardown ≠ none →
          exec (.setSwapLocket q) s = .next (endDesc s q d.idx stBUSY (swapDetail 0 0 0xFFFF 0)))
        ∧ ((s.slot l).active.valid = false ∨ ((s.slot l).state = 1 ∧ (s.slot l).resetting = false ∧ (s.slot l).teardown = none) →
          (∀ st, locketChecks s l true = some st → exec (.setSwapLocket q) s = .next (endDesc s q d.idx st (swapDetail 0 0 0xFFFF 0)))
          ∧ (locketChecks s l true = none → exec (.setSwapLocket q) s = .next (swapDone (endDesc (exchangeLocket s l) q d.idx stOK
              (swapDetail 0 0 0xFFFF 0)) l (s.sq q).qp (0x8000 + l.val) 0 0 0 0 0)
            ∧ ((exchangeLocket s l).slot l).active = (s.slot l).shadow ∧ ((exchangeLocket s l).slot l).shadow = (s.slot l).active)))
    ∧ ((∀ d, s.ready q 0x20 = some d → bit (d.f 32 1) 0 = false) → exec (.setSwapLocket q) s = .next s))
  ∧ (∀ (s : State) (fn : FnIx) (l : SlotIx),
    (s.reaches fn (l.val + 1) = true → s.holdsLocket l = true → exec (.inventoryGo fn l) s = .next (s.setSlot l { s.slot l with invBusy := true }))
    ∧ (s.reaches fn (l.val + 1) = false ∨ s.holdsLocket l = false → exec (.inventoryGo fn l) s = .next s)
    ∧ ((s.slot l).invBusy = false → exec (.inventoryComplete l) s = .next s)
    ∧ ((s.slot l).invBusy = true → ∀ body, body = s.inventory l ((s.slot l).invSeq + 1) →
        body.length = 704
        ∧ exec (.inventoryComplete l) s = .next (s.setSlot l { s.slot l with
            invBusy := false, invReady := true, invSeq := (s.slot l).invSeq + 1
            invRec := body ++ leBytes 64 (identitySign (b2n s.mgt.debugId) body).toNat })))

/-- R451 to R454: a LOCKET_TEARDOWN of a slot that holds no Locket completes at once with OK, and one of a slot whose teardown runs
with BUSY (whether a home that started it is gone is a free value, log 14); otherwise it waits for a Locket reset that runs, and then leaves the slot
DRAINING with no context ACTIVE. The end of the drain, and a member that is missing, take the teardown on when it waits for them; the drain's end also lets a fence command, a
revocation and a region that is left go on that waited for requests. -/
def Obligations.TeardownsRun : Prop :=
  ∀ (s : State) (q : SqIx) (l : SlotIx) (m : ModIx),
    (∀ d b, s.ready q 0x29 = some d → d.f 32 1 = l.val → b = { beginDesc s q d.idx with freeCtr := s.freeCtr + 1 } →
      ((s.slot l).resetting = true → exec (.locketTeardown q) s = .next s)
      ∧ ((s.slot l).resetting = false → (s.slot l).teardown = none → (s.slot l).state = 0 →
          exec (.locketTeardown q) s = .next (settle (endDesc b q d.idx stOK 0) q))
      ∧ (∀ t, (s.slot l).resetting = false → (s.slot l).teardown = some t → t.msgHome = none ∨ Config.homeGone s.freeCtr = false →
          exec (.locketTeardown q) s = .next (settle (endDesc b q d.idx stBUSY 0) q))
      ∧ (∀ t h, (s.slot l).resetting = false → (s.slot l).teardown = some t → t.msgHome = some h → Config.homeGone s.freeCtr = true → (s.slot l).state ≠ 0 →
          ∀ w, w = updTeardown b l (fun _ => { t with
              desc := some (q.val, d.idx), msgHome := none, members := [], reported := [], home := false, step := if t.step = 4 then 3 else t.step }) →
          exec (.locketTeardown q) s = .next (settle
            (if t.step = 3 ∨ w.pool.freeCmds ≠ [] ∨ t.scrubs ≠ [] then w else advanceTeardown (stepDone w l (if t.step = 4 then 3 else t.step)) l
              teardownFuel) q))
      ∧ ((s.slot l).resetting = false → (s.slot l).teardown = none → (s.slot l).state ≠ 0 →
          ∃ u, exec (.locketTeardown q) s = .next u ∧ (u.slot l).state = 3 ∧ (u.slot l).teardown.isSome = true
            ∧ (∀ c, (u.ctx c).locket = l.val → (u.ctx c).state ≠ 1)))
    ∧ (s.ready q 0x29 = none → exec (.locketTeardown q) s = .next s)
    ∧ (∀ t, (s.slot l).teardown = some t →
        ((s.slot l).state = 3 → t.step = 3 → t.reported.contains s.trb.idModule = false →
          exec (.teardownDrainEnd l) s = .next (poolProgress (fenceProgress (advanceTeardown (stepDone
            (updTeardown (drainLocket s l true) l (fun t => { t with
              reqs := s.locketReqs l, step := if t.msgHome.isSome then 4 else 3 })) l 3) l teardownFuel))))
        ∧ ((s.slot l).state ≠ 3 ∨ t.step ≠ 3 ∨ t.reported.contains s.trb.idModule = true →
          exec (.teardownDrainEnd l) s = .next (poolProgress (fenceProgress s)))
        ∧ (t.msgHome = none → t.members.contains m.val = true → t.reported.contains m.val = false →
          exec (.teardownMemberMissing l m) s = .next (advanceTeardown (updTeardown s l (fun t => { t with
            members := t.members.filter (· != m.val), missing := t.missing + 1 })) l teardownFuel))
        ∧ (t.msgHome ≠ none ∨ t.members.contains m.val = false ∨ t.reported.contains m.val = true →
          exec (.teardownMemberMissing l m) s = .next s))
    ∧ (s.fnc.cmd = none → s.pool.revoking = none → s.pool.state ≠ 3 → poolProgress (fenceProgress s) = s)
    ∧ ((s.slot l).teardown = none → exec (.teardownDrainEnd l) s = .next (poolProgress (fenceProgress s)) ∧ exec (.teardownMemberMissing l m) s = .next s)

/-- R411 to R415: a ROLE to pool that passes its checks parks every core that is not retired and scrubs every channel that is neither
failed nor retired; one back to compute leaves the region at once, scrubs each of its channels that has no request outstanding (the others
follow, R414), and is refused with ARG outside the pool role and with BUSY while a block is taken. With no channel to scrub each ends at once. -/
def Obligations.RolesChange : Prop :=
  ∀ (s : State) (q : SqIx),
    (∀ d, s.ready q 0x2A = some d →
      (bit (d.f 32 1) 0 = true →
        (∀ st, rolePoolCheck (beginDesc s q d.idx) = some st →
          exec (.rolePool q) s = .next (settle (endDesc (beginDesc s q d.idx) q d.idx st 0) q))
        ∧ (rolePoolCheck (beginDesc s q d.idx) = none → ∃ u, exec (.rolePool q) s = .next u
            ∧ u.pool.state = (if s.goodChans = [] then 2 else 1) ∧ u.pool.chans = s.goodChans
            ∧ (∀ n, n < 192 → s.coreRetired n = false → (u.core n).parked = true)
            ∧ (∀ c, c ∈ s.goodChans → (u.chan c).state = 2) ∧ (∀ c, c < 128 → c ∉ s.goodChans → u.chan c = s.chan c))
        ∧ exec (.roleCompute q) s = .next s)
      ∧ (bit (d.f 32 1) 0 = false →
        exec (.rolePool q) s = .next s
        ∧ (s.pool.state ≠ 2 → exec (.roleCompute q) s = .next (settle (endDesc (beginDesc s q d.idx) q d.idx stARG 0) q))
        ∧ (s.pool.state = 2 → s.pool.recs.any (fun e => e.2.state != 0 && e.2.state != 5) = true →
          exec (.roleCompute q) s = .next (settle (endDesc (beginDesc s q d.idx) q d.idx stBUSY 0) q))
        ∧ (s.pool.state = 2 → s.pool.recs.any (fun e => e.2.state != 0 && e.2.state != 5) = false →
          ∃ u, exec (.roleCompute q) s = .next u ∧ u.pool.state = (if s.pool.chans.any (fun c => (s.chan c).state == 1) then 3 else 0)
            ∧ (∀ c, c ∈ s.pool.chans → (s.chan c).state = 1 → (u.chan c).state = (if s.chanBusy c = true then 1 else 2)))))
    ∧ (s.ready q 0x2A = none → exec (.rolePool q) s = .next s ∧ exec (.roleCompute q) s = .next s)

/-- R311, R319, R323, R555, R634: the enable, by a function that reaches it, of a disabled queue whose completion ring belongs to the same function sets
PROD and CONS to 0 and the queue running, with the size, the ring, KERNEL and CONTEXT written; a queue of a Locket that is torn down or reset only takes
those. A disable of a running queue clears ENABLE, frees the slots of its fetches and leaves it draining, or disabled when nothing of it is left; a queue
whose ring belongs to another function, or that has not come to rest, ignores the write.
R278, R280, R311, R323, R324, R327, R350, R528: the enable, by a function that reaches it, of a completion ring with no slot reserved, and of a slot's
fault queue, sets PROD and CONS to 0, with the size when it is one of the ring's sizes; a completion ring with slots reserved is not enabled. A write of
CONS within the ring is taken, and any other sets CONS_ERR; that of a completion ring clears STALLED once a slot is free, and sets its interrupt source
pending if it frees one. -/
def Obligations.RingsEnable : Prop :=
  (∀ (s : State) (fn : FnIx) (q : SqIx) (v : BitVec 64) (x y : Sq), x = s.sq q →
    y = { x with size := if 6 ≤ bits v.toNat 1 5 ∧ bits v.toNat 1 5 ≤ 16 then bits v.toNat 1 5 else x.size
                 kernel := bit v.toNat 6, cq := bits v.toNat 8 10, ctx := bits v.toNat 32 16 } →
    (s.reaches fn x.func = true →
      ((s.cq (bits v.toNat 8 10)).func ≠ x.func → exec (.sqEnable fn q v) s = .next s)
      ∧ ((s.cq (bits v.toNat 8 10)).func = x.func → x.state = 0 →
          (x.enable = false → s.queueOpen q = true → bit v.toNat 0 = true →
            exec (.sqEnable fn q v) s = .next (s.setSq q { y with enable := true, prod := 0, cons := 0, state := 1 }))
          ∧ (x.enable = true ∨ s.queueOpen q = false ∨ bit v.toNat 0 = false → exec (.sqEnable fn q v) s = .next (s.setSq q y)))
      ∧ ((s.cq (bits v.toNat 8 10)).func = x.func → x.state ≠ 0 → x.enable = false ∨ bit v.toNat 0 = true → exec (.sqEnable fn q v) s = .next s)
      ∧ (x.enable = true → x.state = 1 → x.size < 32 → x.cq < 1024 → x.ctx < 65536 → (s.cq x.cq).func = x.func →
          ∃ u, exec (.sqDisable fn q) s = .next u
            ∧ u.sq q = { x with enable := false, fetches := [], state := if x.descs.isEmpty then 0 else 2 }
            ∧ (u.cq x.cq).reserved = (s.cq x.cq).reserved - x.fetches.length ∧ (∀ k, k ≠ q.val → u.sq k = s.sq k) ∧ u.mem = s.mem))
    ∧ (s.reaches fn x.func = false → exec (.sqEnable fn q v) s = .next s ∧ exec (.sqDisable fn q) s = .next s))
  ∧ (∀ (s : State) (fn : FnIx) (c : CqIx) (l : SlotIx) (v : BitVec 64) (n : BitVec 32),
    (s.reaches fn (s.cq c).func = true →
      (bit v.toNat 0 = true → (s.cq c).ring.enable = false → (s.cq c).reserved = 0 →
        exec (.cqEnable fn c v) s = .next (s.setCq c { s.cq c with ring := { (s.cq c).ring with
          enable := true, size := if 6 ≤ bits v.toNat 1 5 ∧ bits v.toNat 1 5 ≤ 16 then bits v.toNat 1 5 else (s.cq c).ring.size
          vector := bits v.toNat 16 11, modCount := bits v.toNat 32 8, modDelay := bits v.toNat 40 10
          prod := 0, cons := 0, since := 0 } }))
      ∧ (bit v.toNat 0 = true → (s.cq c).ring.enable = false → (s.cq c).reserved ≠ 0 → exec (.cqEnable fn c v) s = .next (s.setCq c (s.cq c)))
      ∧ (∃ u, exec (.cqConsWrite fn c n) s = .next u
          ∧ (u.cq c).ring = (if ((s.cq c).ring.prod - n).toNat ≤ (s.cq c).ring.slots then { (s.cq c).ring with cons := n }
              else { (s.cq c).ring with consErr := true })
          ∧ ((u.cq c).free = true → (u.cq c).stalled = false)
          ∧ ((u.cq c).ring.used < (s.cq c).ring.used → (u.intSrc (0x280 + c / 32)).pend = true)
          ∧ ((s.cq c).ring.used ≤ (u.cq c).ring.used → u.int = s.int)
          ∧ (∀ k, k ≠ c.val → u.cq k = s.cq k) ∧ u.que.sqs = s.que.sqs ∧ u.mem = s.mem))
    ∧ (s.reaches fn (l.val + 1) = true → s.xlt.heldQueue = [] →
      (bit v.toNat 0 = true → (s.fq l).ring.enable = false →
        exec (.fqEnable fn l v) s = .next (jobPumpAll (s.setFq l { s.fq l with ring := { (s.fq l).ring with
          enable := true, size := if 8 ≤ bits v.toNat 1 4 ∧ bits v.toNat 1 4 ≤ 14 then bits v.toNat 1 4 else (s.fq l).ring.size
          vector := bits v.toNat 16 11, modCount := bits v.toNat 32 8, modDelay := bits v.toNat 40 10
          prod := 0, cons := 0, since := 0 } })))
      ∧ (((s.fq l).ring.prod - n).toNat ≤ (s.fq l).ring.slots →
        exec (.fqConsWrite fn l n) s = .next (jobPumpAll (s.setFq l { s.fq l with ring := { (s.fq l).ring with cons := n } })))
      ∧ ((s.fq l).ring.slots < ((s.fq l).ring.prod - n).toNat →
        exec (.fqConsWrite fn l n) s = .next (jobPumpAll (s.setFq l { s.fq l with ring := { (s.fq l).ring with consErr := true } }))))
    ∧ (s.reaches fn (l.val + 1) = true →
        exec (.fqConsWrite fn l n) s = .next (flushFaults (s.setFq l { s.fq l with ring := (s.fq l).ring.writeCons n.toNat }) l)
        ∧ exec (.fqEnable fn l v) s = .next (flushFaults (s.setFq l { s.fq l with ring := (s.fq l).ring.writeCtl v.toNat fullMask 8 14 4 true }) l))
    ∧ (s.reaches fn (s.cq c).func = false → exec (.cqEnable fn c v) s = .next s ∧ exec (.cqConsWrite fn c n) s = .next s)
    ∧ (s.reaches fn (l.val + 1) = false → exec (.fqEnable fn l v) s = .next s ∧ exec (.fqConsWrite fn l n) s = .next s))

/-- R326, R327, R345 to R347, R588, R633: a function's event ring enables with PROD and CONS 0, which for the PF ends the hold; a CONS write of it
within the ring is taken, any other sets CONS_ERR, and what waits for space then follows. A moderation timeout sends the ring's message when records wait
for one; unmasking a vector with its pending bit set sends its message and clears the bit; QUE_FN_MSIX gives a VF a run of vectors that no other
function's meets, while VFs are disabled, and ignores any other. -/
def Obligations.MessagesAndEvents : Prop :=
  ∀ (s : State) (v : BitVec 64) (n : BitVec 32) (i : CqIx) (fn : FnIx) (vec : Fin 2048),
    (s.reaches fn fn = true →
      (bit v.toNat 0 = true → (s.ev fn).ring.enable = false → (s.ev fn).lostSince = 0 → fn.val = 0 → s.que.held = [] →
        6 ≤ bits v.toNat 1 5 → bits v.toNat 1 5 ≤ 14 →
        ∃ u, exec (.evEnable fn v) s = .next u ∧ u.que.pfHold = false ∧ (u.ev 0).ring.enable = true ∧ (u.ev 0).ring.prod = 0 ∧ (u.ev 0).ring.cons = 0
          ∧ (u.ev 0).ring.size = bits v.toNat 1 5 ∧ u.que.out = s.que.out)
      ∧ (bit v.toNat 0 = true → (s.ev fn).ring.enable = false → (s.ev fn).lostSince = 0 → fn.val ≠ 0 →
        6 ≤ bits v.toNat 1 5 → bits v.toNat 1 5 ≤ 14 →
        ∃ u, exec (.evEnable fn v) s = .next u ∧ u.que.pfHold = s.que.pfHold ∧ (u.ev fn).ring.enable = true ∧ (u.ev fn).ring.prod = 0
          ∧ (u.ev fn).ring.cons = 0 ∧ (u.ev fn).ring.size = bits v.toNat 1 5 ∧ u.que.out = s.que.out)
      ∧ exec (.evConsWrite fn n) s = .next (flushEv (s.setEv fn { s.ev fn with
          ring := if ((s.ev fn).ring.prod - n).toNat ≤ (s.ev fn).ring.slots then { (s.ev fn).ring with cons := n } else { (s.ev fn).ring with consErr := true } }) fn)
      ∧ ((s.ev fn).lostSince = 0 → fn.val ≠ 0 ∨ s.que.held = [] →
          exec (.evConsWrite fn n) s = .next (s.setEv fn { s.ev fn with
            ring := if ((s.ev fn).ring.prod - n).toNat ≤ (s.ev fn).ring.slots then { (s.ev fn).ring with cons := n } else { (s.ev fn).ring with consErr := true } })))
    ∧ ((s.cq i).ring.since = 0 → ∃ u, exec (.msixModerationTimeout 0 i) s = .next u ∧ u.que.out = s.que.out)
    ∧ ((s.cq i).ring.since ≠ 0 → (s.cq i).ring.vector < s.msixCountOf (s.cq i).func → s.que.unmasked.contains ((s.cq i).func, (s.cq i).ring.vector) = true →
      ∃ u a b, exec (.msixModerationTimeout 0 i) s = .next u ∧ u.que.out = s.que.out ++ [(HostOut.msi (s.cq i).func (s.cq i).ring.vector a b, s.ideOf (s.cq i).func)]
        ∧ (u.cq i).ring.since = 0)
    ∧ (i.val < 33 → (s.ev i).ring.since ≠ 0 → (s.ev i).ring.vector < s.msixCountOf i → s.que.unmasked.contains (i.val, (s.ev i).ring.vector) = true →
      ∃ u a b, exec (.msixModerationTimeout 1 i) s = .next u ∧ u.que.out = s.que.out ++ [(HostOut.msi i (s.ev i).ring.vector a b, s.ideOf i)]
        ∧ (u.ev i).ring.since = 0)
    ∧ (i.val < 32 → (s.fq i).ring.since ≠ 0 → (s.fq i).ring.vector < s.msixCountOf (i.val + 1) →
        s.que.unmasked.contains (i.val + 1, (s.fq i).ring.vector) = true →
      ∃ u a b, exec (.msixModerationTimeout 2 i) s = .next u ∧ u.que.out = s.que.out ++ [(HostOut.msi (i.val + 1) (s.fq i).ring.vector a b, s.ideOf (i.val + 1))]
        ∧ (u.fq i).ring.since = 0)
    ∧ (s.reaches fn fn = true → vec.val < s.msixCountOf fn → s.que.msixPend.contains (fn.val, vec.val) = true →
      ∃ u a b, exec (.msixUnmask fn vec) s = .next u ∧ u.que.out = s.que.out ++ [(HostOut.msi fn vec a b, s.ideOf fn)]
        ∧ u.que.msixPend = s.que.msixPend.filter (· != (fn.val, vec.val)) ∧ u.que.unmasked.contains (fn.val, vec.val) = true)
    ∧ (s.reaches fn fn = true → vec.val < s.msixCountOf fn → s.que.msixPend.contains (fn.val, vec.val) = false →
      ∃ u, exec (.msixUnmask fn vec) s = .next u ∧ u.que.out = s.que.out ∧ u.que.unmasked.contains (fn.val, vec.val) = true ∧ u.que.msixPend = s.que.msixPend)
    ∧ (s.reaches fn fn = false ∨ s.msixCountOf fn ≤ vec.val → exec (.msixUnmask fn vec) s = .next s)
    ∧ (s.pfAnswers = true → fn.val ≠ 0 →
        let meets (g : Nat) : Prop := g < 33 ∧ g ≠ fn.val ∧ 0 < bits v.toNat 16 12 ∧ 0 < s.msixCountOf g
          ∧ bits v.toNat 0 11 < s.msixBaseOf g + s.msixCountOf g ∧ s.msixBaseOf g < bits v.toNat 0 11 + bits v.toNat 16 12
        (s.que.vfEnable = false → s.tdiClosed (fn.val - 1) = false → bits v.toNat 16 12 ≤ 256 → bits v.toNat 0 11 + bits v.toNat 16 12 ≤ 2048 →
          (∀ g, ¬ meets g) →
          ∃ u, exec (.queFnMsixWrite fn v) s = .next u ∧ u.msixBaseOf fn = bits v.toNat 0 11 ∧ u.msixCountOf fn = bits v.toNat 16 12
            ∧ (∀ g, g ≠ fn.val → u.msixBaseOf g = s.msixBaseOf g ∧ u.msixCountOf g = s.msixCountOf g))
        ∧ (s.que.vfEnable = true ∨ s.tdiClosed (fn.val - 1) = true ∨ 256 < bits v.toNat 16 12 ∨ 2048 < bits v.toNat 0 11 + bits v.toNat 16 12
            ∨ (∃ g, meets g) → exec (.queFnMsixWrite fn v) s = .next s))
    ∧ (s.pfAnswers = true → bits v.toNat 16 12 ≤ 2048 → (∀ g, g < 33 → g ≠ 0 → s.msixCountOf g = 0 ∨ bits v.toNat 16 12 ≤ s.msixBaseOf g) →
        ∃ u, exec (.queFnMsixWrite 0 v) s = .next u ∧ u.msixBaseOf 0 = 0 ∧ u.msixCountOf 0 = bits v.toNat 16 12
          ∧ (∀ g, g ≠ 0 → u.msixBaseOf g = s.msixBaseOf g ∧ u.msixCountOf g = s.msixCountOf g))
    ∧ (s.pfAnswers = false → exec (.queFnMsixWrite fn v) s = .next s)

/-! ## Fences, pool, leases and inventory (09, 11, 12) -/

/-- R364, R365, R366, R369, R371, R379, R399: a create that fails a condition gives its RESULT and changes nothing else. One that passes them
waits, BUSY, while its record lies where requests of a new map are held; it writes the record, and a write that the channel does not perform gives
RESULT 6 with the entry as it was; a write performed makes the entry valid with the next generation and the named record, value and Locket,
marks the sector, and gives RESULT 0 and its handle, as does every write at a channel in service over a good bond. A destroy of an entry that is
not valid gives RESULT 1, and of a valid one, held in the same way, RESULT 0 with the entry no longer valid, its fence errored with ABORTED first. While
one waits another command is ignored. A poll reads the record again and registers the wait if it can; a read that fails leaves it polling. Where
none of these applies nothing changes. -/
def Obligations.FencesAreMade : Prop :=
  ∀ (s : State) (i : FenceIx) (q : SqIx) (x : Xmit) (a : FenceArg), a = s.fnc.arg →
    (s.pfAnswers = true → s.fnc.cmd = none →
      (createResult s i a ≠ 0 → exec (.fenceCreate i x) s = .next { s with fnc := { s.fnc with result := createResult s i a } })
      ∧ (createResult s i a = 0 → s.heldAt a.recOff = true →
          exec (.fenceCreate i x) s = .next { s with fnc := { s.fnc with cmd := some (.create i a x) } })
      ∧ (createResult s i a = 0 → s.mapDram a.recOff ≠ none)
      ∧ (∀ m e o y, createResult s i a = 0 → s.heldAt a.recOff = false → s.mapDram a.recOff = some m →
          e = ({ v := a.init.toNat, state := 0, regress := false, err := 0, index := i, gen := (s.fence i).gen % 63 + 1, errCtx := noCtx } : FenceRec) →
          o = writeRecord s m.c m.off e x { dpa := s.ownDpa a.recOff, access := 2, wr := true } →
          y = ({ valid := true, gen := (s.fence i).gen % 63 + 1, locket := a.locket, sigValid := a.sigValid, sigCtx := a.sigCtx, recOff := a.recOff
                 home := (m.c, m.off / 64) } : Fence) →
          (o.2.status ≠ stOK → exec (.fenceCreate i x) s = .next { o.2.failed.foldl channelFailed o.1 with
              fnc := { (o.2.failed.foldl channelFailed o.1).fnc with result := 6 } } ∧ o.1.fence i = s.fence i)
          ∧ (o.2.status = stOK → ∃ v, exec (.fenceCreate i x) s = .next (o.2.failed.foldl channelFailed v)
              ∧ v.fnc.result = 0 ∧ v.fnc.handle = v.handleOf i ∧ v.fence i = y ∧ (∀ k, k ≠ i.val → v.fence k = s.fence k)
              ∧ (v.chan m.c).fences.contains (m.off / 64) = true ∧ v.fnc.waits = s.fnc.waits ∧ v.cores = s.cores ∧ v.tasks = s.tasks)
          ∧ (a.recOff % 16 = 0 → s.chanError m.c = none → (s.chan m.c).inj = 0 → (s.chan m.c).marked m.c (m.off / 64) = false → m.off % 64 ≤ 48 →
              s.mem.moves = [] →
              ∃ u, exec (.fenceCreate i {}) s = .next u ∧ u.fnc.result = 0 ∧ u.fnc.handle = u.handleOf i ∧ u.fence i = y
                ∧ (∀ k, k ≠ i.val → u.fence k = s.fence k) ∧ (u.chan m.c).fences.contains (m.off / 64) = true))
      ∧ ((s.fence i).valid = false → exec (.fenceDestroy i) s = .next { s with fnc := { s.fnc with result := 1 } })
      ∧ ((s.fence i).valid = true → s.heldAt (s.fence i).recOff = true →
          exec (.fenceDestroy i) s = .next { s with fnc := { s.fnc with cmd := some (.destroy i) } })
      ∧ ((s.fence i).valid = true → s.heldAt (s.fence i).recOff = false →
          ∃ u, exec (.fenceDestroy i) s = .next u ∧ u.fnc.result = 0 ∧ (u.fence i).valid = false
          ∧ (u.fence i).gen = (s.fence i).gen ∧ (∀ k, k ≠ i.val → u.fence k = s.fence k)
          ∧ u = fenceResult (destroyFence (errorFence s i stABORTED noCtx) i) 0))
    ∧ (s.pfAnswers = false ∨ s.fnc.cmd ≠ none → exec (.fenceCreate i x) s = .next s ∧ exec (.fenceDestroy i) s = .next s)
    ∧ ((s.sq q).next = none → exec (.fencePoll q x) s = .next s)
    ∧ (∀ d, (s.sq q).next = some d → d.phase ≠ .polling ∨ s.waitHeld q d = true → exec (.fencePoll q x) s = .next s)
    ∧ (∀ d f r, (s.sq q).next = some d → d.phase = .polling → s.waitHeld q d = false → f = s.fence (handleIndex d.waitFence) →
        r = readRecord s (fenceLabels (s.sq q).locket d.facet) (handleIndex d.waitFence) x →
        exec (.fencePoll q x) s = .next (settle (startWait s q d x) q)
        ∧ (d.hasWait = true → handleModule d.waitFence = s.trb.idModule → f.valid = true → f.gen = handleGen d.waitFence →
            (r.2 = none → exec (.fencePoll q x) s = .next (settle (waitOutcome r.1 q d.idx 4) q))
            ∧ (∀ c, r.2 = some c →
                (c.state = 2 → exec (.fencePoll q x) s = .next (settle (waitOutcome r.1 q d.idx 3) q))
                ∧ (c.state ≠ 2 → d.waitValue ≤ c.v → exec (.fencePoll q x) s = .next (settle (waitOutcome r.1 q d.idx 2) q))
                ∧ (c.state ≠ 2 → c.v < d.waitValue → r.1.fnc.waits.length < 4096 → exec (.fencePoll q x) s = .next (settle (waitOutcome
                    { r.1 with fnc := { r.1.fnc with waits := r.1.fnc.waits ++
                      [{ index := handleIndex d.waitFence, value := BitVec.ofNat 64 d.waitValue, who := .desc q d.idx }] } } q d.idx 0) q)))))

/-- R415, R417, R420, R422, R427: ALLOC, REVOKE and FREE of an exported block give RESULT 0 and the record as R420 changes it; a REVOKE that finds a
request of the old GEN unperformed, and every FREE, leave BUSY set, the one until those requests are performed, the other until the block has been cleared.
Outside the pool role they give 3, for a block beyond the region or one that holds records 2, and where the record does not allow them 1,
with the record as it stands; while one is BUSY they do nothing. GEN advances past 0 at each change of owner. The clearing of a block writes zeros, makes it FREE with
its GEN kept, ends the FREE that asked for it and moves on a teardown that waited; a block that is not being cleared, or has requests in flight, is left alone. -/
def Obligations.PoolCommandsChangeRecords : Prop :=
  (∀ (s : State) (l : SlotIx) (b : BitVec 19) (r : HomeRec), s.pfAnswers = true → s.pool.busy = false → r = s.homeRec b.toNat →
    ∀ g, g = leaseGen r.gen → ∀ go : RecordOp → State, (∀ op, go op = poolCommand s b.toNat op) →
    exec (.alloc l b) s = .next (go (.alloc l)) ∧ exec (.revoke b) s = .next (go .revoke) ∧ exec (.free b) s = .next (go .free)
    ∧ (s.pool.state ≠ 2 → ∀ op, go op = poolResult s 3 0)
    ∧ (s.pool.state = 2 → (s.pool.blocks ≤ b.toNat → ∀ op, go op = poolResult s 2 0)
        ∧ (b.toNat < s.pool.recordBlocks → b.toNat < s.pool.blocks → ∀ op, go op = poolResult s 2 r.word)
        ∧ (s.pool.recordBlocks ≤ b.toNat → b.toNat < s.pool.blocks →
            (r.state = 0 → s.holdsLocket l = true →
              go (.alloc l) = poolResult (s.setHomeRec b.toNat { r with locket := l, state := 1 }) 0 ({ r with locket := l, state := 1 } : HomeRec).word)
            ∧ (r.state ≠ 0 ∨ s.holdsLocket l = false → go (.alloc l) = poolResult s 1 r.word)
            ∧ (r.state = 2 ∨ r.state = 3 → s.blockBusy b.toNat = false →
              go .revoke = poolResult (s.setHomeRec b.toNat { r with gen := g, state := 1, pend := 0 }) 0 ({ r with gen := g, state := 1, pend := 0 } : HomeRec).word)
            ∧ (r.state = 2 ∨ r.state = 3 → s.blockBusy b.toNat = true → ∀ u, u = go .revoke → u.homeRec b.toNat = { r with gen := g, state := 1, pend := 0 }
                ∧ u.pool.busy = true ∧ u.pool.revoking = some b.toNat ∧ u.mem = s.mem ∧ (∀ k, k ≠ b.toNat → u.homeRec k = s.homeRec k)
                ∧ (∀ v, v.pool = u.pool → v.blockBusy b.toNat = false → poolProgress v = poolResult v 0 (v.homeRec b.toNat).word))
            ∧ (r.state ≠ 2 → r.state ≠ 3 → go .revoke = poolResult s 1 r.word)
            ∧ (r.state = 1 ∨ r.state = 2 ∨ r.state = 3 → ∃ u, go .free = u ∧ u.homeRec b.toNat = { r with gen := g, state := 4, pend := 0 }
                ∧ u.pool.busy = true ∧ u.pool.clearing = some b.toNat ∧ u.mem = s.mem ∧ (∀ k, k ≠ b.toNat → u.homeRec k = s.homeRec k))
            ∧ (r.state ≠ 1 → r.state ≠ 2 → r.state ≠ 3 → go .free = poolResult s 1 r.word))))
  ∧ (∀ (s : State) (l : SlotIx) (b : BitVec 19), s.pfAnswers = false ∨ s.pool.busy = true →
      exec (.alloc l b) s = .next s ∧ exec (.revoke b) s = .next s ∧ exec (.free b) s = .next s)
  ∧ (∀ (s : State) (b : BitVec 19), ((s.homeRec b.toNat).state ≠ 4 ∨ s.blockBusy b.toNat = true → exec (.blockClearDone b) s = .next s)
      ∧ ((s.homeRec b.toNat).state = 4 → s.blockBusy b.toNat = false → ∃ v, exec (.blockClearDone b) s = .next (teardownFreed v)
          ∧ v.homeRec b.toNat = { s.homeRec b.toNat with state := 0, owner := 0, locket := 0, pend := 0 }
          ∧ v.pool.busy = (s.pool.busy && s.pool.clearing != some b.toNat) ∧ v.pool.freeCmds = s.pool.freeCmds.filter (· != b.toNat)
          ∧ (s.pool.clearing = some b.toNat → v.pool.result = 0) ∧ v.cores = s.cores ∧ v.tasks = s.tasks ∧ v.que = s.que
          ∧ (∀ k, k ≠ b.toNat → v.homeRec k = s.homeRec k) ∧ v.mem.chans = (zeroBlock s b.toNat).mem.chans)
      ∧ ((s.homeRec b.toNat).state = 4 → s.blockBusy b.toNat = false → s.pool.clearing = some b.toNat →
          (∀ l t, (s.slot l).teardown = some t → t.step ≠ 5) →
          ∃ u, exec (.blockClearDone b) s = .next u ∧ u.homeRec b.toNat = { s.homeRec b.toNat with state := 0, owner := 0, locket := 0, pend := 0 }
            ∧ u.pool.busy = false ∧ u.pool.result = 0 ∧ u.cores = s.cores ∧ (∀ k, k ≠ b.toNat → u.homeRec k = s.homeRec k)))
  ∧ (∀ g, g < 2 ^ 32 → leaseGen g ≠ 0 ∧ leaseGen g < 2 ^ 32 ∧ leaseGen g ≠ g)

/-- R418, R420, R421, R424, R425, R428, R455: while no lease command runs, ACCEPT and PROBE send their operation; GRANT and RELEASE make the entry
GRANTING, an ORPHANED one aside (R424, log 59), and send once every request sent under the lease has been answered; of no entry they give RESULT 4; DROP
removes the entry with RESULT 7; without a Locket in the slot all but DROP give 4, and of a slot that is torn down every one does, and a full table gives
ACCEPT 5. While a command runs another is ignored. When PROBE_US passes without an answer a PROBE follows; when that is not answered either the entry is ORPHANED
with RESULT 6 and one event; at any other time the timeout changes nothing. -/
def Obligations.LeaseCommandsUseTheTable : Prop :=
  ∀ (s : State) (b : BitVec 19) (p : Pool) (l : Nat) (c : LeaseCmd), p = s.pool → l = p.argLocket →
    c = { op := 1, block := b.toNat, pool := p.argPool, locket := l, target := p.argTarget, stage := 1 } →
    (s.pfAnswers = true → p.lbusy = false →
      (2 ≤ (s.slot l).state → exec (.accept b) s = .next (leaseResult s 4 0) ∧ exec (.grant b) s = .next (leaseResult s 4 0)
        ∧ exec (.release b) s = .next (leaseResult s 4 0) ∧ exec (.probe b) s = .next (leaseResult s 4 0) ∧ exec (.drop b) s = .next (leaseResult s 4 0))
      ∧ ((s.slot l).state < 2 →
        exec (.drop b) s = .next (leaseResult (dropLease s p.argPool b.toNat l) 7 0)
        ∧ (s.holdsLocket l = false → exec (.accept b) s = .next (leaseResult s 4 0) ∧ exec (.grant b) s = .next (leaseResult s 4 0)
            ∧ exec (.release b) s = .next (leaseResult s 4 0) ∧ exec (.probe b) s = .next (leaseResult s 4 0))
        ∧ (s.holdsLocket l = true → ∀ w : LeaseCmd → State, w = (fun k => { s with pool := { p with lbusy := true, lgen := 0, cmd := some k } }) →
            exec (.probe b) s = .next (leaseSend (w { c with op := 4 }) { c with op := 4 } 4)
            ∧ ((s.leaseHit p.argPool b.toNat l).isSome ∨ p.leases.length < leaseEntries → exec (.accept b) s = .next (leaseSend (w c) c 1))
            ∧ (s.leaseHit p.argPool b.toNat l = none → leaseEntries ≤ p.leases.length → exec (.accept b) s = .next (leaseResult s 5 0))
            ∧ (s.leaseHit p.argPool b.toNat l = none → exec (.grant b) s = .next (leaseResult s 4 0) ∧ exec (.release b) s = .next (leaseResult s 4 0))
            ∧ (∀ e, s.leaseHit p.argPool b.toNat l = some e →
                ∀ op, op = 2 ∨ op = 3 → ∀ go v k, go = (if op = 2 then exec (.grant b) s else exec (.release b) s) → k = { c with op := op } →
                  v = (if e.state = 3 then w k else putLease (w k) { e with state := 1 }) →
                  (∃ u, go = .next u ∧ u.leaseHit p.argPool b.toNat l = some (if e.state = 3 then e else { e with state := 1 }) ∧ u.pool.lbusy = true)
                  ∧ (s.leaseUnanswered c = true → go = .next { v with pool := { v.pool with cmd := some { k with stage := 0 } } })
                  ∧ (s.leaseUnanswered c = false →
                      go = .next (leaseSend { v with pool := { v.pool with cmd := some { k with stage := 0 } } } k op))))))
    ∧ (s.pfAnswers = false ∨ p.lbusy = true → exec (.accept b) s = .next s ∧ exec (.grant b) s = .next s ∧ exec (.release b) s = .next s
        ∧ exec (.probe b) s = .next s ∧ exec (.drop b) s = .next s)
    ∧ (∀ k, s.pool.cmd = some k → k.stage = 2 → s.leaseHit k.pool k.block k.locket ≠ none ∨ p.leases.length < leaseEntries → ∀ e : Lease,
        e = { ((s.leaseHit k.pool k.block k.locket).getD { pool := k.pool, block := k.block, locket := k.locket, gen := 0, state := 3 }) with state := 3 } →
        exec .leaseProbeTimeout s = .next (leaseResult (orphanEvent (putLease (untrack s k.reqid) e) e k.port k.op) 6 0))
    ∧ (∀ k e, s.pool.cmd = some k → k.stage = 2 → s.leaseHit k.pool k.block k.locket = some e →
        ∃ u, exec .leaseProbeTimeout s = .next u ∧ u.leaseHit k.pool k.block k.locket = some { e with state := 3 } ∧ u.pool.lbusy = false
          ∧ u.pool.lresult = 6 ∧ u.pool.cmd = none)
    ∧ (∀ k, s.pool.cmd = some k → k.stage = 1 → exec .leaseProbeTimeout s = .next (leaseSend (untrack s k.reqid) { k with stage := 2 } 4))
    ∧ (s.pool.cmd = none → exec .leaseProbeTimeout s = .next s)
    ∧ (∀ k, s.pool.cmd = some k → k.stage = 0 ∨ 2 < k.stage → exec .leaseProbeTimeout s = .next s)

/-! ## Trebry (13) -/

/-- R465, R466: the 256 bytes of a flit read back as the flit, every field in its width, and they are good: their CRC-32C is right and
every reserved field is zero. -/
def Obligations.FlitsReadBack : Prop :=
  ∀ f : Flit, f.kind < 5 → f.seq < 4096 → f.ack < 4096 → f.cvc < 8 → f.cred < 4096 → f.start < 16 → f.fvc < 8 → f.hold < 1024 →
    f.body.length = 240 → Flit.decode f.encode = f ∧ flitGood f.encode = true

/-- R463, R465, R466, R468 to R470, R472, R490, R495, R498: at a port that is UP, a good DATA flit with the expected SEQ advances it, ends the wait after a
NAK, and gives its body to the receive buffer, its credits going back with an IDLE; any other SEQ keeps what was expected and leaves a NAK sent. An IDLE
only frees what its ACK covers and takes its credits, a NAK sends every flit still unacknowledged again, and a replay timeout does the same; then what is queued
and may go follows. A flit that is not good, or that an uncorrectable codeword overlaps, is not taken as any kind, but counted in CRC and answered with one NAK while
the port is UP, and marks those that the codeword reaches; at a port that seeks its flits' boundary it starts the count of good ones again, and a good one
is only counted until 8 came in a row (log 60). A LOOP flit, and the DATA of its partner's loop-back, are sent back by a port
whose EN is 0 and whose ALLOW_REFLECT is 1 and that runs no test of its own. Of a port's own test, the LOOP flit that comes back starts the pattern, and each
DATA flit that comes back is a unit tested, in error where it is not good, and the next one goes. Codewords corrected are counted. What is of another kind, or
comes while the port neither carries flits nor reflects or tests, changes nothing. -/
def Obligations.FlitsAreHandled : Prop :=
  ∀ (s c : State) (p : PortIx) (w : BitVec 2048) (wait : Nat) (f : Flit) (ready : Nat → Bool), f = Flit.decode w → c = corrected s p →
    ready = (fun k => (s.dyn p).marked == 0 && flitGood w && f.kind == k && decide (f.fvc < 6)) →
    (c = { s with freeCtr := s.freeCtr + 1 }.setPort p { s.port p with fecCorr := satAdd 32 (s.port p).fecCorr (Config.codewordsCorrected s.freeCtr) })
    ∧ (s.portLive p = true → ready 1 = true →
        (f.seq = (s.dyn p).link.expect → ∃ v, v = (takeHeader c p f).setDyn p { (takeHeader c p f).dyn p with link := { ((takeHeader c p f).dyn p).link with
              expect := ((s.dyn p).link.expect + 1) % 4096, nakSent := false } }
            ∧ exec (.data p w wait) s = .next (txPump (sendFlit (takeBody v p f) p f.fvc { kind := 0 }) p wait txFuel)
            ∧ (∃ u, exec (.data p w wait) s = .next u ∧ (u.dyn p).link.expect = ((s.dyn p).link.expect + 1) % 4096 ∧ (u.dyn p).link.nakSent = false
              ∧ u.cores = s.cores ∧ u.tasks = s.tasks ∧ u.mem = s.mem))
        ∧ (f.seq ≠ (s.dyn p).link.expect → exec (.data p w wait) s = .next (txPump (sendNak (takeHeader c p f) p) p wait txFuel)
            ∧ (∃ u, exec (.data p w wait) s = .next u ∧ (u.dyn p).link.expect = (s.dyn p).link.expect ∧ (u.dyn p).link.nakSent = true
              ∧ u.trb.arrived = s.trb.arrived ∧ u.cores = s.cores ∧ u.tasks = s.tasks ∧ u.mem = s.mem)))
    ∧ (s.portLive p = true → ready 0 = true → exec (.idle p w wait) s = .next (txPump (takeHeader c p f) p wait txFuel)
        ∧ ((s.dyn p).link.queue = [] → exec (.idle p w wait) s = .next (takeHeader c p f)))
    ∧ (s.portLive p = true → ready 2 = true → exec (.nak p w wait) s = .next (txPump (replayAll (takeHeader c p f) p) p wait txFuel)
        ∧ ((s.dyn p).link.queue = [] → exec (.nak p w wait) s = .next (replayAll (takeHeader c p f) p)))
    ∧ ((s.portLive p = false → s.reflects p = false → s.testsFlits p = false → exec (.data p w wait) s = .next s)
        ∧ (ready 1 = false → exec (.data p w wait) s = .next s)
        ∧ (s.portLive p = false ∨ ready 0 = false → exec (.idle p w wait) s = .next s)
        ∧ (s.portLive p = false ∨ ready 2 = false → exec (.nak p w wait) s = .next s)
        ∧ (ready 4 = false → exec (.loopFlit p w) s = .next s))
    ∧ (∀ (overlap : Fin 5) (bad : Bool), bad = (decide (overlap.val ≠ 0) || decide ((s.dyn p).marked ≠ 0) || !flitGood w) →
        (bad = true → (s.port p).state = 2 ∨ (s.port p).state = 3 ∨ (s.port p).state = 4 →
          ∃ u, exec (.badFlit p overlap w) s = .next u ∧ (u.port p).lnkCrc = satAdd 16 (s.port p).lnkCrc 1
            ∧ (u.port p).fecUncorr = (if overlap.val = 0 then (s.port p).fecUncorr else satAdd 32 (s.port p).fecUncorr 1)
            ∧ (u.dyn p).marked = max ((s.dyn p).marked - 1) (overlap.val - 1)
            ∧ (u.dyn p).good = (if s.delineated p then (s.dyn p).good else 0)
            ∧ (u.dyn p).link.nakSent = ((s.dyn p).link.nakSent || s.portLive p) ∧ (u.dyn p).link.expect = (s.dyn p).link.expect
            ∧ (u.dyn p).sentFlits.length = (s.dyn p).sentFlits.length + (if s.portLive p && !(s.dyn p).link.nakSent then 1 else 0)
            ∧ (u.dyn p).link.replay = (s.dyn p).link.replay ∧ u.trb.arrived = s.trb.arrived ∧ u.mem = s.mem ∧ u.cores = s.cores ∧ u.tasks = s.tasks)
        ∧ (bad = true → (s.port p).state = 6 → s.testsFlits p = true →
          ∃ u, exec (.badFlit p overlap w) s = .next u ∧ (u.dyn p).testErrors = satAdd 32 (s.dyn p).testErrors 1 ∧ (u.dyn p).testBad = true
            ∧ (u.dyn p).testUnits = (s.dyn p).testUnits + 1 ∧ (u.port p).lnkCrc = satAdd 16 (s.port p).lnkCrc 1 ∧ u.mem = s.mem ∧ u.cores = s.cores)
        ∧ (bad = false ∨ (s.port p).state ≠ 2 ∧ (s.port p).state ≠ 3 ∧ (s.port p).state ≠ 4 ∧ s.testsFlits p = false →
          exec (.badFlit p overlap w) s = .next s))
    ∧ (s.portLive p = true → (s.dyn p).link.replay ≠ [] → exec (.replayTimeout p) s = .next (replayAll s p))
    ∧ (s.portLive p = false ∨ (s.dyn p).link.replay = [] → exec (.replayTimeout p) s = .next s)
    ∧ ((s.port p).en = false → (s.port p).reflect = true → (s.dyn p).testBusy = false → s.delineated p = true →
        ∀ u, u = c.setDyn p { s.dyn p with sentFlits := (s.dyn p).sentFlits ++ [f.encode] } →
        (ready 4 = true → exec (.loopFlit p w) s = .next u) ∧ (ready 1 = true → s.portLive p = false → exec (.data p w wait) s = .next u))
    ∧ (s.portLive p = false → ready 1 = true → s.testsFlits p = true → s.delineated p = true →
        ∃ u, exec (.data p w wait) s = .next u ∧ (u.dyn p).testUnits = (s.dyn p).testUnits + 1 ∧ (u.dyn p).testErrors = satAdd 32 (s.dyn p).testErrors 0
          ∧ (u.dyn p).testBad = (s.dyn p).testBad ∧ (∀ n, (s.dyn p).pattern = .flits n → (u.dyn p).pattern = .flits ((n + 1) % 4096)
            ∧ (u.dyn p).sentFlits.length = (s.dyn p).sentFlits.length + 1))
    ∧ (ready 4 = true → s.delineated p = true → (s.dyn p).testBusy = true →
        ((s.dyn p).pattern ≠ .loops → exec (.loopFlit p w) s = .next c)
        ∧ ((s.dyn p).pattern = .loops → ∃ u, exec (.loopFlit p w) s = .next u ∧ (u.dyn p).testBusy = true
          ∧ (u.dyn p).pattern = (if (s.port p).loop = 4 then .flits 1 else .prbs31)
          ∧ (u.dyn p).sentFlits.length = (s.dyn p).sentFlits.length + (if (s.port p).loop = 4 then 1 else 0)))
    ∧ (ready 4 = true → s.delineated p = true → (s.dyn p).testBusy = false → (s.port p).en = true ∨ (s.port p).reflect = false →
        exec (.loopFlit p w) s = .next c)
    ∧ (ready 4 = true → s.delineated p = false → exec (.loopFlit p w) s = .next (c.setDyn p { s.dyn p with good := (s.dyn p).good + 1 }))

/-- R472, R478, R490 to R492, R498: an enable starts training with the register's other fields, trained lanes lead to HELLO, where the flits' boundary is sought first (log 60), and a HELLO that passes the checks
and says that ours was seen brings the port UP with its neighbour, one that does not say so leaves it waiting; one that fails a check of R491 gives MISMATCH
with its reason. A loss of FEC lock on an UP port starts a retrain, which ends UP in time, the credits of the meantime going back; out of time, or a training that
fails, the port is down with reason 7 or 6, and trains again when AUTO is 1; a disable leaves it OFF. Waits whose route a lost port took end after that. In any other
state of the port these change nothing.
R478, R488, R494, R495, R497: the end of a hold forwards again to that destination, and lets requests that waited go; RETIRED_CLR empties the list; GO of
TRB_ECHO without a route, or without the module key (log 43), ends with RESULT 1, and is ignored while one runs. GO of a port's test starts it on a disabled port
with a LOOP depth, a depth of another module sending a LOOP flit, whose pattern begins when it comes back; the GO that follows ends it with the errors
counted, a test whose LOOP flit has not come back with RESULT 2, and so does one that hears nothing back. Where none of these applies nothing changes. -/
def Obligations.PortsTrainAndTest : Prop :=
  (∀ (s c : State) (p : PortIx) (x : Port), x = s.port p → c = corrected s p →
    (∀ v : BitVec 64, s.pfAnswers = true →
      (x.en = false → (s.dyn p).testBusy = false → ∃ u, exec (.portEnable p v) s = .next u ∧ (u.port p).en = true ∧ (u.port p).state = 1
        ∧ (u.port p).reason = 0 ∧ (u.port p).lanes = 0 ∧ (u.port p).nbrValid = false ∧ (u.port p).auto = bit v.toNat 1 ∧ (u.port p).reflect = bit v.toNat 2
        ∧ (u.port p).slow = bit v.toNat 10 ∧ (u.dyn p).link = {} ∧ (∀ q, q ≠ p.val → u.port q = s.port q))
      ∧ (x.en = true ∨ (s.dyn p).testBusy = true → ∃ u, exec (.portEnable p v) s = .next u ∧ u = s.setPort p (u.port p) ∧ (u.port p).en = x.en
        ∧ (u.port p).state = x.state ∧ (u.port p).auto = bit v.toNat 1 ∧ (u.port p).reflect = bit v.toNat 2 ∧ (u.port p).slow = bit v.toNat 10))
    ∧ (s.pfAnswers = true → x.en = true → ∃ u, exec (.portDisable p) s = .next (routesLost u) ∧ (u.port p).en = false ∧ (u.port p).state = 0
        ∧ (u.port p).lanes = 0 ∧ (u.port p).nbrValid = false ∧ (∀ q, q ≠ p.val → u.port q = s.port q) ∧ u.cores = s.cores ∧ u.tasks = s.tasks)
    ∧ (s.pfAnswers = true → x.en = false → ∃ u, exec (.portDisable p) s = .next u ∧ u = s.setPort p (u.port p) ∧ (u.port p).en = false
        ∧ (u.port p).state = x.state)
    ∧ (s.pfAnswers = false → exec (.portDisable p) s = .next s ∧ ∀ v : BitVec 64, exec (.portEnable p v) s = .next s)
    ∧ (∀ (lanes : Fin 4) (slow : Bool),
        (x.state = 1 → lanes.val ≠ 0 → lanes.val ≤ x.maxLanes + 1 → (x.slow = true → slow = true) →
          ∃ u, exec (.portTrained p lanes slow) s = .next u ∧ (u.port p).state = 2 ∧ (u.port p).lanes = lanes.val ∧ (u.port p).rate = b2n slow
            ∧ (u.dyn p).link = {} ∧ (u.dyn p).marked = 0 ∧ (u.dyn p).good = 0
            ∧ (u.dyn p).sentFlits.length = (s.dyn p).sentFlits.length + 1)
        ∧ (x.state ≠ 1 ∨ lanes.val = 0 ∨ x.maxLanes + 1 < lanes.val ∨ (x.slow = true ∧ slow = false) → exec (.portTrained p lanes slow) s = .next s))
    ∧ (∀ w f, f = Flit.decode w →
        ((s.dyn p).marked ≠ 0 ∨ flitGood w = false ∨ f.kind ≠ 3 ∨ 6 ≤ f.fvc → exec (.hello p w) s = .next s)
        ∧ ((s.dyn p).marked = 0 → flitGood w = true → f.kind = 3 → f.fvc < 6 → x.state = 2 → (s.dyn p).good < 8 →
          exec (.hello p w) s = .next (c.setDyn p { s.dyn p with good := (s.dyn p).good + 1 }))
        ∧ ((s.dyn p).marked = 0 → flitGood w = true → f.kind = 3 → f.fvc < 6 → (x.state = 2 → 8 ≤ (s.dyn p).good) →
          (x.state = 3 → exec (.hello p w) s = .next (sendHello c p))
          ∧ (x.state ≠ 2 → x.state ≠ 3 → x.state ≠ 4 → exec (.hello p w) s = .next c)
          ∧ (x.state = 2 ∨ x.state = 4 →
            (helloReason c p f.body = 0 → bit (leNat ((f.body.drop 5).take 1)) 0 = true →
              ∃ u, exec (.hello p w) s = .next u ∧ (u.port p).state = 3 ∧ (u.port p).nbrMod = leNat (f.body.take 2) % 1024 ∧ (u.port p).nbrValid = true
                ∧ (u.port p).reason = 0)
            ∧ (helloReason c p f.body = 0 → bit (leNat ((f.body.drop 5).take 1)) 0 = false →
              ∃ u, exec (.hello p w) s = .next u ∧ (u.port p).state = x.state ∧ (u.port p).nbrMod = leNat (f.body.take 2) % 1024
                ∧ (u.port p).nbrValid = true ∧ (u.dyn p).link.helloIn = true ∧ (u.dyn p).sentFlits.length = (s.dyn p).sentFlits.length + 1)
            ∧ (helloReason c p f.body ≠ 0 → ∃ u, exec (.hello p w) s = .next u ∧ (u.port p).state = 4 ∧ (u.port p).reason = helloReason c p f.body
                ∧ (u.port p).nbrValid = false))))
    ∧ (x.state = 2 ∨ x.state = 4 → exec (.helloTimer p) s = .next (sendHello s p))
    ∧ (x.state ≠ 2 → x.state ≠ 4 → exec (.helloTimer p) s = .next s)
    ∧ (x.state = 3 → ∃ u, exec (.fecLockLoss p) s = .next u ∧ (u.port p).state = 7 ∧ (u.port p).lnkRetrain = satAdd 16 x.lnkRetrain 1
        ∧ u.trb.hold = s.trb.hold ∧ (u.dyn p).link = (s.dyn p).link)
    ∧ (x.state ≠ 3 → exec (.fecLockLoss p) s = .next s)
    ∧ (x.state = 7 → (∃ u, exec (.retrainComplete p) s = .next u ∧ (u.port p).state = 3 ∧ (u.dyn p).marked = 0 ∧ u.trb.hold = s.trb.hold)
        ∧ ((s.dyn p).link.queue = [] → ∃ u, exec (.retrainComplete p) s = .next u ∧ (u.port p).state = 3
          ∧ (u.dyn p).link = (s.dyn p).link ∧ (u.dyn p).sentFlits.length = (s.dyn p).sentFlits.length + 6))
    ∧ (x.state ≠ 7 → exec (.retrainComplete p) s = .next s)
    ∧ (∀ failed, x.state = 7 ∨ ((x.state = 1 ∨ x.state = 2) ∧ failed = true) → ∃ u, exec (.retrainTimeout p failed) s = .next (routesLost u)
        ∧ (u.port p).reason = (if failed then 6 else 7) ∧ (u.port p).state = (if x.auto && x.en then 1 else 5) ∧ (u.port p).lanes = 0
        ∧ (u.port p).nbrValid = false ∧ (∀ q, q ≠ p.val → u.port q = s.port q) ∧ u.cores = s.cores ∧ u.tasks = s.tasks)
    ∧ (∀ failed, x.state ≠ 7 → (x.state ≠ 1 ∧ x.state ≠ 2) ∨ failed = false → exec (.retrainTimeout p failed) s = .next s))
  ∧ (∀ (s : State) (p : PortIx) (m : ModIx) (errors : BitVec 32) (units : BitVec 64),
    (exec (.routeHoldEnd m) s = .next (releaseWaiting { s with trb := { s.trb with hold := setDel m s.trb.hold } })
      ∧ ∃ u, exec (.routeHoldEnd m) s = .next u ∧ u.trb.hold = setDel m s.trb.hold ∧ u.trb.ports = s.trb.ports ∧ u.cores = s.cores ∧ u.tasks = s.tasks)
    ∧ (s.pfAnswers = true → exec .retiredClr s = .next { s with trb := { s.trb with retired := [] } })
    ∧ (s.pfAnswers = true → s.trb.echoBusy = true → exec (.echoGo m) s = .next { s with trb := { s.trb with echoDst := m.val } })
    ∧ (s.pfAnswers = true → s.trb.echoBusy = false → s.egress m = none ∨ (s.tagKeys 0).cur = none →
        exec (.echoGo m) s = .next { s with trb := { s.trb with echoDst := m.val, echoResult := 1 } })
    ∧ (s.pfAnswers = true → s.trb.echoBusy = false → s.egress m ≠ none → (s.tagKeys 0).cur ≠ none →
        ∃ u, exec (.echoGo m) s = .next u ∧ u.trb.echoBusy = true ∧ u.trb.echoDst = m.val)
    ∧ (s.pfAnswers = true → (s.dyn p).testBusy = false →
        ((s.port p).en = false → (s.port p).loop ≠ 0 →
          ∃ u, exec (.testGo p errors units) s = .next u ∧ (u.dyn p).testBusy = true ∧ (u.port p).state = 6 ∧ (u.dyn p).testUnits = 0
            ∧ (u.dyn p).testResult = 3 ∧ (u.dyn p).testBad = false
            ∧ (u.dyn p).pattern = (if (s.port p).loop = 1 then .flits 0 else if (s.port p).loop = 2 then .prbs31 else .loops)
            ∧ (u.dyn p).sentFlits.length = (s.dyn p).sentFlits.length + (if 3 ≤ (s.port p).loop then 1 else 0))
        ∧ ((s.port p).en = true ∨ (s.port p).loop = 0 → exec (.testGo p errors units) s = .next s))
    ∧ (s.pfAnswers = true → (s.dyn p).testBusy = true → ∃ u, exec (.testGo p errors units) s = .next u ∧ (u.dyn p).testBusy = false
        ∧ (u.port p).state = 0 ∧ (u.dyn p).pattern = .none
        ∧ ((s.dyn p).pattern = .loops → (u.dyn p).testResult = 2 ∧ (u.dyn p).testUnits = (s.dyn p).testUnits ∧ (u.dyn p).testErrors = (s.dyn p).testErrors)
        ∧ ((s.dyn p).pattern ≠ .loops → (s.port p).loop = 4 → (u.dyn p).testResult = (if (s.dyn p).testBad then 1 else 0)
          ∧ (u.dyn p).testUnits = (s.dyn p).testUnits ∧ (u.dyn p).testErrors = (s.dyn p).testErrors)
        ∧ ((s.dyn p).pattern ≠ .loops → (s.port p).loop ≠ 4 → (u.dyn p).testResult = (if (s.dyn p).testBad || decide (errors.toNat ≠ 0) then 1 else 0)
          ∧ (u.dyn p).testUnits = (s.dyn p).testUnits + units ∧ (u.dyn p).testErrors = satAdd 32 (s.dyn p).testErrors errors.toNat))
    ∧ ((s.dyn p).testBusy = true → (s.dyn p).pattern = .loops → ∃ u, exec (.noreflectTimeout p) s = .next u ∧ (u.dyn p).testBusy = false
        ∧ (u.dyn p).testResult = 2 ∧ (u.port p).state = 0)
    ∧ ((s.dyn p).testBusy = false ∨ (s.dyn p).pattern ≠ .loops → exec (.noreflectTimeout p) s = .next s)
    ∧ (s.pfAnswers = false → exec .retiredClr s = .next s ∧ exec (.echoGo m) s = .next s ∧ exec (.testGo p errors units) s = .next s))

/-- R47, R475, R477, R478, R481, R486: a packet for this module leaves its buffer and is dropped, counted in AUTH and unanswered, when its tag is
retired or no installed generation verifies it, whichever command takes it; one whose tag no slot holds is answered with DENIED under the module key; one with no budget left is dropped and counted in EXPIRED; one that passes is given to its kind, its bytes counted at its port and
charged to the context it names, where that is this module's. What it spent here is off the BUDGET that an answer
starts with. An unknown kind that passes these steps is counted in BADPKT. A packet for another module is forwarded by
its egress port, over the seam where that lies in the other half, dropped while its destination is held (a request or a control packet) or when its budget is used
up, and with no route answered with NOROUTE. A command that names no packet at the front of its channel, or one for the other of the two, changes nothing. -/
def Obligations.PacketsAreOpened : Prop :=
  ∀ (s : State) (a : Arrived) (pid resid : Nat) (kinds : List Nat) (f : State → Arrived → Nat → List (BitVec 8) → State),
    (s.arrivedFor pid kinds = none → handlePacket s pid resid kinds f = s)
    ∧ (s.arrivedFor pid kinds = some a →
      (s.trb.retired.contains a.pkt.tag = true → handlePacket s pid resid kinds f = countAuth (consumePacket s a) a.port)
      ∧ (s.trb.retired.contains a.pkt.tag = false → a.pkt.tag = 0 ∨ s.slotOfTag a.pkt.tag ≠ none → unprotect s a.pkt = none →
          handlePacket s pid resid kinds f = countAuth (consumePacket s a) a.port)
      ∧ (s.trb.retired.contains a.pkt.tag = false → a.pkt.tag ≠ 0 → s.slotOfTag a.pkt.tag = none →
          handlePacket s pid resid kinds f = denyPacket (consumePacket s a) (a.spent resid).pkt 0 stDENIED)
      ∧ (∀ payload l, s.trb.retired.contains a.pkt.tag = false → (if a.pkt.tag = 0 then some noLocket else s.slotOfTag a.pkt.tag) = some l →
          unprotect s a.pkt = some payload →
          (a.pkt.budget ≤ a.hold + resid → handlePacket s pid resid kinds f = countExpired (consumePacket s a) a.port)
          ∧ (a.hold + resid < a.pkt.budget → handlePacket s pid resid kinds f
              = f (countTrb (noteGrant (consumePacket s a) l a.pkt.facet 64 (portUnit a.port) 1 a.pkt.bytes.length)
                  (if a.pkt.isRequest then noCtx else a.pkt.ctx) l a.pkt.bytes.length) (a.spent resid) l payload)))
    ∧ (∀ r, s.trb.arrived.find? (fun a => a.pid == pid) = some a →
        r = [0x01, 0x02, 0x03, 0x08, 0x09, 0x10, 0x11, 0x20, 0x21] →
        (a.pkt.dst = s.trb.idModule → r.contains a.pkt.pkind = false →
          exec (.badpkt pid resid) s = .next (handlePacket s pid resid [a.pkt.pkind] (fun t b _ _ => countBadpkt t b.port)))
        ∧ (a.pkt.dst ≠ s.trb.idModule → exec (.badpkt pid resid) s = .next s)
        ∧ (r.contains a.pkt.pkind = true → a.pkt.pkind ≠ 0x10 → exec (.badpkt pid resid) s = .next s))
    ∧ (∀ first, s.trb.arrived.find? (fun a => a.pid == pid) = some a →
        first = !(s.trb.arrived.takeWhile (fun x => x.pid != pid)).any (fun x => x.port == a.port && x.vc == a.vc) →
        (a.pkt.dst = s.trb.idModule ∨ first = false → exec (.transitForward pid resid) s = .next s)
        ∧ (a.pkt.dst ≠ s.trb.idModule → first = true → ∀ held, held = (s.trb.hold.contains a.pkt.dst && (classVc a.pkt.pkind == 0 || classVc a.pkt.pkind == 4)) →
          (held = true → exec (.transitForward pid resid) s = .next (countDiscard (consumePacket s a) a.port))
          ∧ (held = false → (consumePacket s a).egress a.pkt.dst = none →
            exec (.transitForward pid resid) s = .next (denyPacket (consumePacket s a) (a.spent resid).pkt 0 stNOROUTE))
          ∧ (∀ q l n u, held = false → (consumePacket s a).egress a.pkt.dst = some q → l = (consumePacket s a).locketOfTag a.pkt.tag → n = a.pkt.bytes.length →
            u = crossSeam (noteGrant (consumePacket s a) l a.pkt.facet 64 (portUnit a.port) 1 n) l a.pkt.facet noCtx (portHalf a.port) (portHalf q) n →
            (a.pkt.budget ≤ max 1 (a.hold + resid) + ((consumePacket s a).port q).dly → exec (.transitForward pid resid) s = .next (countExpired u q))
            ∧ (max 1 (a.hold + resid) + ((consumePacket s a).port q).dly < a.pkt.budget →
              exec (.transitForward pid resid) s = .next (enqueue u q (u.outVc q a.pkt.pkind (some (a.vc, a.port))) a.pkt.budget (a.hold + resid)
                (u.pairOf l a.pkt.facet 64 (portUnit q) 0) a.pkt.bytes)))))
    ∧ (s.trb.arrived.find? (fun a => a.pid == pid) = none → exec (.transitForward pid resid) s = .next s ∧ exec (.badpkt pid resid) s = .next s)

/-- R483 to R485: a packet is sealed under its tag's current key and the next counter of its port, tag and generation, and opens where the tag has that key, to the payload
that was sent, filled to whole units; its BUDGET is not authenticated, and no other authentication tag opens it. Without a current key, or with the counter used up,
nothing is sealed. -/
def Obligations.PacketsOpenAsSealed : Prop :=
  ∀ (s u : State) (port : Nat) (k : Packet) (key : Key),
    ((s.tagKeys k.tag).cur = none → protect s port k = none)
    ∧ ((s.tagKeys k.tag).cur = some key → ∀ n, n = SMap.get zeroD s.trb.ivs (ivKey port k.tag key.gen) →
      (2 ^ 64 - 1 ≤ n → protect s port k = none)
      ∧ (n < 2 ^ 64 - 1 → (u.tagKeys k.tag).ofKg (key.gen % 4) = some key → ∃ t q, protect s port k = some (t, q)
        ∧ q.nonce = n ∧ q.tag = k.tag ∧ q.enc = true ∧ q.kg = key.gen % 4 ∧ q.ivp = port
        ∧ t = { s with trb := { s.trb with ivs := SMap.set zeroD s.trb.ivs (ivKey port k.tag key.gen) (n + 1) } }
        ∧ unprotect u q = some (padUnits k.payload) ∧ (∀ b, unprotect u { q with budget := b } = unprotect u q)
        ∧ ∀ a, a ≠ q.auth → unprotect u { q with auth := a } = none))

/-- R206, R214, R370, R372, R405, R415, R419, R420, R452, R475, R494, R550: a request that opens is served by its kind: READ, WRITE and ATOMIC as an access of
the packet's Locket, CONTROL by its subcode, ECHO with the payload's first 16 bytes, the module ID and the ingress port. Any other subcode, and a payload that
spells no operation or is shorter than SIZE, is dropped and counted in BADPKT. A fenced module answers every request with DENIED, and so does the ingress port for a
Locket that is torn down, its teardown apart. An access that its home's check turns away is answered with that status: in the pool region a lease of the record's
owner, GEN and Locket alone passes, and a record block never; elsewhere DRAM answers its Locket, and under TAG 0 a fence's signal, which a PF queue may send. A command that names no packet of its kind, or a CONTROL of another subcode, changes nothing. The layouts
are the model's (log 31). -/
def Obligations.RequestsAreServed : Prop :=
  ∀ (s t : State) (b a : Arrived) (pid resid l : Nat) (payload : List (BitVec 8)), a = b.spent resid →
    (s.arrivedFor pid [a.pkt.pkind] = some b → openPacket s b resid = .ok t l payload →
      (a.pkt.pkind = 0x01 → exec (.read pid resid) s = .next (remoteAccess t a l .read (sizeBytes a.pkt.size) []))
      ∧ (a.pkt.pkind = 0x02 →
          (sizeBytes a.pkt.size ≤ payload.length →
            exec (.write pid resid) s = .next (remoteAccess t a l (.write a.pkt.poison) (sizeBytes a.pkt.size) (payload.take (sizeBytes a.pkt.size))))
          ∧ (payload.length < sizeBytes a.pkt.size → exec (.write pid resid) s = .next (countBadpkt t a.port)))
      ∧ (a.pkt.pkind = 0x03 →
          (atomOf (sizeBytes a.pkt.size) a.pkt.status payload = none → exec (.atomic pid resid) s = .next (countBadpkt t a.port))
          ∧ (∀ op n x y, atomOf (sizeBytes a.pkt.size) a.pkt.status payload = some (.atom op n x y) →
            exec (.atomic pid resid) s = .next (remoteAccess t a l (.atom op n x y) n []))
          ∧ (∀ k, atomOf (sizeBytes a.pkt.size) a.pkt.status payload = some k → (∀ op n x y, k ≠ .atom op n x y) →
            exec (.atomic pid resid) s = .next (remoteAccess t a l k 8 []))
          ∧ (16 ≤ payload.length → a.pkt.status ≠ 0x28 → 0x20 ≤ leNat (payload.take 1) → leNat (payload.take 1) < 0x28 → a.pkt.size = 2 ∨ a.pkt.size = 3 →
            exec (.atomic pid resid) s = .next (remoteAccess t a l (.atom (leNat (payload.take 1)) (sizeBytes a.pkt.size)
              (BitVec.ofNat 64 (leNat ((payload.drop 8).take (sizeBytes a.pkt.size)))) 0) (sizeBytes a.pkt.size) [])))
      ∧ (a.pkt.pkind = 0x20 →
          (t.moduleFenced = true → exec (.echo pid resid) s = .next (denyPacket t a.pkt 0 stDENIED))
          ∧ (t.moduleFenced = false → exec (.echo pid resid) s = .next (sendResponse t 1 {
              pkind := 0x21, dst := a.pkt.src, src := t.trb.idModule, budget := a.pkt.budget, reqid := a.pkt.reqid
              payload := payload.take 16 ++ leBytes 2 t.trb.idModule ++ leBytes 14 a.port })))
      ∧ (a.pkt.pkind = 0x10 →
          (subcode payload = 0 ∨ 6 < subcode payload → exec (.badpkt pid resid) s = .next (countBadpkt t a.port))
          ∧ (subcode payload ≠ 0 → subcode payload ≤ 6 → exec (.badpkt pid resid) s = .next s)
          ∧ (subcode payload ≠ 1 → exec (.fenceQuery pid resid) s = .next s) ∧ (subcode payload ≠ 2 → exec (.fenceRelease pid resid) s = .next s)
          ∧ (subcode payload ≠ 3 → exec (.leaseOperation pid resid) s = .next s) ∧ (subcode payload ≠ 4 → exec (.remoteLaunch pid resid) s = .next s)
          ∧ (subcode payload ≠ 5 → exec (.teardownStep pid resid) s = .next s) ∧ (subcode payload ≠ 6 → exec (.teardownReport pid resid) s = .next s)
          ∧ (s.ingressCloses l = true → ∀ d, d = Host.Outcome.next (denyPacket t a.pkt a.pkt.tag stDENIED) →
            (subcode payload = 1 → exec (.fenceQuery pid resid) s = d) ∧ (subcode payload = 2 → exec (.fenceRelease pid resid) s = d)
            ∧ (subcode payload = 3 → exec (.leaseOperation pid resid) s = d) ∧ (subcode payload = 4 → exec (.remoteLaunch pid resid) s = d))
          ∧ (s.ingressCloses l = false →
            (subcode payload = 1 → exec (.fenceQuery pid resid) s = .next ((answerQuery t a.pkt l payload).getD s))
            ∧ (subcode payload = 2 → exec (.fenceRelease pid resid) s = .next (takeRelease t a.pkt payload))
            ∧ (subcode payload = 3 → exec (.leaseOperation pid resid) s = .next (answerLease t a.pkt l payload))
            ∧ (subcode payload = 4 → exec (.remoteLaunch pid resid) s = .next (takeLaunch t a l payload)))
          ∧ (s.moduleFenced = true → ∀ d, d = Host.Outcome.next (denyPacket t a.pkt a.pkt.tag stDENIED) →
            (subcode payload = 5 → exec (.teardownStep pid resid) s = d) ∧ (subcode payload = 6 → exec (.teardownReport pid resid) s = d))
          ∧ (s.moduleFenced = false →
            (subcode payload = 5 → ∀ v, v = controlAnswer t a.pkt (leBytes 1 5) →
              (∀ k step, teardownOf t payload = some (k, step) → exec (.teardownStep pid resid) s = .next (memberStep v k a.pkt.src step))
              ∧ (teardownOf t payload = none → exec (.teardownStep pid resid) s = .next v))
            ∧ (subcode payload = 6 → ∀ v, v = controlAnswer t a.pkt (leBytes 1 6) →
              (∀ k step, teardownOf t payload = some (k, step) → exec (.teardownReport pid resid) s = .next (teardownReported v k a.pkt.src step))
              ∧ (teardownOf t payload = none → exec (.teardownReport pid resid) s = .next v)))))
    ∧ (∀ k len data st, t.remoteCheck a.pkt l k.isFence = some st → remoteAccess t a l k len data = denyPacket t a.pkt a.pkt.tag st)
    ∧ (∀ off r, localPlace (dpaLocal a.pkt.addr) = .dram off → dpaModule a.pkt.addr = t.trb.idModule → t.ingressCloses l = false → t.pool.state = 2 →
        off < t.pool.chans.length * slotBytes → r = t.homeRec (off / blockBytes) →
        (off / blockBytes < t.pool.recordBlocks ∨ a.pkt.lease = false → t.remoteCheck a.pkt l = some stDENIED)
        ∧ (t.pool.recordBlocks ≤ off / blockBytes → a.pkt.lease = true →
          (r.state = 2 → r.owner = a.pkt.src → r.gen = a.pkt.gen → r.locket = l → t.remoteCheck a.pkt l = none)
          ∧ (r.state ≠ 2 ∨ r.owner ≠ a.pkt.src ∨ r.gen ≠ a.pkt.gen ∨ r.locket ≠ l → t.remoteCheck a.pkt l = some stOWNLOST)))
    ∧ (∀ off m fence o, localPlace (dpaLocal a.pkt.addr) = .dram off → dpaModule a.pkt.addr = t.trb.idModule → t.ingressCloses l = false →
        t.pool.state ≠ 2 → t.pool.state ≠ 3 → a.pkt.lease = false → t.mapDram off = some m → m.set < 64 → o = (t.setting m.set).active.locket →
        t.remoteCheck a.pkt l fence = (if o = l ∨ (fence = true ∧ l = noLocket ∧ t.tdiClosed o = false) then none else some stDENIED))
    ∧ ((s.arrivedFor pid [0x01] = none → exec (.read pid resid) s = .next s) ∧ (s.arrivedFor pid [0x02] = none → exec (.write pid resid) s = .next s)
      ∧ (s.arrivedFor pid [0x03] = none → exec (.atomic pid resid) s = .next s) ∧ (s.arrivedFor pid [0x20] = none → exec (.echo pid resid) s = .next s)
      ∧ (s.arrivedFor pid [0x10] = none → exec (.fenceQuery pid resid) s = .next s ∧ exec (.fenceRelease pid resid) s = .next s
        ∧ exec (.leaseOperation pid resid) s = .next s ∧ exec (.remoteLaunch pid resid) s = .next s
        ∧ exec (.teardownStep pid resid) s = .next s ∧ exec (.teardownReport pid resid) s = .next s))
    ∧ (s.arrivedFor pid [a.pkt.pkind] = some b → openPacket s b resid = .done t →
      (a.pkt.pkind = 0x01 → exec (.read pid resid) s = .next t) ∧ (a.pkt.pkind = 0x02 → exec (.write pid resid) s = .next t)
      ∧ (a.pkt.pkind = 0x03 → exec (.atomic pid resid) s = .next t) ∧ (a.pkt.pkind = 0x20 → exec (.echo pid resid) s = .next t)
      ∧ (a.pkt.pkind = 0x10 → exec (.fenceQuery pid resid) s = .next t ∧ exec (.fenceRelease pid resid) s = .next t
        ∧ exec (.leaseOperation pid resid) s = .next t ∧ exec (.remoteLaunch pid resid) s = .next t
        ∧ exec (.teardownStep pid resid) s = .next t ∧ exec (.teardownReport pid resid) s = .next t))

/-- R419, R475, R479, R480, R494, R497: a response frees its request's tracker entry and goes to whoever asked, OWNERSHIP_LOST marking the lease it was sent under;
one with no entry is counted in LATE alone, and one that does not open is dropped. An echo's answer ends it with the responder, the ingress port and the round trip. A
request that is not answered by its deadline completes with DEADLINE, a lease operation apart, and its entry is free; a number with no entry changes nothing. -/
def Obligations.ResponsesComeHome : Prop :=
  ∀ (s t : State) (a : Arrived) (pid resid l : Nat) (payload : List (BitVec 8)) (rtt : BitVec 32),
    (s.arrivedFor pid [a.pkt.pkind] = some a → openPacket s a resid = .ok t l payload →
      (t.tracked a.pkt.reqid = none →
        (a.pkt.pkind = 0x08 → exec (.respData pid resid) s = .next (countLate t a.port))
        ∧ (a.pkt.pkind = 0x09 → exec (.respAck pid resid) s = .next (countLate t a.port))
        ∧ (a.pkt.pkind = 0x11 → exec (.controlResp pid resid) s = .next (countLate t a.port))
        ∧ (a.pkt.pkind = 0x21 → exec (.echoResp pid resid rtt) s = .next (countLate t a.port)))
      ∧ (∀ k, t.tracked a.pkt.reqid = some k →
        (a.pkt.pkind = 0x08 → exec (.respData pid resid) s = .next (accessAnswered (untrack t a.pkt.reqid) a.port k a.pkt.status payload))
        ∧ (a.pkt.pkind = 0x09 → exec (.respAck pid resid) s = .next (accessAnswered (untrack t a.pkt.reqid) a.port k a.pkt.status []))
        ∧ (a.pkt.pkind = 0x11 → exec (.controlResp pid resid) s = .next (controlAnswered (untrack t a.pkt.reqid) k a.pkt.reqid payload))
        ∧ (a.pkt.pkind = 0x21 → k.purpose = .echo → ∃ u, exec (.echoResp pid resid rtt) s = .next u ∧ u.trb.echoBusy = false ∧ u.trb.echoResult = 0
            ∧ u.trb.echoRtt = rtt.toNat ∧ u.trb.echoResponder = leNat ((payload.drop 16).take 2) % 1024
            ∧ u.trb.echoIngress = leNat ((payload.drop 18).take 1) % 16)
        ∧ (a.pkt.pkind = 0x21 → k.purpose ≠ .echo → exec (.echoResp pid resid rtt) s = .next (untrack t a.pkt.reqid))))
    ∧ (s.arrivedFor pid [a.pkt.pkind] = some a → openPacket s a resid = .done t →
        (a.pkt.pkind = 0x08 → exec (.respData pid resid) s = .next t) ∧ (a.pkt.pkind = 0x09 → exec (.respAck pid resid) s = .next t)
        ∧ (a.pkt.pkind = 0x11 → exec (.controlResp pid resid) s = .next t) ∧ (a.pkt.pkind = 0x21 → exec (.echoResp pid resid rtt) s = .next t))
    ∧ ((s.arrivedFor pid [0x08] = none → exec (.respData pid resid) s = .next s) ∧ (s.arrivedFor pid [0x09] = none → exec (.respAck pid resid) s = .next s)
        ∧ (s.arrivedFor pid [0x11] = none → exec (.controlResp pid resid) s = .next s)
        ∧ (s.arrivedFor pid [0x21] = none → exec (.echoResp pid resid rtt) s = .next s))
    ∧ (∀ k r, k.purpose = .access r → k.pkt.gen = a.pkt.gen → accessAnswered t a.port k stOWNLOST [] =
        (let v := leaseLost (r.cross t (portHalf a.port) r.source.half 0) (dpaModule r.dpa) (dpaLocal r.dpa / blockBytes) r.locket a.pkt.gen
         settleEndings (leaseProgress (match r.src, r.dropped with
           | .desc q idx, false => settle (descSignalled v q idx) q
           | _, _ => answer v r stOWNLOST [] (stop := portStop a.port)))))
    ∧ (∀ (p : PortIx) (reqid : BitVec 16),
        (∀ k, ((s.dyn p).tracker ++ (s.dyn p).waiting).find? (fun t => t.reqid == reqid.toNat) = some k →
          (k.purpose = .leaseOp → exec (.requestDeadline p reqid) s = .next s)
          ∧ (k.purpose ≠ .leaseOp → exec (.requestDeadline p reqid) s = .next (leaseProgress (endRequest (untrack s k.reqid) k stDEADLINE))))
        ∧ (((s.dyn p).tracker ++ (s.dyn p).waiting).find? (fun t => t.reqid == reqid.toNat) = none → exec (.requestDeadline p reqid) s = .next s))

/-! ## Power, droop and heat (14) -/

/-- R504, R515, R518: a control step takes the measured power and forms the estimate from the counted events with their fused energies, the gain and the
leakage at the sensors' temperatures and the dies' voltages; the larger of the two joins the window of the last 100 steps, the estimate alone in a fallback for missing telemetry; L becomes CAP_W, or 70 % of it in fallback. A step within
15 % clears the drift count; the twentieth outside it recalibrates the gain within its fused bounds and counts a drift. The measures of
R504 follow what they are predicted to draw, a free value, and what the average of the last 100 steps leaves, each step one that changes what is in
force. Setpoints
are as they were, since a core takes a new one later (R501). While Decrid restarts (R557)
or the module is fenced, nothing changes. -/
def Obligations.ControlStepHoldsTheLimit : Prop :=
  ∀ (s : State) (r : PowerReading),
    (s.mgt.fw.restarting = true ∨ s.moduleFenced = true → exec (.powerControlStep r) s = .next s)
    ∧ (s.mgt.fw.restarting = false → s.moduleFenced = false →
      let est := rawActivity r * s.pwr.gain.getD Config.fusedGain / 1024 + s.leakage
      ∃ u, exec (.powerControlStep r) s = .next u ∧ u.pwr.pMeas = r.meas ∧ u.pwr.pEst = est
        ∧ u.pwr.capW = s.pwr.capW ∧ u.pwr.peakW = s.pwr.peakW
        ∧ u.pwr.limit = (if u.pdyn.fallback then s.pwr.capW * 70 / 100 else s.pwr.capW)
        ∧ u.pdyn.window.getLast? = some (match r.meas with
          | some m => if u.pdyn.fallback && (u.pdyn.fbCause == 2 || decide (2 ≤ u.pdyn.missRun)) then est else max m est
          | none => est)
        ∧ u.pdyn.window.length ≤ 100
        ∧ (∀ m, r.meas = some m → agrees m est = true → u.pdyn.driftRun = 0 ∧ u.pwr.gain = s.pwr.gain)
        ∧ (∀ m, r.meas = some m → agrees m est = false → s.pdyn.driftRun < 19 →
            u.pdyn.driftRun = s.pdyn.driftRun + 1 ∧ u.pwr.gain = s.pwr.gain)
        ∧ (∀ m, r.meas = some m → agrees m est = false → s.pdyn.driftRun = 19 → u.pdyn.driftRun = 0
            ∧ u.pwr.drifts = satAdd 16 s.pwr.drifts 1
            ∧ u.pwr.gain = some (min Config.fusedGainMax (max Config.fusedGainMin
                (driftGain (s.pdyn.driftMeas + m) (s.pdyn.driftRaw + rawActivity r) (s.pdyn.driftLeak + s.leakage)))))
        ∧ (∃ v k, v.cores = s.cores ∧ v.pdyn.cores = s.pdyn.cores ∧ v.mesh = s.mesh ∧ v.mem = s.mem ∧ v.pdyn.meas = s.pdyn.meas
          ∧ v.pdyn.window = u.pdyn.window ∧ v.pwr.limit = u.pwr.limit ∧ u.pdyn.meas = nextMeasures v k (aimOf v.pdyn.window v.pwr.limit) s.pdyn.meas
          ∧ u = applyMeasures (heatStep v) u.pdyn.meas)
        ∧ (∀ n, (u.pcore n).fSet = (s.pcore n).fSet)
        ∧ (∀ c, (u.chan c).mem = (s.chan c).mem))

/-- R501: a transition that completes brings the wanted setpoint into force. R513: an average above PEAK_W over the last 100 samples
raises SKIP to 8 at least on every core; below 95 % of PEAK_W it falls by one a release, and the path ends when it holds no core that
runs higher than its own value (the model's choice of that moment). R514: the brake holds every core at SKIP 12 from its assertion, or is posted alone while the
module is fenced;
deassertion leaves the hold, which its own end lifts. -/
def Obligations.PeakAndBrakeSlowTheCores : Prop :=
  ∀ (s : State),
    (∀ (n : CoreIx) f, (s.pcore n).want = some f →
      exec (.setpointTransitionComplete n) s = .next (s.setPcore n { s.pcore n with fSet := f, want := none }))
    ∧ (∀ n : CoreIx, (s.pcore n).want = none →
      ∃ u, exec (.setpointTransitionComplete n) s = .next u ∧ ∀ m, u.pcore m = s.pcore m)
    ∧ exec (.inputPowerSample none) s = .next s
    ∧ (∀ w, s.pdyn.trip = true →
        exec (.inputPowerSample (some w)) s = .next { s with pdyn := { s.pdyn with fast := (s.pdyn.fast ++ [w]).drop (s.pdyn.fast.length + 1 - 100) } })
    ∧ (∀ w, let f := (s.pdyn.fast ++ [w]).drop (s.pdyn.fast.length + 1 - 100)
        (f.foldl (· + ·) 0 ≤ s.pwr.peakW * f.length →
          exec (.inputPowerSample (some w)) s = .next { s with pdyn := { s.pdyn with fast := f } })
        ∧ (s.pwr.peakW * f.length < f.foldl (· + ·) 0 → s.pdyn.trip = false →
          ∃ u, exec (.inputPowerSample (some w)) s = .next u ∧ u.pdyn.fast = f ∧ u.pdyn.peak = true
            ∧ (∀ n, 8 ≤ u.skipOf n) ∧ ∀ n, (u.pcore n).fSet = (s.pcore n).fSet))
    ∧ (s.pdyn.peak = true → s.pdyn.fast.foldl (· + ·) 0 * 100 < 95 * s.pwr.peakW * s.pdyn.fast.length →
        (∀ n, n < 192 → s.governed n = true → (s.pcore n).skip < s.pdyn.peakSkip - 1 →
          exec .peakSkipRelease s = .next { s with pdyn := { s.pdyn with peakSkip := s.pdyn.peakSkip - 1 } })
        ∧ ((∀ n, n < 192 → s.governed n = true → s.pdyn.peakSkip - 1 ≤ (s.pcore n).skip) →
          ∃ u, exec .peakSkipRelease s = .next u ∧ u.pdyn.peak = false ∧ u.pdyn.peakSkip = 0))
    ∧ (s.pdyn.peak = false ∨ 95 * s.pwr.peakW * s.pdyn.fast.length ≤ s.pdyn.fast.foldl (· + ·) 0 * 100 → exec .peakSkipRelease s = .next s)
    ∧ (s.pdyn.brake = true → exec .brakeAssert s = .next s)
    ∧ (s.pdyn.brake = false → s.pdyn.trip = false → s.moduleFenced = false →
        ∃ u, exec .brakeAssert s = .next u ∧ u.pdyn.brake = true ∧ u.pdyn.brakeHold = true ∧ ∀ n, 12 ≤ u.skipOf n)
    ∧ (s.pdyn.brake = false → s.pdyn.trip = true ∨ s.mgt2.power = 0 →
        exec .brakeAssert s = .next { s with pdyn := { s.pdyn with brake := true } })
    ∧ (s.pdyn.brake = false → s.pdyn.trip = false → s.mgt2.power ≠ 0 → s.moduleFenced = true →
        exec .brakeAssert s = .next (fallbackEvent { s with pdyn := { s.pdyn with brake := true } } 1 3))
    ∧ exec .brakeDeassert s = .next { s with pdyn := { s.pdyn with brake := false } }
    ∧ (s.pdyn.brakeHold = true → s.pdyn.brake = false → s.pdyn.trip = false →
        ∃ u, exec .brakeHoldEnd s = .next u ∧ u.pdyn.brakeHold = false ∧ u.pdyn.brake = false)
    ∧ (s.pdyn.brakeHold = false ∨ s.pdyn.brake = true ∨ s.pdyn.trip = true → exec .brakeHoldEnd s = .next s)

/-- R508 to R510, R568: a droop trip stretches the core's clock and counts, saturating, with F_SET as it was; recovery ends the stretch.
In margin trim a trip or an alert also raises the die's guard band by 5 mV, and when every monitor of a core of the die in use has shown margin for 100 ms, with nothing
for the second before, it falls by 5 mV within its fused range; a die whose first 100 samples have not passed learns nothing.
An alert lowers F_MAX by one step in the per-core mode, and in that mode the 10,000th sample at F_MAX with margin raises it, to no
more than 1.800 GHz. A sample of the base die's monitors is reported and acts on nothing. -/
def Obligations.DroopAndMargin : Prop :=
  ∀ (s : State) (n : CoreIx) (k : MonitorIx) (alert : Bool) (margin : Nat), k.val = n.val →
    let p := s.pcore n
    (∃ u, exec (.droopTrip n) s = .next u ∧ (u.pcore n).stretched = true ∧ (u.pcore n).droops = satAdd 16 p.droops 1
      ∧ (∀ m, (u.pcore m).fSet = (s.pcore m).fSet)
      ∧ (u.die (n.val / 48)).down
          = (if !s.pwr.ageMode && p.learns then (s.die (n.val / 48)).down - 5 else (s.die (n.val / 48)).down))
    ∧ exec (.droopRecovery n) s = .next (s.setPcore n { p with stretched := false })
    ∧ (s.governed n = true → s.mgt.fw.restarting = false → s.mgt2.power ≠ 0 →
        (p.learns = false → exec (.marginSample k alert margin) s
          = .next (s.setPcore n { p with samples := p.samples + 1, block := p.block - 1 }))
        ∧ (p.learns = true → s.pwr.ageMode = true → ∃ u, exec (.marginSample k alert margin) s = .next u
          ∧ (alert = true → (u.pcore n).fUp = p.fUp - 1 ∧ (u.pcore n).monRun = 0)
          ∧ (alert = false → p.fSet = s.fMax n → Config.fusedRaise < margin → p.monRun < 9999 →
              (u.pcore n).fUp = p.fUp ∧ (u.pcore n).monRun = p.monRun + 1)
          ∧ (alert = false → p.fSet = s.fMax n → Config.fusedRaise < margin → 9999 ≤ p.monRun →
              (u.pcore n).fUp = (if s.fMax n < 0x48 then p.fUp + 1 else p.fUp) ∧ (u.pcore n).monRun = 0)
          ∧ (alert = false → (p.fSet ≠ s.fMax n ∨ margin ≤ Config.fusedRaise) → (u.pcore n).fUp = p.fUp ∧ (u.pcore n).monRun = 0)
          ∧ (∀ m, m ≠ n.val → u.pcore m = s.pcore m) ∧ ∀ d, u.die d = s.die d)
        ∧ (p.learns = true → s.pwr.ageMode = false → ∀ v : State, v = s.setPcore n { p with samples := p.samples + 1, block := p.block - 1 } →
          (alert = true → exec (.marginSample k alert margin) s = .next (raiseGuard v n)
            ∧ (∃ u, exec (.marginSample k alert margin) s = .next u ∧ (u.die (n.val / 48)).down = (s.die (n.val / 48)).down - 5
              ∧ (∀ d, d ≠ n.val / 48 → u.die d = s.die d) ∧ ∀ m, (u.pcore m).fSet = (s.pcore m).fSet))
          ∧ (alert = false → exec (.marginSample k alert margin) s = .next (lowerGuard
              (v.setPcore n { v.pcore n with trimRun := if Config.fusedTrim < margin then p.trimRun + 1 else 0 }) (n.val / 48)))))
    ∧ (∀ d, ((∀ m, m < 48 → s.governed (48 * d + m) = true → 1000 ≤ (s.pcore (48 * d + m)).trimRun ∧ (s.pcore (48 * d + m)).block = 0) →
          ((lowerGuard s d).die d).down = (if (s.die d).down + 5 ≤ Config.fusedGFull d - Config.fusedGMin d then (s.die d).down + 5 else (s.die d).down))
        ∧ (∀ m, m < 48 → s.governed (48 * d + m) = true → (s.pcore (48 * d + m)).trimRun < 1000 ∨ (s.pcore (48 * d + m)).block ≠ 0 → lowerGuard s d = s))
    ∧ (s.governed n = false ∨ s.mgt.fw.restarting = true ∨ s.mgt2.power = 0 → exec (.marginSample k alert margin) s = .next s)
    ∧ (∀ b : MonitorIx, 192 ≤ b.val →
        (s.mgt.fw.restarting = false → s.mgt2.power ≠ 0 → ∃ u, exec (.marginSample b alert margin) s = .next u
          ∧ SMap.get zeroD u.mgt2.margins (b.val - 192) = margin ∧ u.pdyn = s.pdyn ∧ u.pwr = s.pwr)
        ∧ (s.mgt.fw.restarting = true ∨ s.mgt2.power = 0 → exec (.marginSample b alert margin) s = .next s))

/-- R519 to R521, R568: a thermal sample is kept, an invalid reading as THROTTLE_C, which counts as a failure of the sensor (the
model's reading of R519); a sensor throttles from THROTTLE_C until it is more than 3 °C below, and at 105 °C the module
trips, fenced or not. R520: a release step returns what heat lowered on a core whose sensor no longer throttles by one step, SKIP first; the table of
cores is in its canonical form, which reset has and every step keeps (EveryStepKeepsTheInvariant). R616: a
supply other than monitors 10 and 11 out of its range starts a module reset. -/
def Obligations.HeatAndSupplies : Prop :=
  ∀ (s : State) (i : Fin 232) (e : Option Int) (m : Fin 12) (mv : Nat) (ok : Bool),
    let t := e.getD (s.pwr.throttleC * 8)
    (s.mgt2.power = 0 → exec (.thermalSample i e) s = .next s ∧ exec (.voltageSample m mv ok) s = .next s)
    ∧ (s.mgt2.power ≠ 0 → ∃ u, exec (.thermalSample i e) s = .next u
      ∧ SMap.get (fun _ => (0 : Int)) u.pwr.temps i = t
      ∧ (u.pwr.sFailed.contains i.val = e.isNone)
      ∧ (s.pdyn.trip = false → 105 * 8 ≤ t → u.pdyn.trip = true ∧ u.mgt2.thermTrip = true)
      ∧ (s.moduleFenced = false → s.pdyn.trip = false →
          (u.pwr.hotSensors.contains i.val = (decide ((s.pwr.throttleC : Int) * 8 ≤ t)
            || (s.pwr.hotSensors.contains i.val && decide ((s.pwr.throttleC : Int) * 8 - 24 ≤ t))))
          ∧ (∀ j, j ≠ i.val → u.pwr.hotSensors.contains j = s.pwr.hotSensors.contains j)
          ∧ (t < 105 * 8 → u.pdyn.trip = false ∧ ∀ c, u.core c = s.core c)))
    ∧ (SMap.wf pcoreD s.pdyn.cores = true → s.mgt.fw.restarting = false → s.pdyn.trip = false →
      ∃ u, exec .throttleReleaseStep s = .next u
        ∧ (∀ n, n < 192 → s.pwr.hotSensors.contains n = false →
          (u.pcore n).heatSkip = (s.pcore n).heatSkip - 1
          ∧ (u.pcore n).heatSteps = (if (s.pcore n).heatSkip = 0 then (s.pcore n).heatSteps - 1 else (s.pcore n).heatSteps))
        ∧ (∀ n, s.pwr.hotSensors.contains n = true →
          (u.pcore n).heatSkip = (s.pcore n).heatSkip ∧ (u.pcore n).heatSteps = (s.pcore n).heatSteps))
    ∧ (s.mgt.fw.restarting = true ∨ s.pdyn.trip = true → exec .throttleReleaseStep s = .next s)
    ∧ (s.mgt2.power ≠ 0 → ok = false → m.val < 10 → ∃ v, exec (.voltageSample m mv ok) s = .next (startModuleReset v 6 false)
        ∧ SMap.get zeroD v.mgt2.voltages m = mv ∧ v.mgt2.voltBad.contains m.val = true ∧ v.rst = s.rst ∧ v.mem = s.mem ∧ v.cores = s.cores)
    ∧ (s.mgt2.power ≠ 0 → ok = true ∨ 10 ≤ m.val → ∃ u, exec (.voltageSample m mv ok) s = .next u
      ∧ SMap.get zeroD u.mgt2.voltages m = mv ∧ u.mgt2.voltBad.contains m.val = !ok ∧ u.rst = s.rst ∧ u.mem = s.mem)
    ∧ (s.mgt2.power = 1 → ok = false → m.val < 10 → s.rst.running = false → s.mgt2.trayReq = false → s.pdyn.trip = false →
      ∃ u, exec (.voltageSample m mv ok) s = .next u ∧ u.rst.running = true ∧ u.rst.cause = 6 ∧ u.rst.level = 3)

/-! ## Interrupts (15) -/

/-- R535, R536: a read of INT_TGT_ACK returns the selected source, which becomes active and stands on top of the target's stack with the
PRIO it was acknowledged at, and which an ENABLE 0 written meanwhile now disables; with none eligible it returns 0xFFFF and changes nothing. Nothing else changes.
R534, R537: an EOI that names the top of the stack pops it and the source is no longer active, and a PRIO and TARGET written
meanwhile come into force; any other EOI only sets EOI_ERR.
R529, R530, R539: an edge at an assigned source, or a write of a software trigger's number to INT_SWTRIG, sets the source's
pending bit and nothing else; a reserved source (R528), and a SWTRIG write of another number, changes nothing.
R536, R537, R541: a write to INT_SRC_CFG with PEND 1 clears a pending source at once, but not one that is active; a TARGET above 8 is ignored; PRIO, TARGET and
ENABLE wait for INT_MASK_EFFECT, which brings all three into force for a source that is not active and ENABLE alone for one that
is. -/
def Obligations.InterruptsAreTaken : Prop :=
  (∀ (s : State) (t : TgtIx),
    (∀ i, s.selected t = some i → exec (.intTgtAck t) s = .next
      { (s.setIntSrc i { s.intSrc i with pend := false, active := true, enable := (s.intSrc i).enableAfter }).setIntTgt t
          { s.intTgt t with stack := (i, (s.intSrc i).prio) :: (s.intTgt t).stack } with lastRead := i })
    ∧ (s.selected t = none → exec (.intTgtAck t) s = .next { s with lastRead := 0xFFFF }))
  ∧ (∀ (s : State) (t : TgtIx) (src : BitVec 10),
    (∀ p rest, (s.intTgt t).stack = (src.toNat, p) :: rest → (s.intSrc src.toNat).newCfg = none →
      exec (.intTgtEoi t src) s = .next ((s.setIntSrc src.toNat { s.intSrc src.toNat with active := false }).setIntTgt t
        { s.intTgt t with stack := rest }))
    ∧ (∀ p rest q g e, (s.intTgt t).stack = (src.toNat, p) :: rest → (s.intSrc src.toNat).newCfg = some (q, g, e) →
      exec (.intTgtEoi t src) s = .next ((s.setIntSrc src.toNat { s.intSrc src.toNat with active := false, prio := q, target := g }).setIntTgt t
        { s.intTgt t with stack := rest }))
    ∧ ((∀ p rest, (s.intTgt t).stack ≠ (src.toNat, p) :: rest) →
        exec (.intTgtEoi t src) s = .next (s.setIntTgt t { s.intTgt t with eoiErr := true })))
  ∧ (∀ (s : State) (i : SrcIx) (v : BitVec 10),
    (intAssigned i = true → exec (.interruptEdge i) s = .next (s.setIntSrc i { s.intSrc i with pend := true }))
    ∧ (intAssigned i = false → exec (.interruptEdge i) s = .next s)
    ∧ (0x3F0 ≤ v.toNat → exec (.intSwtrig v) s = .next (s.setIntSrc v.toNat { s.intSrc v.toNat with pend := true }))
    ∧ (v.toNat < 0x3F0 → exec (.intSwtrig v) s = .next s))
  ∧ (∀ (s : State) (i : SrcIx) (value : BitVec 32),
    (8 < bits value.toNat 8 4 → exec (.intSrcCfgWrite i value) s = .next (s.setIntSrc i { s.intSrc i with
        newCfg := some (bits value.toNat 0 8, (((s.intSrc i).newCfg.map (fun c => c.2.1)).getD (s.intSrc i).target), bit value.toNat 12)
        pend := (s.intSrc i).pend && !(bit value.toNat 16 && !(s.intSrc i).active) }))
    ∧ (bits value.toNat 8 4 ≤ 8 → exec (.intSrcCfgWrite i value) s = .next (s.setIntSrc i { s.intSrc i with
        newCfg := some (bits value.toNat 0 8, bits value.toNat 8 4, bit value.toNat 12)
        pend := (s.intSrc i).pend && !(bit value.toNat 16 && !(s.intSrc i).active) }))
    ∧ (∀ p g e, (s.intSrc i).newCfg = some (p, g, e) → (s.intSrc i).active = false →
        exec (.intMaskEffect i) s = .next (s.setIntSrc i { s.intSrc i with prio := p, target := g, enable := e, newCfg := none }))
    ∧ (∀ p g e, (s.intSrc i).newCfg = some (p, g, e) → (s.intSrc i).active = true →
        exec (.intMaskEffect i) s = .next (s.setIntSrc i { s.intSrc i with enable := e }))
    ∧ ((s.intSrc i).newCfg = none → exec (.intMaskEffect i) s = .next s))

/-- R533, R534: the source a target is given is eligible: pending, enabled, aimed at this target, its group more urgent than the
running one, with fewer than 8 active; and no eligible source has a lower PRIO, or the same PRIO and a lower number. The table of
sources is in canonical form, which every state of a run has.
R533: when some source is eligible for a target, one is selected.
R531 to R534: a source that is pending, enabled, not active and aimed at the target is eligible when nothing is active there, and
else when fewer than 8 are active and its group priority is lower than that of the running priority; no other source is. -/
def Obligations.SelectionIsRight : Prop :=
  (∀ (s : State) (t i : Nat), SMap.wf intSrcD s.int.srcs = true → s.selected t = some i →
    s.eligible t i = true
    ∧ (s.intTgt t).stack.length < 8
    ∧ ∀ j, s.eligible t j = true → (s.intSrc i).prio < (s.intSrc j).prio ∨ ((s.intSrc i).prio = (s.intSrc j).prio ∧ i ≤ j))
  ∧ (∀ (s : State) (t j : Nat), SMap.wf intSrcD s.int.srcs = true → s.eligible t j = true → (s.selected t).isSome = true)
  ∧ (∀ (s : State) (t j : Nat) (x : IntSrc) (y : IntTgt), x = s.intSrc j → y = s.intTgt t →
    (x.pend = false ∨ x.enable = false ∨ x.active = true ∨ x.target ≠ t ∨ 8 ≤ y.stack.length → s.eligible t j = false)
    ∧ (x.pend = true → x.enable = true → x.active = false → x.target = t →
        (y.stack = [] → s.eligible t j = true)
        ∧ (∀ k p rest, y.stack = (k, p) :: rest → p < 0x100 → y.stack.length < 8 →
            (s.eligible t j = true ↔ x.prio / 2 ^ y.prigroup < p / 2 ^ y.prigroup))))

/-! ## Watchdogs, resets and the log (16) -/

/-- R543, R549, R551, R554, R559: a core reset that RST_CTL asks for, or that an uncorrectable error in the core's storage starts, leaves
the core resetting, its tile and instruction memory empty, its setpoint at 1.0 GHz, and its CYCLE and RETIRE counts, when no task is
on it, as they were; a reset of a core already resetting or parked, or in a module that is fenced, changes nothing. When it completes the core no longer resets, RST_STATUS
shows it as the last, and a reset that the core's own failure caused counts for that core; a second within 1,000 hours retires it. A reset that a Locket reset took
over completes with that (R549). -/
def Obligations.CoreResets : Prop :=
  ∀ (s : State) (n : CoreIx) (us : BitVec 32),
    (s.pfAnswers = true → (s.core n).parked = false → (s.core n).resetting = false →
      ∃ u v, exec (.coreReset n) s = .next u ∧ exec (.eccUncorrectable (some n)) s = .next v
        ∧ (∀ w, w = u ∨ w = v → (w.core n).resetting = true ∧ (w.core n).task = none ∧ (w.core n).tm = [] ∧ (w.core n).im = []
            ∧ (w.core n).loaded = [] ∧ (w.pcore n).fSet = 0x28 ∧ (w.pcore n).want = none
            ∧ w.rst.busy = true ∧ 1 ≤ w.rst.level
            ∧ ((s.coreTask n).isNone = true → (w.core n).cycle = (s.core n).cycle ∧ (w.core n).retire = (s.core n).retire
                ∧ (w.core n).fault = (s.core n).fault ∧ (∀ m, m ≠ n.val → w.core m = s.core m) ∧ w.tasks = s.tasks))
        ∧ (u.core n).ownFault = false ∧ (v.core n).ownFault = true)
    ∧ ((s.core n).resetting = true ∨ (s.core n).parked = true ∨ s.pfAnswers = false → exec (.coreReset n) s = .next s)
    ∧ ((s.core n).resetting = true ∨ (s.core n).parked = true ∨ s.moduleFenced = true → exec (.eccUncorrectable (some n)) s = .next s)
    ∧ (s.coreTaken n = true → exec (.coreResetComplete n us) s = .next s)
    ∧ (s.coreTaken n = false → (s.core n).resetting = false → (∀ a, a ∈ s.fnc.aborts → a.takers = []) →
        ∃ u, exec (.coreResetComplete n us) s = .next u ∧ u.cores = s.cores ∧ u.rst = s.rst ∧ u.mem = s.mem)
    ∧ (s.coreTaken n = false → (s.core n).resetting = true → (∀ a, a ∈ s.fnc.aborts → a.takers = []) → ∀ old, old = SMap.get (fun _ => []) s.rst.failTimes n →
        ∃ u, exec (.coreResetComplete n us) s = .next u
        ∧ ((s.core n).ownFault = false → (u.core n).resetting = false ∧ (u.core n).ownFault = false ∧ (u.core n).loaded = []
          ∧ SMap.get (fun _ => []) u.rst.failTimes n = old ∧ u.coreRetired n = s.coreRetired n)
        ∧ u.rst.lastLevel = 1 ∧ u.rst.duration = us.toNat ∧ u.rst.escalated = ((s.core n).rstCause == 2)
        ∧ ((s.core n).ownFault = true → SMap.get (fun _ => []) u.rst.failTimes n = u.rst.clock :: old
          ∧ u.coreRetired n = (s.coreRetired n || old.any (fun x => decide (u.rst.clock - x ≤ 1000)))))

/-- R550, R555, R564: a Locket reset fences an ACTIVE Locket (cause 0, request); of a slot that is not ACTIVE, or whose reset runs, it
changes nothing. When it completes the Locket is ACTIVE again, its event ring and fault queue are disabled, its latency monitors are
empty, and RST_STATUS shows level 2; core resets that it took over (R549) complete with it. R559, R560: retiring a core or a channel marks that unit and
no other, and where no move reads or writes that channel and nothing waits for its scrub every channel else is as it was; a unit already retired,
or a number that names no core and no channel, changes nothing. -/
def Obligations.LocketResetsAndRetirement : Prop :=
  ∀ (s : State) (l : SlotIx) (us : BitVec 32) (unit : BitVec 16),
    (s.pfAnswers = true → (s.slot l).state = 1 → (s.slot l).resetting = false →
      ∃ u, exec (.locketReset l) s = .next u ∧ (u.slot l).resetting = true ∧ (u.slot l).rstCause = 0 ∧ (u.slot l).state = 2
        ∧ u.rst.busy = true ∧ 2 ≤ u.rst.level)
    ∧ (s.pfAnswers = false ∨ (s.slot l).state ≠ 1 ∨ (s.slot l).resetting = true → exec (.locketReset l) s = .next s)
    ∧ ((s.slot l).resetting = false → exec (.locketResetComplete l us) s = .next s)
    ∧ ((s.slot l).resetting = true → (∀ n, n ∈ (s.slot l).active.coreList → (s.core n).taken = false) → s.fnc.cmd = none → ∃ u, exec (.locketResetComplete l us) s = .next u
        ∧ (u.slot l).resetting = false ∧ (u.slot l).state = 1 ∧ (u.slot l).lat = []
        ∧ (u.ev (l + 1)).ring.enable = false ∧ (u.fq l).ring.enable = false
        ∧ u.rst.lastLevel = 2 ∧ u.rst.escalated = ((s.slot l).rstCause == 2) ∧ u.rst.duration = us.toNat)
    ∧ ((s.slot l).resetting = true → ∃ u, exec (.locketResetComplete l us) s = .next u
        ∧ (u.slot l).resetting = false ∧ (u.slot l).state = 1
        ∧ (∀ n, n ∈ (s.slot l).active.coreList → (s.core n).taken = true → (s.core n).ownFault = false → (u.core n).resetting = false))
    ∧ (s.pfAnswers = false → exec (.retireUnit unit) s = .next s)
    ∧ (s.pfAnswers = true →
        (unit.toNat < 192 → s.coreRetired unit.toNat = false → ∃ u, exec (.retireUnit unit) s = .next u
          ∧ u.coreRetired unit.toNat = true ∧ ∀ m, m ≠ unit.toNat → u.coreRetired m = s.coreRetired m)
        ∧ (unit.toNat < 192 → s.coreRetired unit.toNat = true → exec (.retireUnit unit) s = .next s)
        ∧ (∀ c, c < 128 → unit.toNat = chanUnit c → (s.chan c).retired = false → ∃ u, exec (.retireUnit unit) s = .next u
          ∧ (u.chan c).retired = true ∧ (u.chan c).state = 5 ∧ (∀ m, u.coreRetired m = s.coreRetired m)
          ∧ ((∀ m, m ∈ s.mem.moves → m.src ≠ c ∧ m.dst ≠ c) → (∀ e, e ∈ s.que.sqs → ∀ d, d ∈ e.2.descs → d.scrubs.contains c = false) →
            (∀ l t, (s.slot l).teardown = some t → t.scrubs.contains c = false) → (u.chan c).mem = (s.chan c).mem ∧ u.mem.moves = s.mem.moves
            ∧ u.tasks = s.tasks ∧ ∀ k, k ≠ c → u.chan k = s.chan k))
        ∧ (∀ c, c < 128 → unit.toNat = chanUnit c → (s.chan c).retired = true → exec (.retireUnit unit) s = .next s)
        ∧ (192 ≤ unit.toNat → (∀ c, c < 128 → unit.toNat ≠ chanUnit c) → exec (.retireUnit unit) s = .next s))

/-- R556, R558: a module reset records its cause, counts, shows level 3 and BUSY, empties the log buffer into flash and takes every port out
of service; while one runs, while the tray is awaited, without power, or at a trip whose heat has not gone, none starts, and each cause starts one only where it can arise. When it
completes with no BIST failure, everything outside the always-on domain, where the sensors' readings lie (R565), is as after power-up: cores, tasks,
Settings, Lockets, contexts, ports; channels hold nothing and are not CLEAN; RST_CAUSE keeps the cause and the count. R557: a request
for a power cycle, or a second expiry of Decrid's watchdog within 10 s, asks the tray once the log is in flash; a first expiry
restarts Decrid alone.
R570: the buffer reaches the flash log, whose 65,536 newest entries stay; the hourly summary of corrected errors is one entry of
KIND 5 that carries the count, and with a count of zero nothing is logged. -/
def Obligations.ModuleResetsAndLog : Prop :=
  (∀ (s : State) (k : Fin 7) (us : BitVec 32) (start : Bool),
    start = (!s.rst.running && !s.mgt2.trayReq && s.mgt2.power == 1 && (!s.pdyn.trip || s.cool)) →
    (start = true → k.val ≠ 0 → (k.val = 1 → s.pfAnswers = true) → (k.val = 5 → s.pdyn.trip = true) →
      ∃ u v, exec (.moduleReset k) s = .next u ∧ exec (.eccUncorrectable none) s = .next v ∧ v.rst.cause = 6 ∧ u.rst.cause = k.val
        ∧ ∀ w, w = u ∨ w = v → w.rst.running = true ∧ w.rst.busy = true ∧ w.rst.level = 3
          ∧ w.rst.count = satAdd 16 s.rst.count 1 ∧ ∀ p, (w.port p).state = 0 ∨ (w.port p).state = 5)
    ∧ (start = false ∨ k.val = 0 ∨ (k.val = 1 ∧ s.pfAnswers = false) ∨ (k.val = 5 ∧ s.pdyn.trip = false) → exec (.moduleReset k) s = .next s)
    ∧ (start = false → exec (.eccUncorrectable none) s = .next s)
    ∧ (s.rst.running = true → s.mgt2.trayReq = false → s.mgt.fw.recovery = false → s.mgt.fw.restarting = false → s.pdyn.trip = false ∨ s.cool = true →
      ∃ u, exec (.moduleResetComplete [] [] us) s = .next u ∧ u.rst.running = false ∧ u.rst.busy = false ∧ u.rst.lastLevel = 3
        ∧ u.rst.cause = s.rst.cause ∧ u.rst.count = s.rst.count ∧ u.rst.duration = us.toNat
        ∧ u.cores = State.reset.cores ∧ u.tasks = State.reset.tasks ∧ u.sets = State.reset.sets ∧ u.lkt = State.reset.lkt
        ∧ u.fnc = State.reset.fnc ∧ u.xlt = State.reset.xlt ∧ u.trb = State.reset.trb ∧ u.pool = State.reset.pool
        ∧ u.pwr = { State.reset.pwr with temps := s.pwr.temps, sFailed := s.pwr.sFailed } ∧ u.mesh = State.reset.mesh ∧ u.mgt.flash = s.mgt.flash
        ∧ ∀ c, (u.chan c).mem = [] ∧ (u.chan c).clean = false)
    ∧ (∀ cores chans, s.rst.running = false ∨ s.mgt2.trayReq = true ∨ s.mgt.fw.recovery = true ∨ s.mgt.fw.restarting = true
        ∨ (s.pdyn.trip = true ∧ s.cool = false) → exec (.moduleResetComplete cores chans us) s = .next s)
    ∧ (s.pfAnswers = true → s.mgt2.trayReq = false → s.mgt2.power = 1 → ∃ u, exec .powerCycle s = .next u ∧ u.mgt2.trayReq = true
        ∧ u.rst.level = 4 ∧ u.mgt.buffer = [] ∧ u.mgt.flash = (s.mgt.flash ++ s.mgt.buffer).drop ((s.mgt.flash ++ s.mgt.buffer).length - 65536))
    ∧ (s.pfAnswers = false → exec .powerCycle s = .next s)
    ∧ (s.mgt2.power = 0 → ∀ soon, exec (.decridWatchdog soon) s = .next s)
    ∧ (s.mgt2.power ≠ 0 → (∃ u, exec (.decridWatchdog false) s = .next u ∧ u.mgt.fw.restarting = true ∧ u.mgt2.trayReq = s.mgt2.trayReq
          ∧ u.cores = s.cores ∧ u.mem = s.mem ∧ u.pdyn = s.pdyn ∧ u.rst = s.rst)
        ∧ (s.mgt2.trayReq = false → ∃ u, exec (.decridWatchdog true) s = .next u ∧ u.mgt2.trayReq = true ∧ u.mgt.buffer = [])
        ∧ (s.mgt2.trayReq = true → exec (.decridWatchdog true) s = .next (logEntry s 1 4 0x0100 decridUnit 2 none))))
  ∧ (∀ (s : State) (count : BitVec 64),
    exec .logFlush s = .next { s with mgt := { s.mgt with
      flash := (s.mgt.flash ++ s.mgt.buffer).drop ((s.mgt.flash ++ s.mgt.buffer).length - 65536), buffer := [] } }
    ∧ exec (.correctedSummary 0) s = .next s
    ∧ (count ≠ 0 → ∃ u e, exec (.correctedSummary count) s = .next u ∧ u.mgt.buffer.getLast? = some e
      ∧ e.kind = 5 ∧ e.value = count.toNat ∧ e.lseq = s.mgt.nextLseq ∧ u.mgt.nextLseq = s.mgt.nextLseq + 1 ∧ u.mgt.flash = s.mgt.flash))

/-- R546: the progress watchdog acts on the queue's oldest begun descriptor: a context it names that is ACTIVE is aborted, cause 1; on
a VF queue whose descriptor names none, the Locket is reset; disabled, paused or with no begun descriptor it does nothing. R549: an
abort that overran resets each core that has not stopped, which the abort then waits for, or the Locket when none is late; a core reset that overran resets its
Locket, or the module where no Locket holds the core; a Locket reset that overran the module; a module reset that overran asks for a power cycle. Each is announced
by WATCHDOG; an overrun of what does not run does nothing. -/
def Obligations.WatchdogsEscalate : Prop :=
  ∀ (s : State) (q : SqIx) (d : Desc) (b : BitVec 32),
    (s.rst.queueMs = 0 ∨ s.watchPaused q = true ∨ (∀ e, e ∈ (s.sq q).descs → e.begun = false) →
      exec (.progressWatchdog q) s = .next s)
    ∧ (s.rst.queueMs ≠ 0 → s.watchPaused q = false → (s.sq q).descs.find? (fun e => e.begun) = some d →
        (d.recordCtx (s.sq q) < 4096 → (s.ctx (d.recordCtx (s.sq q))).state = 1 → ∃ u, exec (.progressWatchdog q) s = .next u
          ∧ (u.ctx (d.recordCtx (s.sq q))).state = 2
          ∧ u.fnc.aborts.any (fun a => a.ctx == d.recordCtx (s.sq q) && a.cause == 1) = true)
        ∧ (d.recordCtx (s.sq q) < 4096 → (s.ctx (d.recordCtx (s.sq q))).state ≠ 1 → exec (.progressWatchdog q) s
            = .next (watchdog s (qpUnit (s.sq q).qp) q (d.recordCtx (s.sq q)) 1 1 0 s.rst.queueMs))
        ∧ (4096 ≤ d.recordCtx (s.sq q) → (s.sq q).func ≠ 0 → exec (.progressWatchdog q) s
            = .next (startLocketReset (watchdog s (qpUnit (s.sq q).qp) q noCtx 1 3 0 s.rst.queueMs) ((s.sq q).func - 1) 1)
          ∧ (s.rst.running = false → (s.slot ((s.sq q).func - 1)).state = 1 → (s.slot ((s.sq q).func - 1)).resetting = false →
            ∃ u, exec (.progressWatchdog q) s = .next u ∧ (u.slot ((s.sq q).func - 1)).resetting = true
              ∧ (u.slot ((s.sq q).func - 1)).rstCause = 1))
        ∧ (4096 ≤ d.recordCtx (s.sq q) → (s.sq q).func = 0 → exec (.progressWatchdog q) s = .next s))
    ∧ (∀ (ctx : Nat) (late : List (Fin 192)),
        (s.fnc.aborts.any (fun a => a.ctx == ctx) = false → exec (.overrun 0 ctx late b) s = .next s)
        ∧ (s.fnc.aborts.any (fun a => a.ctx == ctx) = true → late ≠ [] → exec (.overrun 0 ctx late b) s
            = .next (s.forAll late (fun s n => takeCore (startCoreReset (watchdog s n n ctx 2 2 0 b.toNat) n 2 2 true) ctx n))))
    ∧ (∀ (n : Fin 192) (ctx : Nat), s.fnc.aborts.any (fun a => a.ctx == ctx) = true → s.rst.running = false → (s.core n).resetting = false →
        ∃ u, exec (.overrun 0 ctx [n] b) s = .next u ∧ (u.core n).resetting = true ∧ (u.core n).rstCause = 2 ∧ (u.core n).ownFault = true
          ∧ ∀ a, a ∈ u.fnc.aborts → a.ctx = ctx → a.takers.contains n.val = true)
    ∧ (∀ ctx : Nat, s.fnc.aborts.any (fun a => a.ctx == ctx) = true → s.rst.running = false →
        (s.slot (s.ctx ctx).locket).state = 1 → (s.slot (s.ctx ctx).locket).resetting = false →
        ∃ u, exec (.overrun 0 ctx [] b) s = .next u ∧ (u.slot (s.ctx ctx).locket).resetting = true ∧ (u.slot (s.ctx ctx).locket).rstCause = 2)
    ∧ (∀ (n : CoreIx) (l : Nat), (s.core n).resetting = true → s.coreOwner n = some l → s.rst.running = false → (s.slot l).state = 1 →
        (s.slot l).resetting = false → ∃ u, exec (.overrun 1 n [] b) s = .next u ∧ (u.slot l).resetting = true ∧ (u.slot l).rstCause = 2
          ∧ (u.core n).taken = true)
    ∧ (∀ (n : CoreIx), ((s.core n).resetting = true → s.coreOwner n = none → exec (.overrun 1 n [] b) s
            = .next (startModuleReset (watchdog s n n noCtx 2 4 1 b.toNat) 4 true))
        ∧ ((s.core n).resetting = false → exec (.overrun 1 n [] b) s = .next s))
    ∧ (∀ l : SlotIx, (s.slot l).resetting = true → s.moduleFenced = false → s.pdyn.trip = false →
        ∃ u, exec (.overrun 2 l [] b) s = .next u ∧ u.rst.running = true ∧ u.rst.cause = 4 ∧ u.rst.curEsc = true)
    ∧ (∀ l : SlotIx, (s.slot l).resetting = false → exec (.overrun 2 l [] b) s = .next s)
    ∧ (s.rst.running = true → s.mgt2.power ≠ 0 → s.mgt2.trayReq = false →
        ∃ u, exec (.overrun 3 0 [] b) s = .next u ∧ u.mgt2.trayReq = true ∧ u.mgt.buffer = [])
    ∧ (s.rst.running = false → exec (.overrun 3 0 [] b) s = .next s)
    ∧ (∀ (t : Nat) (late : List (Fin 192)), exec (.overrun 4 t late b) s = .next s)

/-! ## Decrid (17) and the TAP (18) -/

/-- R566, R570, R573, R577, R578: RequestUpdate erases the image that is not ACTIVE and takes update mode, is refused while an image is TRIAL and while another
agent holds the mode; data is written into that image alone; a verified image becomes PENDING, an invalid one ends the update;
ActivateFirmware of an applied image ends it. ACTIVATE is refused with ERR 1 unless every slot is FREE, with ERR 2 when no image is
PENDING, and else makes it TRIAL and restarts Decrid; COMMIT and REVERT without a TRIAL image set ERR 3; COMMIT makes it ACTIVE with
SVN raised, REVERT marks it FAILED. Every command is logged, refused or not. A restart that completes selects an image by the ROM's rules, and firmware that starts closes the UDS (R566). In recovery the update is
taken over the BMC's bindings alone; while Decrid does not answer, and where none of these applies, nothing changes. -/
def Obligations.FirmwareIsUpdated : Prop :=
  ∀ (s : State) (t : Transport) (off : Nat) (data : List (BitVec 8)) (last : Bool) (b : Bool) (f : Fw) (lg : Nat → Nat → State), f = s.mgt.fw →
    lg = (fun code svn => logEntry s 1 0 code decridUnit svn none) →
    (s.decridUp = true → t ≠ .doe → f.recovery = false ∨ t ≠ .vdm →
      ((f.find .trial).isSome = true → exec (.requestUpdate t) s = .next (reply (lg 4 0) plUnable []))
      ∧ (f.find .trial = none → f.update ≠ 0 → f.agent ≠ some t → exec (.requestUpdate t) s = .next (reply (lg 4 0) plAlready []))
      ∧ (f.find .trial = none → f.update = 0 ∨ f.agent = some t → ∃ u, exec (.requestUpdate t) s = .next u ∧ u.mgt2.code = 0
          ∧ u.mgt.fw = { f.setImage f.spare {} with update := 1, agent := some t, applied := false } ∧ u.cores = s.cores ∧ u.mem = s.mem))
    ∧ (s.decridUp = false ∨ t = .doe ∨ (f.recovery = true ∧ t = .vdm) → exec (.requestUpdate t) s = .next s)
    ∧ (s.decridUp = true → f.update = 1 → f.applied = false →
      (off + data.length ≤ imageRegion → exec (.requestFirmwareData off data last) s = .next (s.setFw
        { f.setImage f.spare { f.image f.spare with bytes := putBytes (f.image f.spare).bytes off data } with update := if last then 2 else 1 }))
      ∧ (imageRegion < off + data.length → exec (.requestFirmwareData off data last) s = .next (reply s plRange [])))
    ∧ (s.decridUp = false ∨ f.update ≠ 1 ∨ f.applied = true → exec (.requestFirmwareData off data last) s = .next s)
    ∧ (s.decridUp = true → f.update = 2 →
      (f.valid (f.image f.spare) = true → exec .verifyComplete s
        = .next (reply (s.setFw { f.mark f.spare .pending with update := 1, applied := true }) 0 []))
      ∧ (f.valid (f.image f.spare) = false → exec .verifyComplete s = .next (reply (s.setFw { f with update := 0, agent := none }) 2 [])))
    ∧ (s.decridUp = false ∨ f.update ≠ 2 → exec .verifyComplete s = .next s)
    ∧ (s.decridUp = true → f.applied = true →
      exec .activateFirmware s = .next (reply ((lg 5 0).setFw { f with update := 0, agent := none, applied := false }) 0 []))
    ∧ (s.decridUp = true → f.applied = false →
      exec .activateFirmware s = .next (reply (lg 5 0) (if f.update = 0 then 0x80 else plIncomplete) []))
    ∧ (s.decridUp = false → exec .activateFirmware s = .next s)
    ∧ (s.pfAnswers = true → s.decridRuns = true →
      (s.allFree = false → exec .activate s = .next ((lg 1 0).setFw { f with err := 1 }))
      ∧ (s.allFree = true → f.find .pending = none → exec .activate s = .next ((lg 1 0).setFw { f with err := 2 }))
      ∧ (s.allFree = true → f.find .pending = some b → ∃ u, exec .activate s = .next u ∧ (u.mgt.fw.image b).st = .trial
          ∧ (u.mgt.fw.image b).bytes = (f.image b).bytes ∧ u.mgt.fw.restarting = true ∧ u.mgt.fw.thenReset = true)
      ∧ (f.find .trial = none → (∀ z, exec (.commit z) s = .next ((lg 2 0).setFw { f with err := 3 }))
          ∧ exec .revert s = .next ((lg 3 0).setFw { f with err := 3 }))
      ∧ (f.find .trial = some b →
          (∃ u, exec (.commit false) s = .next u ∧ u.mgt.fw = (f.mark b .committing).finishCommit b ∧ (u.mgt.fw.image b).st = .active)
          ∧ (∃ u, exec (.commit true) s = .next u ∧ (u.mgt.fw.image b).st = .committing ∧ u.mgt.fw.err = 4 ∧ u.mgt.fw.svnCnt = f.svnCnt)
          ∧ ∃ u, exec .revert s = .next u ∧ (u.mgt.fw.image b).st = .failed ∧ u.mgt.fw.restarting = true ∧ u.mgt.fw.thenReset = true))
    ∧ (s.pfAnswers = false ∨ s.decridRuns = false → exec .activate s = .next s ∧ (∀ z, exec (.commit z) s = .next s) ∧ exec .revert s = .next s)
    ∧ (f.restarting = false → exec .decridRestartComplete s = .next s)
    ∧ (f.restarting = true → ∀ u v, u = s.setFw { f.select with restarting := false, thenReset := false } →
      v = noteChanges s (if f.select.recovery then u else { u with mgt := { u.mgt with udsOpen := false } }) →
      exec .decridRestartComplete s = .next (if f.thenReset then startModuleReset v 1 false else v))
    ∧ (f.restarting = true → f.thenReset = false → ∃ u, exec .decridRestartComplete s = .next u
      ∧ u.mgt.fw = { f.select with restarting := false, thenReset := false } ∧ u.mgt.udsOpen = (s.mgt.udsOpen && f.select.recovery)
      ∧ u.cores = s.cores ∧ u.mem = s.mem ∧ u.rst = s.rst)
    ∧ (f.restarting = true → f.thenReset = true → s.rst.running = false → s.mgt2.trayReq = false → s.mgt2.power = 1 → s.pdyn.trip = false →
      ∃ u, exec .decridRestartComplete s = .next u ∧ u.rst.running = true ∧ u.rst.cause = 1 ∧ u.mgt.fw.restarting = false)

/-- R571 to R573, R577: an endpoint identifier and an event receiver are taken; a sensor of the repository is read in its unit, another is
refused; in recovery the module state alone is read and identifiers are taken over the BMC's bindings. R580: each SPDM request is answered once the transport has come
as far as it needs, and refused before; certificates of slots 0 and 1 alone; a measurement of blocks 1 to 11, in the format of log 34, all of them, or their count, signed with
the nonce by the identity in use. While Decrid does not answer, and over the PF's DOE while the PF does not, nothing changes. -/
def Obligations.DecridAnswers : Prop :=
  ∀ (s : State) (t : Transport) (eid : BitVec 8) (n : BitVec 16) (k : Fin 8) (off len : Nat) (nonce : BitVec 256) (i : BitVec 8) (ok : Bool),
    (s.decridUp = true → t ≠ .doe → s.mgt.fw.recovery = false ∨ t ≠ .vdm →
      exec (.setEndpointId t eid) s = .next (reply { s with mgt := { s.mgt with eids := SMap.set zeroD s.mgt.eids (transportNo t) eid.toNat } } 0 [eid]))
    ∧ (s.decridUp = false ∨ t = .doe ∨ (s.mgt.fw.recovery = true ∧ t = .vdm) → exec (.setEndpointId t eid) s = .next s)
    ∧ (s.decridRuns = true → t ≠ .doe → exec (.setEventReceiver t eid) s
        = .next (reply { s with mgt2 := { s.mgt2 with receiver := some (t, eid.toNat), smbAlert := false } } 0 []))
    ∧ (s.decridRuns = false ∨ t = .doe → exec (.setEventReceiver t eid) s = .next s)
    ∧ (s.decridRuns = true ∨ (s.decridUp = true ∧ n = 0x220) →
      (∀ v, s.sensor n.toNat = some v → exec (.getSensorReading n) s = .next (reply s 0 (leBytes 4 (ofSigned 32 v))))
      ∧ (s.sensor n.toNat = none → exec (.getSensorReading n) s = .next (reply s 0x80 [])))
    ∧ (s.decridUp = false ∨ (s.decridRuns = false ∧ n ≠ 0x220) → exec (.getSensorReading n) s = .next s)
    ∧ (s.decridRuns = true → (t = .doe → s.pfAnswers = true) →
      exec (.getVersion t) s = .next (reply (setSpdm s t 1) 0 [0x12])
      ∧ (1 ≤ s.spdmAt t → exec (.getCapabilities t) s = .next (reply (setSpdm s t (max 2 (s.spdmAt t))) 0 (leBytes 4 spdmCaps)))
      ∧ (s.spdmAt t < 1 → exec (.getCapabilities t) s = .next (reply s spdmUnexpected []))
      ∧ (2 ≤ s.spdmAt t → exec (.negotiateAlgorithms t ok) s = .next (if ok then reply (setSpdm s t 3) 0 spdmAlgorithms else reply s spdmInvalid []))
      ∧ (s.spdmAt t < 2 → exec (.negotiateAlgorithms t ok) s = .next (reply s spdmUnexpected []))
      ∧ (s.spdmAt t < 3 → ∀ c, c = Instr.getDigests t ∨ c = Instr.getCertificate t k off len ∨ c = Instr.challenge t k nonce
          ∨ c = Instr.getMeasurements t i nonce → exec c s = .next (reply s spdmUnexpected []))
      ∧ (3 ≤ s.spdmAt t →
        exec (.getDigests t) s = .next (reply s 0 (leBytes 64 (digestOf (Config.certificate 0)).toNat
          ++ leBytes 64 (digestOf (Config.certificate 1)).toNat))
        ∧ (k.val ≤ 1 → exec (.getCertificate t k off len) s = .next (reply s 0 (((Config.certificate k).drop off).take len)))
        ∧ (2 ≤ k.val → exec (.getCertificate t k off len) s = .next (reply s spdmInvalid [])
            ∧ exec (.challenge t k nonce) s = .next (reply s spdmInvalid []))
        ∧ (k.val ≤ 1 → exec (.challenge t k nonce) s = .next (reply s 0 (leBytes 64 (identitySign s.identity
            (leBytes 64 (digestOf (Config.certificate k)).toNat ++ leBytes 32 nonce.toNat)).toNat)))
        ∧ (∀ body, (i = 0 ∧ body = leBytes 1 11) ∨ (1 ≤ i.toNat ∧ i.toNat ≤ 11 ∧ body = s.measurementBlock i.toNat)
            ∨ (i = 0xFF ∧ body = (upto 11).flatMap (fun j => s.measurementBlock (j + 1))) →
            exec (.getMeasurements t i nonce) s = .next (reply { s with freeCtr := s.freeCtr + 1 } 0
              (body ++ leBytes 64 (identitySign s.identity (body ++ leBytes 32 nonce.toNat)).toNat)))
        ∧ (11 < i.toNat → i.toNat < 0xFF → exec (.getMeasurements t i nonce) s = .next (reply s spdmInvalid []))))
    ∧ (∀ m v ty, v = s.measurement m → (m = 1 ∧ ty = 0) ∨ (2 ≤ m ∧ m ≤ 5 ∧ ty = 1) ∨ (m = 6 ∧ ty = 0x87) ∨ ((m = 7 ∨ m = 11) ∧ ty = 0x82)
        ∨ (m = 8 ∧ ty = 0x85) ∨ ((m = 9 ∨ m = 10) ∧ ty = 0x83) →
        s.measurementBlock m = leBytes 1 m ++ leBytes 1 1 ++ leBytes 2 (v.length + 3) ++ leBytes 1 ty ++ leBytes 2 v.length ++ v)
    ∧ (s.decridRuns = false ∨ (t = .doe ∧ s.pfAnswers = false) → ∀ c, c = Instr.getVersion t ∨ c = Instr.getCapabilities t ∨ c = Instr.negotiateAlgorithms t ok ∨ c = Instr.getDigests t
        ∨ c = Instr.getCertificate t k off len ∨ c = Instr.challenge t k nonce ∨ c = Instr.getMeasurements t i nonce → exec c s = .next s)

/-- R570, R580, R583 to R585: at most 8 sessions; FINISH opens one when its authentication verifies and ends it otherwise. The commands of a
session answer in a finished session alone. KEY_INSTALL, KEY_COMMIT and KEY_RETIRE_GEN act in an owner session, by the rules of R584:
a first key becomes current, the next generation becomes next, a third is BUSY; a commit makes the next generation current and keeps
the old for receipt; retiring erases the other. In another session they answer NOT_AUTHORISED and change nothing; each of them, and OWNER_SET, is logged whatever
comes of it. While Decrid does not answer, and over the PF's DOE while the PF does not, nothing changes. -/
def Obligations.SessionsAndKeys : Prop :=
  ∀ (s : State) (t : Transport) (sid : Nat) (x : Session) (k : Option (BitVec 256)) (tag gen rq : BitVec 16) (key pub : BitVec 256)
    (root sig : BitVec 512) (first count : Nat) (token : List (BitVec 8)) (ok : Bool),
    (s.decridRuns = true → s.pfAnswers = true →
      (s.spdmAt t < 3 → exec (.keyExchange t rq) s = .next (reply s spdmUnexpected []))
      ∧ (3 ≤ s.spdmAt t → (8 ≤ s.mgt.sessions.length → exec (.keyExchange t rq) s = .next (reply s spdmSessionLimit []))
        ∧ (s.mgt.sessions.length < 8 → ∃ u, exec (.keyExchange t rq) s = .next u ∧ u.mgt.nextSid = s.mgt.nextSid + 1
            ∧ u.mgt.sessions = s.mgt.sessions ++ [{ sid := s.mgt.nextSid, transport := t }] ∧ u.cores = s.cores ∧ u.mem = s.mem))
      ∧ (s.mgt.sessions.any (fun y => y.sid == sid && !y.finished) = true →
          (∃ u, exec (.finish sid k true) s = .next u ∧ u.mgt2.code = 0 ∧ u.mgt.sessions
            = mapWhere (fun y => y.sid == sid) (fun y => { y with finished := true, key := k }) s.mgt.sessions)
          ∧ ∃ u, exec (.finish sid k false) s = .next u ∧ u.mgt2.code = spdmInvalid ∧ u.mgt.sessions = s.mgt.sessions.filter (fun y => y.sid != sid))
      ∧ (s.mgt.sessions.any (fun y => y.sid == sid && !y.finished) = false → exec (.finish sid k ok) s = .next (reply s spdmNoSession []))
      ∧ (s.session? sid = none → ∀ c, c = Instr.heartbeat sid ∨ c = Instr.keyUpdate sid ∨ c = Instr.endSession sid ∨ c = Instr.ownerSet sid root sig
          ∨ c = Instr.keyInstall sid tag gen key ∨ c = Instr.keyCommit sid tag gen ∨ c = Instr.keyRetireGen sid tag gen
          ∨ c = Instr.logRead sid first count ∨ c = Instr.debugNonce sid ∨ c = Instr.debugUnlock sid token pub ∨ c = Instr.debugLock sid
          ∨ c = Instr.retireLift sid token pub → exec c s = .next (reply s spdmNoSession []))
      ∧ (s.session? sid = some x →
        exec (.heartbeat sid) s = .next (reply s 0 [])
        ∧ (∃ u, exec (.keyUpdate sid) s = .next u ∧ u.mgt.sessions
            = mapWhere (fun y => y.sid == sid) (fun y => { y with keyPhase := y.keyPhase + 1 }) s.mgt.sessions)
        ∧ (∃ u, exec (.endSession sid) s = .next u ∧ u.session? sid = none)
        ∧ (s.mgt.owner = none → x.byBmc = true → ∃ u, exec (.ownerSet sid root sig) s = .next u ∧ u.mgt.owner = some root ∧ u.mgt2.code = 0)
        ∧ (s.mgt.owner = none → x.byBmc = false → exec (.ownerSet sid root sig) s = .next (reply (logEntry s 3 0 0x01 0 0 none) rcNotAuthorised []))
        ∧ (s.mgt.owner.isSome = true → ∃ u, exec (.ownerSet sid root sig) s = .next u
            ∧ (s.ownerSession x = false → u.mgt.owner = s.mgt.owner ∧ u.mgt2.code = rcNotAuthorised)
            ∧ (∀ q, s.ownerSession x = true → x.key = some q →
                (ed25519Verify q (leBytes 64 root.toNat) sig = true → u.mgt.owner = some root ∧ u.mgt2.code = 0)
                ∧ (ed25519Verify q (leBytes 64 root.toNat) sig = false → u.mgt.owner = s.mgt.owner ∧ u.mgt2.code = rcNotAuthorised)))
        ∧ (s.ownerSession x = false →
            exec (.keyInstall sid tag gen key) s = .next (reply (logEntry s 3 0 0x10 tag.toNat gen.toNat none) rcNotAuthorised [])
            ∧ exec (.keyCommit sid tag gen) s = .next (reply (logEntry s 3 0 0x11 tag.toNat gen.toNat none) rcNotAuthorised [])
            ∧ exec (.keyRetireGen sid tag gen) s = .next (reply (logEntry s 3 0 0x12 tag.toNat gen.toNat none) rcNotAuthorised []))
        ∧ (s.ownerSession x = true → ∀ ks, ks = s.tagKeys tag.toNat →
            (∃ u, exec (.keyInstall sid tag gen key) s = .next u ∧ u.mgt.nextLseq = s.mgt.nextLseq + 1
              ∧ (s.tagHeld tag.toNat = true → ks.cur = none → u.mgt2.code = 0 ∧ (u.tagKeys tag.toNat).cur = some { gen := gen.toNat, key := key })
              ∧ (∀ c, s.tagHeld tag.toNat = true → ks.cur = some c → ks.other = none → gen.toNat = (c.gen + 1) % 65536 →
                  u.mgt2.code = 0 ∧ u.tagKeys tag.toNat = { ks with other := some { gen := gen.toNat, key := key }, otherNext := true })
              ∧ (∀ c, s.tagHeld tag.toNat = true → ks.cur = some c → ks.other = none → gen.toNat ≠ (c.gen + 1) % 65536 →
                  u.mgt2.code = rcBadArg ∧ u.trb = s.trb)
              ∧ (s.tagHeld tag.toNat = true → ks.cur.isSome = true → ks.other.isSome = true → u.mgt2.code = rcBusy ∧ u.trb = s.trb)
              ∧ (s.tagHeld tag.toNat = false → s.trb.staged.any (fun e => e.1 == tag.toNat) = false → s.trb.staged.length < 32 →
                  u.mgt2.code = 0 ∧ u.trb.staged = s.trb.staged ++ [(tag.toNat, { gen := gen.toNat, key := key })])
              ∧ (s.tagHeld tag.toNat = false → s.trb.staged.any (fun e => e.1 == tag.toNat) = true ∨ 32 ≤ s.trb.staged.length →
                  u.mgt2.code = rcBusy ∧ u.trb = s.trb))
            ∧ (∃ u, exec (.keyCommit sid tag gen) s = .next u
              ∧ (∀ n, ks.other = some n → ks.otherNext = true → n.gen = gen.toNat →
                  u.mgt2.code = 0 ∧ u.tagKeys tag.toNat = { cur := some n, other := ks.cur, otherNext := false })
              ∧ (ks.other = none ∨ ks.otherNext = false ∨ (∀ n, ks.other = some n → n.gen ≠ gen.toNat) → u.mgt2.code = rcBadArg ∧ u.trb = s.trb))
            ∧ (∃ u, exec (.keyRetireGen sid tag gen) s = .next u
              ∧ (∀ n, ks.other = some n → n.gen = gen.toNat → u.mgt2.code = 0
                  ∧ u.tagKeys tag.toNat = { ks with other := none, otherNext := false })
              ∧ ((∀ n, ks.other = some n → n.gen ≠ gen.toNat) → u.mgt2.code = rcBadArg ∧ u.trb = s.trb)))
        ∧ (x.byBmc = true ∨ s.ownerSession x = true → count ≤ 64 → exec (.logRead sid first count) s
            = .next (reply s 0 (((s.mgt.flash.filter (fun e => decide (first ≤ e.lseq))).take count).flatMap LogEnt.bytes)))
        ∧ (x.byBmc = true ∨ s.ownerSession x = true → 64 < count → exec (.logRead sid first count) s = .next (reply s rcBadArg []))
        ∧ (x.byBmc = false → s.ownerSession x = false → exec (.logRead sid first count) s = .next (reply s rcNotAuthorised []))))
    ∧ (s.decridRuns = true → s.pfAnswers = false →
      exec (.keyExchange .doe rq) s = .next s
      ∧ (s.mgt.sessions.any (fun y => y.sid == sid && y.transport == .doe) = true → exec (.finish sid k ok) s = .next s)
      ∧ (s.session? sid = some x → x.transport = .doe → exec (.heartbeat sid) s = .next s)
      ∧ (s.session? sid = some x → x.transport ≠ .doe → exec (.heartbeat sid) s = .next (reply s 0 [])))
    ∧ (s.decridRuns = false → ∀ c, c = Instr.keyExchange t rq ∨ c = Instr.finish sid k ok ∨ c = Instr.heartbeat sid ∨ c = Instr.keyUpdate sid
        ∨ c = Instr.endSession sid ∨ c = Instr.ownerSet sid root sig ∨ c = Instr.keyInstall sid tag gen key ∨ c = Instr.keyCommit sid tag gen
        ∨ c = Instr.keyRetireGen sid tag gen ∨ c = Instr.logRead sid first count ∨ c = Instr.debugNonce sid ∨ c = Instr.debugUnlock sid token pub
        ∨ c = Instr.debugLock sid ∨ c = Instr.retireLift sid token pub → exec c s = .next s)

/-- R592 to R595: DEBUG_NONCE puts a new nonce in force and answers it. A token consumes the nonce whatever comes of it. A good one
unlocks debug access as its SCOPE gives, with every slot FREE; with one that is not it is BUSY and access stays as it was; one that
is not good answers what is wrong. DEBUG_LOCK and the end of its lifetime end access (STATE 2). RETIRE_LIFT with a good token of a
retired unit lifts its retirement, which a module reset then applies, and leaves the unit out of service until then. -/
def Obligations.DebugOpensAndCloses : Prop :=
  ∀ (s : State) (sid : Nat) (x : Session) (token : List (BitVec 8)) (pub : BitVec 256),
    (s.decridRuns = true → s.session? sid = some x → (x.transport = .doe → s.pfAnswers = true) →
      (∃ u n, exec (.debugNonce sid) s = .next u ∧ u.mgt.nonce = some n ∧ u.mgt2.reply = leBytes 32 n.toNat ∧ u.mgt2.code = 0)
      ∧ (∃ u, exec (.debugUnlock sid token pub) s = .next u ∧ u.mgt.nonce = none
        ∧ (s.tokenResult 1 token pub ≠ 0 → u.mgt2.code = s.tokenResult 1 token pub ∧ u.mgt.dbgState = s.mgt.dbgState)
        ∧ (s.tokenResult 1 token pub = 0 → imageField token 56 8 = 0 ∨ 28800 < imageField token 56 8 →
            u.mgt2.code = rcBadToken ∧ u.mgt.dbgState = s.mgt.dbgState)
        ∧ (s.tokenResult 1 token pub = 0 → 1 ≤ imageField token 56 8 → imageField token 56 8 ≤ 28800 →
            (s.allFree = false → u.mgt2.code = rcBusy ∧ u.mgt.dbgState = s.mgt.dbgState)
            ∧ (s.allFree = true → u.mgt2.code = 0 ∧ u.mgt.dbgState = 1 ∧ u.mgt.dbgScope = imageField token 4 1 % 4
              ∧ u.mgt.dbgLeft = imageField token 56 8 ∧ u.mgt.debugId = true ∧ (s.mgt.debugId = false → u.mgt.sessions = []))))
      ∧ (∃ u, exec (.debugLock sid) s = .next u ∧ (s.mgt.dbgState = 1 → u.mgt.dbgState = 2 ∧ u.mgt.dbgScope = 0)
        ∧ (s.mgt.dbgState ≠ 1 → u.mgt.dbgState = s.mgt.dbgState) ∧ u.mgt.debugId = s.mgt.debugId)
      ∧ (∃ u, exec (.retireLift sid token pub) s = .next u ∧ u.mgt.nonce = none
        ∧ u.rst.retiredCores = s.rst.retiredCores ∧ u.mem = s.mem
        ∧ (s.tokenResult 2 token pub ≠ 0 → u.mgt2.code = s.tokenResult 2 token pub ∧ u.rst = s.rst)
        ∧ (s.tokenResult 2 token pub = 0 → s.unitRetired (imageField token 68 2) = false → u.mgt2.code = rcBadArg ∧ u.rst = s.rst)
        ∧ (s.tokenResult 2 token pub = 0 → s.unitRetired (imageField token 68 2) = true →
            u.mgt2.code = 0 ∧ u.rst.lifted.contains (imageField token 68 2) = true)))
    ∧ (s.mgt.dbgState = 1 → exec .debugLifetimeEnd s = .next { s with mgt := { s.mgt with dbgState := 2, dbgScope := 0, dbgLeft := 0 } })
    ∧ (s.mgt.dbgState ≠ 1 → exec .debugLifetimeEnd s = .next s)
    ∧ exec .debugNonceExpiry s = .next { s with mgt := { s.mgt with nonce := none } }

/-- R586 to R589: K_SET_GO, in a secured session over the PF's DOE, enables a function's stream under a key set that has a key; a VF's TDI locks
from CONFIG_UNLOCKED with its slot ACTIVE, debug access locked and its stream enabled, its report made then counting in the slot's records, runs from CONFIG_LOCKED, and shows
that report while locked or running; a stream that fails stops and puts a
locked or running TDI into ERROR; STOP_INTERFACE of a FREE slot unlocks at once and of another tears the slot down, waits for the teardown that runs,
or takes over one whose home has gone, which a member does not see (log 14). A VF that does
not exist is refused; while Decrid or the PF does not answer, nothing changes. -/
def Obligations.InterfacesLockAndRun : Prop :=
  ∀ (s : State) (v : SlotIx) (f : FnIx) (k : Fin 2) (sid : Nat) (x : Session) (key : Option (BitVec 256)),
    (s.decridRuns = true → s.pfAnswers = true → s.fnExists f = true →
      (s.session? sid = none → exec (.kSetGo ⟨sid, f⟩ ⟨k, key⟩) s = .next (reply s spdmNoSession []))
      ∧ (s.session? sid = some x → x.transport = .doe → key.isSome = true ∨ (s.ideKey f k).isSome = true → ∃ u, exec (.kSetGo ⟨sid, f⟩ ⟨k, key⟩) s = .next u
        ∧ u.ideOf f = some k.val ∧ (∀ g, g ≠ f.val → u.ideOf g = s.ideOf g) ∧ u.ideKey f k = (if key.isSome then key else s.ideKey f k)
        ∧ u.mgt2.code = 0 ∧ u.cores = s.cores ∧ u.mem = s.mem)
      ∧ (s.session? sid = some x → x.transport ≠ .doe ∨ (key = none ∧ s.ideKey f k = none) → ∃ u, exec (.kSetGo ⟨sid, f⟩ ⟨k, key⟩) s = .next u
        ∧ u.mgt2.code = rcBadArg ∧ u.mgt.ide = s.mgt.ide ∧ u.cores = s.cores ∧ u.mem = s.mem))
    ∧ (s.decridRuns = false ∨ s.pfAnswers = false ∨ s.fnExists f = false → exec (.kSetGo ⟨sid, f⟩ ⟨k, key⟩) s = .next s)
    ∧ (∃ u, exec (.ideStreamFailure 0) s = .next u ∧ u.ideOf 0 = none ∧ u.mgt.tdi = s.mgt.tdi)
    ∧ (∀ w : FnIx, w.val = v.val + 1 → exec (.ideStreamFailure w) s = .next (tdiError (setIde s w none) v)
        ∧ ∃ u, exec (.ideStreamFailure w) s = .next u ∧ u.ideOf w = none
        ∧ (s.tdi v = 1 ∨ s.tdi v = 2 → u.tdi v = 3) ∧ (s.tdi v ≠ 1 → s.tdi v ≠ 2 → u.tdi v = s.tdi v))
    ∧ (s.decridRuns = true → s.pfAnswers = true → s.fnExists (v + 1) = true →
      exec (.getTdispVersion v) s = .next (reply s 0 [0x10])
      ∧ exec (.getTdispCapabilities v) s = .next (reply s 0 [0x81, 0x82, 0x83, 0x84, 0x85, 0x86, 0x87])
      ∧ exec (.getDeviceInterfaceState v) s = .next (reply s 0 (leBytes 1 (s.tdi v)))
      ∧ (s.tdi v = 0 → (s.slot v).state = 1 → s.mgt.dbgState = 0 → (s.ideOf (v + 1)).isSome = true →
          ∃ u, exec (.lockInterfaceRequest v) s = .next u ∧ u.tdi v = 1 ∧ u.mgt2.code = 0 ∧ (u.slot v).invSeq = (s.slot v).invSeq + 1
            ∧ exec (.getDeviceInterfaceReport v) u = .next (reply u 0 (s.tdiReportOf v)))
      ∧ (s.tdi v ≠ 0 ∨ (s.slot v).state ≠ 1 ∨ s.mgt.dbgState ≠ 0 ∨ s.ideOf (v + 1) = none →
          exec (.lockInterfaceRequest v) s = .next (reply s tdInvalidState []))
      ∧ (s.tdiClosed v = true → exec (.getDeviceInterfaceReport v) s = .next (reply s 0 (SMap.get (fun _ => []) s.mgt.tdiReport v)))
      ∧ (s.tdiClosed v = false → exec (.getDeviceInterfaceReport v) s = .next (reply s tdInvalidState []))
      ∧ (s.tdi v = 1 → exec (.startInterfaceRequest v) s = .next (reply (s.setTdi v 2) 0 []))
      ∧ (s.tdi v ≠ 1 → exec (.startInterfaceRequest v) s = .next (reply s tdInvalidState []))
      ∧ ((s.slot v).state = 0 → exec (.stopInterfaceRequest v) s = .next (reply (s.setTdi v 0) 0 []))
      ∧ ((s.slot v).state ≠ 0 → (s.slot v).teardown = none → ∃ u, exec (.stopInterfaceRequest v) s = .next u
          ∧ (u.slot v).state = 3 ∧ (u.slot v).teardown.isSome = true)
      ∧ (∀ d t, (s.slot v).state ≠ 0 → (s.slot v).teardown = some d → t = { s with freeCtr := s.freeCtr + 1 } →
          (d.runs s.freeCtr = true → exec (.stopInterfaceRequest v) s = .next (t.setSlot v { s.slot v with teardown := some { d with tdi := true } }))
          ∧ (d.runs s.freeCtr = false → exec (.stopInterfaceRequest v) s = .next (takeOver t v { d with tdi := true }))))
    ∧ (∀ c, c = Instr.getTdispVersion v ∨ c = Instr.getTdispCapabilities v ∨ c = Instr.lockInterfaceRequest v ∨ c = Instr.getDeviceInterfaceReport v
        ∨ c = Instr.getDeviceInterfaceState v ∨ c = Instr.startInterfaceRequest v ∨ c = Instr.stopInterfaceRequest v →
        (s.decridRuns = true → s.pfAnswers = true → s.fnExists (v + 1) = false → exec c s = .next (reply s 0x101 []))
        ∧ (s.decridRuns = false ∨ s.pfAnswers = false → exec c s = .next s))

/-- R606, R607: Test-Logic-Reset loads IDCODE, and IDCODE reads 0x109A5537; SAMPLE/PRELOAD keeps what was preloaded; EXTEST, CLAMP,
HIGHZ, EXTEST_PULSE and EXTEST_TRAIN take the pins with every slot FREE and fence the module, which BYPASS and Test-Logic-Reset do
not undo; at any other time they act as BYPASS, with an entry of KIND 2 in the log. -/
def Obligations.TapTakesThePins : Prop :=
  ∀ (s : State) (cells : Nat),
    exec .idcode s = .next { s with mgt2 := { s.mgt2 with tap := 0x01 }, lastRead := 0x109A5537 }
    ∧ exec .tapReset s = .next { s with mgt2 := { s.mgt2 with tap := 0x01 } }
    ∧ exec .bypass s = .next { s with mgt2 := { s.mgt2 with tap := 0xFF } }
    ∧ (∃ u, exec (.samplePreload cells) s = .next u ∧ u.mgt2.cells = cells ∧ u.mgt2.tap = 0x02 ∧ u.mem = s.mem ∧ u.cores = s.cores)
    ∧ ∀ c op, (c, op) = (Instr.extest, 3) ∨ (c, op) = (Instr.clamp, 4) ∨ (c, op) = (Instr.highz, 5) ∨ (c, op) = (Instr.extestPulse, 6)
        ∨ (c, op) = (Instr.extestTrain, 7) →
      (s.allFree = true → ∃ u, exec c s = .next u ∧ u.mgt2.tap = op ∧ u.mgt2.drive = op ∧ u.moduleFenced = true
        ∧ (s.moduleFenced = false → u.mgt.buffer = []))
      ∧ (s.allFree = false → ∃ u e, exec c s = .next u ∧ u.mgt2.tap = 0xFF ∧ u.mgt2.drive = s.mgt2.drive
        ∧ u.mgt.buffer.getLast? = some e ∧ e.kind = 2 ∧ e.code = op ∧ u.mem = s.mem ∧ u.cores = s.cores)

/-! ## Power-up, the host link and the self-tests (08, 18, 19) -/

/-- R566, R577, R598, R603: power-up counts a boot and closes the UDS from firmware on (R566); in recovery it goes no further; with an image to run it goes on to wait for
PERST_N and cool sensors, and a failed step 3 or 4 ends it there. A loop-back of Decrid's buses that failed is shown and logged, KIND 6. -/
def Obligations.PowerComesUp : Prop :=
  ∀ (s : State) (x : PowerUpTests) (m : Mgt), m = { s.mgt with boots := s.mgt.boots + 1, fw := s.mgt.fw.tryPending.select } →
    (s.mgt2.power ≠ 0 → exec (.powerUp x) s = .next s)
    ∧ (s.mgt2.power = 0 → m.fw.recovery = true → exec (.powerUp x) s = .next { s with mgt := m, mgt2 := { s.mgt2 with power := 2 } })
    ∧ (s.mgt2.power = 0 → m.fw.recovery = false → ∃ u, exec (.powerUp x) s = .next u ∧ u.mgt.boots = s.mgt.boots + 1 ∧ u.mgt.fw = m.fw
        ∧ u.mgt.udsOpen = false ∧ u.test.dbusFail = x.busFail ∧ u.cores = s.cores ∧ u.mem = s.mem
        ∧ (x.failedStep = none → u.mgt2.power = 2 ∧ u.test.pcieFail = s.test.pcieFail
          ∧ (x.busFail = false → u.mgt.buffer = s.mgt.buffer)
          ∧ (x.busFail = true → ∃ e, u.mgt.buffer = s.mgt.buffer ++ [e] ∧ e.kind = 6 ∧ e.unit = decridUnit))
        ∧ (∀ k, x.failedStep = some k → u.mgt2.power = 3 ∧ u.test.pcieFail = decide (k.val = 1)
          ∧ ∃ e, u.mgt.buffer.getLast? = some e ∧ e.kind = 6 ∧ e.sev = 4))

/-- R598, R600, R601, R620: once cool, with PERST_N deasserted, power-up completes: every register takes its reset value, an asserted brake holds the cores, and units that
failed BIST are retired; the module works, RST_CAUSE and its count read 0. At any other time the command changes nothing. -/
def Obligations.PowerUpCompletes : Prop :=
  ∀ (s : State) (cores chans : List Nat),
    (s.mgt2.power = 2 → s.mgt.fw.recovery = false → s.mgt.fw.restarting = false → s.cool = true → s.mgt2.perst = false →
        (∃ u, exec (.powerUpComplete cores chans) s = .next u ∧ u.mgt2.power = 1 ∧ u.rst.cause = 0 ∧ u.rst.count = 0
          ∧ u.pdyn.brake = s.pdyn.brake ∧ u.pdyn.brakeHold = s.pdyn.brake
          ∧ (∀ n, n ∈ cores → n < 192 → u.coreRetired n = true) ∧ ∀ c, c ∈ chans → c < 128 → (u.chan c).retired = true)
        ∧ ∃ u, exec (.powerUpComplete [] []) s = .next u ∧ u.mgt2.power = 1 ∧ u.rst.cause = 0 ∧ u.rst.count = 0 ∧ u.moduleFenced = false
          ∧ u.cores = State.reset.cores ∧ u.tasks = State.reset.tasks ∧ u.sets = State.reset.sets ∧ u.lkt = State.reset.lkt
          ∧ u.fnc = State.reset.fnc ∧ u.xlt = State.reset.xlt ∧ u.trb = State.reset.trb ∧ u.pool = State.reset.pool ∧ u.mesh = State.reset.mesh
          ∧ ∀ c, (u.chan c).mem = [] ∧ (u.chan c).clean = false)
    ∧ (s.mgt2.power ≠ 2 ∨ s.mgt.fw.recovery = true ∨ s.mgt.fw.restarting = true ∨ s.cool = false ∨ s.mgt2.perst = true →
        exec (.powerUpComplete cores chans) s = .next s)

/-- R615: an input out of range removes every supply; flash stays, and everything else is as it was built. Without power it changes nothing. -/
def Obligations.InputsRemovePower : Prop :=
  ∀ s : State,
    (s.mgt2.power = 0 → exec .inputOutOfRange s = .next s)
    ∧ (s.mgt2.power ≠ 0 → ∃ u, exec .inputOutOfRange s = .next u ∧ u.mgt2.power = 0 ∧ u.mgt.flash = s.mgt.flash ∧ u.mgt.buffer = []
        ∧ u.mgt.owner = s.mgt.owner ∧ u.cores = [] ∧ u.tasks = [] ∧ u.sets = [] ∧ u.trb = {} ∧ u.lkt = {} ∧ u.fnc = {} ∧ u.pwr = {}
        ∧ ∀ c, (u.chan c).mem = [] ∧ (u.chan c).clean = false)

/-- R303, R307, R313, R351, R603, R619: PERST_N asserted in operation takes the link down and starts a module reset, cause 3. A link that
trains shows its rate, width and clocking, which PCX_LINK_CFG decides when it is not automatic, and whether it is degraded, and requests of copy engines that waited for
it go; none trains while PERST_N is asserted, the tray is awaited, or the module has no power. A loop-back of depth 3 takes it down. A VF's FLR masks its vectors
and resets its ACTIVE Locket; the PF's starts a module reset, cause 2. NumVFs is taken with a rising VF Enable. While the PF does not answer no FLR and no VF Enable
arrives. -/
def Obligations.LinkAndFunctions : Prop :=
  ∀ (s : State) (v : SlotIx) (l : LinkState) (en : Bool) (n : Fin 33),
    (s.mgt2.trayReq = false → s.mgt2.perst = false → exec .perstAssert s
        = .next (startModuleReset (setLink { s with mgt2 := { s.mgt2 with perst := true } } linkNone) 3 false))
    ∧ (s.mgt2.perst = false → s.moduleFenced = false → s.pdyn.trip = false → ∃ u, exec .perstAssert s = .next u ∧ u.mgt2.perst = true
        ∧ u.rst.running = true ∧ u.rst.cause = 3 ∧ u.que.link = linkNone)
    ∧ (s.mgt2.trayReq = true ∨ s.mgt2.perst = true → exec .perstAssert s = .next { s with mgt2 := { s.mgt2 with perst := true } })
    ∧ exec .perstDeassert s = .next { s with mgt2 := { s.mgt2 with perst := false } }
    ∧ (s.mgt2.perst = true ∨ s.mgt2.trayReq = true ∨ s.mgt2.power = 0 ∨ s.mgt2.power = 3 → exec (.pcieLinkTrained l) s = .next s)
    ∧ (s.mgt2.perst = false → s.mgt2.trayReq = false → s.mgt2.power ≠ 0 → s.mgt2.power ≠ 3 →
        ∃ u, exec (.pcieLinkTrained l) s = .next (jobPumpAll u)
        ∧ u.que.link.rate = l.rate ∧ u.que.link.width = l.width ∧ u.que.link.flit = l.flit
        ∧ (u.que.link.sris = if s.que.sris = 1 then false else if s.que.sris = 2 then true else l.sris)
        ∧ (u.que.degraded = (decide (l.rate.val ≠ 0) && (decide (l.rate.val < 6) || decide (l.width.val < 16))))
        ∧ u.que.loopback = false ∧ u.mem = s.mem ∧ u.cores = s.cores ∧ u.tasks = s.tasks)
    ∧ (∃ u, exec .pcieLoopback s = .next u ∧ u.que.link = linkNone ∧ u.que.loopback = true ∧ u.mem = s.mem ∧ u.cores = s.cores)
    ∧ (s.pfAnswers = true → s.fnExists (v + 1) = true → ∃ u, exec (.vfFlr v) s = .next u
        ∧ (∀ e, e ∈ u.que.unmasked → e.1 ≠ v.val + 1)
        ∧ ((s.slot v).state = 1 → (s.slot v).resetting = false → (u.slot v).resetting = true)
        ∧ ((s.slot v).state = 0 → (u.ev (v + 1)).ring.enable = false ∧ (u.fq v).ring.enable = false))
    ∧ (s.pfAnswers = false ∨ s.fnExists (v + 1) = false → exec (.vfFlr v) s = .next s)
    ∧ (s.pfAnswers = true → exec .pfFlr s = .next (startModuleReset (raise s 0x161) 2 false)
        ∧ (s.pdyn.trip = false → ∃ u, exec .pfFlr s = .next u ∧ u.rst.running = true ∧ u.rst.cause = 2))
    ∧ (s.pfAnswers = true → exec (.vfEnable en n) s = .next { s with que := { s.que with
        vfEnable := en, numVfs := if s.que.vfEnable && en then s.que.numVfs else n } })
    ∧ (s.pfAnswers = false → exec .pfFlr s = .next s ∧ exec (.vfEnable en n) s = .next s)

/-- R304, R307, R322, R345, R577, R589, R598, R621: a configuration request is answered with Request Retry Status while the module is fenced or Decrid is in recovery, with Unsupported Request for
a function that does not exist, and otherwise completes; a read's four bytes are a free value but for the MSI-X table's size, TotalVFs, VF Enable and VF Memory Space Enable (the layout is
not stated, log 35); a write by the PF changes its VFs' BARs, which puts locked TDIs into ERROR, VF Memory Space Enable, or what AER has logged, and nothing else.
R36, R312, R351: a BAR4 access that any piece of is refused, or that no link serves, is Unsupported Request where it reads and discarded where it writes; any other
is sent to its homes in requests of at most 256 bytes, none across a 256-byte block, which cover it. -/
def Obligations.HostRequestsAreAnswered : Prop :=
  ∀ (s : State) (fn : FnIx) (reg : Fin 1024) (v : BitVec 32) (off : BitVec 34) (wr : Bool) (len : Nat) (data : List (BitVec 8)) (tag : BitVec 10),
    (s.retryStatus = true → exec (.configRequest fn wr reg v) s = .next { s with que := { s.que with ansStatus := 2, ansBytes := [] } })
    ∧ (s.retryStatus = false → s.fnExists fn = false →
        exec (.configRequest fn wr reg v) s = .next { s with que := { s.que with ansStatus := 1, ansBytes := [] } })
    ∧ (s.retryStatus = false → s.fnExists fn = true →
        (∃ w, exec (.configRequest fn false reg v) s
            = .next { s with freeCtr := s.freeCtr + 1, que := { s.que with ansStatus := 0, ansBytes := leBytes 4 w } }
          ∧ (Config.isMsixControl reg = true → s.msixCountOf fn ≠ 0 → w / 2 ^ 16 % 2 ^ 11 = (s.msixCountOf fn - 1) % 2 ^ 11)
          ∧ (Config.isMsixControl reg = false → fn = 0 → Config.isTotalVfs reg = true → w / 2 ^ 16 = 32)
          ∧ (Config.isMsixControl reg = false → fn = 0 → Config.isTotalVfs reg = false → Config.isSriovControl reg = true → bit w 0 = s.que.vfEnable ∧ bit w 3 = s.que.vfMse))
        ∧ (fn.val ≠ 0 → exec (.configRequest fn true reg v) s = .next { s with que := { s.que with ansStatus := 0, ansBytes := [] } })
        ∧ (fn.val = 0 → Config.isVfBar reg = true →
          exec (.configRequest fn true reg v) s = .next (answerPcie (({ s with que := { s.que with
            vfBars := SMap.set zeroD s.que.vfBars (Config.vfBarWord reg % 4) v.toNat } } : State).forAll (upto 32) tdiError) 0 []))
        ∧ (fn.val = 0 → Config.isVfBar reg = false → Config.isSriovControl reg = true →
          exec (.configRequest fn true reg v) s = .next { s with que := { s.que with vfMse := bit v.toNat 3, ansStatus := 0, ansBytes := [] } })
        ∧ (fn.val = 0 → Config.isVfBar reg = false → Config.isSriovControl reg = false → Config.isAerStatus reg = true → v ≠ 0 →
          exec (.configRequest fn true reg v) s = .next { s with que := { s.que with aer := [], ansStatus := 0, ansBytes := [] } })
        ∧ (fn.val = 0 → Config.isVfBar reg = false → Config.isSriovControl reg = false → Config.isAerStatus reg = false ∨ v = 0 →
          exec (.configRequest fn true reg v) s = .next { s with que := { s.que with ansStatus := 0, ansBytes := [] } }))
    ∧ (∀ n start ps, n = min 4096 (if wr then data.length else len) → start = s.que.bar4Base + off.toNat → ps = pieces start n 32 →
        (s.pfAnswers = false ∨ s.linkFetches = false ∨ ps.any (fun p => s.bar4Refused p.1) = true →
          exec (.bar4Access off wr len data tag) s
            = .next (if wr then s else { s with que := { s.que with ansTag := tag.toNat, ansStatus := 1, ansBytes := [] } }))
        ∧ (s.pfAnswers = true → s.linkFetches = true → ps.any (fun p => s.bar4Refused p.1) = false →
          exec (.bar4Access off wr len data tag) s = .next (sendBar4 s tag.toNat wr start n data))
        ∧ (∀ q, q ∈ ps → 0 < q.2 ∧ q.1 % 256 + q.2 ≤ 256 ∧ start ≤ q.1 ∧ q.1 + q.2 ≤ start + n)
        ∧ (∀ a, start ≤ a → a < start + n → ∃ q, q ∈ ps ∧ q.1 ≤ a ∧ a < q.1 + q.2))

/-- R13, R604: GO runs the tests with every slot FREE and no context ACTIVE, is ignored while one runs, and otherwise only sets ERR; a
test that completes shows what failed, a unit that has a code, and a failure is logged, KIND 6. R605: a GO of MEM_BIST with a channel that is not free, is retired or in the pool region
only sets ERR; an accepted one, while another runs too, undefines the selected channels (nothing is listed for them), which show STATE 2
and are not CLEAN. A channel that passes, with no SCRUB or teardown waiting for it, is free, CLEAN and zero; one that fails is retired. -/
def Obligations.SelfTestsRun : Prop :=
  ∀ (s : State) (mf df : Bool) (unit : BitVec 16) (c : ChIx) (us : BitVec 32),
    (s.pfAnswers = true →
        (s.allFree = true → (∀ e, e ∈ s.fnc.ctxs → e.2.state ≠ 1) →
          exec .selftestGo s = .next { s with test := { s.test with busy := true } })
        ∧ (s.allFree = false ∨ (∃ e, e ∈ s.fnc.ctxs ∧ e.2.state = 1) →
          exec .selftestGo s = .next { s with test := { s.test with err := true } }))
    ∧ (s.pfAnswers = false → exec .selftestGo s = .next s ∧ exec .memBistGo s = .next s)
    ∧ (s.test.busy = false ∨ unitNamed unit.toNat = false → exec (.selftestComplete mf df unit) s = .next s)
    ∧ (s.test.busy = true → unitNamed unit.toNat = true → ∃ u, exec (.selftestComplete mf df unit) s = .next u ∧ u.test.busy = false ∧ u.test.meshFail = mf
        ∧ u.test.dbusFail = df ∧ (mf = true ∨ df = true → u.test.failUnit = unit.toNat ∧ ∃ e, u.mgt.buffer.getLast? = some e ∧ e.kind = 6)
        ∧ u.cores = s.cores ∧ u.mem = s.mem)
    ∧ (s.pfAnswers = true → ∀ ok : Nat → Bool, (∀ i, ok i = ((s.chan i).state == 0 && !(s.chan i).retired && !(s.inPool && s.pool.chans.contains i))) →
        ((bitList s.mem.bistSel.toNat 128).all ok = false →
          exec .memBistGo s = .next { s with mem := { s.mem with bistErr := true } })
        ∧ ((bitList s.mem.bistSel.toNat 128).all ok = true →
          ∃ u, exec .memBistGo s = .next u ∧ u.mem.bistLeft = s.mem.bistLeft + (bitList s.mem.bistSel.toNat 128).length
            ∧ (∀ i, i ∈ bitList s.mem.bistSel.toNat 128 → (u.chan i).state = 2 ∧ (u.chan i).clean = false ∧ (u.chan i).mem = []
                ∧ (u.chan i).bist = true)
            ∧ (∀ i, i ∉ bitList s.mem.bistSel.toNat 128 → u.chan i = s.chan i) ∧ u.cores = s.cores))
    ∧ ((s.chan c).bist = false → exec (.memBistChannelDone c true us) s = .next s ∧ exec (.memBistChannelDone c false us) s = .next s)
    ∧ ((s.chan c).bist = true → exec (.memBistChannelDone c true us) s
        = .next (endScrub { s.setChan c { s.chan c with bist := false, initiator := some 3 } with
            mem := { (s.setChan c { s.chan c with bist := false, initiator := some 3 }).mem with bistLeft := s.mem.bistLeft - 1 } } c us.toNat))
    ∧ ((s.chan c).bist = true → (s.chan c).state = 2 → (∀ e, e ∈ s.que.sqs → ∀ d, d ∈ e.2.descs → d.scrubs.contains c.val = false) →
        (∀ l t, (s.slot l).teardown = some t → t.scrubs.contains c.val = false) → ∃ u, exec (.memBistChannelDone c true us) s = .next u
        ∧ (u.chan c).bist = false ∧ (u.chan c).state = 0 ∧ (u.chan c).clean = true ∧ (u.chan c).mem = [] ∧ (u.chan c).scrubbed = true)
    ∧ ((s.chan c).bist = true → (s.chan c).retired = false → ∃ u, exec (.memBistChannelDone c false us) s = .next u
        ∧ (u.chan c).bist = false ∧ (u.chan c).retired = true ∧ (u.chan c).state = 5 ∧ u.mem.bistFail.getLsbD c = true
        ∧ u.mem.bistLeft = s.mem.bistLeft - 1)

/-! ## Reads that clear (R23) -/

/-- R23, R231, R608: a read of MEM_CH_CORR, MEM_CH_RETRY or MEM_CH_POISON by the host returns the count (POISON with the last sector
and direction beside it) and clears that count of that channel alone; a read of a half of MEM_BIST_FAIL returns its 64 bits and
clears them and not the other half. While the PF does not answer nothing is read.
R23, R62: a read of a half's status returns its word and clears ERR and BOUND_UNIT with it, nothing else; a read of MSH_PARKED_CNT
returns the count and clears it. While the PF does not answer nothing is read.
R23, R525 to R527, R597: while the PF answers, reads of PWR_STATUS, PWR_STAGGER, PWR_MODEL, a core's power status, MGT_FW_STATUS and MGT_LOG_STATUS clear
ERR; HELD and ADMITTED; DRIFTS; DROOPS; ERR; LOST, and change nothing else. What they return holds the cleared counter in its place.
R23, R300, R301, R307, R311, R349, R350, R379: reads of the status registers of fault queues, translation, submission queues, event rings
and of FNC_WAITS by the PF return their words and clear their RC counters: DEFERRED, STALE with MERGED, DB_IGNORED, LOST, FULL. A VF that answers reads those of
its own slot, queues and ring in the same way, 64 bits of each, and no other's; one that does not answer reads nothing.
R23, R307, R311, R388, R442, R498: reads of SET_STATUS, of the selected latency monitor and of a port's FEC, LINK, DROP and TEST counters
return their words and clear their RC fields; TEST leaves BUSY and RESULT as they are, and while a test runs it shows the errors counted by then. A VF that answers reads the monitor of its own slot in the same
way, and no other's. While the PF does not answer nothing is read. -/
def Obligations.CountersClear : Prop :=
  (∀ (s : State) (c : ChIx),
    (s.pfAnswers = true →
      exec (.memChCorrRead c) s = .next { s.setChan c { s.chan c with corr := 0 } with lastRead := (s.chan c).corr }
      ∧ exec (.memChRetryRead c) s = .next { s.setChan c { s.chan c with retry := 0 } with lastRead := (s.chan c).retry }
      ∧ exec (.memChPoisonRead c) s = .next { s.setChan c { s.chan c with poison := 0 } with
          lastRead := (s.chan c).poison + (s.chan c).last <<< 16 + b2n (s.chan c).lastWr <<< 43 }
      ∧ exec (.memBistFailRead false) s = .next { s with
          mem := { s.mem with bistFail := BitVec.ofNat 128 (s.mem.bistFail.toNat / 2 ^ 64 * 2 ^ 64) }, lastRead := s.mem.bistFail.toNat % 2 ^ 64 }
      ∧ exec (.memBistFailRead true) s = .next { s with
          mem := { s.mem with bistFail := BitVec.ofNat 128 (s.mem.bistFail.toNat % 2 ^ 64) }, lastRead := s.mem.bistFail.toNat / 2 ^ 64 })
    ∧ (s.pfAnswers = false → exec (.memChCorrRead c) s = .next s ∧ exec (.memChRetryRead c) s = .next s ∧ exec (.memChPoisonRead c) s = .next s
        ∧ ∀ h, exec (.memBistFailRead h) s = .next s))
  ∧ (∀ (s : State) (h : HalfIx),
    (s.pfAnswers = true →
      exec (.mshHalfStatusRead h) s = .next { s.setHalf h { s.half h with err := 0, boundUnit := 0 } with lastRead := (s.half h).statusWord }
      ∧ exec .mshParkedCntRead s = .next { s with mesh := { s.mesh with parkedCnt := 0 }, lastRead := s.mesh.parkedCnt })
    ∧ (s.pfAnswers = false → exec (.mshHalfStatusRead h) s = .next s ∧ exec .mshParkedCntRead s = .next s))
  ∧ (∀ (s : State) (n : CoreIx), (s.pfAnswers = false → exec .pwrStatusRead s = .next s ∧ exec .pwrStaggerRead s = .next s ∧ exec .pwrModelRead s = .next s
      ∧ exec (.pwrCoreStatusRead n) s = .next s ∧ exec .mgtFwStatusRead s = .next s ∧ exec .mgtLogStatusRead s = .next s) ∧ (s.pfAnswers = true →
    (∃ w, exec .pwrStatusRead s = .next { s with pwr := { s.pwr with err := 0 }, lastRead := w }
      ∧ (s.pwr.err < 8 → s.pwr.limit < 2 ^ 16 → bits w 56 3 = s.pwr.err ∧ bits w 32 16 = s.pwr.limit))
    ∧ exec .pwrStaggerRead s = .next { s with
      pwr := { s.pwr with held := 0, admitted := 0 }
      lastRead := s.pwr.budget + s.staggerBudget <<< 8 + s.pwr.held <<< 16 + s.pwr.admitted <<< 32 }
    ∧ (∃ w, exec .pwrModelRead s = .next { s with pwr := { s.pwr with drifts := 0 }, lastRead := w }
      ∧ (s.pwr.drifts < 2 ^ 16 → bits w 48 16 = s.pwr.drifts))
    ∧ (∃ w, exec (.pwrCoreStatusRead n) s = .next { s.setPcore n { s.pcore n with droops := 0 } with lastRead := w }
      ∧ ((s.pcore n).fSet < 128 → bits w 0 7 = (s.pcore n).fSet))
    ∧ exec .mgtFwStatusRead s = .next { s with mgt := { s.mgt with fw := { s.mgt.fw with err := 0 } }, lastRead := s.mgt.fw.statusWord }
    ∧ (∃ w, exec .mgtLogStatusRead s = .next { s with mgt := { s.mgt with lost := 0 }, lastRead := w }
      ∧ (s.mgt.lost < 2 ^ 16 → bits w 0 16 = s.mgt.lost))))
  ∧ (∀ (s : State) (l : SlotIx) (q : SqIx) (f r : FnIx) (fq sq : State) (ev : Nat → State) (fw sw ew : Nat),
    fq = s.setFq l { s.fq l with deferred := 0 } → sq = s.setSq q { s.sq q with dbIgnored := 0 } →
    ev = (fun k => s.setEv k { s.ev k with lost := 0 }) →
    fw = b2n (s.fq l).overflow + b2n (s.fq l).ring.consErr <<< 1 + (s.fq l).deferred <<< 16 + s.heldCount l <<< 32 → sw = sqStatusWord (s.sq q) →
    ew = b2n (s.ev r).ring.consErr + b2n (s.ev r).overflow <<< 1 + (s.ev r).lost <<< 16 →
    (s.pfAnswers = true →
      exec (.xltFqStatusRead ⟨0, l⟩) s = .next { fq with lastRead := fw }
      ∧ exec .xltStatusRead s = .next { s with
        xlt := { s.xlt with stale := 0, merged := 0 }, lastRead := s.xlt.outst.length + s.xlt.stale <<< 16 + s.xlt.merged <<< 32 }
      ∧ exec (.queSqStatusRead ⟨0, q⟩) s = .next { sq with lastRead := sw }
      ∧ exec (.queEvStatusRead ⟨0, r⟩) s = .next { ev r with lastRead := ew }
      ∧ exec .fncWaitsRead s = .next { s with
        fnc := { s.fnc with full := 0 }, lastRead := s.fnc.waits.length + s.fnc.full <<< 16 })
    ∧ (s.pfAnswers = false → exec (.xltFqStatusRead ⟨0, l⟩) s = .next s ∧ exec .xltStatusRead s = .next s ∧ exec (.queSqStatusRead ⟨0, q⟩) s = .next s
        ∧ exec (.queEvStatusRead ⟨0, r⟩) s = .next s ∧ exec .fncWaitsRead s = .next s)
    ∧ (f ≠ 0 → s.vfAnswers f = true →
        (l.val + 1 = f.val → exec (.xltFqStatusRead ⟨f, l⟩) s = .next { fq with lastRead := fw % 2 ^ 64 })
        ∧ (s.pageQueue f (s.sq q).slot = some q.val → exec (.queSqStatusRead ⟨f, q⟩) s = .next { sq with lastRead := sw % 2 ^ 64 })
        ∧ (r = f → exec (.queEvStatusRead ⟨f, r⟩) s = .next { ev r with lastRead := ew % 2 ^ 64 }))
    ∧ (f ≠ 0 → (s.vfAnswers f = false ∨ l.val + 1 ≠ f.val → exec (.xltFqStatusRead ⟨f, l⟩) s = .next s)
        ∧ (s.vfAnswers f = false ∨ (s.sq q).func ≠ f.val → exec (.queSqStatusRead ⟨f, q⟩) s = .next s)
        ∧ (s.vfAnswers f = false ∨ r ≠ f → exec (.queEvStatusRead ⟨f, r⟩) s = .next s)))
  ∧ (∀ (s : State) (i : SetIx) (l : SlotIx) (f : FnIx) (p : PortIx) (key v : Nat) (lat : State), key = latKey (s.slot l).latUnit (s.slot l).latClass (s.slot l).latDir →
    v = SMap.get zeroD (s.slot l).lat key → lat = s.setSlot l { s.slot l with lat := SMap.set zeroD (s.slot l).lat key 0 } →
    (s.pfAnswers = true →
      exec (.setStatusRead i) s = .next { s.setSetting i { s.setting i with shIgnored := 0 } with lastRead := s.setStatusWord i }
      ∧ exec (.lktLatValRead ⟨0, l⟩) s = .next { lat with lastRead := v }
      ∧ exec (.trbPortFecRead p) s = .next { s.setPort p { s.port p with fecCorr := 0, fecUncorr := 0 } with
        lastRead := (s.port p).fecCorr + (s.port p).fecUncorr <<< 32 }
      ∧ exec (.trbPortLinkRead p) s = .next { s.setPort p { s.port p with lnkCrc := 0, lnkReplay := 0, lnkRetrain := 0, lnkBadpkt := 0 } with
        lastRead := (s.port p).lnkCrc + (s.port p).lnkReplay <<< 16 + (s.port p).lnkRetrain <<< 32 + (s.port p).lnkBadpkt <<< 48 }
      ∧ exec (.trbPortDropRead p) s = .next { s.setDyn p { s.dyn p with auth := 0, expired := 0, discard := 0, late := 0 } with
        lastRead := (s.dyn p).auth + (s.dyn p).expired <<< 16 + (s.dyn p).discard <<< 32 + (s.dyn p).late <<< 48 }
      ∧ ((s.dyn p).testBusy = false → exec (.trbPortTestRead p) s = .next { s.setDyn p { s.dyn p with testErrors := 0 } with
        lastRead := (s.dyn p).testResult <<< 2 + (s.dyn p).testErrors <<< 32 })
      ∧ ((s.dyn p).testBusy = true → ∃ u e, exec (.trbPortTestRead p) s = .next u ∧ (e = (s.dyn p).testErrors ∨ ∃ n, e = satAdd 32 (s.dyn p).testErrors n)
          ∧ u.lastRead = 2 + (s.dyn p).testResult <<< 2 + e <<< 32 ∧ (u.dyn p).testErrors = 0 ∧ (u.dyn p).testBusy = true
          ∧ u.port p = s.port p ∧ u.mem = s.mem ∧ u.cores = s.cores))
    ∧ (s.pfAnswers = false → exec (.setStatusRead i) s = .next s ∧ exec (.lktLatValRead ⟨0, l⟩) s = .next s ∧ exec (.trbPortFecRead p) s = .next s
        ∧ exec (.trbPortLinkRead p) s = .next s ∧ exec (.trbPortDropRead p) s = .next s ∧ exec (.trbPortTestRead p) s = .next s)
    ∧ (f ≠ 0 → (s.vfAnswers f = true → l.val + 1 = f.val → exec (.lktLatValRead ⟨f, l⟩) s = .next { lat with lastRead := v % 2 ^ 64 })
        ∧ (s.vfAnswers f = false ∨ l.val + 1 ≠ f.val → exec (.lktLatValRead ⟨f, l⟩) s = .next s)))

/-! ## Register writes (R22, R23, R309 to R311) -/

/-- R22, R23, R309, R310, R525, R526, R498, R564, R608: a write of a whole register by the PF takes what the register's code and range
allow and changes nothing else: budgets and temperatures out of range, RO registers, reserved blocks and words locked by TRB_CTL.LOCK
take no write; W1C bits clear where 1 is written; CAP_W and PEAK_W stay within their limits whatever is written, and an out-of-range
pair sets ERR 1. While the PF does not answer no write arrives; R311: nor does one of a VF that does not answer. R539: a target's own
port reaches the INT registers alone. -/
def Obligations.RegisterWritesTakeTheirCodes : Prop :=
  ∀ (s : State) (v : BitVec 64) (off : Nat) (f : FnIx) (size : Nat),
    (s.pfAnswers = true →
      (∀ b, b = v.toNat % 128 → exec (.registerWrite (.host 0) 0xB00010 8 v) s
        = .next (if 4 ≤ b ∧ b ≤ 96 then { s with pwr := { s.pwr with budget := b } } else s))
      ∧ (∀ b, b = v.toNat % 256 → exec (.registerWrite (.host 0) 0xB00018 8 v) s
        = .next (if 85 ≤ b ∧ b ≤ 100 then { s with pwr := { s.pwr with throttleC := b } } else s))
      ∧ (s.trb.lock = true → exec (.registerWrite (.host 0) 0xA00000 8 v) s = .next s)
      ∧ (s.trb.lock = false → ∃ u, exec (.registerWrite (.host 0) 0xA00000 8 v) s = .next u ∧ u.trb.idModule = v.toNat % 1024
          ∧ u.trb.parure = v.toNat / 2 ^ 32 ∧ u.trb.keys = s.trb.keys ∧ u.trb.lock = false ∧ u.mem = s.mem ∧ u.cores = s.cores)
      ∧ exec (.registerWrite (.host 0) 0x000008 8 v) s = .next s
      ∧ (0x700000 ≤ off → off < 0x800000 → off % 8 = 0 → exec (.registerWrite (.host 0) off 8 v) s = .next s)
      ∧ (v.getLsbD 0 = false → exec (.registerWrite (.host 0) 0xD00048 8 v) s
        = .next { s with test := { s.test with err := s.test.err && !v.getLsbD 2 } })
      ∧ (∃ u, exec (.registerWrite (.host 0) 0xD00010 8 v) s = .next u
          ∧ u.rst.queueMs = (if v.toNat % 2 ^ 16 = 0 ∨ 10 ≤ v.toNat % 2 ^ 16 then v.toNat % 2 ^ 16 else s.rst.queueMs))
      ∧ (s.coreDebug = false → exec (.registerWrite (.host 0) 0x600000 8 v) s = .next s)
      ∧ (s.limits → ∀ cap peak, cap = v.toNat % 1024 → peak = v.toNat / 2 ^ 16 % 1024 → v.getLsbD 32 = s.pwr.ageMode → v.getLsbD 63 = false →
          exec (.registerWrite (.host 0) 0xB00000 8 v) s = .next { s with pwr := { s.pwr with
            capW := (capPeak s.pwr cap peak).1, peakW := (capPeak s.pwr cap peak).2
            err := if 300 ≤ cap ∧ cap ≤ 750 ∧ cap ≤ peak ∧ peak ≤ 900 then s.pwr.err else 1 } }
          ∧ (300 ≤ cap → cap ≤ 750 → cap ≤ peak → peak ≤ 900 → capPeak s.pwr cap peak = (cap, peak))))
    ∧ (s.pfAnswers = false → exec (.registerWrite (.host 0) off size v) s = .next s)
    ∧ (f.val ≠ 0 → s.vfAnswers f = false → exec (.registerWrite (.host f) off size v) s = .next s)
    ∧ (0x3008 ≤ off → off % 8 = 0 → exec (.registerWrite .target off 8 v) s = .next s)

/-! ## Steps, reset and what every command keeps -/

/-- A step performs the command at the front of the queue on the state whose queue is the rest; on an empty queue the block idles
(notes/assumptions/2.md); no word of the table spells a command. -/
def Obligations.StepRunsTheFrontCommand : Prop :=
  ∀ (s : State) (c : Instr) (rest : List Instr) (nbits w : Nat),
    (s.pending = c :: rest → step s = exec c { s with pending := rest })
    ∧ (s.pending = [] → step s = .next s)
    ∧ s.withFetchWord nbits w = s

/-- R600, R601: reset leaves the queue empty, the memories and the invariant's bounds as they must be, and RESET_DONE at module level
with cause 0 held as the first record of the PF event ring. -/
def Obligations.ResetHasTheInvariant : Prop :=
  State.reset.pending = [] ∧ Memory.wf State.reset = true ∧ State.reset.nesting ∧ State.reset.limits ∧ State.reset.tables
  ∧ State.reset.que.held.head? = some resetDoneRecord ∧ resetDoneRecord.type = 0x0223 ∧ resetDoneRecord.object = 3
  ∧ State.reset.moduleFenced = false

/-- R525, R534, and the one form of memory: every step that answers a next state keeps every byte memory in its canonical form, at most
8 active sources on every interrupt target, 300 ≤ CAP_W ≤ 750 with CAP_W ≤ PEAK_W ≤ 900, and the tables of cores and of interrupt
sources in theirs. -/
def Obligations.EveryStepKeepsTheInvariant : Prop :=
  ∀ (s t : State), Memory.wf s = true → s.nesting → s.limits → s.tables → step s = .next t →
    Memory.wf t = true ∧ t.nesting ∧ t.limits ∧ t.tables

/-- No command touches the commands that wait behind it, and every command completes: exec answers a next state for every command in
every state. -/
def Obligations.CommandsLeaveTheQueue : Prop :=
  ∀ (c : Instr) (s : State), ∃ t, exec c s = .next t ∧ t.pending = s.pending
end

