-- ==== Sys2Proof/Laws/SMap.lean ====
section
/-! SUPPORT. Laws of sparse tables and byte memories: a read after a write at the same key gives the value written, a write leaves
every other key alone, and every operation keeps the canonical form. -/

namespace Sys2Proof

/-! ## Tables -/

theorem SMap.get_ins {α : Type} (d : Nat → α) (k : Nat) (v : α) (m : SMap α) (j : Nat) :
    SMap.get d (SMap.ins k v m) j = if j = k then v else SMap.get d m j := by
  induction m with
  | nil =>
    by_cases h : j = k
    · simp [SMap.ins, SMap.get, h]
    · have h' : ¬ k = j := fun x => h x.symm
      simp [SMap.ins, SMap.get, h, h']
  | cons e m ih =>
    obtain ⟨i, w⟩ := e
    simp only [SMap.ins]
    split
    · by_cases h : j = k
      · simp [SMap.get, h]
      · have h' : ¬ k = j := fun x => h x.symm
        simp [SMap.get, h, h']
    · split
      · next hki =>
        subst hki
        by_cases h : j = k
        · simp [SMap.get, h]
        · have h' : ¬ k = j := fun x => h x.symm
          simp [SMap.get, h, h']
      · by_cases h : i = j
        · subst h
          next hne => simp [SMap.get, Ne.symm hne]
        · simp [SMap.get, h, ih]

theorem SMap.get_del {α : Type} (d : Nat → α) (k : Nat) (m : SMap α) (j : Nat) :
    SMap.get d (SMap.del k m) j = if j = k then d j else SMap.get d m j := by
  induction m with
  | nil => simp [SMap.del, SMap.get]
  | cons e m ih =>
    obtain ⟨i, w⟩ := e
    by_cases hik : i = k
    · subst hik
      have : SMap.del i ((i, w) :: m) = SMap.del i m := by simp [SMap.del]
      rw [this, ih]
      by_cases h : j = i
      · simp [h]
      · have h' : ¬ i = j := fun x => h x.symm
        simp [SMap.get, h, h']
    · have : SMap.del k ((i, w) :: m) = (i, w) :: SMap.del k m := by simp [SMap.del, hik]
      rw [this]
      by_cases h : i = j
      · subst h; simp [SMap.get, hik]
      · simp [SMap.get, h, ih]

/-- What a write leaves at every key. -/
theorem SMap.get_set {α : Type} [DecidableEq α] (d : Nat → α) (m : SMap α) (k : Nat) (v : α) (j : Nat) :
    SMap.get d (SMap.set d m k v) j = if j = k then v else SMap.get d m j := by
  unfold SMap.set
  split
  · next h => rw [SMap.get_del]; by_cases hj : j = k <;> simp [hj, h]
  · rw [SMap.get_ins]

@[simp] theorem SMap.get_set_same {α : Type} [DecidableEq α] (d : Nat → α) (m : SMap α) (k : Nat) (v : α) :
    SMap.get d (SMap.set d m k v) k = v := by simp [SMap.get_set]

theorem SMap.get_set_other {α : Type} [DecidableEq α] (d : Nat → α) (m : SMap α) {k j : Nat} (v : α) (h : j ≠ k) :
    SMap.get d (SMap.set d m k v) j = SMap.get d m j := by simp [SMap.get_set, h]

/-! ## Canonical form -/

theorem SMap.mem_ins {α : Type} {k : Nat} {v : α} {m : SMap α} {e : Nat × α} (h : e ∈ SMap.ins k v m) : e = (k, v) ∨ e ∈ m := by
  induction m with
  | nil => simpa [SMap.ins] using h
  | cons f m ih =>
    obtain ⟨i, w⟩ := f
    simp only [SMap.ins] at h
    split at h
    · simpa using h
    · split at h
      · rcases List.mem_cons.1 h with h | h
        · exact .inl h
        · exact .inr (List.mem_cons_of_mem _ h)
      · rcases List.mem_cons.1 h with h | h
        · exact .inr (by simp [h])
        · rcases ih h with h | h
          · exact .inl h
          · exact .inr (List.mem_cons_of_mem _ h)

theorem SMap.sorted_ins {α : Type} (k : Nat) (v : α) (m : SMap α) (h : m.Pairwise (fun a b => a.1 < b.1)) :
    (SMap.ins k v m).Pairwise (fun a b => a.1 < b.1) := by
  induction m with
  | nil => simp [SMap.ins]
  | cons f m ih =>
    obtain ⟨i, w⟩ := f
    have hc := List.pairwise_cons.1 h
    simp only [SMap.ins]
    split
    · next hk =>
      refine List.pairwise_cons.2 ⟨?_, h⟩
      intro a ha
      rcases List.mem_cons.1 ha with ha | ha
      · subst ha; exact hk
      · exact Nat.lt_trans hk (hc.1 a ha)
    · split
      · next hk => subst hk; exact List.pairwise_cons.2 ⟨hc.1, hc.2⟩
      · next h1 h2 =>
        refine List.pairwise_cons.2 ⟨?_, ih hc.2⟩
        intro a ha
        rcases SMap.mem_ins ha with ha | ha
        · subst ha; exact Nat.lt_of_le_of_ne (Nat.le_of_not_lt h1) (fun e => h2 e.symm)
        · exact hc.1 a ha

theorem SMap.wf_iff {α : Type} [DecidableEq α] (d : Nat → α) (m : SMap α) :
    SMap.wf d m = true ↔ m.Pairwise (fun a b => a.1 < b.1) ∧ ∀ e ∈ m, e.2 ≠ d e.1 := by
  simp [SMap.wf]

theorem SMap.wf_filter {α : Type} [DecidableEq α] (d : Nat → α) (m : SMap α) (p : Nat × α → Bool) (h : SMap.wf d m = true) :
    SMap.wf d (m.filter p) = true := by
  rw [SMap.wf_iff] at *
  exact ⟨h.1.filter p, fun e he => h.2 e (List.mem_filter.1 he).1⟩

/-- Writing keeps the canonical form. -/
theorem SMap.wf_set {α : Type} [DecidableEq α] (d : Nat → α) (m : SMap α) (k : Nat) (v : α) (h : SMap.wf d m = true) :
    SMap.wf d (SMap.set d m k v) = true := by
  unfold SMap.set
  split
  · exact SMap.wf_filter d m _ h
  · next hv =>
    rw [SMap.wf_iff] at *
    refine ⟨SMap.sorted_ins k v m h.1, ?_⟩
    intro e he
    rcases SMap.mem_ins he with he | he
    · subst he; exact hv
    · exact h.2 e he

theorem SMap.wf_upd {α : Type} [DecidableEq α] (d : Nat → α) (m : SMap α) (k : Nat) (f : α → α) (h : SMap.wf d m = true) :
    SMap.wf d (SMap.upd d m k f) = true := SMap.wf_set d m k _ h

theorem SMap.wf_updAll {α : Type} [DecidableEq α] (d : Nat → α) (f : Nat → α → α) (ks : List Nat) (m : SMap α)
    (h : SMap.wf d m = true) : SMap.wf d (SMap.updAll d f ks m) = true := by
  induction ks generalizing m with
  | nil => exact h
  | cons k ks ih => exact ih _ (SMap.wf_upd d m k _ h)

@[simp] theorem SMap.wf_nil {α : Type} [DecidableEq α] (d : Nat → α) : SMap.wf d ([] : SMap α) = true := by simp [SMap.wf]

/-! ## Byte memories -/

theorem Cells.read_write (m : Cells) (a b : Nat) (v : BitVec 8) : (m.write a v).read b = if b = a then v else m.read b :=
  SMap.get_set zeroByte m a v b

@[simp] theorem Cells.read_write_same (m : Cells) (a : Nat) (v : BitVec 8) : (m.write a v).read a = v := by
  simp [Cells.read_write]

theorem Cells.wf_write (m : Cells) (a : Nat) (v : BitVec 8) (h : m.wf = true) : (m.write a v).wf = true :=
  SMap.wf_set zeroByte m a v h

theorem Cells.wf_writeN (bs : List (BitVec 8)) (m : Cells) (a : Nat) (h : m.wf = true) : (m.writeN a bs).wf = true := by
  induction bs generalizing m a with
  | nil => exact h
  | cons b bs ih => exact ih _ _ (Cells.wf_write m a b h)

theorem Cells.wf_clear (m : Cells) (a n : Nat) (h : m.wf = true) : (m.clear a n).wf = true := SMap.wf_filter zeroByte m _ h
theorem Cells.wf_only (m : Cells) (a n : Nat) (h : m.wf = true) : (m.only a n).wf = true := SMap.wf_filter zeroByte m _ h
@[simp] theorem Cells.wf_nil : Cells.wf [] = true := SMap.wf_nil zeroByte

/-- A write of several bytes changes no byte outside them. -/
theorem Cells.read_writeN_outside (bs : List (BitVec 8)) (m : Cells) (a x : Nat) (h : x < a ∨ a + bs.length ≤ x) :
    (m.writeN a bs).read x = m.read x := by
  induction bs generalizing m a with
  | nil => rfl
  | cons b bs ih =>
    have hx : x ≠ a := by simp at h; omega
    show ((m.write a b).writeN (a + 1) bs).read x = m.read x
    rw [ih _ _ (by simp at h; omega), Cells.read_write]
    simp [hx]

/-- The bytes written are the bytes read. -/
theorem Cells.readN_writeN (bs : List (BitVec 8)) (m : Cells) (a : Nat) : (m.writeN a bs).readN a bs.length = bs := by
  induction bs generalizing m a with
  | nil => rfl
  | cons b bs ih =>
    show ((m.write a b).writeN (a + 1) bs).read a :: ((m.write a b).writeN (a + 1) bs).readN (a + 1) bs.length = b :: bs
    rw [ih, Cells.read_writeN_outside bs _ (a + 1) a (.inl (by omega))]
    simp

end Sys2Proof
end

