-- ==== Sys2Proof/Laws/State.lean ====
section
/-! SUPPORT. Laws of the accessors: for each update of one unit, every field of the state that it leaves alone, the unit as read
after it, and the units of every other table. -/

namespace Sys2Proof.Machine

/-! ### setCore -/

@[simp] theorem State.setCore_mesh (s : State) (i : Nat) (x : Core) : (s.setCore i x).mesh = s.mesh := rfl
@[simp] theorem State.setCore_tasks (s : State) (i : Nat) (x : Core) : (s.setCore i x).tasks = s.tasks := rfl
@[simp] theorem State.setCore_mem (s : State) (i : Nat) (x : Core) : (s.setCore i x).mem = s.mem := rfl
@[simp] theorem State.setCore_pool (s : State) (i : Nat) (x : Core) : (s.setCore i x).pool = s.pool := rfl
@[simp] theorem State.setCore_xlt (s : State) (i : Nat) (x : Core) : (s.setCore i x).xlt = s.xlt := rfl
@[simp] theorem State.setCore_que (s : State) (i : Nat) (x : Core) : (s.setCore i x).que = s.que := rfl
@[simp] theorem State.setCore_fnc (s : State) (i : Nat) (x : Core) : (s.setCore i x).fnc = s.fnc := rfl
@[simp] theorem State.setCore_sets (s : State) (i : Nat) (x : Core) : (s.setCore i x).sets = s.sets := rfl
@[simp] theorem State.setCore_lkt (s : State) (i : Nat) (x : Core) : (s.setCore i x).lkt = s.lkt := rfl
@[simp] theorem State.setCore_trb (s : State) (i : Nat) (x : Core) : (s.setCore i x).trb = s.trb := rfl
@[simp] theorem State.setCore_pwr (s : State) (i : Nat) (x : Core) : (s.setCore i x).pwr = s.pwr := rfl
@[simp] theorem State.setCore_pdyn (s : State) (i : Nat) (x : Core) : (s.setCore i x).pdyn = s.pdyn := rfl
@[simp] theorem State.setCore_int (s : State) (i : Nat) (x : Core) : (s.setCore i x).int = s.int := rfl
@[simp] theorem State.setCore_rst (s : State) (i : Nat) (x : Core) : (s.setCore i x).rst = s.rst := rfl
@[simp] theorem State.setCore_test (s : State) (i : Nat) (x : Core) : (s.setCore i x).test = s.test := rfl
@[simp] theorem State.setCore_mgt (s : State) (i : Nat) (x : Core) : (s.setCore i x).mgt = s.mgt := rfl
@[simp] theorem State.setCore_mgt2 (s : State) (i : Nat) (x : Core) : (s.setCore i x).mgt2 = s.mgt2 := rfl
@[simp] theorem State.setCore_lastRead (s : State) (i : Nat) (x : Core) : (s.setCore i x).lastRead = s.lastRead := rfl
@[simp] theorem State.setCore_freeCtr (s : State) (i : Nat) (x : Core) : (s.setCore i x).freeCtr = s.freeCtr := rfl
@[simp] theorem State.setCore_nextId (s : State) (i : Nat) (x : Core) : (s.setCore i x).nextId = s.nextId := rfl
@[simp] theorem State.setCore_pending (s : State) (i : Nat) (x : Core) : (s.setCore i x).pending = s.pending := rfl
theorem State.core_setCore (s : State) (i : Nat) (x : Core) (j : Nat) : (s.setCore i x).core j = if j = i then x else s.core j :=
  SMap.get_set _ _ _ _ _
@[simp] theorem State.core_setCore_same (s : State) (i : Nat) (x : Core) : (s.setCore i x).core i = x := SMap.get_set_same _ _ _ _
theorem State.core_setCore_other (s : State) (i : Nat) (x : Core) (j : Nat) (h : j ≠ i) : (s.setCore i x).core j = s.core j :=
  SMap.get_set_other _ _ _ h
@[simp] theorem State.chan_setCore (s : State) (i : Nat) (x : Core) (j : Nat) : (s.setCore i x).chan j = s.chan j := rfl
@[simp] theorem State.ctx_setCore (s : State) (i : Nat) (x : Core) (j : Nat) : (s.setCore i x).ctx j = s.ctx j := rfl
@[simp] theorem State.fence_setCore (s : State) (i : Nat) (x : Core) (j : Nat) : (s.setCore i x).fence j = s.fence j := rfl
@[simp] theorem State.setting_setCore (s : State) (i : Nat) (x : Core) (j : Nat) : (s.setCore i x).setting j = s.setting j := rfl
@[simp] theorem State.slot_setCore (s : State) (i : Nat) (x : Core) (j : Nat) : (s.setCore i x).slot j = s.slot j := rfl
@[simp] theorem State.port_setCore (s : State) (i : Nat) (x : Core) (j : Nat) : (s.setCore i x).port j = s.port j := rfl
@[simp] theorem State.dyn_setCore (s : State) (i : Nat) (x : Core) (j : Nat) : (s.setCore i x).dyn j = s.dyn j := rfl
@[simp] theorem State.sq_setCore (s : State) (i : Nat) (x : Core) (j : Nat) : (s.setCore i x).sq j = s.sq j := rfl
@[simp] theorem State.cq_setCore (s : State) (i : Nat) (x : Core) (j : Nat) : (s.setCore i x).cq j = s.cq j := rfl
@[simp] theorem State.ev_setCore (s : State) (i : Nat) (x : Core) (j : Nat) : (s.setCore i x).ev j = s.ev j := rfl
@[simp] theorem State.fq_setCore (s : State) (i : Nat) (x : Core) (j : Nat) : (s.setCore i x).fq j = s.fq j := rfl
@[simp] theorem State.intSrc_setCore (s : State) (i : Nat) (x : Core) (j : Nat) : (s.setCore i x).intSrc j = s.intSrc j := rfl
@[simp] theorem State.intTgt_setCore (s : State) (i : Nat) (x : Core) (j : Nat) : (s.setCore i x).intTgt j = s.intTgt j := rfl
@[simp] theorem State.pcore_setCore (s : State) (i : Nat) (x : Core) (j : Nat) : (s.setCore i x).pcore j = s.pcore j := rfl
@[simp] theorem State.die_setCore (s : State) (i : Nat) (x : Core) (j : Nat) : (s.setCore i x).die j = s.die j := rfl
@[simp] theorem State.half_setCore (s : State) (i : Nat) (x : Core) (h : Nat) : (s.setCore i x).half h = s.half h := rfl

/-! ### setChan -/

@[simp] theorem State.setChan_mesh (s : State) (i : Nat) (x : Chan) : (s.setChan i x).mesh = s.mesh := rfl
@[simp] theorem State.setChan_cores (s : State) (i : Nat) (x : Chan) : (s.setChan i x).cores = s.cores := rfl
@[simp] theorem State.setChan_tasks (s : State) (i : Nat) (x : Chan) : (s.setChan i x).tasks = s.tasks := rfl
@[simp] theorem State.setChan_pool (s : State) (i : Nat) (x : Chan) : (s.setChan i x).pool = s.pool := rfl
@[simp] theorem State.setChan_xlt (s : State) (i : Nat) (x : Chan) : (s.setChan i x).xlt = s.xlt := rfl
@[simp] theorem State.setChan_que (s : State) (i : Nat) (x : Chan) : (s.setChan i x).que = s.que := rfl
@[simp] theorem State.setChan_fnc (s : State) (i : Nat) (x : Chan) : (s.setChan i x).fnc = s.fnc := rfl
@[simp] theorem State.setChan_sets (s : State) (i : Nat) (x : Chan) : (s.setChan i x).sets = s.sets := rfl
@[simp] theorem State.setChan_lkt (s : State) (i : Nat) (x : Chan) : (s.setChan i x).lkt = s.lkt := rfl
@[simp] theorem State.setChan_trb (s : State) (i : Nat) (x : Chan) : (s.setChan i x).trb = s.trb := rfl
@[simp] theorem State.setChan_pwr (s : State) (i : Nat) (x : Chan) : (s.setChan i x).pwr = s.pwr := rfl
@[simp] theorem State.setChan_pdyn (s : State) (i : Nat) (x : Chan) : (s.setChan i x).pdyn = s.pdyn := rfl
@[simp] theorem State.setChan_int (s : State) (i : Nat) (x : Chan) : (s.setChan i x).int = s.int := rfl
@[simp] theorem State.setChan_rst (s : State) (i : Nat) (x : Chan) : (s.setChan i x).rst = s.rst := rfl
@[simp] theorem State.setChan_test (s : State) (i : Nat) (x : Chan) : (s.setChan i x).test = s.test := rfl
@[simp] theorem State.setChan_mgt (s : State) (i : Nat) (x : Chan) : (s.setChan i x).mgt = s.mgt := rfl
@[simp] theorem State.setChan_mgt2 (s : State) (i : Nat) (x : Chan) : (s.setChan i x).mgt2 = s.mgt2 := rfl
@[simp] theorem State.setChan_lastRead (s : State) (i : Nat) (x : Chan) : (s.setChan i x).lastRead = s.lastRead := rfl
@[simp] theorem State.setChan_freeCtr (s : State) (i : Nat) (x : Chan) : (s.setChan i x).freeCtr = s.freeCtr := rfl
@[simp] theorem State.setChan_nextId (s : State) (i : Nat) (x : Chan) : (s.setChan i x).nextId = s.nextId := rfl
@[simp] theorem State.setChan_pending (s : State) (i : Nat) (x : Chan) : (s.setChan i x).pending = s.pending := rfl
theorem State.chan_setChan (s : State) (i : Nat) (x : Chan) (j : Nat) : (s.setChan i x).chan j = if j = i then x else s.chan j :=
  SMap.get_set _ _ _ _ _
@[simp] theorem State.chan_setChan_same (s : State) (i : Nat) (x : Chan) : (s.setChan i x).chan i = x := SMap.get_set_same _ _ _ _
theorem State.chan_setChan_other (s : State) (i : Nat) (x : Chan) (j : Nat) (h : j ≠ i) : (s.setChan i x).chan j = s.chan j :=
  SMap.get_set_other _ _ _ h
@[simp] theorem State.core_setChan (s : State) (i : Nat) (x : Chan) (j : Nat) : (s.setChan i x).core j = s.core j := rfl
@[simp] theorem State.ctx_setChan (s : State) (i : Nat) (x : Chan) (j : Nat) : (s.setChan i x).ctx j = s.ctx j := rfl
@[simp] theorem State.fence_setChan (s : State) (i : Nat) (x : Chan) (j : Nat) : (s.setChan i x).fence j = s.fence j := rfl
@[simp] theorem State.setting_setChan (s : State) (i : Nat) (x : Chan) (j : Nat) : (s.setChan i x).setting j = s.setting j := rfl
@[simp] theorem State.slot_setChan (s : State) (i : Nat) (x : Chan) (j : Nat) : (s.setChan i x).slot j = s.slot j := rfl
@[simp] theorem State.port_setChan (s : State) (i : Nat) (x : Chan) (j : Nat) : (s.setChan i x).port j = s.port j := rfl
@[simp] theorem State.dyn_setChan (s : State) (i : Nat) (x : Chan) (j : Nat) : (s.setChan i x).dyn j = s.dyn j := rfl
@[simp] theorem State.sq_setChan (s : State) (i : Nat) (x : Chan) (j : Nat) : (s.setChan i x).sq j = s.sq j := rfl
@[simp] theorem State.cq_setChan (s : State) (i : Nat) (x : Chan) (j : Nat) : (s.setChan i x).cq j = s.cq j := rfl
@[simp] theorem State.ev_setChan (s : State) (i : Nat) (x : Chan) (j : Nat) : (s.setChan i x).ev j = s.ev j := rfl
@[simp] theorem State.fq_setChan (s : State) (i : Nat) (x : Chan) (j : Nat) : (s.setChan i x).fq j = s.fq j := rfl
@[simp] theorem State.intSrc_setChan (s : State) (i : Nat) (x : Chan) (j : Nat) : (s.setChan i x).intSrc j = s.intSrc j := rfl
@[simp] theorem State.intTgt_setChan (s : State) (i : Nat) (x : Chan) (j : Nat) : (s.setChan i x).intTgt j = s.intTgt j := rfl
@[simp] theorem State.pcore_setChan (s : State) (i : Nat) (x : Chan) (j : Nat) : (s.setChan i x).pcore j = s.pcore j := rfl
@[simp] theorem State.die_setChan (s : State) (i : Nat) (x : Chan) (j : Nat) : (s.setChan i x).die j = s.die j := rfl
@[simp] theorem State.half_setChan (s : State) (i : Nat) (x : Chan) (h : Nat) : (s.setChan i x).half h = s.half h := rfl

/-! ### setCtx -/

@[simp] theorem State.setCtx_mesh (s : State) (i : Nat) (x : Ctx) : (s.setCtx i x).mesh = s.mesh := rfl
@[simp] theorem State.setCtx_cores (s : State) (i : Nat) (x : Ctx) : (s.setCtx i x).cores = s.cores := rfl
@[simp] theorem State.setCtx_tasks (s : State) (i : Nat) (x : Ctx) : (s.setCtx i x).tasks = s.tasks := rfl
@[simp] theorem State.setCtx_mem (s : State) (i : Nat) (x : Ctx) : (s.setCtx i x).mem = s.mem := rfl
@[simp] theorem State.setCtx_pool (s : State) (i : Nat) (x : Ctx) : (s.setCtx i x).pool = s.pool := rfl
@[simp] theorem State.setCtx_xlt (s : State) (i : Nat) (x : Ctx) : (s.setCtx i x).xlt = s.xlt := rfl
@[simp] theorem State.setCtx_que (s : State) (i : Nat) (x : Ctx) : (s.setCtx i x).que = s.que := rfl
@[simp] theorem State.setCtx_sets (s : State) (i : Nat) (x : Ctx) : (s.setCtx i x).sets = s.sets := rfl
@[simp] theorem State.setCtx_lkt (s : State) (i : Nat) (x : Ctx) : (s.setCtx i x).lkt = s.lkt := rfl
@[simp] theorem State.setCtx_trb (s : State) (i : Nat) (x : Ctx) : (s.setCtx i x).trb = s.trb := rfl
@[simp] theorem State.setCtx_pwr (s : State) (i : Nat) (x : Ctx) : (s.setCtx i x).pwr = s.pwr := rfl
@[simp] theorem State.setCtx_pdyn (s : State) (i : Nat) (x : Ctx) : (s.setCtx i x).pdyn = s.pdyn := rfl
@[simp] theorem State.setCtx_int (s : State) (i : Nat) (x : Ctx) : (s.setCtx i x).int = s.int := rfl
@[simp] theorem State.setCtx_rst (s : State) (i : Nat) (x : Ctx) : (s.setCtx i x).rst = s.rst := rfl
@[simp] theorem State.setCtx_test (s : State) (i : Nat) (x : Ctx) : (s.setCtx i x).test = s.test := rfl
@[simp] theorem State.setCtx_mgt (s : State) (i : Nat) (x : Ctx) : (s.setCtx i x).mgt = s.mgt := rfl
@[simp] theorem State.setCtx_mgt2 (s : State) (i : Nat) (x : Ctx) : (s.setCtx i x).mgt2 = s.mgt2 := rfl
@[simp] theorem State.setCtx_lastRead (s : State) (i : Nat) (x : Ctx) : (s.setCtx i x).lastRead = s.lastRead := rfl
@[simp] theorem State.setCtx_freeCtr (s : State) (i : Nat) (x : Ctx) : (s.setCtx i x).freeCtr = s.freeCtr := rfl
@[simp] theorem State.setCtx_nextId (s : State) (i : Nat) (x : Ctx) : (s.setCtx i x).nextId = s.nextId := rfl
@[simp] theorem State.setCtx_pending (s : State) (i : Nat) (x : Ctx) : (s.setCtx i x).pending = s.pending := rfl
theorem State.ctx_setCtx (s : State) (i : Nat) (x : Ctx) (j : Nat) : (s.setCtx i x).ctx j = if j = i then x else s.ctx j :=
  SMap.get_set _ _ _ _ _
@[simp] theorem State.ctx_setCtx_same (s : State) (i : Nat) (x : Ctx) : (s.setCtx i x).ctx i = x := SMap.get_set_same _ _ _ _
theorem State.ctx_setCtx_other (s : State) (i : Nat) (x : Ctx) (j : Nat) (h : j ≠ i) : (s.setCtx i x).ctx j = s.ctx j :=
  SMap.get_set_other _ _ _ h
@[simp] theorem State.core_setCtx (s : State) (i : Nat) (x : Ctx) (j : Nat) : (s.setCtx i x).core j = s.core j := rfl
@[simp] theorem State.chan_setCtx (s : State) (i : Nat) (x : Ctx) (j : Nat) : (s.setCtx i x).chan j = s.chan j := rfl
@[simp] theorem State.fence_setCtx (s : State) (i : Nat) (x : Ctx) (j : Nat) : (s.setCtx i x).fence j = s.fence j := rfl
@[simp] theorem State.setting_setCtx (s : State) (i : Nat) (x : Ctx) (j : Nat) : (s.setCtx i x).setting j = s.setting j := rfl
@[simp] theorem State.slot_setCtx (s : State) (i : Nat) (x : Ctx) (j : Nat) : (s.setCtx i x).slot j = s.slot j := rfl
@[simp] theorem State.port_setCtx (s : State) (i : Nat) (x : Ctx) (j : Nat) : (s.setCtx i x).port j = s.port j := rfl
@[simp] theorem State.dyn_setCtx (s : State) (i : Nat) (x : Ctx) (j : Nat) : (s.setCtx i x).dyn j = s.dyn j := rfl
@[simp] theorem State.sq_setCtx (s : State) (i : Nat) (x : Ctx) (j : Nat) : (s.setCtx i x).sq j = s.sq j := rfl
@[simp] theorem State.cq_setCtx (s : State) (i : Nat) (x : Ctx) (j : Nat) : (s.setCtx i x).cq j = s.cq j := rfl
@[simp] theorem State.ev_setCtx (s : State) (i : Nat) (x : Ctx) (j : Nat) : (s.setCtx i x).ev j = s.ev j := rfl
@[simp] theorem State.fq_setCtx (s : State) (i : Nat) (x : Ctx) (j : Nat) : (s.setCtx i x).fq j = s.fq j := rfl
@[simp] theorem State.intSrc_setCtx (s : State) (i : Nat) (x : Ctx) (j : Nat) : (s.setCtx i x).intSrc j = s.intSrc j := rfl
@[simp] theorem State.intTgt_setCtx (s : State) (i : Nat) (x : Ctx) (j : Nat) : (s.setCtx i x).intTgt j = s.intTgt j := rfl
@[simp] theorem State.pcore_setCtx (s : State) (i : Nat) (x : Ctx) (j : Nat) : (s.setCtx i x).pcore j = s.pcore j := rfl
@[simp] theorem State.die_setCtx (s : State) (i : Nat) (x : Ctx) (j : Nat) : (s.setCtx i x).die j = s.die j := rfl
@[simp] theorem State.half_setCtx (s : State) (i : Nat) (x : Ctx) (h : Nat) : (s.setCtx i x).half h = s.half h := rfl

/-! ### setFence -/

@[simp] theorem State.setFence_mesh (s : State) (i : Nat) (x : Fence) : (s.setFence i x).mesh = s.mesh := rfl
@[simp] theorem State.setFence_cores (s : State) (i : Nat) (x : Fence) : (s.setFence i x).cores = s.cores := rfl
@[simp] theorem State.setFence_tasks (s : State) (i : Nat) (x : Fence) : (s.setFence i x).tasks = s.tasks := rfl
@[simp] theorem State.setFence_mem (s : State) (i : Nat) (x : Fence) : (s.setFence i x).mem = s.mem := rfl
@[simp] theorem State.setFence_pool (s : State) (i : Nat) (x : Fence) : (s.setFence i x).pool = s.pool := rfl
@[simp] theorem State.setFence_xlt (s : State) (i : Nat) (x : Fence) : (s.setFence i x).xlt = s.xlt := rfl
@[simp] theorem State.setFence_que (s : State) (i : Nat) (x : Fence) : (s.setFence i x).que = s.que := rfl
@[simp] theorem State.setFence_sets (s : State) (i : Nat) (x : Fence) : (s.setFence i x).sets = s.sets := rfl
@[simp] theorem State.setFence_lkt (s : State) (i : Nat) (x : Fence) : (s.setFence i x).lkt = s.lkt := rfl
@[simp] theorem State.setFence_trb (s : State) (i : Nat) (x : Fence) : (s.setFence i x).trb = s.trb := rfl
@[simp] theorem State.setFence_pwr (s : State) (i : Nat) (x : Fence) : (s.setFence i x).pwr = s.pwr := rfl
@[simp] theorem State.setFence_pdyn (s : State) (i : Nat) (x : Fence) : (s.setFence i x).pdyn = s.pdyn := rfl
@[simp] theorem State.setFence_int (s : State) (i : Nat) (x : Fence) : (s.setFence i x).int = s.int := rfl
@[simp] theorem State.setFence_rst (s : State) (i : Nat) (x : Fence) : (s.setFence i x).rst = s.rst := rfl
@[simp] theorem State.setFence_test (s : State) (i : Nat) (x : Fence) : (s.setFence i x).test = s.test := rfl
@[simp] theorem State.setFence_mgt (s : State) (i : Nat) (x : Fence) : (s.setFence i x).mgt = s.mgt := rfl
@[simp] theorem State.setFence_mgt2 (s : State) (i : Nat) (x : Fence) : (s.setFence i x).mgt2 = s.mgt2 := rfl
@[simp] theorem State.setFence_lastRead (s : State) (i : Nat) (x : Fence) : (s.setFence i x).lastRead = s.lastRead := rfl
@[simp] theorem State.setFence_freeCtr (s : State) (i : Nat) (x : Fence) : (s.setFence i x).freeCtr = s.freeCtr := rfl
@[simp] theorem State.setFence_nextId (s : State) (i : Nat) (x : Fence) : (s.setFence i x).nextId = s.nextId := rfl
@[simp] theorem State.setFence_pending (s : State) (i : Nat) (x : Fence) : (s.setFence i x).pending = s.pending := rfl
theorem State.fence_setFence (s : State) (i : Nat) (x : Fence) (j : Nat) : (s.setFence i x).fence j = if j = i then x else s.fence j :=
  SMap.get_set _ _ _ _ _
@[simp] theorem State.fence_setFence_same (s : State) (i : Nat) (x : Fence) : (s.setFence i x).fence i = x := SMap.get_set_same _ _ _ _
theorem State.fence_setFence_other (s : State) (i : Nat) (x : Fence) (j : Nat) (h : j ≠ i) : (s.setFence i x).fence j = s.fence j :=
  SMap.get_set_other _ _ _ h
@[simp] theorem State.core_setFence (s : State) (i : Nat) (x : Fence) (j : Nat) : (s.setFence i x).core j = s.core j := rfl
@[simp] theorem State.chan_setFence (s : State) (i : Nat) (x : Fence) (j : Nat) : (s.setFence i x).chan j = s.chan j := rfl
@[simp] theorem State.ctx_setFence (s : State) (i : Nat) (x : Fence) (j : Nat) : (s.setFence i x).ctx j = s.ctx j := rfl
@[simp] theorem State.setting_setFence (s : State) (i : Nat) (x : Fence) (j : Nat) : (s.setFence i x).setting j = s.setting j := rfl
@[simp] theorem State.slot_setFence (s : State) (i : Nat) (x : Fence) (j : Nat) : (s.setFence i x).slot j = s.slot j := rfl
@[simp] theorem State.port_setFence (s : State) (i : Nat) (x : Fence) (j : Nat) : (s.setFence i x).port j = s.port j := rfl
@[simp] theorem State.dyn_setFence (s : State) (i : Nat) (x : Fence) (j : Nat) : (s.setFence i x).dyn j = s.dyn j := rfl
@[simp] theorem State.sq_setFence (s : State) (i : Nat) (x : Fence) (j : Nat) : (s.setFence i x).sq j = s.sq j := rfl
@[simp] theorem State.cq_setFence (s : State) (i : Nat) (x : Fence) (j : Nat) : (s.setFence i x).cq j = s.cq j := rfl
@[simp] theorem State.ev_setFence (s : State) (i : Nat) (x : Fence) (j : Nat) : (s.setFence i x).ev j = s.ev j := rfl
@[simp] theorem State.fq_setFence (s : State) (i : Nat) (x : Fence) (j : Nat) : (s.setFence i x).fq j = s.fq j := rfl
@[simp] theorem State.intSrc_setFence (s : State) (i : Nat) (x : Fence) (j : Nat) : (s.setFence i x).intSrc j = s.intSrc j := rfl
@[simp] theorem State.intTgt_setFence (s : State) (i : Nat) (x : Fence) (j : Nat) : (s.setFence i x).intTgt j = s.intTgt j := rfl
@[simp] theorem State.pcore_setFence (s : State) (i : Nat) (x : Fence) (j : Nat) : (s.setFence i x).pcore j = s.pcore j := rfl
@[simp] theorem State.die_setFence (s : State) (i : Nat) (x : Fence) (j : Nat) : (s.setFence i x).die j = s.die j := rfl
@[simp] theorem State.half_setFence (s : State) (i : Nat) (x : Fence) (h : Nat) : (s.setFence i x).half h = s.half h := rfl

/-! ### setSetting -/

@[simp] theorem State.setSetting_mesh (s : State) (i : Nat) (x : Setting) : (s.setSetting i x).mesh = s.mesh := rfl
@[simp] theorem State.setSetting_cores (s : State) (i : Nat) (x : Setting) : (s.setSetting i x).cores = s.cores := rfl
@[simp] theorem State.setSetting_tasks (s : State) (i : Nat) (x : Setting) : (s.setSetting i x).tasks = s.tasks := rfl
@[simp] theorem State.setSetting_mem (s : State) (i : Nat) (x : Setting) : (s.setSetting i x).mem = s.mem := rfl
@[simp] theorem State.setSetting_pool (s : State) (i : Nat) (x : Setting) : (s.setSetting i x).pool = s.pool := rfl
@[simp] theorem State.setSetting_xlt (s : State) (i : Nat) (x : Setting) : (s.setSetting i x).xlt = s.xlt := rfl
@[simp] theorem State.setSetting_que (s : State) (i : Nat) (x : Setting) : (s.setSetting i x).que = s.que := rfl
@[simp] theorem State.setSetting_fnc (s : State) (i : Nat) (x : Setting) : (s.setSetting i x).fnc = s.fnc := rfl
@[simp] theorem State.setSetting_lkt (s : State) (i : Nat) (x : Setting) : (s.setSetting i x).lkt = s.lkt := rfl
@[simp] theorem State.setSetting_trb (s : State) (i : Nat) (x : Setting) : (s.setSetting i x).trb = s.trb := rfl
@[simp] theorem State.setSetting_pwr (s : State) (i : Nat) (x : Setting) : (s.setSetting i x).pwr = s.pwr := rfl
@[simp] theorem State.setSetting_pdyn (s : State) (i : Nat) (x : Setting) : (s.setSetting i x).pdyn = s.pdyn := rfl
@[simp] theorem State.setSetting_int (s : State) (i : Nat) (x : Setting) : (s.setSetting i x).int = s.int := rfl
@[simp] theorem State.setSetting_rst (s : State) (i : Nat) (x : Setting) : (s.setSetting i x).rst = s.rst := rfl
@[simp] theorem State.setSetting_test (s : State) (i : Nat) (x : Setting) : (s.setSetting i x).test = s.test := rfl
@[simp] theorem State.setSetting_mgt (s : State) (i : Nat) (x : Setting) : (s.setSetting i x).mgt = s.mgt := rfl
@[simp] theorem State.setSetting_mgt2 (s : State) (i : Nat) (x : Setting) : (s.setSetting i x).mgt2 = s.mgt2 := rfl
@[simp] theorem State.setSetting_lastRead (s : State) (i : Nat) (x : Setting) : (s.setSetting i x).lastRead = s.lastRead := rfl
@[simp] theorem State.setSetting_freeCtr (s : State) (i : Nat) (x : Setting) : (s.setSetting i x).freeCtr = s.freeCtr := rfl
@[simp] theorem State.setSetting_nextId (s : State) (i : Nat) (x : Setting) : (s.setSetting i x).nextId = s.nextId := rfl
@[simp] theorem State.setSetting_pending (s : State) (i : Nat) (x : Setting) : (s.setSetting i x).pending = s.pending := rfl
theorem State.setting_setSetting (s : State) (i : Nat) (x : Setting) (j : Nat) : (s.setSetting i x).setting j = if j = i then x else s.setting j :=
  SMap.get_set _ _ _ _ _
@[simp] theorem State.setting_setSetting_same (s : State) (i : Nat) (x : Setting) : (s.setSetting i x).setting i = x := SMap.get_set_same _ _ _ _
theorem State.setting_setSetting_other (s : State) (i : Nat) (x : Setting) (j : Nat) (h : j ≠ i) : (s.setSetting i x).setting j = s.setting j :=
  SMap.get_set_other _ _ _ h
@[simp] theorem State.core_setSetting (s : State) (i : Nat) (x : Setting) (j : Nat) : (s.setSetting i x).core j = s.core j := rfl
@[simp] theorem State.chan_setSetting (s : State) (i : Nat) (x : Setting) (j : Nat) : (s.setSetting i x).chan j = s.chan j := rfl
@[simp] theorem State.ctx_setSetting (s : State) (i : Nat) (x : Setting) (j : Nat) : (s.setSetting i x).ctx j = s.ctx j := rfl
@[simp] theorem State.fence_setSetting (s : State) (i : Nat) (x : Setting) (j : Nat) : (s.setSetting i x).fence j = s.fence j := rfl
@[simp] theorem State.slot_setSetting (s : State) (i : Nat) (x : Setting) (j : Nat) : (s.setSetting i x).slot j = s.slot j := rfl
@[simp] theorem State.port_setSetting (s : State) (i : Nat) (x : Setting) (j : Nat) : (s.setSetting i x).port j = s.port j := rfl
@[simp] theorem State.dyn_setSetting (s : State) (i : Nat) (x : Setting) (j : Nat) : (s.setSetting i x).dyn j = s.dyn j := rfl
@[simp] theorem State.sq_setSetting (s : State) (i : Nat) (x : Setting) (j : Nat) : (s.setSetting i x).sq j = s.sq j := rfl
@[simp] theorem State.cq_setSetting (s : State) (i : Nat) (x : Setting) (j : Nat) : (s.setSetting i x).cq j = s.cq j := rfl
@[simp] theorem State.ev_setSetting (s : State) (i : Nat) (x : Setting) (j : Nat) : (s.setSetting i x).ev j = s.ev j := rfl
@[simp] theorem State.fq_setSetting (s : State) (i : Nat) (x : Setting) (j : Nat) : (s.setSetting i x).fq j = s.fq j := rfl
@[simp] theorem State.intSrc_setSetting (s : State) (i : Nat) (x : Setting) (j : Nat) : (s.setSetting i x).intSrc j = s.intSrc j := rfl
@[simp] theorem State.intTgt_setSetting (s : State) (i : Nat) (x : Setting) (j : Nat) : (s.setSetting i x).intTgt j = s.intTgt j := rfl
@[simp] theorem State.pcore_setSetting (s : State) (i : Nat) (x : Setting) (j : Nat) : (s.setSetting i x).pcore j = s.pcore j := rfl
@[simp] theorem State.die_setSetting (s : State) (i : Nat) (x : Setting) (j : Nat) : (s.setSetting i x).die j = s.die j := rfl
@[simp] theorem State.half_setSetting (s : State) (i : Nat) (x : Setting) (h : Nat) : (s.setSetting i x).half h = s.half h := rfl

/-! ### setSlot -/

@[simp] theorem State.setSlot_mesh (s : State) (i : Nat) (x : Slot) : (s.setSlot i x).mesh = s.mesh := rfl
@[simp] theorem State.setSlot_cores (s : State) (i : Nat) (x : Slot) : (s.setSlot i x).cores = s.cores := rfl
@[simp] theorem State.setSlot_tasks (s : State) (i : Nat) (x : Slot) : (s.setSlot i x).tasks = s.tasks := rfl
@[simp] theorem State.setSlot_mem (s : State) (i : Nat) (x : Slot) : (s.setSlot i x).mem = s.mem := rfl
@[simp] theorem State.setSlot_pool (s : State) (i : Nat) (x : Slot) : (s.setSlot i x).pool = s.pool := rfl
@[simp] theorem State.setSlot_xlt (s : State) (i : Nat) (x : Slot) : (s.setSlot i x).xlt = s.xlt := rfl
@[simp] theorem State.setSlot_que (s : State) (i : Nat) (x : Slot) : (s.setSlot i x).que = s.que := rfl
@[simp] theorem State.setSlot_fnc (s : State) (i : Nat) (x : Slot) : (s.setSlot i x).fnc = s.fnc := rfl
@[simp] theorem State.setSlot_sets (s : State) (i : Nat) (x : Slot) : (s.setSlot i x).sets = s.sets := rfl
@[simp] theorem State.setSlot_trb (s : State) (i : Nat) (x : Slot) : (s.setSlot i x).trb = s.trb := rfl
@[simp] theorem State.setSlot_pwr (s : State) (i : Nat) (x : Slot) : (s.setSlot i x).pwr = s.pwr := rfl
@[simp] theorem State.setSlot_pdyn (s : State) (i : Nat) (x : Slot) : (s.setSlot i x).pdyn = s.pdyn := rfl
@[simp] theorem State.setSlot_int (s : State) (i : Nat) (x : Slot) : (s.setSlot i x).int = s.int := rfl
@[simp] theorem State.setSlot_rst (s : State) (i : Nat) (x : Slot) : (s.setSlot i x).rst = s.rst := rfl
@[simp] theorem State.setSlot_test (s : State) (i : Nat) (x : Slot) : (s.setSlot i x).test = s.test := rfl
@[simp] theorem State.setSlot_mgt (s : State) (i : Nat) (x : Slot) : (s.setSlot i x).mgt = s.mgt := rfl
@[simp] theorem State.setSlot_mgt2 (s : State) (i : Nat) (x : Slot) : (s.setSlot i x).mgt2 = s.mgt2 := rfl
@[simp] theorem State.setSlot_lastRead (s : State) (i : Nat) (x : Slot) : (s.setSlot i x).lastRead = s.lastRead := rfl
@[simp] theorem State.setSlot_freeCtr (s : State) (i : Nat) (x : Slot) : (s.setSlot i x).freeCtr = s.freeCtr := rfl
@[simp] theorem State.setSlot_nextId (s : State) (i : Nat) (x : Slot) : (s.setSlot i x).nextId = s.nextId := rfl
@[simp] theorem State.setSlot_pending (s : State) (i : Nat) (x : Slot) : (s.setSlot i x).pending = s.pending := rfl
theorem State.slot_setSlot (s : State) (i : Nat) (x : Slot) (j : Nat) : (s.setSlot i x).slot j = if j = i then x else s.slot j :=
  SMap.get_set _ _ _ _ _
@[simp] theorem State.slot_setSlot_same (s : State) (i : Nat) (x : Slot) : (s.setSlot i x).slot i = x := SMap.get_set_same _ _ _ _
theorem State.slot_setSlot_other (s : State) (i : Nat) (x : Slot) (j : Nat) (h : j ≠ i) : (s.setSlot i x).slot j = s.slot j :=
  SMap.get_set_other _ _ _ h
@[simp] theorem State.core_setSlot (s : State) (i : Nat) (x : Slot) (j : Nat) : (s.setSlot i x).core j = s.core j := rfl
@[simp] theorem State.chan_setSlot (s : State) (i : Nat) (x : Slot) (j : Nat) : (s.setSlot i x).chan j = s.chan j := rfl
@[simp] theorem State.ctx_setSlot (s : State) (i : Nat) (x : Slot) (j : Nat) : (s.setSlot i x).ctx j = s.ctx j := rfl
@[simp] theorem State.fence_setSlot (s : State) (i : Nat) (x : Slot) (j : Nat) : (s.setSlot i x).fence j = s.fence j := rfl
@[simp] theorem State.setting_setSlot (s : State) (i : Nat) (x : Slot) (j : Nat) : (s.setSlot i x).setting j = s.setting j := rfl
@[simp] theorem State.port_setSlot (s : State) (i : Nat) (x : Slot) (j : Nat) : (s.setSlot i x).port j = s.port j := rfl
@[simp] theorem State.dyn_setSlot (s : State) (i : Nat) (x : Slot) (j : Nat) : (s.setSlot i x).dyn j = s.dyn j := rfl
@[simp] theorem State.sq_setSlot (s : State) (i : Nat) (x : Slot) (j : Nat) : (s.setSlot i x).sq j = s.sq j := rfl
@[simp] theorem State.cq_setSlot (s : State) (i : Nat) (x : Slot) (j : Nat) : (s.setSlot i x).cq j = s.cq j := rfl
@[simp] theorem State.ev_setSlot (s : State) (i : Nat) (x : Slot) (j : Nat) : (s.setSlot i x).ev j = s.ev j := rfl
@[simp] theorem State.fq_setSlot (s : State) (i : Nat) (x : Slot) (j : Nat) : (s.setSlot i x).fq j = s.fq j := rfl
@[simp] theorem State.intSrc_setSlot (s : State) (i : Nat) (x : Slot) (j : Nat) : (s.setSlot i x).intSrc j = s.intSrc j := rfl
@[simp] theorem State.intTgt_setSlot (s : State) (i : Nat) (x : Slot) (j : Nat) : (s.setSlot i x).intTgt j = s.intTgt j := rfl
@[simp] theorem State.pcore_setSlot (s : State) (i : Nat) (x : Slot) (j : Nat) : (s.setSlot i x).pcore j = s.pcore j := rfl
@[simp] theorem State.die_setSlot (s : State) (i : Nat) (x : Slot) (j : Nat) : (s.setSlot i x).die j = s.die j := rfl
@[simp] theorem State.half_setSlot (s : State) (i : Nat) (x : Slot) (h : Nat) : (s.setSlot i x).half h = s.half h := rfl

/-! ### setPort -/

@[simp] theorem State.setPort_mesh (s : State) (i : Nat) (x : Port) : (s.setPort i x).mesh = s.mesh := rfl
@[simp] theorem State.setPort_cores (s : State) (i : Nat) (x : Port) : (s.setPort i x).cores = s.cores := rfl
@[simp] theorem State.setPort_tasks (s : State) (i : Nat) (x : Port) : (s.setPort i x).tasks = s.tasks := rfl
@[simp] theorem State.setPort_mem (s : State) (i : Nat) (x : Port) : (s.setPort i x).mem = s.mem := rfl
@[simp] theorem State.setPort_pool (s : State) (i : Nat) (x : Port) : (s.setPort i x).pool = s.pool := rfl
@[simp] theorem State.setPort_xlt (s : State) (i : Nat) (x : Port) : (s.setPort i x).xlt = s.xlt := rfl
@[simp] theorem State.setPort_que (s : State) (i : Nat) (x : Port) : (s.setPort i x).que = s.que := rfl
@[simp] theorem State.setPort_fnc (s : State) (i : Nat) (x : Port) : (s.setPort i x).fnc = s.fnc := rfl
@[simp] theorem State.setPort_sets (s : State) (i : Nat) (x : Port) : (s.setPort i x).sets = s.sets := rfl
@[simp] theorem State.setPort_lkt (s : State) (i : Nat) (x : Port) : (s.setPort i x).lkt = s.lkt := rfl
@[simp] theorem State.setPort_pwr (s : State) (i : Nat) (x : Port) : (s.setPort i x).pwr = s.pwr := rfl
@[simp] theorem State.setPort_pdyn (s : State) (i : Nat) (x : Port) : (s.setPort i x).pdyn = s.pdyn := rfl
@[simp] theorem State.setPort_int (s : State) (i : Nat) (x : Port) : (s.setPort i x).int = s.int := rfl
@[simp] theorem State.setPort_rst (s : State) (i : Nat) (x : Port) : (s.setPort i x).rst = s.rst := rfl
@[simp] theorem State.setPort_test (s : State) (i : Nat) (x : Port) : (s.setPort i x).test = s.test := rfl
@[simp] theorem State.setPort_mgt (s : State) (i : Nat) (x : Port) : (s.setPort i x).mgt = s.mgt := rfl
@[simp] theorem State.setPort_mgt2 (s : State) (i : Nat) (x : Port) : (s.setPort i x).mgt2 = s.mgt2 := rfl
@[simp] theorem State.setPort_lastRead (s : State) (i : Nat) (x : Port) : (s.setPort i x).lastRead = s.lastRead := rfl
@[simp] theorem State.setPort_freeCtr (s : State) (i : Nat) (x : Port) : (s.setPort i x).freeCtr = s.freeCtr := rfl
@[simp] theorem State.setPort_nextId (s : State) (i : Nat) (x : Port) : (s.setPort i x).nextId = s.nextId := rfl
@[simp] theorem State.setPort_pending (s : State) (i : Nat) (x : Port) : (s.setPort i x).pending = s.pending := rfl
theorem State.port_setPort (s : State) (i : Nat) (x : Port) (j : Nat) : (s.setPort i x).port j = if j = i then x else s.port j :=
  SMap.get_set _ _ _ _ _
@[simp] theorem State.port_setPort_same (s : State) (i : Nat) (x : Port) : (s.setPort i x).port i = x := SMap.get_set_same _ _ _ _
theorem State.port_setPort_other (s : State) (i : Nat) (x : Port) (j : Nat) (h : j ≠ i) : (s.setPort i x).port j = s.port j :=
  SMap.get_set_other _ _ _ h
@[simp] theorem State.core_setPort (s : State) (i : Nat) (x : Port) (j : Nat) : (s.setPort i x).core j = s.core j := rfl
@[simp] theorem State.chan_setPort (s : State) (i : Nat) (x : Port) (j : Nat) : (s.setPort i x).chan j = s.chan j := rfl
@[simp] theorem State.ctx_setPort (s : State) (i : Nat) (x : Port) (j : Nat) : (s.setPort i x).ctx j = s.ctx j := rfl
@[simp] theorem State.fence_setPort (s : State) (i : Nat) (x : Port) (j : Nat) : (s.setPort i x).fence j = s.fence j := rfl
@[simp] theorem State.setting_setPort (s : State) (i : Nat) (x : Port) (j : Nat) : (s.setPort i x).setting j = s.setting j := rfl
@[simp] theorem State.slot_setPort (s : State) (i : Nat) (x : Port) (j : Nat) : (s.setPort i x).slot j = s.slot j := rfl
@[simp] theorem State.dyn_setPort (s : State) (i : Nat) (x : Port) (j : Nat) : (s.setPort i x).dyn j = s.dyn j := rfl
@[simp] theorem State.sq_setPort (s : State) (i : Nat) (x : Port) (j : Nat) : (s.setPort i x).sq j = s.sq j := rfl
@[simp] theorem State.cq_setPort (s : State) (i : Nat) (x : Port) (j : Nat) : (s.setPort i x).cq j = s.cq j := rfl
@[simp] theorem State.ev_setPort (s : State) (i : Nat) (x : Port) (j : Nat) : (s.setPort i x).ev j = s.ev j := rfl
@[simp] theorem State.fq_setPort (s : State) (i : Nat) (x : Port) (j : Nat) : (s.setPort i x).fq j = s.fq j := rfl
@[simp] theorem State.intSrc_setPort (s : State) (i : Nat) (x : Port) (j : Nat) : (s.setPort i x).intSrc j = s.intSrc j := rfl
@[simp] theorem State.intTgt_setPort (s : State) (i : Nat) (x : Port) (j : Nat) : (s.setPort i x).intTgt j = s.intTgt j := rfl
@[simp] theorem State.pcore_setPort (s : State) (i : Nat) (x : Port) (j : Nat) : (s.setPort i x).pcore j = s.pcore j := rfl
@[simp] theorem State.die_setPort (s : State) (i : Nat) (x : Port) (j : Nat) : (s.setPort i x).die j = s.die j := rfl
@[simp] theorem State.half_setPort (s : State) (i : Nat) (x : Port) (h : Nat) : (s.setPort i x).half h = s.half h := rfl

/-! ### setDyn -/

@[simp] theorem State.setDyn_mesh (s : State) (i : Nat) (x : PortDyn) : (s.setDyn i x).mesh = s.mesh := rfl
@[simp] theorem State.setDyn_cores (s : State) (i : Nat) (x : PortDyn) : (s.setDyn i x).cores = s.cores := rfl
@[simp] theorem State.setDyn_tasks (s : State) (i : Nat) (x : PortDyn) : (s.setDyn i x).tasks = s.tasks := rfl
@[simp] theorem State.setDyn_mem (s : State) (i : Nat) (x : PortDyn) : (s.setDyn i x).mem = s.mem := rfl
@[simp] theorem State.setDyn_pool (s : State) (i : Nat) (x : PortDyn) : (s.setDyn i x).pool = s.pool := rfl
@[simp] theorem State.setDyn_xlt (s : State) (i : Nat) (x : PortDyn) : (s.setDyn i x).xlt = s.xlt := rfl
@[simp] theorem State.setDyn_que (s : State) (i : Nat) (x : PortDyn) : (s.setDyn i x).que = s.que := rfl
@[simp] theorem State.setDyn_fnc (s : State) (i : Nat) (x : PortDyn) : (s.setDyn i x).fnc = s.fnc := rfl
@[simp] theorem State.setDyn_sets (s : State) (i : Nat) (x : PortDyn) : (s.setDyn i x).sets = s.sets := rfl
@[simp] theorem State.setDyn_lkt (s : State) (i : Nat) (x : PortDyn) : (s.setDyn i x).lkt = s.lkt := rfl
@[simp] theorem State.setDyn_pwr (s : State) (i : Nat) (x : PortDyn) : (s.setDyn i x).pwr = s.pwr := rfl
@[simp] theorem State.setDyn_pdyn (s : State) (i : Nat) (x : PortDyn) : (s.setDyn i x).pdyn = s.pdyn := rfl
@[simp] theorem State.setDyn_int (s : State) (i : Nat) (x : PortDyn) : (s.setDyn i x).int = s.int := rfl
@[simp] theorem State.setDyn_rst (s : State) (i : Nat) (x : PortDyn) : (s.setDyn i x).rst = s.rst := rfl
@[simp] theorem State.setDyn_test (s : State) (i : Nat) (x : PortDyn) : (s.setDyn i x).test = s.test := rfl
@[simp] theorem State.setDyn_mgt (s : State) (i : Nat) (x : PortDyn) : (s.setDyn i x).mgt = s.mgt := rfl
@[simp] theorem State.setDyn_mgt2 (s : State) (i : Nat) (x : PortDyn) : (s.setDyn i x).mgt2 = s.mgt2 := rfl
@[simp] theorem State.setDyn_lastRead (s : State) (i : Nat) (x : PortDyn) : (s.setDyn i x).lastRead = s.lastRead := rfl
@[simp] theorem State.setDyn_freeCtr (s : State) (i : Nat) (x : PortDyn) : (s.setDyn i x).freeCtr = s.freeCtr := rfl
@[simp] theorem State.setDyn_nextId (s : State) (i : Nat) (x : PortDyn) : (s.setDyn i x).nextId = s.nextId := rfl
@[simp] theorem State.setDyn_pending (s : State) (i : Nat) (x : PortDyn) : (s.setDyn i x).pending = s.pending := rfl
theorem State.dyn_setDyn (s : State) (i : Nat) (x : PortDyn) (j : Nat) : (s.setDyn i x).dyn j = if j = i then x else s.dyn j :=
  SMap.get_set _ _ _ _ _
@[simp] theorem State.dyn_setDyn_same (s : State) (i : Nat) (x : PortDyn) : (s.setDyn i x).dyn i = x := SMap.get_set_same _ _ _ _
theorem State.dyn_setDyn_other (s : State) (i : Nat) (x : PortDyn) (j : Nat) (h : j ≠ i) : (s.setDyn i x).dyn j = s.dyn j :=
  SMap.get_set_other _ _ _ h
@[simp] theorem State.core_setDyn (s : State) (i : Nat) (x : PortDyn) (j : Nat) : (s.setDyn i x).core j = s.core j := rfl
@[simp] theorem State.chan_setDyn (s : State) (i : Nat) (x : PortDyn) (j : Nat) : (s.setDyn i x).chan j = s.chan j := rfl
@[simp] theorem State.ctx_setDyn (s : State) (i : Nat) (x : PortDyn) (j : Nat) : (s.setDyn i x).ctx j = s.ctx j := rfl
@[simp] theorem State.fence_setDyn (s : State) (i : Nat) (x : PortDyn) (j : Nat) : (s.setDyn i x).fence j = s.fence j := rfl
@[simp] theorem State.setting_setDyn (s : State) (i : Nat) (x : PortDyn) (j : Nat) : (s.setDyn i x).setting j = s.setting j := rfl
@[simp] theorem State.slot_setDyn (s : State) (i : Nat) (x : PortDyn) (j : Nat) : (s.setDyn i x).slot j = s.slot j := rfl
@[simp] theorem State.port_setDyn (s : State) (i : Nat) (x : PortDyn) (j : Nat) : (s.setDyn i x).port j = s.port j := rfl
@[simp] theorem State.sq_setDyn (s : State) (i : Nat) (x : PortDyn) (j : Nat) : (s.setDyn i x).sq j = s.sq j := rfl
@[simp] theorem State.cq_setDyn (s : State) (i : Nat) (x : PortDyn) (j : Nat) : (s.setDyn i x).cq j = s.cq j := rfl
@[simp] theorem State.ev_setDyn (s : State) (i : Nat) (x : PortDyn) (j : Nat) : (s.setDyn i x).ev j = s.ev j := rfl
@[simp] theorem State.fq_setDyn (s : State) (i : Nat) (x : PortDyn) (j : Nat) : (s.setDyn i x).fq j = s.fq j := rfl
@[simp] theorem State.intSrc_setDyn (s : State) (i : Nat) (x : PortDyn) (j : Nat) : (s.setDyn i x).intSrc j = s.intSrc j := rfl
@[simp] theorem State.intTgt_setDyn (s : State) (i : Nat) (x : PortDyn) (j : Nat) : (s.setDyn i x).intTgt j = s.intTgt j := rfl
@[simp] theorem State.pcore_setDyn (s : State) (i : Nat) (x : PortDyn) (j : Nat) : (s.setDyn i x).pcore j = s.pcore j := rfl
@[simp] theorem State.die_setDyn (s : State) (i : Nat) (x : PortDyn) (j : Nat) : (s.setDyn i x).die j = s.die j := rfl
@[simp] theorem State.half_setDyn (s : State) (i : Nat) (x : PortDyn) (h : Nat) : (s.setDyn i x).half h = s.half h := rfl

/-! ### setSq -/

@[simp] theorem State.setSq_mesh (s : State) (i : Nat) (x : Sq) : (s.setSq i x).mesh = s.mesh := rfl
@[simp] theorem State.setSq_cores (s : State) (i : Nat) (x : Sq) : (s.setSq i x).cores = s.cores := rfl
@[simp] theorem State.setSq_tasks (s : State) (i : Nat) (x : Sq) : (s.setSq i x).tasks = s.tasks := rfl
@[simp] theorem State.setSq_mem (s : State) (i : Nat) (x : Sq) : (s.setSq i x).mem = s.mem := rfl
@[simp] theorem State.setSq_pool (s : State) (i : Nat) (x : Sq) : (s.setSq i x).pool = s.pool := rfl
@[simp] theorem State.setSq_xlt (s : State) (i : Nat) (x : Sq) : (s.setSq i x).xlt = s.xlt := rfl
@[simp] theorem State.setSq_fnc (s : State) (i : Nat) (x : Sq) : (s.setSq i x).fnc = s.fnc := rfl
@[simp] theorem State.setSq_sets (s : State) (i : Nat) (x : Sq) : (s.setSq i x).sets = s.sets := rfl
@[simp] theorem State.setSq_lkt (s : State) (i : Nat) (x : Sq) : (s.setSq i x).lkt = s.lkt := rfl
@[simp] theorem State.setSq_trb (s : State) (i : Nat) (x : Sq) : (s.setSq i x).trb = s.trb := rfl
@[simp] theorem State.setSq_pwr (s : State) (i : Nat) (x : Sq) : (s.setSq i x).pwr = s.pwr := rfl
@[simp] theorem State.setSq_pdyn (s : State) (i : Nat) (x : Sq) : (s.setSq i x).pdyn = s.pdyn := rfl
@[simp] theorem State.setSq_int (s : State) (i : Nat) (x : Sq) : (s.setSq i x).int = s.int := rfl
@[simp] theorem State.setSq_rst (s : State) (i : Nat) (x : Sq) : (s.setSq i x).rst = s.rst := rfl
@[simp] theorem State.setSq_test (s : State) (i : Nat) (x : Sq) : (s.setSq i x).test = s.test := rfl
@[simp] theorem State.setSq_mgt (s : State) (i : Nat) (x : Sq) : (s.setSq i x).mgt = s.mgt := rfl
@[simp] theorem State.setSq_mgt2 (s : State) (i : Nat) (x : Sq) : (s.setSq i x).mgt2 = s.mgt2 := rfl
@[simp] theorem State.setSq_lastRead (s : State) (i : Nat) (x : Sq) : (s.setSq i x).lastRead = s.lastRead := rfl
@[simp] theorem State.setSq_freeCtr (s : State) (i : Nat) (x : Sq) : (s.setSq i x).freeCtr = s.freeCtr := rfl
@[simp] theorem State.setSq_nextId (s : State) (i : Nat) (x : Sq) : (s.setSq i x).nextId = s.nextId := rfl
@[simp] theorem State.setSq_pending (s : State) (i : Nat) (x : Sq) : (s.setSq i x).pending = s.pending := rfl
theorem State.sq_setSq (s : State) (i : Nat) (x : Sq) (j : Nat) : (s.setSq i x).sq j = if j = i then x else s.sq j :=
  SMap.get_set _ _ _ _ _
@[simp] theorem State.sq_setSq_same (s : State) (i : Nat) (x : Sq) : (s.setSq i x).sq i = x := SMap.get_set_same _ _ _ _
theorem State.sq_setSq_other (s : State) (i : Nat) (x : Sq) (j : Nat) (h : j ≠ i) : (s.setSq i x).sq j = s.sq j :=
  SMap.get_set_other _ _ _ h
@[simp] theorem State.core_setSq (s : State) (i : Nat) (x : Sq) (j : Nat) : (s.setSq i x).core j = s.core j := rfl
@[simp] theorem State.chan_setSq (s : State) (i : Nat) (x : Sq) (j : Nat) : (s.setSq i x).chan j = s.chan j := rfl
@[simp] theorem State.ctx_setSq (s : State) (i : Nat) (x : Sq) (j : Nat) : (s.setSq i x).ctx j = s.ctx j := rfl
@[simp] theorem State.fence_setSq (s : State) (i : Nat) (x : Sq) (j : Nat) : (s.setSq i x).fence j = s.fence j := rfl
@[simp] theorem State.setting_setSq (s : State) (i : Nat) (x : Sq) (j : Nat) : (s.setSq i x).setting j = s.setting j := rfl
@[simp] theorem State.slot_setSq (s : State) (i : Nat) (x : Sq) (j : Nat) : (s.setSq i x).slot j = s.slot j := rfl
@[simp] theorem State.port_setSq (s : State) (i : Nat) (x : Sq) (j : Nat) : (s.setSq i x).port j = s.port j := rfl
@[simp] theorem State.dyn_setSq (s : State) (i : Nat) (x : Sq) (j : Nat) : (s.setSq i x).dyn j = s.dyn j := rfl
@[simp] theorem State.cq_setSq (s : State) (i : Nat) (x : Sq) (j : Nat) : (s.setSq i x).cq j = s.cq j := rfl
@[simp] theorem State.ev_setSq (s : State) (i : Nat) (x : Sq) (j : Nat) : (s.setSq i x).ev j = s.ev j := rfl
@[simp] theorem State.fq_setSq (s : State) (i : Nat) (x : Sq) (j : Nat) : (s.setSq i x).fq j = s.fq j := rfl
@[simp] theorem State.intSrc_setSq (s : State) (i : Nat) (x : Sq) (j : Nat) : (s.setSq i x).intSrc j = s.intSrc j := rfl
@[simp] theorem State.intTgt_setSq (s : State) (i : Nat) (x : Sq) (j : Nat) : (s.setSq i x).intTgt j = s.intTgt j := rfl
@[simp] theorem State.pcore_setSq (s : State) (i : Nat) (x : Sq) (j : Nat) : (s.setSq i x).pcore j = s.pcore j := rfl
@[simp] theorem State.die_setSq (s : State) (i : Nat) (x : Sq) (j : Nat) : (s.setSq i x).die j = s.die j := rfl
@[simp] theorem State.half_setSq (s : State) (i : Nat) (x : Sq) (h : Nat) : (s.setSq i x).half h = s.half h := rfl

/-! ### setCq -/

@[simp] theorem State.setCq_mesh (s : State) (i : Nat) (x : CqRing) : (s.setCq i x).mesh = s.mesh := rfl
@[simp] theorem State.setCq_cores (s : State) (i : Nat) (x : CqRing) : (s.setCq i x).cores = s.cores := rfl
@[simp] theorem State.setCq_tasks (s : State) (i : Nat) (x : CqRing) : (s.setCq i x).tasks = s.tasks := rfl
@[simp] theorem State.setCq_mem (s : State) (i : Nat) (x : CqRing) : (s.setCq i x).mem = s.mem := rfl
@[simp] theorem State.setCq_pool (s : State) (i : Nat) (x : CqRing) : (s.setCq i x).pool = s.pool := rfl
@[simp] theorem State.setCq_xlt (s : State) (i : Nat) (x : CqRing) : (s.setCq i x).xlt = s.xlt := rfl
@[simp] theorem State.setCq_fnc (s : State) (i : Nat) (x : CqRing) : (s.setCq i x).fnc = s.fnc := rfl
@[simp] theorem State.setCq_sets (s : State) (i : Nat) (x : CqRing) : (s.setCq i x).sets = s.sets := rfl
@[simp] theorem State.setCq_lkt (s : State) (i : Nat) (x : CqRing) : (s.setCq i x).lkt = s.lkt := rfl
@[simp] theorem State.setCq_trb (s : State) (i : Nat) (x : CqRing) : (s.setCq i x).trb = s.trb := rfl
@[simp] theorem State.setCq_pwr (s : State) (i : Nat) (x : CqRing) : (s.setCq i x).pwr = s.pwr := rfl
@[simp] theorem State.setCq_pdyn (s : State) (i : Nat) (x : CqRing) : (s.setCq i x).pdyn = s.pdyn := rfl
@[simp] theorem State.setCq_int (s : State) (i : Nat) (x : CqRing) : (s.setCq i x).int = s.int := rfl
@[simp] theorem State.setCq_rst (s : State) (i : Nat) (x : CqRing) : (s.setCq i x).rst = s.rst := rfl
@[simp] theorem State.setCq_test (s : State) (i : Nat) (x : CqRing) : (s.setCq i x).test = s.test := rfl
@[simp] theorem State.setCq_mgt (s : State) (i : Nat) (x : CqRing) : (s.setCq i x).mgt = s.mgt := rfl
@[simp] theorem State.setCq_mgt2 (s : State) (i : Nat) (x : CqRing) : (s.setCq i x).mgt2 = s.mgt2 := rfl
@[simp] theorem State.setCq_lastRead (s : State) (i : Nat) (x : CqRing) : (s.setCq i x).lastRead = s.lastRead := rfl
@[simp] theorem State.setCq_freeCtr (s : State) (i : Nat) (x : CqRing) : (s.setCq i x).freeCtr = s.freeCtr := rfl
@[simp] theorem State.setCq_nextId (s : State) (i : Nat) (x : CqRing) : (s.setCq i x).nextId = s.nextId := rfl
@[simp] theorem State.setCq_pending (s : State) (i : Nat) (x : CqRing) : (s.setCq i x).pending = s.pending := rfl
theorem State.cq_setCq (s : State) (i : Nat) (x : CqRing) (j : Nat) : (s.setCq i x).cq j = if j = i then x else s.cq j :=
  SMap.get_set _ _ _ _ _
@[simp] theorem State.cq_setCq_same (s : State) (i : Nat) (x : CqRing) : (s.setCq i x).cq i = x := SMap.get_set_same _ _ _ _
theorem State.cq_setCq_other (s : State) (i : Nat) (x : CqRing) (j : Nat) (h : j ≠ i) : (s.setCq i x).cq j = s.cq j :=
  SMap.get_set_other _ _ _ h
@[simp] theorem State.core_setCq (s : State) (i : Nat) (x : CqRing) (j : Nat) : (s.setCq i x).core j = s.core j := rfl
@[simp] theorem State.chan_setCq (s : State) (i : Nat) (x : CqRing) (j : Nat) : (s.setCq i x).chan j = s.chan j := rfl
@[simp] theorem State.ctx_setCq (s : State) (i : Nat) (x : CqRing) (j : Nat) : (s.setCq i x).ctx j = s.ctx j := rfl
@[simp] theorem State.fence_setCq (s : State) (i : Nat) (x : CqRing) (j : Nat) : (s.setCq i x).fence j = s.fence j := rfl
@[simp] theorem State.setting_setCq (s : State) (i : Nat) (x : CqRing) (j : Nat) : (s.setCq i x).setting j = s.setting j := rfl
@[simp] theorem State.slot_setCq (s : State) (i : Nat) (x : CqRing) (j : Nat) : (s.setCq i x).slot j = s.slot j := rfl
@[simp] theorem State.port_setCq (s : State) (i : Nat) (x : CqRing) (j : Nat) : (s.setCq i x).port j = s.port j := rfl
@[simp] theorem State.dyn_setCq (s : State) (i : Nat) (x : CqRing) (j : Nat) : (s.setCq i x).dyn j = s.dyn j := rfl
@[simp] theorem State.sq_setCq (s : State) (i : Nat) (x : CqRing) (j : Nat) : (s.setCq i x).sq j = s.sq j := rfl
@[simp] theorem State.ev_setCq (s : State) (i : Nat) (x : CqRing) (j : Nat) : (s.setCq i x).ev j = s.ev j := rfl
@[simp] theorem State.fq_setCq (s : State) (i : Nat) (x : CqRing) (j : Nat) : (s.setCq i x).fq j = s.fq j := rfl
@[simp] theorem State.intSrc_setCq (s : State) (i : Nat) (x : CqRing) (j : Nat) : (s.setCq i x).intSrc j = s.intSrc j := rfl
@[simp] theorem State.intTgt_setCq (s : State) (i : Nat) (x : CqRing) (j : Nat) : (s.setCq i x).intTgt j = s.intTgt j := rfl
@[simp] theorem State.pcore_setCq (s : State) (i : Nat) (x : CqRing) (j : Nat) : (s.setCq i x).pcore j = s.pcore j := rfl
@[simp] theorem State.die_setCq (s : State) (i : Nat) (x : CqRing) (j : Nat) : (s.setCq i x).die j = s.die j := rfl
@[simp] theorem State.half_setCq (s : State) (i : Nat) (x : CqRing) (h : Nat) : (s.setCq i x).half h = s.half h := rfl

/-! ### setEv -/

@[simp] theorem State.setEv_mesh (s : State) (i : Nat) (x : EvRing) : (s.setEv i x).mesh = s.mesh := rfl
@[simp] theorem State.setEv_cores (s : State) (i : Nat) (x : EvRing) : (s.setEv i x).cores = s.cores := rfl
@[simp] theorem State.setEv_tasks (s : State) (i : Nat) (x : EvRing) : (s.setEv i x).tasks = s.tasks := rfl
@[simp] theorem State.setEv_mem (s : State) (i : Nat) (x : EvRing) : (s.setEv i x).mem = s.mem := rfl
@[simp] theorem State.setEv_pool (s : State) (i : Nat) (x : EvRing) : (s.setEv i x).pool = s.pool := rfl
@[simp] theorem State.setEv_xlt (s : State) (i : Nat) (x : EvRing) : (s.setEv i x).xlt = s.xlt := rfl
@[simp] theorem State.setEv_fnc (s : State) (i : Nat) (x : EvRing) : (s.setEv i x).fnc = s.fnc := rfl
@[simp] theorem State.setEv_sets (s : State) (i : Nat) (x : EvRing) : (s.setEv i x).sets = s.sets := rfl
@[simp] theorem State.setEv_lkt (s : State) (i : Nat) (x : EvRing) : (s.setEv i x).lkt = s.lkt := rfl
@[simp] theorem State.setEv_trb (s : State) (i : Nat) (x : EvRing) : (s.setEv i x).trb = s.trb := rfl
@[simp] theorem State.setEv_pwr (s : State) (i : Nat) (x : EvRing) : (s.setEv i x).pwr = s.pwr := rfl
@[simp] theorem State.setEv_pdyn (s : State) (i : Nat) (x : EvRing) : (s.setEv i x).pdyn = s.pdyn := rfl
@[simp] theorem State.setEv_int (s : State) (i : Nat) (x : EvRing) : (s.setEv i x).int = s.int := rfl
@[simp] theorem State.setEv_rst (s : State) (i : Nat) (x : EvRing) : (s.setEv i x).rst = s.rst := rfl
@[simp] theorem State.setEv_test (s : State) (i : Nat) (x : EvRing) : (s.setEv i x).test = s.test := rfl
@[simp] theorem State.setEv_mgt (s : State) (i : Nat) (x : EvRing) : (s.setEv i x).mgt = s.mgt := rfl
@[simp] theorem State.setEv_mgt2 (s : State) (i : Nat) (x : EvRing) : (s.setEv i x).mgt2 = s.mgt2 := rfl
@[simp] theorem State.setEv_lastRead (s : State) (i : Nat) (x : EvRing) : (s.setEv i x).lastRead = s.lastRead := rfl
@[simp] theorem State.setEv_freeCtr (s : State) (i : Nat) (x : EvRing) : (s.setEv i x).freeCtr = s.freeCtr := rfl
@[simp] theorem State.setEv_nextId (s : State) (i : Nat) (x : EvRing) : (s.setEv i x).nextId = s.nextId := rfl
@[simp] theorem State.setEv_pending (s : State) (i : Nat) (x : EvRing) : (s.setEv i x).pending = s.pending := rfl
theorem State.ev_setEv (s : State) (i : Nat) (x : EvRing) (j : Nat) : (s.setEv i x).ev j = if j = i then x else s.ev j :=
  SMap.get_set _ _ _ _ _
@[simp] theorem State.ev_setEv_same (s : State) (i : Nat) (x : EvRing) : (s.setEv i x).ev i = x := SMap.get_set_same _ _ _ _
theorem State.ev_setEv_other (s : State) (i : Nat) (x : EvRing) (j : Nat) (h : j ≠ i) : (s.setEv i x).ev j = s.ev j :=
  SMap.get_set_other _ _ _ h
@[simp] theorem State.core_setEv (s : State) (i : Nat) (x : EvRing) (j : Nat) : (s.setEv i x).core j = s.core j := rfl
@[simp] theorem State.chan_setEv (s : State) (i : Nat) (x : EvRing) (j : Nat) : (s.setEv i x).chan j = s.chan j := rfl
@[simp] theorem State.ctx_setEv (s : State) (i : Nat) (x : EvRing) (j : Nat) : (s.setEv i x).ctx j = s.ctx j := rfl
@[simp] theorem State.fence_setEv (s : State) (i : Nat) (x : EvRing) (j : Nat) : (s.setEv i x).fence j = s.fence j := rfl
@[simp] theorem State.setting_setEv (s : State) (i : Nat) (x : EvRing) (j : Nat) : (s.setEv i x).setting j = s.setting j := rfl
@[simp] theorem State.slot_setEv (s : State) (i : Nat) (x : EvRing) (j : Nat) : (s.setEv i x).slot j = s.slot j := rfl
@[simp] theorem State.port_setEv (s : State) (i : Nat) (x : EvRing) (j : Nat) : (s.setEv i x).port j = s.port j := rfl
@[simp] theorem State.dyn_setEv (s : State) (i : Nat) (x : EvRing) (j : Nat) : (s.setEv i x).dyn j = s.dyn j := rfl
@[simp] theorem State.sq_setEv (s : State) (i : Nat) (x : EvRing) (j : Nat) : (s.setEv i x).sq j = s.sq j := rfl
@[simp] theorem State.cq_setEv (s : State) (i : Nat) (x : EvRing) (j : Nat) : (s.setEv i x).cq j = s.cq j := rfl
@[simp] theorem State.fq_setEv (s : State) (i : Nat) (x : EvRing) (j : Nat) : (s.setEv i x).fq j = s.fq j := rfl
@[simp] theorem State.intSrc_setEv (s : State) (i : Nat) (x : EvRing) (j : Nat) : (s.setEv i x).intSrc j = s.intSrc j := rfl
@[simp] theorem State.intTgt_setEv (s : State) (i : Nat) (x : EvRing) (j : Nat) : (s.setEv i x).intTgt j = s.intTgt j := rfl
@[simp] theorem State.pcore_setEv (s : State) (i : Nat) (x : EvRing) (j : Nat) : (s.setEv i x).pcore j = s.pcore j := rfl
@[simp] theorem State.die_setEv (s : State) (i : Nat) (x : EvRing) (j : Nat) : (s.setEv i x).die j = s.die j := rfl
@[simp] theorem State.half_setEv (s : State) (i : Nat) (x : EvRing) (h : Nat) : (s.setEv i x).half h = s.half h := rfl

/-! ### setFq -/

@[simp] theorem State.setFq_mesh (s : State) (i : Nat) (x : FqRing) : (s.setFq i x).mesh = s.mesh := rfl
@[simp] theorem State.setFq_cores (s : State) (i : Nat) (x : FqRing) : (s.setFq i x).cores = s.cores := rfl
@[simp] theorem State.setFq_tasks (s : State) (i : Nat) (x : FqRing) : (s.setFq i x).tasks = s.tasks := rfl
@[simp] theorem State.setFq_mem (s : State) (i : Nat) (x : FqRing) : (s.setFq i x).mem = s.mem := rfl
@[simp] theorem State.setFq_pool (s : State) (i : Nat) (x : FqRing) : (s.setFq i x).pool = s.pool := rfl
@[simp] theorem State.setFq_que (s : State) (i : Nat) (x : FqRing) : (s.setFq i x).que = s.que := rfl
@[simp] theorem State.setFq_fnc (s : State) (i : Nat) (x : FqRing) : (s.setFq i x).fnc = s.fnc := rfl
@[simp] theorem State.setFq_sets (s : State) (i : Nat) (x : FqRing) : (s.setFq i x).sets = s.sets := rfl
@[simp] theorem State.setFq_lkt (s : State) (i : Nat) (x : FqRing) : (s.setFq i x).lkt = s.lkt := rfl
@[simp] theorem State.setFq_trb (s : State) (i : Nat) (x : FqRing) : (s.setFq i x).trb = s.trb := rfl
@[simp] theorem State.setFq_pwr (s : State) (i : Nat) (x : FqRing) : (s.setFq i x).pwr = s.pwr := rfl
@[simp] theorem State.setFq_pdyn (s : State) (i : Nat) (x : FqRing) : (s.setFq i x).pdyn = s.pdyn := rfl
@[simp] theorem State.setFq_int (s : State) (i : Nat) (x : FqRing) : (s.setFq i x).int = s.int := rfl
@[simp] theorem State.setFq_rst (s : State) (i : Nat) (x : FqRing) : (s.setFq i x).rst = s.rst := rfl
@[simp] theorem State.setFq_test (s : State) (i : Nat) (x : FqRing) : (s.setFq i x).test = s.test := rfl
@[simp] theorem State.setFq_mgt (s : State) (i : Nat) (x : FqRing) : (s.setFq i x).mgt = s.mgt := rfl
@[simp] theorem State.setFq_mgt2 (s : State) (i : Nat) (x : FqRing) : (s.setFq i x).mgt2 = s.mgt2 := rfl
@[simp] theorem State.setFq_lastRead (s : State) (i : Nat) (x : FqRing) : (s.setFq i x).lastRead = s.lastRead := rfl
@[simp] theorem State.setFq_freeCtr (s : State) (i : Nat) (x : FqRing) : (s.setFq i x).freeCtr = s.freeCtr := rfl
@[simp] theorem State.setFq_nextId (s : State) (i : Nat) (x : FqRing) : (s.setFq i x).nextId = s.nextId := rfl
@[simp] theorem State.setFq_pending (s : State) (i : Nat) (x : FqRing) : (s.setFq i x).pending = s.pending := rfl
theorem State.fq_setFq (s : State) (i : Nat) (x : FqRing) (j : Nat) : (s.setFq i x).fq j = if j = i then x else s.fq j :=
  SMap.get_set _ _ _ _ _
@[simp] theorem State.fq_setFq_same (s : State) (i : Nat) (x : FqRing) : (s.setFq i x).fq i = x := SMap.get_set_same _ _ _ _
theorem State.fq_setFq_other (s : State) (i : Nat) (x : FqRing) (j : Nat) (h : j ≠ i) : (s.setFq i x).fq j = s.fq j :=
  SMap.get_set_other _ _ _ h
@[simp] theorem State.core_setFq (s : State) (i : Nat) (x : FqRing) (j : Nat) : (s.setFq i x).core j = s.core j := rfl
@[simp] theorem State.chan_setFq (s : State) (i : Nat) (x : FqRing) (j : Nat) : (s.setFq i x).chan j = s.chan j := rfl
@[simp] theorem State.ctx_setFq (s : State) (i : Nat) (x : FqRing) (j : Nat) : (s.setFq i x).ctx j = s.ctx j := rfl
@[simp] theorem State.fence_setFq (s : State) (i : Nat) (x : FqRing) (j : Nat) : (s.setFq i x).fence j = s.fence j := rfl
@[simp] theorem State.setting_setFq (s : State) (i : Nat) (x : FqRing) (j : Nat) : (s.setFq i x).setting j = s.setting j := rfl
@[simp] theorem State.slot_setFq (s : State) (i : Nat) (x : FqRing) (j : Nat) : (s.setFq i x).slot j = s.slot j := rfl
@[simp] theorem State.port_setFq (s : State) (i : Nat) (x : FqRing) (j : Nat) : (s.setFq i x).port j = s.port j := rfl
@[simp] theorem State.dyn_setFq (s : State) (i : Nat) (x : FqRing) (j : Nat) : (s.setFq i x).dyn j = s.dyn j := rfl
@[simp] theorem State.sq_setFq (s : State) (i : Nat) (x : FqRing) (j : Nat) : (s.setFq i x).sq j = s.sq j := rfl
@[simp] theorem State.cq_setFq (s : State) (i : Nat) (x : FqRing) (j : Nat) : (s.setFq i x).cq j = s.cq j := rfl
@[simp] theorem State.ev_setFq (s : State) (i : Nat) (x : FqRing) (j : Nat) : (s.setFq i x).ev j = s.ev j := rfl
@[simp] theorem State.intSrc_setFq (s : State) (i : Nat) (x : FqRing) (j : Nat) : (s.setFq i x).intSrc j = s.intSrc j := rfl
@[simp] theorem State.intTgt_setFq (s : State) (i : Nat) (x : FqRing) (j : Nat) : (s.setFq i x).intTgt j = s.intTgt j := rfl
@[simp] theorem State.pcore_setFq (s : State) (i : Nat) (x : FqRing) (j : Nat) : (s.setFq i x).pcore j = s.pcore j := rfl
@[simp] theorem State.die_setFq (s : State) (i : Nat) (x : FqRing) (j : Nat) : (s.setFq i x).die j = s.die j := rfl
@[simp] theorem State.half_setFq (s : State) (i : Nat) (x : FqRing) (h : Nat) : (s.setFq i x).half h = s.half h := rfl

/-! ### setIntSrc -/

@[simp] theorem State.setIntSrc_mesh (s : State) (i : Nat) (x : IntSrc) : (s.setIntSrc i x).mesh = s.mesh := rfl
@[simp] theorem State.setIntSrc_cores (s : State) (i : Nat) (x : IntSrc) : (s.setIntSrc i x).cores = s.cores := rfl
@[simp] theorem State.setIntSrc_tasks (s : State) (i : Nat) (x : IntSrc) : (s.setIntSrc i x).tasks = s.tasks := rfl
@[simp] theorem State.setIntSrc_mem (s : State) (i : Nat) (x : IntSrc) : (s.setIntSrc i x).mem = s.mem := rfl
@[simp] theorem State.setIntSrc_pool (s : State) (i : Nat) (x : IntSrc) : (s.setIntSrc i x).pool = s.pool := rfl
@[simp] theorem State.setIntSrc_xlt (s : State) (i : Nat) (x : IntSrc) : (s.setIntSrc i x).xlt = s.xlt := rfl
@[simp] theorem State.setIntSrc_que (s : State) (i : Nat) (x : IntSrc) : (s.setIntSrc i x).que = s.que := rfl
@[simp] theorem State.setIntSrc_fnc (s : State) (i : Nat) (x : IntSrc) : (s.setIntSrc i x).fnc = s.fnc := rfl
@[simp] theorem State.setIntSrc_sets (s : State) (i : Nat) (x : IntSrc) : (s.setIntSrc i x).sets = s.sets := rfl
@[simp] theorem State.setIntSrc_lkt (s : State) (i : Nat) (x : IntSrc) : (s.setIntSrc i x).lkt = s.lkt := rfl
@[simp] theorem State.setIntSrc_trb (s : State) (i : Nat) (x : IntSrc) : (s.setIntSrc i x).trb = s.trb := rfl
@[simp] theorem State.setIntSrc_pwr (s : State) (i : Nat) (x : IntSrc) : (s.setIntSrc i x).pwr = s.pwr := rfl
@[simp] theorem State.setIntSrc_pdyn (s : State) (i : Nat) (x : IntSrc) : (s.setIntSrc i x).pdyn = s.pdyn := rfl
@[simp] theorem State.setIntSrc_rst (s : State) (i : Nat) (x : IntSrc) : (s.setIntSrc i x).rst = s.rst := rfl
@[simp] theorem State.setIntSrc_test (s : State) (i : Nat) (x : IntSrc) : (s.setIntSrc i x).test = s.test := rfl
@[simp] theorem State.setIntSrc_mgt (s : State) (i : Nat) (x : IntSrc) : (s.setIntSrc i x).mgt = s.mgt := rfl
@[simp] theorem State.setIntSrc_mgt2 (s : State) (i : Nat) (x : IntSrc) : (s.setIntSrc i x).mgt2 = s.mgt2 := rfl
@[simp] theorem State.setIntSrc_lastRead (s : State) (i : Nat) (x : IntSrc) : (s.setIntSrc i x).lastRead = s.lastRead := rfl
@[simp] theorem State.setIntSrc_freeCtr (s : State) (i : Nat) (x : IntSrc) : (s.setIntSrc i x).freeCtr = s.freeCtr := rfl
@[simp] theorem State.setIntSrc_nextId (s : State) (i : Nat) (x : IntSrc) : (s.setIntSrc i x).nextId = s.nextId := rfl
@[simp] theorem State.setIntSrc_pending (s : State) (i : Nat) (x : IntSrc) : (s.setIntSrc i x).pending = s.pending := rfl
theorem State.intSrc_setIntSrc (s : State) (i : Nat) (x : IntSrc) (j : Nat) : (s.setIntSrc i x).intSrc j = if j = i then x else s.intSrc j :=
  SMap.get_set _ _ _ _ _
@[simp] theorem State.intSrc_setIntSrc_same (s : State) (i : Nat) (x : IntSrc) : (s.setIntSrc i x).intSrc i = x := SMap.get_set_same _ _ _ _
theorem State.intSrc_setIntSrc_other (s : State) (i : Nat) (x : IntSrc) (j : Nat) (h : j ≠ i) : (s.setIntSrc i x).intSrc j = s.intSrc j :=
  SMap.get_set_other _ _ _ h
@[simp] theorem State.core_setIntSrc (s : State) (i : Nat) (x : IntSrc) (j : Nat) : (s.setIntSrc i x).core j = s.core j := rfl
@[simp] theorem State.chan_setIntSrc (s : State) (i : Nat) (x : IntSrc) (j : Nat) : (s.setIntSrc i x).chan j = s.chan j := rfl
@[simp] theorem State.ctx_setIntSrc (s : State) (i : Nat) (x : IntSrc) (j : Nat) : (s.setIntSrc i x).ctx j = s.ctx j := rfl
@[simp] theorem State.fence_setIntSrc (s : State) (i : Nat) (x : IntSrc) (j : Nat) : (s.setIntSrc i x).fence j = s.fence j := rfl
@[simp] theorem State.setting_setIntSrc (s : State) (i : Nat) (x : IntSrc) (j : Nat) : (s.setIntSrc i x).setting j = s.setting j := rfl
@[simp] theorem State.slot_setIntSrc (s : State) (i : Nat) (x : IntSrc) (j : Nat) : (s.setIntSrc i x).slot j = s.slot j := rfl
@[simp] theorem State.port_setIntSrc (s : State) (i : Nat) (x : IntSrc) (j : Nat) : (s.setIntSrc i x).port j = s.port j := rfl
@[simp] theorem State.dyn_setIntSrc (s : State) (i : Nat) (x : IntSrc) (j : Nat) : (s.setIntSrc i x).dyn j = s.dyn j := rfl
@[simp] theorem State.sq_setIntSrc (s : State) (i : Nat) (x : IntSrc) (j : Nat) : (s.setIntSrc i x).sq j = s.sq j := rfl
@[simp] theorem State.cq_setIntSrc (s : State) (i : Nat) (x : IntSrc) (j : Nat) : (s.setIntSrc i x).cq j = s.cq j := rfl
@[simp] theorem State.ev_setIntSrc (s : State) (i : Nat) (x : IntSrc) (j : Nat) : (s.setIntSrc i x).ev j = s.ev j := rfl
@[simp] theorem State.fq_setIntSrc (s : State) (i : Nat) (x : IntSrc) (j : Nat) : (s.setIntSrc i x).fq j = s.fq j := rfl
@[simp] theorem State.intTgt_setIntSrc (s : State) (i : Nat) (x : IntSrc) (j : Nat) : (s.setIntSrc i x).intTgt j = s.intTgt j := rfl
@[simp] theorem State.pcore_setIntSrc (s : State) (i : Nat) (x : IntSrc) (j : Nat) : (s.setIntSrc i x).pcore j = s.pcore j := rfl
@[simp] theorem State.die_setIntSrc (s : State) (i : Nat) (x : IntSrc) (j : Nat) : (s.setIntSrc i x).die j = s.die j := rfl
@[simp] theorem State.half_setIntSrc (s : State) (i : Nat) (x : IntSrc) (h : Nat) : (s.setIntSrc i x).half h = s.half h := rfl

/-! ### setIntTgt -/

@[simp] theorem State.setIntTgt_mesh (s : State) (i : Nat) (x : IntTgt) : (s.setIntTgt i x).mesh = s.mesh := rfl
@[simp] theorem State.setIntTgt_cores (s : State) (i : Nat) (x : IntTgt) : (s.setIntTgt i x).cores = s.cores := rfl
@[simp] theorem State.setIntTgt_tasks (s : State) (i : Nat) (x : IntTgt) : (s.setIntTgt i x).tasks = s.tasks := rfl
@[simp] theorem State.setIntTgt_mem (s : State) (i : Nat) (x : IntTgt) : (s.setIntTgt i x).mem = s.mem := rfl
@[simp] theorem State.setIntTgt_pool (s : State) (i : Nat) (x : IntTgt) : (s.setIntTgt i x).pool = s.pool := rfl
@[simp] theorem State.setIntTgt_xlt (s : State) (i : Nat) (x : IntTgt) : (s.setIntTgt i x).xlt = s.xlt := rfl
@[simp] theorem State.setIntTgt_que (s : State) (i : Nat) (x : IntTgt) : (s.setIntTgt i x).que = s.que := rfl
@[simp] theorem State.setIntTgt_fnc (s : State) (i : Nat) (x : IntTgt) : (s.setIntTgt i x).fnc = s.fnc := rfl
@[simp] theorem State.setIntTgt_sets (s : State) (i : Nat) (x : IntTgt) : (s.setIntTgt i x).sets = s.sets := rfl
@[simp] theorem State.setIntTgt_lkt (s : State) (i : Nat) (x : IntTgt) : (s.setIntTgt i x).lkt = s.lkt := rfl
@[simp] theorem State.setIntTgt_trb (s : State) (i : Nat) (x : IntTgt) : (s.setIntTgt i x).trb = s.trb := rfl
@[simp] theorem State.setIntTgt_pwr (s : State) (i : Nat) (x : IntTgt) : (s.setIntTgt i x).pwr = s.pwr := rfl
@[simp] theorem State.setIntTgt_pdyn (s : State) (i : Nat) (x : IntTgt) : (s.setIntTgt i x).pdyn = s.pdyn := rfl
@[simp] theorem State.setIntTgt_rst (s : State) (i : Nat) (x : IntTgt) : (s.setIntTgt i x).rst = s.rst := rfl
@[simp] theorem State.setIntTgt_test (s : State) (i : Nat) (x : IntTgt) : (s.setIntTgt i x).test = s.test := rfl
@[simp] theorem State.setIntTgt_mgt (s : State) (i : Nat) (x : IntTgt) : (s.setIntTgt i x).mgt = s.mgt := rfl
@[simp] theorem State.setIntTgt_mgt2 (s : State) (i : Nat) (x : IntTgt) : (s.setIntTgt i x).mgt2 = s.mgt2 := rfl
@[simp] theorem State.setIntTgt_lastRead (s : State) (i : Nat) (x : IntTgt) : (s.setIntTgt i x).lastRead = s.lastRead := rfl
@[simp] theorem State.setIntTgt_freeCtr (s : State) (i : Nat) (x : IntTgt) : (s.setIntTgt i x).freeCtr = s.freeCtr := rfl
@[simp] theorem State.setIntTgt_nextId (s : State) (i : Nat) (x : IntTgt) : (s.setIntTgt i x).nextId = s.nextId := rfl
@[simp] theorem State.setIntTgt_pending (s : State) (i : Nat) (x : IntTgt) : (s.setIntTgt i x).pending = s.pending := rfl
theorem State.intTgt_setIntTgt (s : State) (i : Nat) (x : IntTgt) (j : Nat) : (s.setIntTgt i x).intTgt j = if j = i then x else s.intTgt j :=
  SMap.get_set _ _ _ _ _
@[simp] theorem State.intTgt_setIntTgt_same (s : State) (i : Nat) (x : IntTgt) : (s.setIntTgt i x).intTgt i = x := SMap.get_set_same _ _ _ _
theorem State.intTgt_setIntTgt_other (s : State) (i : Nat) (x : IntTgt) (j : Nat) (h : j ≠ i) : (s.setIntTgt i x).intTgt j = s.intTgt j :=
  SMap.get_set_other _ _ _ h
@[simp] theorem State.core_setIntTgt (s : State) (i : Nat) (x : IntTgt) (j : Nat) : (s.setIntTgt i x).core j = s.core j := rfl
@[simp] theorem State.chan_setIntTgt (s : State) (i : Nat) (x : IntTgt) (j : Nat) : (s.setIntTgt i x).chan j = s.chan j := rfl
@[simp] theorem State.ctx_setIntTgt (s : State) (i : Nat) (x : IntTgt) (j : Nat) : (s.setIntTgt i x).ctx j = s.ctx j := rfl
@[simp] theorem State.fence_setIntTgt (s : State) (i : Nat) (x : IntTgt) (j : Nat) : (s.setIntTgt i x).fence j = s.fence j := rfl
@[simp] theorem State.setting_setIntTgt (s : State) (i : Nat) (x : IntTgt) (j : Nat) : (s.setIntTgt i x).setting j = s.setting j := rfl
@[simp] theorem State.slot_setIntTgt (s : State) (i : Nat) (x : IntTgt) (j : Nat) : (s.setIntTgt i x).slot j = s.slot j := rfl
@[simp] theorem State.port_setIntTgt (s : State) (i : Nat) (x : IntTgt) (j : Nat) : (s.setIntTgt i x).port j = s.port j := rfl
@[simp] theorem State.dyn_setIntTgt (s : State) (i : Nat) (x : IntTgt) (j : Nat) : (s.setIntTgt i x).dyn j = s.dyn j := rfl
@[simp] theorem State.sq_setIntTgt (s : State) (i : Nat) (x : IntTgt) (j : Nat) : (s.setIntTgt i x).sq j = s.sq j := rfl
@[simp] theorem State.cq_setIntTgt (s : State) (i : Nat) (x : IntTgt) (j : Nat) : (s.setIntTgt i x).cq j = s.cq j := rfl
@[simp] theorem State.ev_setIntTgt (s : State) (i : Nat) (x : IntTgt) (j : Nat) : (s.setIntTgt i x).ev j = s.ev j := rfl
@[simp] theorem State.fq_setIntTgt (s : State) (i : Nat) (x : IntTgt) (j : Nat) : (s.setIntTgt i x).fq j = s.fq j := rfl
@[simp] theorem State.intSrc_setIntTgt (s : State) (i : Nat) (x : IntTgt) (j : Nat) : (s.setIntTgt i x).intSrc j = s.intSrc j := rfl
@[simp] theorem State.pcore_setIntTgt (s : State) (i : Nat) (x : IntTgt) (j : Nat) : (s.setIntTgt i x).pcore j = s.pcore j := rfl
@[simp] theorem State.die_setIntTgt (s : State) (i : Nat) (x : IntTgt) (j : Nat) : (s.setIntTgt i x).die j = s.die j := rfl
@[simp] theorem State.half_setIntTgt (s : State) (i : Nat) (x : IntTgt) (h : Nat) : (s.setIntTgt i x).half h = s.half h := rfl

/-! ### setPcore -/

@[simp] theorem State.setPcore_mesh (s : State) (i : Nat) (x : PCore) : (s.setPcore i x).mesh = s.mesh := rfl
@[simp] theorem State.setPcore_cores (s : State) (i : Nat) (x : PCore) : (s.setPcore i x).cores = s.cores := rfl
@[simp] theorem State.setPcore_tasks (s : State) (i : Nat) (x : PCore) : (s.setPcore i x).tasks = s.tasks := rfl
@[simp] theorem State.setPcore_mem (s : State) (i : Nat) (x : PCore) : (s.setPcore i x).mem = s.mem := rfl
@[simp] theorem State.setPcore_pool (s : State) (i : Nat) (x : PCore) : (s.setPcore i x).pool = s.pool := rfl
@[simp] theorem State.setPcore_xlt (s : State) (i : Nat) (x : PCore) : (s.setPcore i x).xlt = s.xlt := rfl
@[simp] theorem State.setPcore_que (s : State) (i : Nat) (x : PCore) : (s.setPcore i x).que = s.que := rfl
@[simp] theorem State.setPcore_fnc (s : State) (i : Nat) (x : PCore) : (s.setPcore i x).fnc = s.fnc := rfl
@[simp] theorem State.setPcore_sets (s : State) (i : Nat) (x : PCore) : (s.setPcore i x).sets = s.sets := rfl
@[simp] theorem State.setPcore_lkt (s : State) (i : Nat) (x : PCore) : (s.setPcore i x).lkt = s.lkt := rfl
@[simp] theorem State.setPcore_trb (s : State) (i : Nat) (x : PCore) : (s.setPcore i x).trb = s.trb := rfl
@[simp] theorem State.setPcore_pwr (s : State) (i : Nat) (x : PCore) : (s.setPcore i x).pwr = s.pwr := rfl
@[simp] theorem State.setPcore_int (s : State) (i : Nat) (x : PCore) : (s.setPcore i x).int = s.int := rfl
@[simp] theorem State.setPcore_rst (s : State) (i : Nat) (x : PCore) : (s.setPcore i x).rst = s.rst := rfl
@[simp] theorem State.setPcore_test (s : State) (i : Nat) (x : PCore) : (s.setPcore i x).test = s.test := rfl
@[simp] theorem State.setPcore_mgt (s : State) (i : Nat) (x : PCore) : (s.setPcore i x).mgt = s.mgt := rfl
@[simp] theorem State.setPcore_mgt2 (s : State) (i : Nat) (x : PCore) : (s.setPcore i x).mgt2 = s.mgt2 := rfl
@[simp] theorem State.setPcore_lastRead (s : State) (i : Nat) (x : PCore) : (s.setPcore i x).lastRead = s.lastRead := rfl
@[simp] theorem State.setPcore_freeCtr (s : State) (i : Nat) (x : PCore) : (s.setPcore i x).freeCtr = s.freeCtr := rfl
@[simp] theorem State.setPcore_nextId (s : State) (i : Nat) (x : PCore) : (s.setPcore i x).nextId = s.nextId := rfl
@[simp] theorem State.setPcore_pending (s : State) (i : Nat) (x : PCore) : (s.setPcore i x).pending = s.pending := rfl
theorem State.pcore_setPcore (s : State) (i : Nat) (x : PCore) (j : Nat) : (s.setPcore i x).pcore j = if j = i then x else s.pcore j :=
  SMap.get_set _ _ _ _ _
@[simp] theorem State.pcore_setPcore_same (s : State) (i : Nat) (x : PCore) : (s.setPcore i x).pcore i = x := SMap.get_set_same _ _ _ _
theorem State.pcore_setPcore_other (s : State) (i : Nat) (x : PCore) (j : Nat) (h : j ≠ i) : (s.setPcore i x).pcore j = s.pcore j :=
  SMap.get_set_other _ _ _ h
@[simp] theorem State.core_setPcore (s : State) (i : Nat) (x : PCore) (j : Nat) : (s.setPcore i x).core j = s.core j := rfl
@[simp] theorem State.chan_setPcore (s : State) (i : Nat) (x : PCore) (j : Nat) : (s.setPcore i x).chan j = s.chan j := rfl
@[simp] theorem State.ctx_setPcore (s : State) (i : Nat) (x : PCore) (j : Nat) : (s.setPcore i x).ctx j = s.ctx j := rfl
@[simp] theorem State.fence_setPcore (s : State) (i : Nat) (x : PCore) (j : Nat) : (s.setPcore i x).fence j = s.fence j := rfl
@[simp] theorem State.setting_setPcore (s : State) (i : Nat) (x : PCore) (j : Nat) : (s.setPcore i x).setting j = s.setting j := rfl
@[simp] theorem State.slot_setPcore (s : State) (i : Nat) (x : PCore) (j : Nat) : (s.setPcore i x).slot j = s.slot j := rfl
@[simp] theorem State.port_setPcore (s : State) (i : Nat) (x : PCore) (j : Nat) : (s.setPcore i x).port j = s.port j := rfl
@[simp] theorem State.dyn_setPcore (s : State) (i : Nat) (x : PCore) (j : Nat) : (s.setPcore i x).dyn j = s.dyn j := rfl
@[simp] theorem State.sq_setPcore (s : State) (i : Nat) (x : PCore) (j : Nat) : (s.setPcore i x).sq j = s.sq j := rfl
@[simp] theorem State.cq_setPcore (s : State) (i : Nat) (x : PCore) (j : Nat) : (s.setPcore i x).cq j = s.cq j := rfl
@[simp] theorem State.ev_setPcore (s : State) (i : Nat) (x : PCore) (j : Nat) : (s.setPcore i x).ev j = s.ev j := rfl
@[simp] theorem State.fq_setPcore (s : State) (i : Nat) (x : PCore) (j : Nat) : (s.setPcore i x).fq j = s.fq j := rfl
@[simp] theorem State.intSrc_setPcore (s : State) (i : Nat) (x : PCore) (j : Nat) : (s.setPcore i x).intSrc j = s.intSrc j := rfl
@[simp] theorem State.intTgt_setPcore (s : State) (i : Nat) (x : PCore) (j : Nat) : (s.setPcore i x).intTgt j = s.intTgt j := rfl
@[simp] theorem State.die_setPcore (s : State) (i : Nat) (x : PCore) (j : Nat) : (s.setPcore i x).die j = s.die j := rfl
@[simp] theorem State.half_setPcore (s : State) (i : Nat) (x : PCore) (h : Nat) : (s.setPcore i x).half h = s.half h := rfl

/-! ### setDie -/

@[simp] theorem State.setDie_mesh (s : State) (i : Nat) (x : Die) : (s.setDie i x).mesh = s.mesh := rfl
@[simp] theorem State.setDie_cores (s : State) (i : Nat) (x : Die) : (s.setDie i x).cores = s.cores := rfl
@[simp] theorem State.setDie_tasks (s : State) (i : Nat) (x : Die) : (s.setDie i x).tasks = s.tasks := rfl
@[simp] theorem State.setDie_mem (s : State) (i : Nat) (x : Die) : (s.setDie i x).mem = s.mem := rfl
@[simp] theorem State.setDie_pool (s : State) (i : Nat) (x : Die) : (s.setDie i x).pool = s.pool := rfl
@[simp] theorem State.setDie_xlt (s : State) (i : Nat) (x : Die) : (s.setDie i x).xlt = s.xlt := rfl
@[simp] theorem State.setDie_que (s : State) (i : Nat) (x : Die) : (s.setDie i x).que = s.que := rfl
@[simp] theorem State.setDie_fnc (s : State) (i : Nat) (x : Die) : (s.setDie i x).fnc = s.fnc := rfl
@[simp] theorem State.setDie_sets (s : State) (i : Nat) (x : Die) : (s.setDie i x).sets = s.sets := rfl
@[simp] theorem State.setDie_lkt (s : State) (i : Nat) (x : Die) : (s.setDie i x).lkt = s.lkt := rfl
@[simp] theorem State.setDie_trb (s : State) (i : Nat) (x : Die) : (s.setDie i x).trb = s.trb := rfl
@[simp] theorem State.setDie_pwr (s : State) (i : Nat) (x : Die) : (s.setDie i x).pwr = s.pwr := rfl
@[simp] theorem State.setDie_int (s : State) (i : Nat) (x : Die) : (s.setDie i x).int = s.int := rfl
@[simp] theorem State.setDie_rst (s : State) (i : Nat) (x : Die) : (s.setDie i x).rst = s.rst := rfl
@[simp] theorem State.setDie_test (s : State) (i : Nat) (x : Die) : (s.setDie i x).test = s.test := rfl
@[simp] theorem State.setDie_mgt (s : State) (i : Nat) (x : Die) : (s.setDie i x).mgt = s.mgt := rfl
@[simp] theorem State.setDie_mgt2 (s : State) (i : Nat) (x : Die) : (s.setDie i x).mgt2 = s.mgt2 := rfl
@[simp] theorem State.setDie_lastRead (s : State) (i : Nat) (x : Die) : (s.setDie i x).lastRead = s.lastRead := rfl
@[simp] theorem State.setDie_freeCtr (s : State) (i : Nat) (x : Die) : (s.setDie i x).freeCtr = s.freeCtr := rfl
@[simp] theorem State.setDie_nextId (s : State) (i : Nat) (x : Die) : (s.setDie i x).nextId = s.nextId := rfl
@[simp] theorem State.setDie_pending (s : State) (i : Nat) (x : Die) : (s.setDie i x).pending = s.pending := rfl
theorem State.die_setDie (s : State) (i : Nat) (x : Die) (j : Nat) : (s.setDie i x).die j = if j = i then x else s.die j :=
  SMap.get_set _ _ _ _ _
@[simp] theorem State.die_setDie_same (s : State) (i : Nat) (x : Die) : (s.setDie i x).die i = x := SMap.get_set_same _ _ _ _
theorem State.die_setDie_other (s : State) (i : Nat) (x : Die) (j : Nat) (h : j ≠ i) : (s.setDie i x).die j = s.die j :=
  SMap.get_set_other _ _ _ h
@[simp] theorem State.core_setDie (s : State) (i : Nat) (x : Die) (j : Nat) : (s.setDie i x).core j = s.core j := rfl
@[simp] theorem State.chan_setDie (s : State) (i : Nat) (x : Die) (j : Nat) : (s.setDie i x).chan j = s.chan j := rfl
@[simp] theorem State.ctx_setDie (s : State) (i : Nat) (x : Die) (j : Nat) : (s.setDie i x).ctx j = s.ctx j := rfl
@[simp] theorem State.fence_setDie (s : State) (i : Nat) (x : Die) (j : Nat) : (s.setDie i x).fence j = s.fence j := rfl
@[simp] theorem State.setting_setDie (s : State) (i : Nat) (x : Die) (j : Nat) : (s.setDie i x).setting j = s.setting j := rfl
@[simp] theorem State.slot_setDie (s : State) (i : Nat) (x : Die) (j : Nat) : (s.setDie i x).slot j = s.slot j := rfl
@[simp] theorem State.port_setDie (s : State) (i : Nat) (x : Die) (j : Nat) : (s.setDie i x).port j = s.port j := rfl
@[simp] theorem State.dyn_setDie (s : State) (i : Nat) (x : Die) (j : Nat) : (s.setDie i x).dyn j = s.dyn j := rfl
@[simp] theorem State.sq_setDie (s : State) (i : Nat) (x : Die) (j : Nat) : (s.setDie i x).sq j = s.sq j := rfl
@[simp] theorem State.cq_setDie (s : State) (i : Nat) (x : Die) (j : Nat) : (s.setDie i x).cq j = s.cq j := rfl
@[simp] theorem State.ev_setDie (s : State) (i : Nat) (x : Die) (j : Nat) : (s.setDie i x).ev j = s.ev j := rfl
@[simp] theorem State.fq_setDie (s : State) (i : Nat) (x : Die) (j : Nat) : (s.setDie i x).fq j = s.fq j := rfl
@[simp] theorem State.intSrc_setDie (s : State) (i : Nat) (x : Die) (j : Nat) : (s.setDie i x).intSrc j = s.intSrc j := rfl
@[simp] theorem State.intTgt_setDie (s : State) (i : Nat) (x : Die) (j : Nat) : (s.setDie i x).intTgt j = s.intTgt j := rfl
@[simp] theorem State.pcore_setDie (s : State) (i : Nat) (x : Die) (j : Nat) : (s.setDie i x).pcore j = s.pcore j := rfl
@[simp] theorem State.half_setDie (s : State) (i : Nat) (x : Die) (h : Nat) : (s.setDie i x).half h = s.half h := rfl

/-! ### setHalf -/

@[simp] theorem State.setHalf_cores (s : State) (h : Nat) (x : Half) : (s.setHalf h x).cores = s.cores := by
  unfold State.setHalf; split <;> rfl
@[simp] theorem State.setHalf_tasks (s : State) (h : Nat) (x : Half) : (s.setHalf h x).tasks = s.tasks := by
  unfold State.setHalf; split <;> rfl
@[simp] theorem State.setHalf_mem (s : State) (h : Nat) (x : Half) : (s.setHalf h x).mem = s.mem := by
  unfold State.setHalf; split <;> rfl
@[simp] theorem State.setHalf_pool (s : State) (h : Nat) (x : Half) : (s.setHalf h x).pool = s.pool := by
  unfold State.setHalf; split <;> rfl
@[simp] theorem State.setHalf_xlt (s : State) (h : Nat) (x : Half) : (s.setHalf h x).xlt = s.xlt := by
  unfold State.setHalf; split <;> rfl
@[simp] theorem State.setHalf_que (s : State) (h : Nat) (x : Half) : (s.setHalf h x).que = s.que := by
  unfold State.setHalf; split <;> rfl
@[simp] theorem State.setHalf_fnc (s : State) (h : Nat) (x : Half) : (s.setHalf h x).fnc = s.fnc := by
  unfold State.setHalf; split <;> rfl
@[simp] theorem State.setHalf_sets (s : State) (h : Nat) (x : Half) : (s.setHalf h x).sets = s.sets := by
  unfold State.setHalf; split <;> rfl
@[simp] theorem State.setHalf_lkt (s : State) (h : Nat) (x : Half) : (s.setHalf h x).lkt = s.lkt := by
  unfold State.setHalf; split <;> rfl
@[simp] theorem State.setHalf_trb (s : State) (h : Nat) (x : Half) : (s.setHalf h x).trb = s.trb := by
  unfold State.setHalf; split <;> rfl
@[simp] theorem State.setHalf_pwr (s : State) (h : Nat) (x : Half) : (s.setHalf h x).pwr = s.pwr := by
  unfold State.setHalf; split <;> rfl
@[simp] theorem State.setHalf_pdyn (s : State) (h : Nat) (x : Half) : (s.setHalf h x).pdyn = s.pdyn := by
  unfold State.setHalf; split <;> rfl
@[simp] theorem State.setHalf_int (s : State) (h : Nat) (x : Half) : (s.setHalf h x).int = s.int := by
  unfold State.setHalf; split <;> rfl
@[simp] theorem State.setHalf_rst (s : State) (h : Nat) (x : Half) : (s.setHalf h x).rst = s.rst := by
  unfold State.setHalf; split <;> rfl
@[simp] theorem State.setHalf_test (s : State) (h : Nat) (x : Half) : (s.setHalf h x).test = s.test := by
  unfold State.setHalf; split <;> rfl
@[simp] theorem State.setHalf_mgt (s : State) (h : Nat) (x : Half) : (s.setHalf h x).mgt = s.mgt := by
  unfold State.setHalf; split <;> rfl
@[simp] theorem State.setHalf_mgt2 (s : State) (h : Nat) (x : Half) : (s.setHalf h x).mgt2 = s.mgt2 := by
  unfold State.setHalf; split <;> rfl
@[simp] theorem State.setHalf_lastRead (s : State) (h : Nat) (x : Half) : (s.setHalf h x).lastRead = s.lastRead := by
  unfold State.setHalf; split <;> rfl
@[simp] theorem State.setHalf_freeCtr (s : State) (h : Nat) (x : Half) : (s.setHalf h x).freeCtr = s.freeCtr := by
  unfold State.setHalf; split <;> rfl
@[simp] theorem State.setHalf_nextId (s : State) (h : Nat) (x : Half) : (s.setHalf h x).nextId = s.nextId := by
  unfold State.setHalf; split <;> rfl
@[simp] theorem State.setHalf_pending (s : State) (h : Nat) (x : Half) : (s.setHalf h x).pending = s.pending := by
  unfold State.setHalf; split <;> rfl
@[simp] theorem State.half_setHalf_same (s : State) (h : Nat) (x : Half) : (s.setHalf h x).half h = x := by
  unfold State.setHalf State.half; split <;> simp
theorem State.half_setHalf_other (s : State) (h k : Nat) (x : Half) (hk : (k = 0) ≠ (h = 0)) : (s.setHalf h x).half k = s.half k := by
  unfold State.setHalf State.half; by_cases h0 : h = 0 <;> by_cases k0 : k = 0 <;> simp_all

/-! ### Updates of one unit -/

theorem State.updCore_eq (s : State) (i : Nat) (f : Core → Core) : s.updCore i f = s.setCore i (f (s.core i)) := rfl
@[simp] theorem State.core_updCore_same (s : State) (i : Nat) (f : Core → Core) : (s.updCore i f).core i = f (s.core i) :=
  SMap.get_set_same _ _ _ _
theorem State.core_updCore_other (s : State) (i : Nat) (f : Core → Core) (j : Nat) (h : j ≠ i) : (s.updCore i f).core j = s.core j :=
  SMap.get_set_other _ _ _ h
theorem State.updChan_eq (s : State) (i : Nat) (f : Chan → Chan) : s.updChan i f = s.setChan i (f (s.chan i)) := rfl
@[simp] theorem State.chan_updChan_same (s : State) (i : Nat) (f : Chan → Chan) : (s.updChan i f).chan i = f (s.chan i) :=
  SMap.get_set_same _ _ _ _
theorem State.chan_updChan_other (s : State) (i : Nat) (f : Chan → Chan) (j : Nat) (h : j ≠ i) : (s.updChan i f).chan j = s.chan j :=
  SMap.get_set_other _ _ _ h
theorem State.updCtx_eq (s : State) (i : Nat) (f : Ctx → Ctx) : s.updCtx i f = s.setCtx i (f (s.ctx i)) := rfl
@[simp] theorem State.ctx_updCtx_same (s : State) (i : Nat) (f : Ctx → Ctx) : (s.updCtx i f).ctx i = f (s.ctx i) :=
  SMap.get_set_same _ _ _ _
theorem State.ctx_updCtx_other (s : State) (i : Nat) (f : Ctx → Ctx) (j : Nat) (h : j ≠ i) : (s.updCtx i f).ctx j = s.ctx j :=
  SMap.get_set_other _ _ _ h
theorem State.updSetting_eq (s : State) (i : Nat) (f : Setting → Setting) : s.updSetting i f = s.setSetting i (f (s.setting i)) := rfl
@[simp] theorem State.setting_updSetting_same (s : State) (i : Nat) (f : Setting → Setting) : (s.updSetting i f).setting i = f (s.setting i) :=
  SMap.get_set_same _ _ _ _
theorem State.setting_updSetting_other (s : State) (i : Nat) (f : Setting → Setting) (j : Nat) (h : j ≠ i) : (s.updSetting i f).setting j = s.setting j :=
  SMap.get_set_other _ _ _ h
theorem State.updSlot_eq (s : State) (i : Nat) (f : Slot → Slot) : s.updSlot i f = s.setSlot i (f (s.slot i)) := rfl
@[simp] theorem State.slot_updSlot_same (s : State) (i : Nat) (f : Slot → Slot) : (s.updSlot i f).slot i = f (s.slot i) :=
  SMap.get_set_same _ _ _ _
theorem State.slot_updSlot_other (s : State) (i : Nat) (f : Slot → Slot) (j : Nat) (h : j ≠ i) : (s.updSlot i f).slot j = s.slot j :=
  SMap.get_set_other _ _ _ h
theorem State.updPort_eq (s : State) (i : Nat) (f : Port → Port) : s.updPort i f = s.setPort i (f (s.port i)) := rfl
@[simp] theorem State.port_updPort_same (s : State) (i : Nat) (f : Port → Port) : (s.updPort i f).port i = f (s.port i) :=
  SMap.get_set_same _ _ _ _
theorem State.port_updPort_other (s : State) (i : Nat) (f : Port → Port) (j : Nat) (h : j ≠ i) : (s.updPort i f).port j = s.port j :=
  SMap.get_set_other _ _ _ h
theorem State.updDyn_eq (s : State) (i : Nat) (f : PortDyn → PortDyn) : s.updDyn i f = s.setDyn i (f (s.dyn i)) := rfl
@[simp] theorem State.dyn_updDyn_same (s : State) (i : Nat) (f : PortDyn → PortDyn) : (s.updDyn i f).dyn i = f (s.dyn i) :=
  SMap.get_set_same _ _ _ _
theorem State.dyn_updDyn_other (s : State) (i : Nat) (f : PortDyn → PortDyn) (j : Nat) (h : j ≠ i) : (s.updDyn i f).dyn j = s.dyn j :=
  SMap.get_set_other _ _ _ h
theorem State.updSq_eq (s : State) (i : Nat) (f : Sq → Sq) : s.updSq i f = s.setSq i (f (s.sq i)) := rfl
@[simp] theorem State.sq_updSq_same (s : State) (i : Nat) (f : Sq → Sq) : (s.updSq i f).sq i = f (s.sq i) :=
  SMap.get_set_same _ _ _ _
theorem State.sq_updSq_other (s : State) (i : Nat) (f : Sq → Sq) (j : Nat) (h : j ≠ i) : (s.updSq i f).sq j = s.sq j :=
  SMap.get_set_other _ _ _ h
theorem State.updCq_eq (s : State) (i : Nat) (f : CqRing → CqRing) : s.updCq i f = s.setCq i (f (s.cq i)) := rfl
@[simp] theorem State.cq_updCq_same (s : State) (i : Nat) (f : CqRing → CqRing) : (s.updCq i f).cq i = f (s.cq i) :=
  SMap.get_set_same _ _ _ _
theorem State.cq_updCq_other (s : State) (i : Nat) (f : CqRing → CqRing) (j : Nat) (h : j ≠ i) : (s.updCq i f).cq j = s.cq j :=
  SMap.get_set_other _ _ _ h
theorem State.updFq_eq (s : State) (i : Nat) (f : FqRing → FqRing) : s.updFq i f = s.setFq i (f (s.fq i)) := rfl
@[simp] theorem State.fq_updFq_same (s : State) (i : Nat) (f : FqRing → FqRing) : (s.updFq i f).fq i = f (s.fq i) :=
  SMap.get_set_same _ _ _ _
theorem State.fq_updFq_other (s : State) (i : Nat) (f : FqRing → FqRing) (j : Nat) (h : j ≠ i) : (s.updFq i f).fq j = s.fq j :=
  SMap.get_set_other _ _ _ h
theorem State.updPcore_eq (s : State) (i : Nat) (f : PCore → PCore) : s.updPcore i f = s.setPcore i (f (s.pcore i)) := rfl
@[simp] theorem State.pcore_updPcore_same (s : State) (i : Nat) (f : PCore → PCore) : (s.updPcore i f).pcore i = f (s.pcore i) :=
  SMap.get_set_same _ _ _ _
theorem State.pcore_updPcore_other (s : State) (i : Nat) (f : PCore → PCore) (j : Nat) (h : j ≠ i) : (s.updPcore i f).pcore j = s.pcore j :=
  SMap.get_set_other _ _ _ h

end Sys2Proof.Machine
end

