-- ==== Sys2Proof/Laws/Keep.lean ====
section
/-! SUPPORT. What every operation keeps: the waiting commands, the canonical form of the byte memories, the bound on interrupt
nesting and the limits of the power registers; and the accessors' part in it. -/

namespace Sys2Proof.Machine

/-- `s` comes from `r` by operations that leave the waiting commands alone and break none of the invariant's parts. -/
structure Keeps (r s : State) : Prop where
  pending : s.pending = r.pending
  wf : Memory.wf r = true → Memory.wf s = true
  nest : r.nesting → s.nesting
  lim : r.limits → s.limits
  tab : r.tables → s.tables

theorem Keeps.refl (r : State) : Keeps r r := ⟨rfl, id, id, id, id⟩

theorem Keeps.trans {r s t : State} (h : Keeps r s) (k : Keeps s t) : Keeps r t :=
  ⟨k.pending.trans h.pending, k.wf ∘ h.wf, k.nest ∘ h.nest, k.lim ∘ h.lim, k.tab ∘ h.tab⟩

/-- An operation that does not touch what the invariant speaks of. -/
theorem keeps_same {r s t : State} (h : Keeps r s) (hp : t.pending = s.pending) (hm : t.mem.chans = s.mem.chans) (hc : t.cores = s.cores)
    (hi : t.int.tgts = s.int.tgts) (hw : t.pwr.capW = s.pwr.capW) (hx : t.pwr.peakW = s.pwr.peakW)
    (hq : t.pdyn.cores = s.pdyn.cores) (hy : t.int.srcs = s.int.srcs) : Keeps r t := by
  refine h.trans ⟨hp, fun w => ?_, fun w => ?_, fun w => ?_, fun w => ?_⟩
  · simpa [Memory.wf, hm, hc] using w
  · simpa [State.nesting, State.intTgt, hi] using w
  · simpa [State.limits, hw, hx] using w
  · simpa [State.tables, hq, hy] using w

/-- The same for a state given by its fields. -/
theorem keeps_mk {r s : State}
    {x_mesh : Mesh} {x_cores : SMap Core} {x_tasks : List Task} {x_mem : Mem} {x_pool : Pool} {x_xlt : Xlt} {x_que : Que}
    {x_fnc : Fnc} {x_sets : SMap Setting} {x_lkt : Lkt} {x_trb : Trb} {x_pwr : Pwr} {x_pdyn : PwrDyn} {x_int : Intr} {x_rst
    : Rst} {x_test : SelfTest} {x_mgt : Mgt} {x_mgt2 : Mgt2} {x_lastRead : Nat} {x_freeCtr : Nat} {x_nextId : Nat}
    {x_pending : List Instr}
    (h : Keeps r s) (hp : x_pending = s.pending) (hm : x_mem.chans = s.mem.chans) (hc : x_cores = s.cores) (hi : x_int.tgts
      = s.int.tgts)
    (hw : x_pwr.capW = s.pwr.capW) (hx : x_pwr.peakW = s.pwr.peakW) (hq : x_pdyn.cores = s.pdyn.cores) (hy : x_int.srcs = s.int.srcs) :
    Keeps r (State.mk x_mesh x_cores x_tasks x_mem x_pool x_xlt x_que x_fnc x_sets x_lkt x_trb x_pwr x_pdyn x_int x_rst
      x_test x_mgt x_mgt2 x_lastRead x_freeCtr x_nextId x_pending) := keeps_same h hp hm hc hi hw hx hq hy

theorem keeps_ite {r s t : State} {c : Prop} [Decidable c] (h : c → Keeps r s) (k : ¬c → Keeps r t) : Keeps r (if c then s else t) := by
  split
  · exact h ‹_›
  · exact k ‹_›

theorem keeps_ite1 {α : Type} {r : State} {s t : State × α} {c : Prop} [Decidable c] (h : c → Keeps r s.1) (k : ¬c → Keeps r t.1) :
    Keeps r (if c then s else t).1 := by
  split
  · exact h ‹_›
  · exact k ‹_›

theorem keeps_pair {α : Type} {r t : State} {x : State × α} {a : α} (h : Keeps r x.1) (e : x = (t, a)) : Keeps r t := by
  subst e; exact h

theorem keeps_getD {base t : State} {o : Option State} (h : ∀ u, o = some u → Keeps base u) (k : Keeps base t) :
    Keeps base (o.getD t) := by
  cases o with
  | none => exact k
  | some u => exact h u rfl

theorem keeps_forAll {α : Type} {r s : State} {l : List α} {f : State → α → State} (h : Keeps r s)
    (hf : ∀ t x, Keeps r t → Keeps r (f t x)) : Keeps r (s.forAll l f) := by
  induction l generalizing s with
  | nil => exact h
  | cons x xs ih => exact ih (hf s x h)

theorem keeps_foldl {α β : Type} {r : State} {l : List α} {f : State × β → α → State × β} {a : State × β} (h : Keeps r a.1)
    (hf : ∀ t x, Keeps r t.1 → Keeps r (f t x).1) : Keeps r (l.foldl f a).1 := by
  induction l generalizing a with
  | nil => exact h
  | cons x xs ih => exact ih (hf a x h)

/-! ### Tables that hold byte memories -/

theorem SMap.all_get {α : Type} {d : Nat → α} {m : SMap α} {P : α → Prop} (h : ∀ e ∈ m, P e.2) (k : Nat) (hd : P (d k)) :
    P (SMap.get d m k) := by
  induction m with
  | nil => exact hd
  | cons e m ih =>
    obtain ⟨j, v⟩ := e
    simp only [SMap.get]
    split
    · exact h (j, v) (by simp)
    · exact ih (fun e he => h e (by simp [he]))

theorem SMap.all_set {α : Type} [DecidableEq α] {d : Nat → α} {m : SMap α} {P : α → Prop} (h : ∀ e ∈ m, P e.2) (k : Nat) {v : α}
    (hv : P v) : ∀ e ∈ SMap.set d m k v, P e.2 := by
  intro e he
  unfold SMap.set at he
  split at he
  · exact h e (List.mem_filter.1 he).1
  · rcases SMap.mem_ins he with he | he
    · subst he; exact hv
    · exact h e he

/-- The byte memories of a core. -/
abbrev Core.memWf (c : Core) : Prop := c.tm.wf = true ∧ c.im.wf = true

theorem Memory.wf_iff (s : State) : Memory.wf s = true ↔ (∀ e ∈ s.mem.chans, e.2.mem.wf = true) ∧ ∀ e ∈ s.cores, e.2.memWf := by
  simp [Memory.wf, Core.memWf]

theorem Memory.core {s : State} (h : Memory.wf s = true) (n : Nat) : (s.core n).memWf :=
  SMap.all_get (P := Core.memWf) ((Memory.wf_iff s).1 h).2 n ⟨Cells.wf_nil, Cells.wf_nil⟩

theorem Memory.chan {s : State} (h : Memory.wf s = true) (c : Nat) : (s.chan c).mem.wf = true :=
  SMap.all_get (P := fun x : Chan => x.mem.wf = true) ((Memory.wf_iff s).1 h).1 c Cells.wf_nil

theorem keeps_setCore {r s : State} {n : Nat} {x : Core} (h : Keeps r s) (hx : Memory.wf s = true → x.memWf) : Keeps r (s.setCore n x) := by
  refine h.trans ⟨rfl, fun w => ?_, id, id, id⟩
  have k := (Memory.wf_iff s).1 w
  exact (Memory.wf_iff _).2 ⟨k.1, SMap.all_set (P := Core.memWf) k.2 n (hx w)⟩

theorem keeps_updCore {r s : State} {n : Nat} {f : Core → Core} (h : Keeps r s) (hf : ∀ c, c.memWf → (f c).memWf) :
    Keeps r (s.updCore n f) := keeps_setCore h fun w => hf _ (Memory.core w n)

theorem keeps_setChan {r s : State} {n : Nat} {x : Chan} (h : Keeps r s) (hx : Memory.wf s = true → x.mem.wf = true) :
    Keeps r (s.setChan n x) := by
  refine h.trans ⟨rfl, fun w => ?_, id, id, id⟩
  have k := (Memory.wf_iff s).1 w
  exact (Memory.wf_iff _).2 ⟨SMap.all_set (P := fun x : Chan => x.mem.wf = true) k.1 n (hx w), k.2⟩

theorem keeps_updChan {r s : State} {n : Nat} {f : Chan → Chan} (h : Keeps r s) (hf : ∀ c : Chan, c.mem.wf = true → (f c).mem.wf = true) :
    Keeps r (s.updChan n f) := keeps_setChan h fun w => hf _ (Memory.chan w n)

theorem keeps_setIntTgt {r s : State} {i : Nat} {x : IntTgt} (h : Keeps r s) (hx : s.nesting → x.stack.length ≤ 8) :
    Keeps r (s.setIntTgt i x) := by
  refine h.trans ⟨rfl, id, fun w t => ?_, id, id⟩
  rw [State.intTgt_setIntTgt]
  split
  · exact hx w
  · exact w t

theorem keeps_setPcore {r s : State} {n : Nat} {x : PCore} (h : Keeps r s) : Keeps r (s.setPcore n x) :=
  h.trans ⟨rfl, id, id, id, fun w => ⟨SMap.wf_set _ _ _ _ w.1, w.2⟩⟩

theorem keeps_setIntSrc {r s : State} {n : Nat} {x : IntSrc} (h : Keeps r s) : Keeps r (s.setIntSrc n x) :=
  h.trans ⟨rfl, id, id, id, fun w => ⟨w.1, SMap.wf_set _ _ _ _ w.2⟩⟩

/-! ### The memory operations of a channel -/

theorem Chan.store_wf (ch : Chan) (sec : Nat) (bytes : List (BitVec 8)) (poison : Bool) (h : ch.mem.wf = true) :
    (ch.store sec bytes poison).mem.wf = true := Cells.wf_writeN bytes ch.mem (64 * sec) h
theorem Chan.scrubbedClean_wf (ch : Chan) : ch.scrubbedClean.mem.wf = true := Cells.wf_nil
theorem Chan.undefine_wf (ch : Chan) : ch.undefine.mem.wf = true := Cells.wf_nil

theorem Chan.inject_mem (ch : Chan) (rd first : Bool) : (ch.inject rd first).1.mem = ch.mem := by
  unfold Chan.inject; split <;> rfl

theorem readSector_mem (c : Nat) (x : Xmit) (ch : Chan) (sec i : Nat) : (readSector c x ch sec i).1.mem = ch.mem := by
  have h := Chan.inject_mem ch true (i == 0)
  unfold readSector
  dsimp only
  repeat' split
  all_goals exact h

theorem writeSector_wf (x : Xmit) (ch : Chan) (sec i : Nat) (bytes : List (BitVec 8)) (poison : Bool) (h : ch.mem.wf = true) :
    (writeSector x ch sec i bytes poison).1.mem.wf = true := by
  have k : (ch.inject false (i == 0)).1.mem.wf = true := by rw [Chan.inject_mem]; exact h
  unfold writeSector
  dsimp only
  repeat' split
  · exact Chan.store_wf _ _ _ _ k
  all_goals exact k

/-! ### Cores: what changes no byte memory -/

theorem withArch_memWf {c : Core} {f : Arch} (h : c.memWf) : ({ c with arch := f } : Core).memWf := h
theorem setArray_memWf {c : Core} {a : Nat} {x : Arr} (h : c.memWf) : (c.setArray a x).memWf := h
theorem settleCrw_memWf {c : Core} {t : Nat} (h : c.memWf) : (c.settleCrw t).memWf := h
theorem addRows_memWf {c : Core} {a : Nat} {o : TileOp} {l : List Nat} (h : c.memWf) : (addRows c a o l).memWf := by
  unfold addRows; with_reducible exact withArch_memWf h
theorem completeOp_memWf {c : Core} {a : Nat} {o : TileOp} {f : GuardSum → GuardSum} (h : c.memWf) : (completeOp c a o f).memWf := by
  have k : (addRows c a o o.left).memWf := addRows_memWf h
  unfold completeOp
  with_reducible exact setArray_memWf (withArch_memWf k)
theorem beginPass_memWf {c : Core} {a t : Nat} {o : TileOp} (h : c.memWf) : (beginPass c a t o).memWf := h
theorem clearedCore_memWf {c : Core} {n : Nat} (h : c.memWf) : (clearedCore c n).memWf := ⟨Cells.wf_nil, h.2⟩
theorem resetCore_memWf {c : Core} {n : Nat} : (resetCore c n).memWf := ⟨Cells.wf_nil, Cells.wf_nil⟩

theorem endFirst_memWf {c : Core} {a : Nat} (h : c.memWf) : (endFirst c a).memWf := by
  unfold endFirst
  dsimp only
  repeat' split
  all_goals first
    | with_reducible exact h
    | (with_reducible apply completeOp_memWf); exact ⟨h.1, h.2⟩
    | (with_reducible apply beginPass_memWf); exact ⟨h.1, h.2⟩

theorem endSecond_memWf {c : Core} {a : Nat} (h : c.memWf) : (endSecond c a).memWf := by
  unfold endSecond
  dsimp only
  repeat' split
  all_goals first
    | with_reducible exact h
    | with_reducible exact completeOp_memWf h

theorem stopOp_memWf {c : Core} {a k : Nat} (h : c.memWf) : (stopOp c a k).memWf := by
  unfold stopOp
  dsimp only
  repeat' split
  all_goals first
    | with_reducible exact h
    | with_reducible exact endFirst_memWf h
    | with_reducible exact endSecond_memWf h
    | with_reducible exact setArray_memWf h
    | with_reducible exact setArray_memWf (addRows_memWf h)

theorem stopOps_memWf (progress : List Nat) (l : List Nat) {c : Core} (h : c.memWf) :
    (l.foldl (fun c a => stopOp c a (nth progress a 0)) c).memWf := by
  induction l generalizing c with
  | nil => exact h
  | cons a l ih => exact ih (stopOp_memWf h)

/-! ### A selected source has room on the stack -/

/-- The choice of `State.selected` over a list of sources. -/
theorem selected_some {s : State} {t : Nat} (l : List (Nat × IntSrc)) (b : Option (Nat × Nat))
    (hb : b.isSome = true → (s.intTgt t).stack.length < 8)
    (h : (l.foldl (fun (best : Option (Nat × Nat)) (e : Nat × IntSrc) =>
      if s.eligible t e.1 then
        match best with
        | none => some (e.2.prio, e.1)
        | some b => if moreUrgent (e.2.prio, e.1) b then some (e.2.prio, e.1) else best
      else best) b).isSome = true) : (s.intTgt t).stack.length < 8 := by
  induction l generalizing b with
  | nil => exact hb h
  | cons e l ih =>
    refine ih _ (fun hx => ?_) h
    by_cases he : s.eligible t e.1 = true
    · simp only [State.eligible, Bool.and_eq_true, decide_eq_true_eq] at he
      exact he.1.2
    · simp only [he] at hx
      exact hb hx

theorem State.selected_room {s : State} {t i : Nat} (h : s.selected t = some i) : (s.intTgt t).stack.length < 8 := by
  refine selected_some s.int.srcs none (by simp) ?_
  have k : (s.selected t).isSome = true := by rw [h]; rfl
  unfold State.selected at k
  rwa [Option.isSome_map] at k

/-! ### Images, stores and limits -/

theorem tileStore_wf (a : Arch) (tm : Cells) (w : Nat) (h : tm.wf = true) : (tileStore a tm w).wf = true := by
  unfold tileStore
  dsimp only
  split
  · exact Cells.wf_writeN _ _ _ h
  · exact h

/-- The segments of an image stand in rising order, and no byte that reads as clear is listed. -/
theorem segmentsOf_wf (a : Arch) (l : List (BitVec 8)) : (segmentsOf a.liveList l).wf = true := by
  have zip : ∀ (k : List Nat) (i : Nat), k.Pairwise (· < ·) → (k.zipIdx i).Pairwise (fun x y => x.1 < y.1) := by
    intro k
    induction k with
    | nil => simp
    | cons x k ih =>
      intro i h
      have hc := List.pairwise_cons.1 h
      refine List.pairwise_cons.2 ⟨fun e he => hc.1 _ ?_, ih _ hc.2⟩
      rw [(List.mem_zipIdx (x := e.1) (i := e.2) he).2.2]
      exact List.getElem_mem _
  have idx : ∀ (k : List (BitVec 8)) (i : Nat), (k.zipIdx i).Pairwise (fun x y => x.2 < y.2) := by
    intro k
    induction k with
    | nil => simp
    | cons x k ih =>
      intro i
      refine List.pairwise_cons.2 ⟨fun e he => ?_, ih _⟩
      have := (List.mem_zipIdx he).1
      simp only; omega
  have low : ∀ (k : List (BitVec 8)) e, k.length ≤ 65536 → e ∈ k.zipIdx → e.2 < 65536 := by
    intro k e hl he
    have := (List.mem_zipIdx he).2.1
    omega
  refine (SMap.wf_iff _ _).2 ⟨?_, ?_⟩
  · unfold segmentsOf
    rw [List.pairwise_flatMap]
    refine ⟨fun x _ => ?_, ?_⟩
    · refine List.pairwise_map.2 (((idx _ 0).filter _).imp ?_)
      intro x y h
      simp only; omega
    · refine (zip _ 0 (List.Pairwise.filter _ List.pairwise_lt_range)).imp ?_
      intro x y h e he f hf
      simp only [List.mem_map, List.mem_filter] at he hf
      obtain ⟨b, ⟨hb, -⟩, rfl⟩ := he
      obtain ⟨d, ⟨hd, -⟩, rfl⟩ := hf
      have := low _ b (by rw [List.length_take]; exact Nat.min_le_left _ _) hb
      simp only; omega
  · intro e he
    unfold segmentsOf at he
    simp only [List.mem_flatMap, List.mem_map, List.mem_filter] at he
    obtain ⟨x, -, b, ⟨-, hb⟩, rfl⟩ := he
    simpa [zeroByte] using hb

theorem capPeak_limits {s : State} (cap peak : Nat) (h : s.limits) :
    300 ≤ (capPeak s.pwr cap peak).1 ∧ (capPeak s.pwr cap peak).1 ≤ 750 ∧ (capPeak s.pwr cap peak).1 ≤ (capPeak s.pwr cap peak).2
      ∧ (capPeak s.pwr cap peak).2 ≤ 900 := by
  unfold State.limits at h
  unfold capPeak
  dsimp only
  repeat' split
  all_goals omega

end Sys2Proof.Machine
end

