-- ==== Sys2Proof/Laws/KeepState.lean ====
section
/-! SUPPORT. One lemma per operation that changes the state, on what it keeps (`Keeps`): the registers and tables, flags, memory, translation. -/

namespace Sys2Proof.Machine

theorem State.takeFree_keeps {base s : State} (hk : Keeps base s) : Keeps base (State.takeFree s).2 :=
  keeps_same hk rfl rfl rfl rfl rfl rfl rfl rfl

theorem State.setArb_keeps (unit dir : Nat) (a : Arb) {base s : State} (hk : Keeps base s) : Keeps base (State.setArb s unit dir a) :=
  keeps_same hk rfl rfl rfl rfl rfl rfl rfl rfl

theorem grantBytes_keeps (unit dir pair n ns : Nat) {base s : State} (hk : Keeps base s) : Keeps base
    (grantBytes s unit dir pair n ns) := State.setArb_keeps _ _ _ hk

theorem State.setSlot_keeps (l : Nat) (x : Slot) {base s : State} (hk : Keeps base s) : Keeps base (State.setSlot s l x) :=
  keeps_same hk rfl rfl rfl rfl rfl rfl rfl rfl

theorem State.updSlot_keeps (l : Nat) (f : Slot → Slot) {base s : State} (hk : Keeps base s) : Keeps base (State.updSlot s l f) :=
  State.setSlot_keeps _ _ hk

theorem grantPair_keeps (pair unit dir n : Nat) {base s : State} (hk : Keeps base s) : Keeps base (grantPair s pair unit dir n) := by
  unfold grantPair
  repeat' first
    | with_reducible assumption | with_reducible apply State.takeFree_keeps | with_reducible apply grantBytes_keeps
    | with_reducible apply State.updSlot_keeps | dsimp only | split

theorem noteGrant_keeps (l f set unit dir n : Nat) {base s : State} (hk : Keeps base s) : Keeps base
    (noteGrant s l f set unit dir n) := grantPair_keeps _ _ _ _ hk

theorem chargeLocket_keeps (l : Nat) (f : Acct → Acct) {base s : State} (hk : Keeps base s) : Keeps base (chargeLocket s l f) := by
  unfold chargeLocket
  repeat' first | with_reducible assumption | with_reducible apply State.updSlot_keeps | split

theorem State.setCtx_keeps (n : Nat) (c : Ctx) {base s : State} (hk : Keeps base s) : Keeps base (State.setCtx s n c) :=
  keeps_same hk rfl rfl rfl rfl rfl rfl rfl rfl

theorem State.updCtx_keeps (n : Nat) (f : Ctx → Ctx) {base s : State} (hk : Keeps base s) : Keeps base (State.updCtx s n f) :=
  State.setCtx_keeps _ _ hk

theorem charge_keeps (ctx l : Nat) (f : Acct → Acct) {base s : State} (hk : Keeps base s) : Keeps base (charge s ctx l f) := by
  unfold charge
  repeat' first
    | with_reducible assumption | with_reducible apply chargeLocket_keeps | with_reducible apply State.updCtx_keeps | split

theorem countSeam_keeps (ctx l n : Nat)
    {base s : State} (hk : Keeps base s) : Keeps base (countSeam s ctx l n) := charge_keeps _ _ _ hk

theorem crossSeam_keeps (l f ctx from' to' n : Nat) {base s : State} (hk : Keeps base s) : Keeps base
    (crossSeam s l f ctx from' to' n) := by
  unfold crossSeam
  repeat' first
    | with_reducible apply noteGrant_keeps | with_reducible apply countSeam_keeps | split
    | with_reducible exact keeps_same hk rfl rfl rfl rfl rfl rfl rfl rfl

theorem State.dropJob_keeps (jid : Nat) {base s : State} (hk : Keeps base s) : Keeps base (State.dropJob s jid) :=
  keeps_same hk rfl rfl rfl rfl rfl rfl rfl rfl

theorem State.dropTask_keeps (tid : Nat) {base s : State} (hk : Keeps base s) : Keeps base (State.dropTask s tid) :=
  keeps_same hk rfl rfl rfl rfl rfl rfl rfl rfl

theorem State.fresh_keeps {base s : State} (hk : Keeps base s) : Keeps base (State.fresh s).2 :=
  keeps_same hk rfl rfl rfl rfl rfl rfl rfl rfl

theorem State.setDie_keeps (d : Nat) (x : Die) {base s : State} (hk : Keeps base s) : Keeps base (State.setDie s d x) :=
  keeps_same hk rfl rfl rfl rfl rfl rfl rfl rfl

theorem State.setPcore_keeps (n : Nat) (x : PCore) {base s : State} (hk : Keeps base s) : Keeps base (State.setPcore s n x) :=
  keeps_setPcore hk

theorem State.updPcore_keeps (n : Nat) (f : PCore → PCore) {base s : State} (hk : Keeps base s) : Keeps base (State.updPcore s n f) :=
  State.setPcore_keeps _ _ hk

theorem State.powerUpCore_keeps (n : Nat) {base s : State} (hk : Keeps base s) : Keeps base (State.powerUpCore s n) := by
  unfold State.powerUpCore
  repeat' first
    | with_reducible assumption | with_reducible apply State.setDie_keeps | with_reducible apply State.updPcore_keeps
    | with_reducible apply keeps_updCore | intro _

theorem State.setCq_keeps (c : Nat) (x : CqRing) {base s : State} (hk : Keeps base s) : Keeps base (State.setCq s c x) :=
  keeps_same hk rfl rfl rfl rfl rfl rfl rfl rfl

theorem State.setDyn_keeps (p : Nat) (x : PortDyn) {base s : State} (hk : Keeps base s) : Keeps base (State.setDyn s p x) :=
  keeps_same hk rfl rfl rfl rfl rfl rfl rfl rfl

theorem State.setEv_keeps (f : Nat) (x : EvRing) {base s : State} (hk : Keeps base s) : Keeps base (State.setEv s f x) :=
  keeps_same hk rfl rfl rfl rfl rfl rfl rfl rfl

theorem State.setFar_keeps (e : Nat) (l : List RangeEnt) {base s : State} (hk : Keeps base s) : Keeps base (State.setFar s e l) := by
  unfold State.setFar
  repeat' first | split | with_reducible exact keeps_same hk rfl rfl rfl rfl rfl rfl rfl rfl

theorem State.setFence_keeps (i : Nat) (x : Fence) {base s : State} (hk : Keeps base s) : Keeps base (State.setFence s i x) :=
  keeps_same hk rfl rfl rfl rfl rfl rfl rfl rfl

theorem State.setFq_keeps (l : Nat) (x : FqRing) {base s : State} (hk : Keeps base s) : Keeps base (State.setFq s l x) :=
  keeps_same hk rfl rfl rfl rfl rfl rfl rfl rfl

theorem State.setHalf_keeps (h : Nat) (x : Half) {base s : State} (hk : Keeps base s) : Keeps base (State.setHalf s h x) := by
  unfold State.setHalf
  repeat' first | split | with_reducible exact keeps_same hk rfl rfl rfl rfl rfl rfl rfl rfl

theorem State.setHomeRec_keeps (b : Nat) (x : HomeRec) {base s : State} (hk : Keeps base s) : Keeps base (State.setHomeRec s b x) :=
  keeps_same hk rfl rfl rfl rfl rfl rfl rfl rfl

theorem State.setIntSrc_keeps (i : Nat) (x : IntSrc) {base s : State} (hk : Keeps base s) : Keeps base (State.setIntSrc s i x) :=
  keeps_setIntSrc hk

theorem State.setPend_keeps (e : Nat) (v : Option Nat) {base s : State} (hk : Keeps base s) : Keeps base (State.setPend s e v) := by
  unfold State.setPend
  repeat' first
    | with_reducible assumption | with_reducible apply keeps_updCore
    | with_reducible exact keeps_same hk rfl rfl rfl rfl rfl rfl rfl rfl | refine keeps_ite (fun _ => ?_) (fun _ => ?_) | intro _

theorem State.setPort_keeps (p : Nat) (x : Port) {base s : State} (hk : Keeps base s) : Keeps base (State.setPort s p x) :=
  keeps_same hk rfl rfl rfl rfl rfl rfl rfl rfl

theorem State.setSetting_keeps (i : Nat) (x : Setting) {base s : State} (hk : Keeps base s) : Keeps base (State.setSetting s i x) :=
  keeps_same hk rfl rfl rfl rfl rfl rfl rfl rfl

theorem State.setSq_keeps (q : Nat) (x : Sq) {base s : State} (hk : Keeps base s) : Keeps base (State.setSq s q x) :=
  keeps_same hk rfl rfl rfl rfl rfl rfl rfl rfl

theorem State.setTagKeys_keeps (t : Nat) (x : TagKeys) {base s : State} (hk : Keeps base s) : Keeps base (State.setTagKeys s t x) :=
  keeps_same hk rfl rfl rfl rfl rfl rfl rfl rfl

theorem State.setTdi_keeps (l v : Nat) {base s : State} (hk : Keeps base s) : Keeps base (State.setTdi s l v) :=
  keeps_same hk rfl rfl rfl rfl rfl rfl rfl rfl

theorem State.setWalk_keeps (e : Nat) (w : Option Walk) {base s : State} (hk : Keeps base s) : Keeps base (State.setWalk s e w) :=
  keeps_same hk rfl rfl rfl rfl rfl rfl rfl rfl

theorem State.updArr_keeps (n a : Nat) (f : Arr → Arr) {base s : State} (hk : Keeps base s) : Keeps base (State.updArr s n a f) := by
  unfold State.updArr
  repeat' first | with_reducible assumption | with_reducible apply keeps_updCore | intro _ | with_reducible apply setArray_memWf

theorem State.updCq_keeps (c : Nat) (f : CqRing → CqRing) {base s : State} (hk : Keeps base s) : Keeps base (State.updCq s c f) :=
  State.setCq_keeps _ _ hk

theorem State.updSq_keeps (q : Nat) (f : Sq → Sq) {base s : State} (hk : Keeps base s) : Keeps base (State.updSq s q f) :=
  State.setSq_keeps _ _ hk

theorem State.updDesc_keeps (q idx : Nat) (f : Desc → Desc) {base s : State} (hk : Keeps base s) : Keeps base
    (State.updDesc s q idx f) := State.updSq_keeps _ _ hk

theorem State.updDyn_keeps (p : Nat) (f : PortDyn → PortDyn) {base s : State} (hk : Keeps base s) : Keeps base (State.updDyn s p f) :=
  State.setDyn_keeps _ _ hk

theorem State.updFq_keeps (l : Nat) (f : FqRing → FqRing) {base s : State} (hk : Keeps base s) : Keeps base (State.updFq s l f) :=
  State.setFq_keeps _ _ hk

theorem State.updHalf_keeps (h : Nat) (f : Half → Half) {base s : State} (hk : Keeps base s) : Keeps base (State.updHalf s h f) :=
  State.setHalf_keeps _ _ hk

theorem State.updJob_keeps (jid : Nat) (f : Job → Job) {base s : State} (hk : Keeps base s) : Keeps base (State.updJob s jid f) :=
  keeps_same hk rfl rfl rfl rfl rfl rfl rfl rfl

theorem State.updPort_keeps (p : Nat) (f : Port → Port) {base s : State} (hk : Keeps base s) : Keeps base (State.updPort s p f) :=
  State.setPort_keeps _ _ hk

theorem State.updSetting_keeps (i : Nat) (f : Setting → Setting) {base s : State} (hk : Keeps base s) : Keeps base
    (State.updSetting s i f) := State.setSetting_keeps _ _ hk

theorem State.updTask_keeps (tid : Nat) (f : Task → Task) {base s : State} (hk : Keeps base s) : Keeps base (State.updTask s tid f) :=
  keeps_same hk rfl rfl rfl rfl rfl rfl rfl rfl

theorem countPcie_keeps (ctx n : Nat) {base s : State} (hk : Keeps base s) : Keeps base (countPcie s ctx n) := by
  unfold countPcie
  repeat' first | with_reducible assumption | with_reducible apply charge_keeps | split

theorem notePcie_keeps (l f ctx dir n : Nat) {base s : State} (hk : Keeps base s) : Keeps base (notePcie s l f ctx dir n) := by
  unfold notePcie
  repeat' first | with_reducible assumption | with_reducible apply noteGrant_keeps | with_reducible apply countPcie_keeps

theorem hostSend_keeps (m : HostOut) {base s : State} (hk : Keeps base s) : Keeps base (hostSend s m) := by
  unfold hostSend
  repeat' first | with_reducible exact keeps_same hk rfl rfl rfl rfl rfl rfl rfl rfl

theorem sendMsi_keeps (f v : Nat) {base s : State} (hk : Keeps base s) : Keeps base (sendMsi s f v) := by
  unfold sendMsi
  repeat' first | split | with_reducible exact keeps_same hk rfl rfl rfl rfl rfl rfl rfl rfl

theorem emit_keeps (f : Nat) (r : Ring) (irq : Bool) (x : Record) (facet : Nat) {base s0 : State} (hk : Keeps base s0) :
    Keeps base (emit s0 f r irq x facet) := by
  have h : Keeps base (hostSend (notePcie s0 x.locket facet x.ctx 0 32) (.record f r.addr r.prod.toNat r.phase x)) :=
    hostSend_keeps _ (notePcie_keeps _ _ _ _ _ hk)
  exact keeps_ite (fun _ => sendMsi_keeps _ _ h) fun _ => h

theorem ageCredits_keeps (unit dir ns : Nat) {base s : State} (hk : Keeps base s) : Keeps base (ageCredits s unit dir ns) := by
  unfold ageCredits
  repeat' first | with_reducible assumption | with_reducible apply State.setArb_keeps

theorem raise_keeps (i : Nat) {base s : State} (hk : Keeps base s) : Keeps base (raise s i) := by
  unfold raise
  repeat' first | with_reducible assumption | with_reducible apply State.setIntSrc_keeps | split

theorem countTrb_keeps (ctx l n : Nat) {base s : State} (hk : Keeps base s) : Keeps base (countTrb s ctx l n) := charge_keeps _ _ _ hk

theorem countParked_keeps (unit : Nat) {base s : State} (hk : Keeps base s) : Keeps base (countParked s unit) :=
  keeps_same hk rfl rfl rfl rfl rfl rfl rfl rfl

theorem chanAnswers_keeps (c st : Nat) {base s : State} (hk : Keeps base s) : Keeps base (chanAnswers s c st).1 :=
  keeps_ite (fun _ => countParked_keeps _ hk) fun _ => hk

theorem loseEv_keeps (f : Nat) (x : Record)
    {base s : State} (hk : Keeps base s) : Keeps base (loseEv s f x) := State.setEv_keeps _ _ hk

theorem emitEv_keeps (f : Nat) (x : Record) {base s : State} (hk : Keeps base s) : Keeps base (emitEv s f x) := by
  unfold emitEv
  repeat' first | with_reducible assumption | with_reducible apply emit_keeps | with_reducible apply State.setEv_keeps

theorem putEv_keeps (f : Nat) (x : Record) {base s : State} (hk : Keeps base s) : Keeps base (putEv s f x) := by
  unfold putEv
  repeat' first | with_reducible apply emitEv_keeps | split | with_reducible exact keeps_same hk rfl rfl rfl rfl rfl rfl rfl rfl

theorem logEntry_keeps (kind sev code unit value : Nat) (r : Option Record) {base s : State} (hk : Keeps base s) : Keeps base
    (logEntry s kind sev code unit value r) := keeps_same hk rfl rfl rfl rfl rfl rfl rfl rfl

theorem platformEvent_keeps (m : PlatformMsg) {base s : State} (hk : Keeps base s) : Keeps base (platformEvent s m) := by
  unfold platformEvent
  repeat' first | with_reducible exact keeps_same hk rfl rfl rfl rfl rfl rfl rfl rfl | split

theorem postEvent_keeps (x : Record) {base s : State} (hk : Keeps base s) : Keeps base (postEvent s x) := by
  unfold postEvent
  repeat' first
    | with_reducible assumption | with_reducible apply putEv_keeps | with_reducible apply logEntry_keeps
    | with_reducible apply platformEvent_keeps | refine keeps_ite (fun _ => ?_) (fun _ => ?_)

theorem poisonEvent_keeps (c sec : Nat) (w : Cause) {base s : State} (hk : Keeps base s) : Keeps base (poisonEvent s c sec w) :=
  postEvent_keeps _ hk

theorem failChannel_keeps (c sec : Nat) {base s : State} (hk : Keeps base s) : Keeps base (failChannel s c sec) := by
  unfold failChannel
  repeat' first
    | with_reducible apply raise_keeps | with_reducible apply postEvent_keeps | with_reducible apply keeps_setChan
    | with_reducible exact keeps_same hk rfl rfl rfl rfl rfl rfl rfl rfl | intro _ | exact Memory.chan (by assumption) _

theorem settleXfer_keeps (c sec : Nat) (ch : Chan) (e : Xfer) (data : List (BitVec 8)) (w : Cause)
    {base s : State} (hk : Keeps base s) (hch : Memory.wf s = true → ch.mem.wf = true) :
    Keeps base (settleXfer s c sec ch e data w).1 := by
  have h1 : Keeps base (s.setChan c ch) := keeps_setChan hk hch
  have h2 : Keeps base (if w.counted then s.setChan c ch else (s.setChan c ch).updChan c (fun x => x.countPoison sec w.wr)) :=
    keeps_ite (fun _ => h1) fun _ => keeps_updChan h1 fun c h => h
  unfold settleXfer
  dsimp only
  split
  · exact h1
  · exact raise_keeps _ h2
  · exact raise_keeps _ (poisonEvent_keeps _ _ _ h2)
  · exact failChannel_keeps _ _ h1

theorem homeRead_keeps (c sec i : Nat) (x : Xmit) (w : Cause) {base s : State} (hk : Keeps base s) :
    Keeps base (homeRead s c sec i x w).1 := by
  unfold homeRead
  split
  · exact chanAnswers_keeps _ _ hk
  · have h1 : Memory.wf s = true → (readSector c x ((s.chan c).correct x) sec i).1.mem.wf = true := by
      intro wf; rw [readSector_mem]; exact Memory.chan wf c
    exact settleXfer_keeps _ _ _ _ _ _ hk h1

theorem countDram_keeps (ctx l n : Nat)
    {base s : State} (hk : Keeps base s) : Keeps base (countDram s ctx l n) := charge_keeps _ _ _ hk

theorem noteOwn_keeps (l : Labels) (c n : Nat) (ok : Bool)
    {base s : State} (hk : Keeps base s) : Keeps base (noteOwn s l c n ok) := by
  unfold noteOwn
  repeat' first
    | with_reducible assumption | with_reducible apply noteGrant_keeps | with_reducible apply crossSeam_keeps
    | with_reducible apply countDram_keeps | split

theorem makeRunnable_keeps (tid : Nat) {base s : State} (hk : Keeps base s) : Keeps base (makeRunnable s tid) := by
  unfold makeRunnable
  repeat' first | with_reducible assumption | with_reducible apply State.fresh_keeps | with_reducible apply State.updTask_keeps

theorem runAgain_keeps (tid : Nat) {base s : State} (hk : Keeps base s) : Keeps base (runAgain s tid) := by
  unfold runAgain
  repeat' first
    | with_reducible assumption | with_reducible apply State.updTask_keeps | with_reducible apply makeRunnable_keeps | split

theorem undefer_keeps (e : Nat) {base s : State} (hk : Keeps base s) : Keeps base (undefer s e) := by
  unfold undefer
  repeat' first
    | with_reducible apply runAgain_keeps | intro _
    | (with_reducible refine keeps_mk ?_ rfl rfl rfl rfl rfl rfl rfl rfl; first
        | with_reducible assumption | with_reducible apply keeps_forAll)

theorem clearPend_keeps (e : Nat) {base s : State} (hk : Keeps base s) : Keeps base (clearPend s e) := by
  unfold clearPend
  repeat' first | with_reducible assumption | with_reducible apply undefer_keeps | with_reducible apply State.setPend_keeps

theorem setOut_keeps (l : List OutEnt) {base s : State} (hk : Keeps base s) : Keeps base (setOut s l) :=
  keeps_same hk rfl rfl rfl rfl rfl rfl rfl rfl

theorem postFault_keeps (entry : Nat) {base s : State} (hk : Keeps base s) : Keeps base (postFault s entry) := by
  unfold postFault
  repeat' first
    | with_reducible assumption | with_reducible apply State.setFq_keeps | with_reducible apply emit_keeps
    | with_reducible apply logEntry_keeps | split

theorem holdFault_keeps (o : OutEnt) {base s : State} (hk : Keeps base s) : Keeps base (holdFault s o) := by
  unfold holdFault
  repeat' first
    | dsimp only | split
    | (with_reducible refine keeps_mk ?_ rfl rfl rfl rfl rfl rfl rfl rfl; first
        | with_reducible assumption | with_reducible apply State.setPend_keeps | with_reducible apply postEvent_keeps
        | with_reducible apply State.setFq_keeps)

theorem raiseFault_keeps (f : FaultRec) {base s : State} (hk : Keeps base s) : Keeps base (raiseFault s f).1 := by
  unfold raiseFault
  repeat' first
    | dsimp only | split
    | (with_reducible refine keeps_mk ?_ rfl rfl rfl rfl rfl rfl rfl rfl; first
        | with_reducible assumption | with_reducible apply raise_keeps | with_reducible apply setOut_keeps
        | with_reducible apply State.updFq_keeps | with_reducible apply State.setPend_keeps | with_reducible apply postFault_keeps
        | apply holdFault_keeps)

theorem admitHeld_keeps (x1 : Nat) {base s : State} (hk : Keeps base s) : Keeps base (admitHeld s x1) := by
  induction x1 generalizing s with
  | zero => exact hk
  | succ m ih =>
    unfold admitHeld
    repeat' first
      | with_reducible apply raiseFault_keeps | with_reducible apply State.setPend_keeps | with_reducible apply undefer_keeps
      | apply ih | split | with_reducible exact keeps_same hk rfl rfl rfl rfl rfl rfl rfl rfl

theorem endEntries_keeps (p : OutEnt → Bool) {base s : State} (hk : Keeps base s) : Keeps base (endEntries s p) := by
  unfold endEntries
  repeat' first
    | with_reducible apply clearPend_keeps | with_reducible apply raise_keeps | with_reducible apply admitHeld_keeps
    | with_reducible apply keeps_forAll | with_reducible exact keeps_same hk rfl rfl rfl rfl rfl rfl rfl rfl
    | refine keeps_ite (fun _ => ?_) (fun _ => ?_) | intro _

theorem jobFault_keeps (j : Job) (kind access va pos : Nat) (e : Option RangeEnt) {base s : State} (hk : Keeps base s) : Keeps base
    (jobFault s j kind access va pos e) := by
  unfold jobFault
  repeat' first
    | with_reducible assumption | with_reducible apply State.fresh_keeps | with_reducible apply raiseFault_keeps
    | with_reducible apply State.updJob_keeps | with_reducible apply raise_keeps | with_reducible apply State.setWalk_keeps | split

theorem forwardTo_keeps (c sec i : Nat) (x : Xmit) (w : Cause) (d : Nat) {base : State} {r : State × List Nat} (hk : Keeps base r.1) :
    Keeps base (forwardTo c sec i x w r d).1 := by
  unfold forwardTo
  exact keeps_ite1 (fun _ => settleXfer_keeps _ _ _ _ _ _ hk fun wf => writeSector_wf _ _ _ _ _ _ (Memory.chan wf d))
    fun _ => keeps_setChan hk fun wf => Memory.chan wf d

theorem forward_keeps (c sec i : Nat) (x : Xmit) (w : Cause)
    {base s : State} (hk : Keeps base s) : Keeps base (forward s c sec i x w).1 :=
  keeps_foldl hk fun _ d h => forwardTo_keeps _ _ _ _ _ d h

theorem settleWrite_keeps (c sec i : Nat) (ch : Chan) (e : Xfer) (ret : List (BitVec 8)) (x : Xmit) (w : Cause) {base s : State}
    (hk : Keeps base s) (hch : Memory.wf s = true → ch.mem.wf = true) : Keeps base (settleWrite s c sec i ch e ret x w).1 :=
  forward_keeps _ _ _ _ _ (settleXfer_keeps _ _ _ _ _ _ hk hch)

theorem dropRanges_keeps (p : RangeEnt → Bool) {base s : State} (hk : Keeps base s) : Keeps base (dropRanges s p) := by
  unfold dropRanges
  repeat' first
    | with_reducible assumption | intro _
    | (with_reducible refine keeps_mk ?_ rfl rfl rfl rfl rfl rfl rfl rfl; first
        | with_reducible apply keeps_updCore | with_reducible apply keeps_forAll)

theorem markFence_keeps (c sec : Nat) (b : Bool) {base s : State} (hk : Keeps base s) : Keeps base (markFence s c sec b) := by
  unfold markFence
  repeat' first | with_reducible assumption | with_reducible apply keeps_updChan | with_reducible apply keeps_forAll | intro _

theorem reply_keeps (code : Nat) (bytes : List (BitVec 8)) {base s : State} (hk : Keeps base s) : Keeps base (reply s code bytes) :=
  keeps_same hk rfl rfl rfl rfl rfl rfl rfl rfl

theorem answerRead_keeps (v : Nat) {base s : State} (hk : Keeps base s) : Keeps base (answerRead s v) :=
  keeps_same hk rfl rfl rfl rfl rfl rfl rfl rfl

theorem coreFault_keeps (n cause slot ctx pc : Nat) {base s : State} (hk : Keeps base s) : Keeps base
    (coreFault s n cause slot ctx pc) := by
  unfold coreFault
  repeat' first | with_reducible assumption | with_reducible apply raise_keeps | with_reducible apply keeps_updCore | intro _

theorem postCopy_keeps (x : Record) (l : Nat) {base s : State} (hk : Keeps base s) : Keeps base (postCopy s x l) := putEv_keeps _ _ hk

theorem homeWrite_keeps (c sec i : Nat) (bytes : List (BitVec 8)) (poison : Bool) (x : Xmit) (w : Cause) {base s : State}
    (hk : Keeps base s) : Keeps base (homeWrite s c sec i bytes poison x w).1 := by
  unfold homeWrite
  split
  · exact chanAnswers_keeps _ _ hk
  · exact keeps_ite1 (fun _ => hk) fun _ =>
      settleWrite_keeps _ _ _ _ _ _ _ _ hk fun wf => writeSector_wf _ _ _ _ _ _ (Memory.chan wf c)

theorem modifySector_keeps (c sec i : Nat) (fn : List (BitVec 8) → Option (List (BitVec 8)) × List (BitVec 8)) (x : Xmit) (w : Cause)
    {base s : State} (hk : Keeps base s) : Keeps base (modifySector s c sec i fn x w).1 := by
  have h1 : Memory.wf s = true → (readSector c x ((s.chan c).correct x) sec i).1.mem.wf = true := by
    intro wf; rw [readSector_mem]; exact Memory.chan wf c
  unfold modifySector
  revert h1
  generalize readSector c x ((s.chan c).correct x) sec i = q
  intro h1
  obtain ⟨ch1, r, bytes⟩ := q
  dsimp only
  split
  · split
    · exact keeps_setChan hk h1
    · exact settleWrite_keeps _ _ _ _ _ _ _ _ hk fun wf => writeSector_wf _ _ _ _ _ _ (h1 wf)
  · exact settleXfer_keeps _ _ _ _ _ _ hk h1

theorem homeModify_keeps (c sec i : Nat) (fn : List (BitVec 8) → List (BitVec 8) × List (BitVec 8)) (x : Xmit) (w : Cause)
    {base s : State} (hk : Keeps base s) : Keeps base (homeModify s c sec i fn x w).1 := by
  unfold homeModify
  split
  · exact chanAnswers_keeps _ _ hk
  · exact keeps_ite1 (fun _ => hk) fun _ => modifySector_keeps _ _ _ _ _ _ hk

theorem homeStore_keeps (c sec i lo : Nat) (bytes : List (BitVec 8)) (poison : Bool) (x : Xmit) (w : Cause) {base s : State}
    (hk : Keeps base s) : Keeps base (homeStore s c sec i lo bytes poison x w).1 :=
  keeps_ite1 (fun _ => homeWrite_keeps _ _ _ _ _ _ _ hk) fun _ => homeModify_keeps _ _ _ _ _ _ hk

theorem homeAtom_keeps (c sec lo op size : Nat) (a b : BitVec 64) (x : Xmit) (w : Cause) {base s : State} (hk : Keeps base s) :
    Keeps base (homeAtom s c sec lo op size a b x w).1 := homeModify_keeps _ _ _ _ _ _ hk

theorem tableRead_keeps (l : Labels) (dpa : Nat) (x : Xmit)
    {base s : State} (hk : Keeps base s) : Keeps base (tableRead s l dpa x).1 := by
  unfold tableRead
  split
  · exact hk
  · exact noteOwn_keeps _ _ _ _ (homeRead_keeps _ _ _ _ _ hk)

theorem walkRead_keeps (l : Labels) (root va : Nat) (st : WalkStage) (x : Xmit) {base s : State} (hk : Keeps base s) : Keeps base
    (walkRead s l root va st x).1 := by
  unfold walkRead
  repeat' first
    | with_reducible assumption | with_reducible apply tableRead_keeps | refine keeps_pair ?_ (by assumption) | dsimp only | split

theorem walkAll_keeps (l : Labels) (root va n : Nat) (st : WalkStage) {base s : State} (hk : Keeps base s) :
    Keeps base (walkAll s l root va n st).1 := by
  induction n generalizing s st with
  | zero => exact hk
  | succ n ih =>
    have h1 := walkRead_keeps l root va st {} hk
    unfold walkAll
    split
    · rename_i s1 st' e
      exact ih _ (keeps_pair h1 e)
    · exact h1

theorem walkVa_keeps (l : Labels) (root va : Nat) {base s : State} (hk : Keeps base s) : Keeps base (walkVa s l root va).1 := by
  unfold walkVa
  repeat' first | with_reducible assumption | with_reducible apply walkAll_keeps | split

theorem taskFault_keeps (n : Nat) (t : Task) (o : StreamOp) (kind access va pos : Nat) (e : Option RangeEnt) {base s : State}
    (hk : Keeps base s) : Keeps base (taskFault s n t o kind access va pos e) := by
  unfold taskFault
  repeat' first
    | with_reducible assumption | with_reducible apply State.fresh_keeps | with_reducible apply raiseFault_keeps
    | with_reducible apply coreFault_keeps | with_reducible apply State.updTask_keeps | with_reducible apply State.setWalk_keeps
    | with_reducible apply keeps_updCore | intro _

theorem releaseTask_keeps (tid : Nat) {base s : State} (hk : Keeps base s) : Keeps base (releaseTask s tid) := by
  unfold releaseTask
  repeat' first | with_reducible assumption | with_reducible apply runAgain_keeps | split

theorem releaseJob_keeps (jid : Nat) {base s : State} (hk : Keeps base s) : Keeps base (releaseJob s jid) := by
  unfold releaseJob
  repeat' first | with_reducible assumption | with_reducible apply jobPump_keeps | with_reducible apply State.updJob_keeps

theorem retryWaiter_keeps (x1 : Waiter) {base s : State} (hk : Keeps base s) : Keeps base (retryWaiter s x1) := by
  unfold retryWaiter
  repeat' first | with_reducible assumption | with_reducible apply releaseTask_keeps | with_reducible apply releaseJob_keeps | split

theorem dropHeld_keeps (e : Nat) {base s : State} (hk : Keeps base s) : Keeps base (dropHeld s e) := by
  unfold dropHeld
  repeat' first
    | with_reducible apply clearPend_keeps | with_reducible apply endEntries_keeps | with_reducible apply retryWaiter_keeps
    | with_reducible apply keeps_forAll | with_reducible exact keeps_same hk rfl rfl rfl rfl rfl rfl rfl rfl | intro _

theorem flushHeld_keeps (x1 : Nat) {base s : State} (hk : Keeps base s) : Keeps base (flushHeld s x1) := by
  induction x1 generalizing s with
  | zero => exact hk
  | succ m ih =>
    unfold flushHeld
    repeat' first
      | with_reducible apply emitEv_keeps | apply ih | dsimp only | split
      | with_reducible exact keeps_same hk rfl rfl rfl rfl rfl rfl rfl rfl

theorem flushEv_keeps (f : Nat) {base s : State} (hk : Keeps base s) : Keeps base (flushEv s f) := by
  unfold flushEv
  repeat' first
    | with_reducible assumption | with_reducible apply flushHeld_keeps | with_reducible apply emitEv_keeps
    | with_reducible apply State.setEv_keeps | with_reducible apply putEv_keeps | dsimp only | split

theorem flushFq_keeps (l x2 : Nat) {base s : State} (hk : Keeps base s) : Keeps base (flushFq s l x2) := by
  induction x2 generalizing s l with
  | zero => exact hk
  | succ m ih =>
    unfold flushFq
    repeat' first
      | with_reducible apply clearPend_keeps | with_reducible apply postFault_keeps | apply ih | split
      | with_reducible exact keeps_same hk rfl rfl rfl rfl rfl rfl rfl rfl

end Sys2Proof.Machine
end

