-- ==== Sys2Proof/Laws/KeepTasks.lean ====
section
/-! SUPPORT. One lemma per operation that changes the state, on what it keeps (`Keeps`): packets, requests, submission and completion, tasks, bundles, arrays. -/

set_option maxRecDepth 2000

namespace Sys2Proof.Machine

theorem Req.cross_keeps (r : Req) (a b n : Nat) {base s : State} (hk : Keeps base s) : Keeps base (Req.cross r s a b n) :=
  crossSeam_keeps _ _ _ _ _ _ hk

theorem dropReqs_keeps (p : Src → Bool) {base s : State} (hk : Keeps base s) : Keeps base (dropReqs s p) := by
  unfold dropReqs
  repeat' first
    | with_reducible apply State.updDyn_keeps | with_reducible apply keeps_forAll
    | with_reducible exact keeps_same hk rfl rfl rfl rfl rfl rfl rfl rfl | intro _

theorem abandonReads_keeps (t : Task) {base s : State} (hk : Keeps base s) : Keeps base (abandonReads s t) := by
  unfold abandonReads
  repeat' first | with_reducible assumption | with_reducible apply dropReqs_keeps | with_reducible apply State.updTask_keeps

theorem freeSlots_keeps (q n : Nat) {base s : State} (hk : Keeps base s) : Keeps base (freeSlots s q n) := by
  unfold freeSlots
  repeat' first | with_reducible assumption | with_reducible apply State.updCq_keeps

theorem drainQueue_keeps (q : Nat) {base s : State} (hk : Keeps base s) : Keeps base (drainQueue s q) := State.updSq_keeps _ _ hk

theorem completeDesc_keeps (q idx : Nat) {base s : State} (hk : Keeps base s) : Keeps base (completeDesc s q idx) := by
  unfold completeDesc
  repeat' first
    | with_reducible assumption | with_reducible apply freeSlots_keeps | with_reducible apply State.updSq_keeps
    | with_reducible apply notePcie_keeps | with_reducible apply emit_keeps | with_reducible apply State.setCq_keeps
    | with_reducible apply drainQueue_keeps | split

theorem launchReq_keeps (w : Sender) (kind : ReqKind) (place : Place) (dpa len : Nat) (data : List (BitVec 8)) (set epoch : Nat)
    {base s : State} (hk : Keeps base s) : Keeps base (launchReq s w kind place dpa len data set epoch) := by
  unfold launchReq
  repeat' first | dsimp only | split | with_reducible exact keeps_same hk rfl rfl rfl rfl rfl rfl rfl rfl

theorem protect_keeps (port : Nat) (k : Packet) {base s : State} (hk : Keeps base s) : ∀ u, protect s port k = some u →
    Keeps base u.1 := by
  unfold protect
  intro u hu
  repeat' first
    | contradiction | (obtain rfl := Option.some.inj hu) | split at hu | dsimp only at hu
    | with_reducible exact keeps_same hk rfl rfl rfl rfl rfl rfl rfl rfl

theorem countEdge_keeps (p : Nat) (wasZero : Bool) {base s : State} (hk : Keeps base s) : Keeps base (countEdge s p wasZero) := by
  unfold countEdge
  repeat' first | with_reducible assumption | with_reducible apply raise_keeps | split

theorem countExpired_keeps (p : Nat) {base s : State} (hk : Keeps base s) : Keeps base (countExpired s p) := by
  unfold countExpired
  repeat' first | with_reducible assumption | with_reducible apply countEdge_keeps | with_reducible apply State.setDyn_keeps

theorem sendFlit_keeps (p vc : Nat) (f : Flit) {base s : State} (hk : Keeps base s) : Keeps base (sendFlit s p vc f) :=
  State.setDyn_keeps _ _ hk

theorem txFlit_keeps (p wait k i : Nat) (q : Queued) {base s : State} (hk : Keeps base s) : Keeps base (txFlit s p wait k i q) := by
  unfold txFlit
  repeat' first
    | with_reducible assumption | with_reducible apply countExpired_keeps | with_reducible apply State.setDyn_keeps
    | with_reducible apply sendFlit_keeps | with_reducible apply grantPair_keeps | refine keeps_ite (fun _ => ?_) (fun _ => ?_)

theorem txPump_keeps (p wait x3 : Nat) {base s : State} (hk : Keeps base s) : Keeps base (txPump s p wait x3) := by
  induction x3 generalizing s p wait with
  | zero => exact hk
  | succ m ih =>
    unfold txPump
    repeat' first
      | with_reducible assumption | apply ih | with_reducible apply State.takeFree_keeps | with_reducible apply ageCredits_keeps
      | with_reducible apply txFlit_keeps | dsimp only | split

theorem enqueue_keeps (p vc budget resid pair : Nat) (bytes : List (BitVec 8))
    {base s : State} (hk : Keeps base s) : Keeps base (enqueue s p vc budget resid pair bytes) := by
  unfold enqueue
  repeat' first
    | with_reducible assumption | with_reducible apply State.setDyn_keeps | with_reducible apply State.updDyn_keeps
    | with_reducible apply txPump_keeps

theorem sendPacket_keeps (p : Nat) (wait : Nat) (k : Packet) {base s : State} (hk : Keeps base s) :
    ∀ u, sendPacket s p wait k = some u → Keeps base u := by
  intro u hu
  have hp := protect_keeps p { k with src := s.trb.idModule } hk
  unfold sendPacket at hu
  revert hu hp
  generalize protect s p { k with src := s.trb.idModule } = o
  intro hu hp
  cases o with
  | none => contradiction
  | some q =>
    obtain ⟨s1, k1⟩ := q
    have h1 : Keeps base s1 := hp _ rfl
    dsimp only at hu
    obtain rfl := Option.some.inj hu
    with_reducible exact enqueue_keeps _ _ _ _ _ _ (countTrb_keeps _ _ _ h1)

theorem track_keeps (p : Nat) (t : Tracked) {base s : State} (hk : Keeps base s) : Keeps base (track s p t) := by
  have h1 : Keeps base (s.setDyn p { s.dyn p with tracker := (s.dyn p).tracker ++ [t] }) := State.setDyn_keeps _ _ hk
  exact keeps_getD (sendPacket_keeps _ _ _ h1) h1

theorem sendRequest_keeps (k : Packet) (why : Purpose) {base s : State} (hk : Keeps base s) : Keeps base (sendRequest s k why).1 := by
  unfold sendRequest
  repeat' first
    | with_reducible apply track_keeps | with_reducible exact keeps_same hk rfl rfl rfl rfl rfl rfl rfl rfl
    | refine keeps_ite1 (fun _ => ?_) (fun _ => ?_) | split

theorem sendAway_keeps (w : Sender) (kind : ReqKind) (dpa len : Nat) (data : List (BitVec 8)) {base s : State} (hk : Keeps base s) :
    Keeps base (sendAway s w kind dpa len data).1 := by
  unfold sendAway
  repeat' first
    | with_reducible assumption | with_reducible apply State.fresh_keeps | with_reducible apply sendRequest_keeps
    | with_reducible apply Req.cross_keeps | refine keeps_pair ?_ (by assumption) | dsimp only | split

theorem signalAway_keeps (q : Nat) (d : Desc) {base s : State} (hk : Keeps base s) : Keeps base (signalAway s q d) := by
  unfold signalAway
  repeat' first
    | with_reducible assumption | with_reducible apply sendAway_keeps | with_reducible apply completeDesc_keeps
    | refine keeps_pair ?_ (by assumption) | dsimp only | split

theorem sendTagged_keeps (tag dst : Nat) (payload : List (BitVec 8)) (why : Purpose)
    {base s : State} (hk : Keeps base s) : Keeps base (sendTagged s tag dst payload why).1 := by
  unfold sendTagged
  repeat' first | with_reducible assumption | with_reducible apply sendRequest_keeps

theorem sendControl_keeps (l dst : Nat) (payload : List (BitVec 8)) (why : Purpose) {base s : State} (hk : Keeps base s) :
    Keeps base (sendControl s l dst payload why).1 := sendRequest_keeps _ _ hk

theorem finishDesc_keeps (q idx status : Nat) (det : BitVec 128) {base s : State} (hk : Keeps base s) : Keeps base
    (finishDesc s q idx status det) := by
  unfold finishDesc
  repeat' first
    | with_reducible assumption | with_reducible apply State.updDesc_keeps | with_reducible apply completeDesc_keeps
    | with_reducible apply launchReq_keeps | with_reducible apply signalAway_keeps | with_reducible apply sendControl_keeps
    | refine keeps_pair ?_ (by assumption) | dsimp only | split

theorem refuseDesc_keeps (q idx st : Nat) {base s : State} (hk : Keeps base s) : Keeps base (refuseDesc s q idx st) := by
  unfold refuseDesc
  repeat' first | with_reducible assumption | with_reducible apply finishDesc_keeps | with_reducible apply State.updDesc_keeps

theorem readRecord_keeps (l : Labels) (i : Nat) (x : Xmit)
    {base s : State} (hk : Keeps base s) : Keeps base (readRecord s l i x).1 := by
  unfold readRecord
  repeat' first | with_reducible assumption | apply homeRead_keeps | with_reducible apply noteOwn_keeps | dsimp only | split

theorem registerWait_keeps (l : Labels) (i gen value : Nat) (who : WaitFor) (x : Xmit)
    {base s : State} (hk : Keeps base s) : Keeps base (registerWait s l i gen value who x).1 := by
  unfold registerWait
  repeat' first
    | refine keeps_ite1 (fun _ => ?_) (fun _ => ?_) | split
    | (with_reducible refine keeps_mk ?_ rfl rfl rfl rfl rfl rfl rfl rfl); first | with_reducible assumption | with_reducible apply readRecord_keeps | with_reducible apply keeps_updCore | with_reducible apply keeps_setCore | with_reducible apply keeps_updChan | with_reducible apply keeps_setChan | with_reducible apply keeps_setIntTgt | with_reducible apply keeps_forAll | with_reducible apply Cells.wf_clear | with_reducible apply Cells.wf_writeN | with_reducible apply Chan.store_wf | with_reducible apply writeSector_wf | with_reducible apply setArray_memWf | with_reducible apply settleCrw_memWf | with_reducible apply addRows_memWf | with_reducible apply completeOp_memWf | with_reducible apply beginPass_memWf | with_reducible apply clearedCore_memWf | with_reducible apply resetCore_memWf | with_reducible apply endFirst_memWf | with_reducible apply endSecond_memWf | with_reducible apply stopOp_memWf | refine keeps_pair ?_ (by assumption)

theorem waitOutcome_keeps (q idx out : Nat) {base s : State} (hk : Keeps base s) : Keeps base (waitOutcome s q idx out) := by
  unfold waitOutcome
  repeat' first | with_reducible assumption | with_reducible apply State.updDesc_keeps | with_reducible apply finishDesc_keeps | split

theorem startWait_keeps (q : Nat) (d : Desc) (x : Xmit) {base s : State} (hk : Keeps base s) : Keeps base (startWait s q d x) := by
  unfold startWait
  repeat' first
    | with_reducible assumption | with_reducible apply State.updDesc_keeps | with_reducible apply registerWait_keeps
    | with_reducible apply waitOutcome_keeps | with_reducible apply sendControl_keeps | with_reducible apply finishDesc_keeps
    | refine keeps_pair ?_ (by assumption) | dsimp only | split

theorem askFences_keeps (q idx l : Nat) (x4 : List Nat)
    {base s : State} (hk : Keeps base s) : Keeps base (askFences s q idx l x4) := by
  induction x4 generalizing s q idx l with
  | nil => exact State.updDesc_keeps _ _ _ hk
  | cons y ys ih =>
    unfold askFences
    repeat' first
      | with_reducible assumption | apply ih | with_reducible apply State.updDesc_keeps | with_reducible apply sendControl_keeps
      | with_reducible apply refuseDesc_keeps | refine keeps_pair ?_ (by assumption) | split

theorem advanceQueue_keeps (q x2 : Nat) {base s : State} (hk : Keeps base s) : Keeps base (advanceQueue s q x2) := by
  induction x2 generalizing s q with
  | zero => exact hk
  | succ m ih =>
    unfold advanceQueue
    repeat' first
      | with_reducible assumption | with_reducible apply refuseDesc_keeps | with_reducible apply State.updDesc_keeps
      | with_reducible apply startWait_keeps | with_reducible apply askFences_keeps | apply ih | dsimp only | split

theorem settle_keeps (q : Nat) {base s : State} (hk : Keeps base s) : Keeps base (settle s q) := advanceQueue_keeps _ _ hk

theorem endDesc_keeps (q idx status : Nat) (det : BitVec 128) {base s : State} (hk : Keeps base s) : Keeps base
    (endDesc s q idx status det) := by
  unfold endDesc
  repeat' first | with_reducible assumption | with_reducible apply settle_keeps | with_reducible apply finishDesc_keeps

theorem beginDesc_keeps (q idx : Nat) {base s : State} (hk : Keeps base s) : Keeps base (beginDesc s q idx) :=
  State.updDesc_keeps _ _ _ hk

theorem stopQueue_keeps (q : Nat) {base s : State} (hk : Keeps base s) : Keeps base (stopQueue s q) := by
  unfold stopQueue
  repeat' first
    | with_reducible assumption | with_reducible apply freeSlots_keeps | with_reducible apply drainQueue_keeps
    | with_reducible apply State.updSq_keeps | dsimp only | split

theorem abortUnbegun_keeps (p : Sq → Desc → Bool) {base s : State} (hk : Keeps base s) : Keeps base (abortUnbegun s p).1 := by
  unfold abortUnbegun
  repeat' first
    | with_reducible apply finishDesc_keeps | with_reducible apply settle_keeps | with_reducible apply keeps_forAll | intro _
    | with_reducible exact keeps_same hk rfl rfl rfl rfl rfl rfl rfl rfl

theorem clearCore_keeps (n : Nat) {base s : State} (hk : Keeps base s) : Keeps base (clearCore s n) := by
  unfold clearCore
  repeat' first
    | with_reducible assumption | intro _ | with_reducible apply clearedCore_memWf
    | (with_reducible refine keeps_mk ?_ rfl rfl rfl rfl rfl rfl rfl rfl; first
        | with_reducible apply State.setWalk_keeps | with_reducible apply keeps_updCore)

theorem chargeTime_keeps (n ctx locket k : Nat) {base s : State} (hk : Keeps base s) : Keeps base (chargeTime s n ctx locket k) :=
  charge_keeps _ _ _ hk

theorem addCycles_keeps (n ctx locket k : Nat) {base s : State} (hk : Keeps base s) : Keeps base (addCycles s n ctx locket k) := by
  unfold addCycles
  repeat' first
    | with_reducible assumption | with_reducible apply State.updCtx_keeps | with_reducible apply State.updSlot_keeps
    | with_reducible apply keeps_updCore | refine keeps_ite (fun _ => ?_) (fun _ => ?_) | intro _

theorem passCycles_keeps (n : Nat) {base s : State} (hk : Keeps base s) : Keeps base (passCycles s n) := by
  unfold passCycles
  repeat' first
    | with_reducible assumption | with_reducible apply State.takeFree_keeps | with_reducible apply addCycles_keeps | dsimp only
    | split

theorem taskPart_keeps (q idx tidx status : Nat) (g : GuardSum) {base s : State} (hk : Keeps base s) : Keeps base
    (taskPart s q idx tidx status g) := by
  unfold taskPart
  repeat' first
    | with_reducible assumption | with_reducible apply State.updDesc_keeps | with_reducible apply endDesc_keeps | dsimp only | split

theorem sendResponse_keeps (wait : Nat) (k : Packet) {base s : State} (hk : Keeps base s) : Keeps base (sendResponse s wait k) := by
  unfold sendResponse
  repeat' split
  all_goals first
    | exact hk
    | exact keeps_getD (sendPacket_keeps _ _ _ hk) hk

theorem tellLauncher_keeps (e : Ending) {base s : State} (hk : Keeps base s) : Keeps base (tellLauncher s e) := by
  unfold tellLauncher
  repeat' first | with_reducible assumption | with_reducible apply taskPart_keeps | with_reducible apply sendResponse_keeps | split

theorem settleEndings_keeps {base s : State} (hk : Keeps base s) : Keeps base (settleEndings s) := by
  unfold settleEndings
  repeat' first
    | refine keeps_ite (fun _ => ?_) (fun _ => ?_) | intro _
    | (with_reducible refine keeps_mk ?_ rfl rfl rfl rfl rfl rfl rfl rfl; first
        | with_reducible assumption | with_reducible apply tellLauncher_keeps | with_reducible apply keeps_forAll)

theorem taskEnd_keeps (tid status : Nat) (g : GuardSum)
    {base s : State} (hk : Keeps base s) : Keeps base (taskEnd s tid status g) := by
  unfold taskEnd
  repeat' first
    | split
    | (with_reducible refine keeps_mk ?_ rfl rfl rfl rfl rfl rfl rfl rfl; first
        | with_reducible assumption | with_reducible apply State.updCtx_keeps | with_reducible apply State.dropTask_keeps
        | with_reducible apply raise_keeps | with_reducible apply settleEndings_keeps)

theorem killTask_keeps (tid status : Nat) {base s : State} (hk : Keeps base s) : Keeps base (killTask s tid status) := by
  unfold killTask
  repeat' first
    | with_reducible assumption | with_reducible apply dropReqs_keeps | with_reducible apply clearCore_keeps
    | with_reducible apply passCycles_keeps | with_reducible apply taskEnd_keeps | split

theorem endCtxFaults_keeps (n : Nat) {base s : State} (hk : Keeps base s) : Keeps base (endCtxFaults s n) := by
  unfold endCtxFaults
  repeat' first
    | with_reducible apply clearPend_keeps | with_reducible apply endEntries_keeps | with_reducible apply keeps_forAll
    | with_reducible exact keeps_same hk rfl rfl rfl rfl rfl rfl rfl rfl | intro _

theorem jobFail_keeps (jid st : Nat) {base s : State} (hk : Keeps base s) : Keeps base (jobFail s jid st) := by
  unfold jobFail
  repeat' first | with_reducible assumption | with_reducible apply raise_keeps | with_reducible apply State.updJob_keeps | split

theorem abortStart_keeps (n : Nat) {base s : State} (hk : Keeps base s) : Keeps base (abortStart s n).1 := by
  unfold abortStart
  extract_lets s1 s2
  have h1 : Keeps base s1 := State.updCtx_keeps _ _ hk
  have h2 : Keeps base s2 := keeps_forAll h1 fun t x h => stopQueue_keeps _ h
  split
  rename_i s3 descs e
  have h3 : Keeps base s3 := keeps_pair (abortUnbegun_keeps _ h2) e
  extract_lets ts killed s4 faults s5 s6 s7
  have h4 : Keeps base s4 := keeps_forAll h3 fun t x h => killTask_keeps _ _ h
  have h5 : Keeps base s5 := endCtxFaults_keeps _ h4
  have h6 : Keeps base s6 := keeps_forAll h5 fun t x h => State.updJob_keeps _ _ (jobFail_keeps _ _ h)
  exact keeps_forAll h6 fun t x h => keeps_ite (fun _ => State.setWalk_keeps _ _ h) (fun _ => h)

theorem jobWalk_keeps (j : Job) (access va : Nat) {base s : State} (hk : Keeps base s) : ∀ u, jobWalk s j access va = some u →
    Keeps base u := by
  unfold jobWalk
  intro u hu
  repeat' first
    | with_reducible assumption | with_reducible apply State.setWalk_keeps | with_reducible apply State.updJob_keeps | contradiction
    | (obtain rfl := Option.some.inj hu) | split at hu

theorem sendLocal_keeps (w : Sender) (kind : ReqKind) (dpa len : Nat) (data : List (BitVec 8)) {base s : State} (hk : Keeps base s) :
    Keeps base (sendLocal s w kind dpa len data).1 := by
  unfold sendLocal
  repeat' first | with_reducible assumption | with_reducible apply launchReq_keeps | split

theorem sendReq_keeps (w : Sender) (kind : ReqKind) (dpa len : Nat) (data : List (BitVec 8)) {base s : State} (hk : Keeps base s) :
    Keeps base (sendReq s w kind dpa len data).1 := by
  unfold sendReq
  repeat' first | with_reducible assumption | with_reducible apply sendLocal_keeps | with_reducible apply sendAway_keeps | split

theorem jobWriteOne_keeps (j : Job) (p : Nat × List (BitVec 8) × Bool × Stop) {base s : State} (hk : Keeps base s) :
    ∀ u, jobWriteOne s j p = some u → Keeps base u := by
  intro u hu
  obtain ⟨off, data, poison, stop⟩ := p
  have h1 : Keeps base (s.updJob j.jid (fun j => { j with ready := j.ready.drop 1 })) := State.updJob_keeps _ _ hk
  unfold jobWriteOne at hu
  revert hu h1
  generalize s.updJob j.jid (fun j => { j with ready := j.ready.drop 1 }) = s1
  intro hu h1
  dsimp only at hu
  have hs := State.updJob_keeps j.jid (fun j => { j with skipped := some (j.skipped.getD (j.dst + off)) }) h1
  split at hu
  · split at hu
    · contradiction
    · split at hu
      · obtain rfl := Option.some.inj hu
        exact hs
      · obtain rfl := Option.some.inj hu
        refine State.updJob_keeps _ _ (crossSeam_keeps _ _ _ _ _ _ (notePcie_keeps _ _ _ _ _ ?_))
        exact keeps_same h1 rfl rfl rfl rfl rfl rfl rfl rfl
  · split at hu
    · exact jobWalk_keeps _ _ _ hk _ hu
    · obtain rfl := Option.some.inj hu
      exact jobFail_keeps _ _ h1
    · obtain rfl := Option.some.inj hu
      exact jobFault_keeps _ _ _ _ _ _ hk
    · split at hu
      · obtain rfl := Option.some.inj hu
        exact hs
      · split at hu
        · contradiction
        · split at hu
          · obtain rfl := Option.some.inj hu
            exact State.updJob_keeps _ _ (keeps_pair (sendReq_keeps _ _ _ _ _ h1) (by assumption))
          · obtain rfl := Option.some.inj hu
            exact jobFail_keeps _ _ (keeps_pair (sendReq_keeps _ _ _ _ _ h1) (by assumption))

theorem jobReadOne_keeps (j : Job) {base s : State} (hk : Keeps base s) : ∀ u, jobReadOne s j = some u → Keeps base u := by
  intro u hu
  unfold jobReadOne at hu
  dsimp only at hu
  split at hu
  · split at hu
    · contradiction
    · obtain rfl := Option.some.inj hu
      refine State.updJob_keeps _ _ ?_
      exact keeps_same (State.fresh_keeps hk) rfl rfl rfl rfl rfl rfl rfl rfl
  · split at hu
    · exact jobWalk_keeps _ _ _ hk _ hu
    · obtain rfl := Option.some.inj hu
      exact jobFail_keeps _ _ hk
    · obtain rfl := Option.some.inj hu
      exact jobFault_keeps _ _ _ _ _ _ hk
    · split at hu
      · contradiction
      · split at hu
        · obtain rfl := Option.some.inj hu
          exact State.updJob_keeps _ _ (keeps_pair (sendReq_keeps _ _ _ _ _ hk) (by assumption))
        · obtain rfl := Option.some.inj hu
          exact jobFail_keeps _ _ (keeps_pair (sendReq_keeps _ _ _ _ _ hk) (by assumption))

theorem nextPiece_keeps (j : Job) {base s : State} (hk : Keeps base s) : Keeps base (nextPiece s j) :=
  keeps_same hk rfl rfl rfl rfl rfl rfl rfl rfl

theorem jobStep_keeps (j : Job) {base s : State} (hk : Keeps base s) : ∀ u, jobStep s j = some u → Keeps base u := by
  intro u hu
  unfold jobStep at hu
  split at hu
  · exact jobWriteOne_keeps _ _ hk _ hu
  · split at hu
    · exact jobReadOne_keeps _ hk _ hu
    · split at hu
      · obtain rfl := Option.some.inj hu
        exact nextPiece_keeps _ hk
      · contradiction

theorem jobPump_keeps (ce : Nat) (fuel : Nat) {base s : State} (hk : Keeps base s) : Keeps base (jobPump s ce fuel) := by
  induction fuel generalizing s with
  | zero => exact hk
  | succ n ih =>
    unfold jobPump
    split
    · rename_i u hu
      obtain ⟨j, -, hj⟩ := Option.bind_eq_some_iff.1 hu
      exact ih (jobStep_keeps _ hk _ hj)
    · exact hk

theorem jobPumpEngine_keeps (ce : Nat) {base s : State} (hk : Keeps base s) : Keeps base (jobPumpEngine s ce) := by
  unfold jobPumpEngine
  repeat' first
    | with_reducible apply jobPump_keeps | with_reducible apply keeps_forAll
    | with_reducible exact keeps_same hk rfl rfl rfl rfl rfl rfl rfl rfl

theorem jobPumpAll_keeps {base s : State} (hk : Keeps base s) : Keeps base (jobPumpAll s) := by
  unfold jobPumpAll
  repeat' first
    | with_reducible apply jobPumpEngine_keeps | with_reducible apply keeps_forAll
    | with_reducible exact keeps_same hk rfl rfl rfl rfl rfl rfl rfl rfl | intro _

theorem startAbort_keeps (n : Nat) (waiter : Option (Nat × Nat)) (cause : Nat) {base s : State} (hk : Keeps base s) :
    Keeps base (startAbort s n waiter cause) := by
  unfold startAbort
  split
  · split
    rename_i s1 a e
    exact jobPumpAll_keeps (keeps_same (keeps_pair (abortStart_keeps n hk) e) rfl rfl rfl rfl rfl rfl rfl rfl)
  · exact hk

theorem forgetCtxReqs_keeps (n : Nat) {base s : State} (hk : Keeps base s) : Keeps base (forgetCtxReqs s n) := by
  unfold forgetCtxReqs
  repeat' first
    | with_reducible apply State.updDyn_keeps | with_reducible apply keeps_forAll
    | with_reducible exact keeps_same hk rfl rfl rfl rfl rfl rfl rfl rfl | intro _

theorem endLoad_keeps (lid status : Nat) {base s : State} (hk : Keeps base s) : Keeps base (endLoad s lid status) := by
  unfold endLoad
  repeat' first
    | with_reducible apply taskPart_keeps | with_reducible apply sendResponse_keeps | split
    | with_reducible exact keeps_same hk rfl rfl rfl rfl rfl rfl rfl rfl

theorem endJob_keeps (jid : Nat) {base s : State} (hk : Keeps base s) : Keeps base (endJob s jid) := by
  unfold endJob
  repeat' first
    | with_reducible assumption | with_reducible apply raise_keeps | with_reducible apply State.dropJob_keeps
    | with_reducible apply State.setWalk_keeps | with_reducible apply jobPumpEngine_keeps | with_reducible apply endLoad_keeps
    | with_reducible apply endDesc_keeps | split

theorem releaseWaits_keeps (i v : Nat) (errored : Bool)
    {base s : State} (hk : Keeps base s) : Keeps base (releaseWaits s i v errored) := by
  unfold releaseWaits
  repeat' first
    | with_reducible assumption | with_reducible apply raise_keeps | with_reducible apply settle_keeps
    | with_reducible apply waitOutcome_keeps | with_reducible apply sendTagged_keeps | with_reducible apply keeps_forAll
    | with_reducible exact keeps_same hk rfl rfl rfl rfl rfl rfl rfl rfl | intro _ | split

theorem regressEvent_keeps (r : Req) (old : FenceRec) {base s : State} (hk : Keeps base s) : Keeps base (regressEvent s r old) := by
  unfold regressEvent
  repeat' first | with_reducible assumption | with_reducible apply postEvent_keeps

theorem performFence_keeps (r : Req) (c off : Nat) (x : Xmit) {base s : State} (hk : Keeps base s) :
    Keeps base (performFence s r c off x).1 := by
  have h1 : Memory.wf s = true → (readSector c x ((s.chan c).correct x) (off / 64) 0).1.mem.wf = true := by
    intro wf; rw [readSector_mem]; exact Memory.chan wf c
  unfold performFence
  split
  · exact chanAnswers_keeps _ _ hk
  · dsimp only
    split
    · exact hk
    · revert h1
      generalize readSector c x ((s.chan c).correct x) (off / 64) 0 = q
      intro h1
      obtain ⟨ch1, e, bytes⟩ := q
      dsimp only
      split
      · exact settleXfer_keeps _ _ _ _ _ _ hk h1
      · split
        · exact keeps_setChan hk h1
        · generalize fenceApply r.kind (FenceRec.decode ((bytes.drop (off % 64)).take 16)) = f
          obtain ⟨new, st, regress⟩ := f
          dsimp only
          have h2 := settleWrite_keeps c (off / 64) 0
            (writeSector x ch1 (off / 64) 0 (patch bytes (off % 64) new.encode) false).1
            (writeSector x ch1 (off / 64) 0 (patch bytes (off % 64) new.encode) false).2 [] x
            { ctx := r.ctx, dpa := r.dpa, access := 3 } hk fun wf => writeSector_wf _ _ _ _ _ _ (h1 wf)
          split
          · exact h2
          · split
            · exact regressEvent_keeps _ _ h2
            · exact h2

theorem errorFence_keeps (i code ctx : Nat) {base s : State} (hk : Keeps base s) : Keeps base (errorFence s i code ctx) := by
  unfold errorFence
  repeat' first
    | with_reducible assumption | with_reducible apply releaseWaits_keeps | with_reducible apply performFence_keeps | dsimp only
    | split

theorem resetDone_keeps (level unit src locket ctx cause us : Nat) {base s : State} (hk : Keeps base s) : Keeps base
    (resetDone s level unit src locket ctx cause us) := postEvent_keeps _ hk

theorem finishAbort_keeps (a : Abort) {base s : State} (hk : Keeps base s) : Keeps base (finishAbort s a) := by
  unfold finishAbort
  repeat' first
    | with_reducible assumption | with_reducible apply settleEndings_keeps | with_reducible apply forgetCtxReqs_keeps
    | with_reducible apply endJob_keeps | with_reducible apply dropReqs_keeps | with_reducible apply errorFence_keeps
    | with_reducible apply State.updCtx_keeps | with_reducible apply dropRanges_keeps | with_reducible apply endDesc_keeps
    | with_reducible apply State.takeFree_keeps | with_reducible apply resetDone_keeps | with_reducible apply keeps_forAll
    | with_reducible exact keeps_same hk rfl rfl rfl rfl rfl rfl rfl rfl | intro _

theorem descSignalled_keeps (q idx : Nat) {base s : State} (hk : Keeps base s) : Keeps base (descSignalled s q idx) := by
  unfold descSignalled
  repeat' first | with_reducible assumption | with_reducible apply completeDesc_keeps | split

theorem countAborted_keeps (r : Req) (status : Nat) {base s : State} (hk : Keeps base s) : Keeps base (countAborted s r status) := by
  unfold countAborted
  repeat' first | split | with_reducible exact keeps_same hk rfl rfl rfl rfl rfl rfl rfl rfl

theorem jobAnswer_keeps (jid off : Nat) (stop : Stop) (rd : Bool) (status : Nat) (data : List (BitVec 8)) {base s : State}
    (hk : Keeps base s) : Keeps base (jobAnswer s jid off stop rd status data) := by
  unfold jobAnswer
  repeat' first
    | with_reducible assumption | with_reducible apply jobFail_keeps | with_reducible apply State.updJob_keeps
    | with_reducible apply jobPumpEngine_keeps | dsimp only | split

theorem answerRemote_keeps (reqid mod budget ctx tag facet status : Nat) (data : Option (List (BitVec 8))) {base s : State}
    (hk : Keeps base s) : Keeps base (answerRemote s reqid mod budget ctx tag facet status data) := sendResponse_keeps _ _ hk

theorem bar4Answer_keeps (bid pos status : Nat) (data : List (BitVec 8)) {base s : State} (hk : Keeps base s) : Keeps base
    (bar4Answer s bid pos status data) := by
  unfold bar4Answer
  repeat' first | dsimp only | split | with_reducible exact keeps_same hk rfl rfl rfl rfl rfl rfl rfl rfl

theorem releaseHeld.go_keeps (l still : List Req) {base s : State} (hk : Keeps base s) : Keeps base (releaseHeld.go s l still) := by
  induction l generalizing s still with
  | nil => exact keeps_same hk rfl rfl rfl rfl rfl rfl rfl rfl
  | cons r l ih =>
    unfold releaseHeld.go
    have h1 : Keeps base { s with mem := { s.mem with held := still } } := keeps_same hk rfl rfl rfl rfl rfl rfl rfl rfl
    exact keeps_ite (fun _ => ih _ hk) fun _ => ih _ (keeps_same h1 rfl rfl rfl rfl rfl rfl rfl rfl)

theorem releaseHeld_keeps {base s : State} (hk : Keeps base s) : Keeps base (releaseHeld s) := by
  unfold releaseHeld
  repeat' first | with_reducible assumption | with_reducible apply releaseHeld.go_keeps | split

theorem answer_keeps (r : Req) (status : Nat) (data : List (BitVec 8)) (unit : Option Nat) (stop : Stop) {base s0 : State}
    (hk : Keeps base s0) : Keeps base (answer s0 r status data unit stop) := by
  unfold answer
  repeat' first
    | split
    | (with_reducible refine keeps_mk ?_ rfl rfl rfl rfl rfl rfl rfl rfl; first
        | with_reducible assumption | with_reducible apply countAborted_keeps | with_reducible apply jobAnswer_keeps
        | with_reducible apply answerRemote_keeps | with_reducible apply bar4Answer_keeps | with_reducible apply releaseHeld_keeps)

theorem destroyFence_keeps (i : Nat) {base s : State} (hk : Keeps base s) : Keeps base (destroyFence s i) := by
  unfold destroyFence
  repeat' first
    | with_reducible assumption | with_reducible apply State.setFence_keeps | with_reducible apply markFence_keeps
    | refine keeps_ite (fun _ => ?_) (fun _ => ?_)

theorem answerAtStop_keeps (w : Sender) (kind : ReqKind) (dpa len st : Nat)
    {base s : State} (hk : Keeps base s) : Keeps base (answerAtStop s w kind dpa len st) := by
  unfold answerAtStop
  repeat' first | with_reducible assumption | with_reducible apply State.fresh_keeps | with_reducible apply answer_keeps

theorem taskFaultEvent_keeps (t : Task) (n cause slot kind status pc va : Nat) {base s : State} (hk : Keeps base s) : Keeps base
    (taskFaultEvent s t n cause slot kind status pc va) := postEvent_keeps _ hk

theorem stopTask_keeps (n cause slot pc kind status va : Nat) {base s : State} (hk : Keeps base s) : Keeps base
    (stopTask s n cause slot pc kind status va) := by
  unfold stopTask
  repeat' first
    | with_reducible assumption | with_reducible apply coreFault_keeps | with_reducible apply taskFaultEvent_keeps
    | with_reducible apply killTask_keeps | with_reducible apply startAbort_keeps | split

theorem beginSwitchOut_keeps (n : Nat) (progress : List Nat) {base s0 : State} (hk : Keeps base s0) :
    Keeps base (beginSwitchOut s0 n progress) := by
  unfold beginSwitchOut
  extract_lets s s1
  have h1 : Keeps base s1 := keeps_updCore (passCycles_keeps _ hk) fun c h => by
    have k := stopOps_memWf progress [0, 1, 2, 3] (settleCrw_memWf (t := c.now + 2) h)
    exact ⟨k.1, k.2⟩
  exact State.setWalk_keeps _ _ (keeps_same h1 rfl rfl rfl rfl rfl rfl rfl rfl)

theorem linkEvent_keeps (p oldState : Nat) {base s : State} (hk : Keeps base s) : Keeps base (linkEvent s p oldState) := by
  unfold linkEvent
  repeat' first
    | with_reducible assumption | with_reducible apply raise_keeps | with_reducible apply platformEvent_keeps
    | with_reducible apply postEvent_keeps | refine keeps_ite (fun _ => ?_) (fun _ => ?_)

theorem changePort_keeps (p : Nat) (x : Port) {base s : State} (hk : Keeps base s) : Keeps base (changePort s p x) := by
  unfold changePort
  repeat' first
    | with_reducible apply linkEvent_keeps | dsimp only | split | with_reducible exact keeps_same hk rfl rfl rfl rfl rfl rfl rfl rfl

theorem consumePacket_keeps (a : Arrived) {base s : State} (hk : Keeps base s) : Keeps base (consumePacket s a) := by
  unfold consumePacket
  repeat' first | dsimp only | split | with_reducible exact keeps_same hk rfl rfl rfl rfl rfl rfl rfl rfl

theorem countAuth_keeps (p : Nat) {base s : State} (hk : Keeps base s) : Keeps base (countAuth s p) := by
  unfold countAuth
  repeat' first | with_reducible assumption | with_reducible apply countEdge_keeps | with_reducible apply State.setDyn_keeps

theorem countBadpkt_keeps (p : Nat) {base s : State} (hk : Keeps base s) : Keeps base (countBadpkt s p) := by
  unfold countBadpkt
  repeat' first | with_reducible assumption | with_reducible apply countEdge_keeps | with_reducible apply State.setPort_keeps

theorem countCrc_keeps (p : Nat) {base s : State} (hk : Keeps base s) : Keeps base (countCrc s p) := by
  unfold countCrc
  repeat' first | with_reducible assumption | with_reducible apply countEdge_keeps | with_reducible apply State.setPort_keeps

theorem countDiscard_keeps (p : Nat) {base s : State} (hk : Keeps base s) : Keeps base (countDiscard s p) := by
  unfold countDiscard
  repeat' first | with_reducible assumption | with_reducible apply countEdge_keeps | with_reducible apply State.setDyn_keeps

theorem countLate_keeps (p : Nat) {base s : State} (hk : Keeps base s) : Keeps base (countLate s p) := by
  unfold countLate
  repeat' first | with_reducible assumption | with_reducible apply countEdge_keeps | with_reducible apply State.setDyn_keeps

theorem countReplay_keeps (p n : Nat) {base s : State} (hk : Keeps base s) : Keeps base (countReplay s p n) := by
  unfold countReplay
  repeat' first | with_reducible assumption | with_reducible apply countEdge_keeps | with_reducible apply State.setPort_keeps | split

theorem updOp_keeps (tid seq : Nat) (f : StreamOp → StreamOp) {base s : State} (hk : Keeps base s) : Keeps base (updOp s tid seq f) :=
  State.updTask_keeps _ _ hk

theorem streamError_keeps (tid status : Nat) (o : StreamOp) (va : Nat) {base s : State} (hk : Keeps base s) : Keeps base
    (streamError s tid status o va) := by
  unfold streamError
  repeat' first | with_reducible assumption | with_reducible apply stopTask_keeps | with_reducible apply State.updTask_keeps | split

theorem taskSetG_keeps (tid r : Nat) (v : BitVec 64) {base s : State} (hk : Keeps base s) : Keeps base (taskSetG s tid r v) := by
  unfold taskSetG
  repeat' first
    | with_reducible apply State.updTask_keeps | with_reducible apply keeps_updCore | with_reducible assumption | intro _ | split

theorem pumpOne_keeps (n : Nat) {base s : State} (hk : Keeps base s) : ∀ u, pumpOne s n = some u → Keeps base u := by
  intro u hu
  unfold pumpOne at hu
  dsimp only at hu
  split at hu
  · contradiction
  · rename_i t _
    split at hu
    · contradiction
    · split at hu
      · contradiction
      · rename_i o _
        generalize o.nextPiece = p at hu
        generalize o.pieceVa p.1 p.2 = va at hu
        generalize (if o.isRead then 0 else if o.isWrite then 1 else 2) = access at hu
        split at hu
        · obtain rfl := Option.some.inj hu
          exact taskFault_keeps _ _ _ _ _ _ _ _ hk
        · split at hu
          · split at hu
            · contradiction
            · obtain rfl := Option.some.inj hu
              exact State.setWalk_keeps _ _ hk
          · rename_i e _
            split at hu
            · obtain rfl := Option.some.inj hu
              exact taskFault_keeps _ _ _ _ _ _ _ _ hk
            · split at hu
              · contradiction
              · generalize pieceReq (s.core n) o p.1 p.2 = kd at hu
                have h1 : Keeps base (updOp (s.setCore n { s.core n with near := nearUse (s.core n).near e }) t.tid o.seq StreamOp.sent) :=
                  updOp_keeps _ _ _ (keeps_setCore hk fun w => Memory.core w n)
                revert hu h1
                generalize updOp (s.setCore n { s.core n with near := nearUse (s.core n).near e }) t.tid o.seq StreamOp.sent = s1
                intro hu h1
                split at hu
                · obtain rfl := Option.some.inj hu
                  exact keeps_pair (sendReq_keeps _ _ _ _ _ h1) (by assumption)
                · obtain rfl := Option.some.inj hu
                  exact answerAtStop_keeps _ _ _ _ _ (keeps_pair (sendReq_keeps _ _ _ _ _ h1) (by assumption))

theorem pumpTask_keeps (n : Nat) (fuel : Nat) {base s : State} (hk : Keeps base s) : Keeps base (pumpTask s n fuel) := by
  induction fuel generalizing s with
  | zero => exact hk
  | succ m ih =>
    unfold pumpTask
    split
    · exact ih (pumpOne_keeps _ hk _ (by assumption))
    · exact hk

theorem pumpCore_keeps (n : Nat) {base s : State} (hk : Keeps base s) : Keeps base (pumpCore s n) := pumpTask_keeps _ _ hk

theorem deliver_keeps (tid seq row off status : Nat) (data : List (BitVec 8)) {base s : State} (hk : Keeps base s) :
    Keeps base (deliver s tid seq row off status data) := by
  unfold deliver
  split
  · exact hk
  · split
    · exact hk
    · split
      · exact hk
      · extract_lets s1
        have h1 : Keeps base s1 := updOp_keeps _ _ _ hk
        split
        · exact streamError_keeps _ _ _ _ (State.updTask_keeps _ _ h1)
        · rename_i s2 s3 _
          have h2 : Keeps base s2 := by
            refine keeps_ite (fun _ => ?_) (fun _ => keeps_ite (fun _ => taskSetG_keeps _ _ _ h1) (fun _ => h1))
            split
            · exact keeps_updCore h1 fun c h => ⟨Cells.wf_writeN _ _ _ h.1, h.2⟩
            · exact h1
          have h3 : Keeps base s3 := State.updTask_keeps _ _ h2
          split
          · exact pumpCore_keeps _ h3
          · exact h3

theorem settleAll_keeps {base s : State} (hk : Keeps base s) : Keeps base (settleAll s) := by
  unfold settleAll
  repeat' first
    | with_reducible apply settle_keeps | with_reducible apply keeps_forAll
    | with_reducible exact keeps_same hk rfl rfl rfl rfl rfl rfl rfl rfl | intro _

theorem imageSector_keeps (t : Task) (off access : Nat) {base s : State} (hk : Keeps base s) :
    Keeps base (imageSector s t off access).1 := by
  unfold imageSector
  extract_lets c va
  have h1 := walkVa_keeps (s.imageLabels t) c.root.toNat va hk
  revert h1
  generalize walkVa s (s.imageLabels t) c.root.toNat va = r
  intro h1
  obtain ⟨s1, o⟩ := r
  cases o
  · exact h1
  · dsimp only
    refine keeps_ite1 (fun _ => h1) fun _ => ?_
    repeat' split
    all_goals with_reducible exact h1
  · exact h1

theorem readImageSector_keeps (t : Task) (r : State × ImageOut × List (BitVec 8)) (i : Nat) {base : State} (hk : Keeps base r.1) :
    Keeps base (readImageSector t r i).1 := by
  have h1 := imageSector_keeps t (64 * i) 0 hk
  unfold readImageSector
  refine keeps_ite1 (fun _ => hk) fun _ => ?_
  split
  · exact noteOwn_keeps _ _ _ _ (homeRead_keeps _ _ _ _ _ (keeps_pair h1 (by assumption)))
  · exact keeps_pair h1 (by assumption)
  · exact keeps_pair h1 (by assumption)

theorem readImage_keeps (t : Task) (len : Nat) {base s : State} (hk : Keeps base s) : Keeps base (readImage s t len).1 := by
  have key : ∀ (l : List Nat) (r : State × ImageOut × List (BitVec 8)), Keeps base r.1 →
      Keeps base (l.foldl (readImageSector t) r).1 := by
    intro l
    induction l with
    | nil => exact fun r h => h
    | cons i l ih => exact fun r h => ih _ (readImageSector_keeps _ _ _ h)
  exact key _ _ hk

theorem switchCycles_keeps (n : Nat) (t : Task) {base s : State} (hk : Keeps base s) : Keeps base (switchCycles s n t) := by
  unfold switchCycles
  repeat' first | with_reducible assumption | with_reducible apply State.takeFree_keeps | with_reducible apply chargeTime_keeps

theorem staggerRequest_keeps (n a : Nat) {base s : State} (hk : Keeps base s) : Keeps base (staggerRequest s n a) := by
  unfold staggerRequest
  repeat' first | with_reducible apply State.updArr_keeps | split | with_reducible exact keeps_same hk rfl rfl rfl rfl rfl rfl rfl rfl

theorem endSwitchIn_keeps (n : Nat) (t : Task) {base s : State} (hk : Keeps base s) : Keeps base (endSwitchIn s n t) := by
  have key : ∀ (l : List (Nat × TileOp)) (u : State), Keeps base u → Keeps base
      (l.foldl (fun s x => staggerRequest (s.updArr n x.1 (fun a => { a with op := some x.2 })) n x.1) u) := by
    intro l
    induction l with
    | nil => exact fun u h => h
    | cons x l ih => exact fun u h => ih _ (staggerRequest_keeps _ _ (State.updArr_keeps _ _ _ h))
  unfold endSwitchIn
  split
  · rename_i len img _
    have h1 := readImage_keeps t len hk
    revert h1
    generalize readImage s t len = r
    intro h1
    dsimp only
    refine keeps_ite (fun _ => hk) fun _ => keeps_ite (fun _ => stopTask_keeps _ _ _ _ _ _ _ (switchCycles_keeps n t h1)) fun _ => ?_
    have h2 := fun f => State.updTask_keeps t.tid f (key t.arrOps _ (keeps_updCore (f := fun c => { c with
      arch := t.arch, tm := segmentsOf t.arch.liveList (img.drop imageSegments), phase := if t.ended then 4 else 1, near := [], hist := []
      ready := [], units := [], crw := [], arrays := [], drained := false }) (n := n) (switchCycles_keeps n t h1)
      fun c h => ⟨segmentsOf_wf _ _, h.2⟩))
    split
    · exact stopTask_keeps _ _ _ _ _ _ _ (h2 _)
    · exact pumpCore_keeps _ (h2 _)
  · exact hk

theorem writeImageSector_keeps (t : Task) (img : List (BitVec 8)) (r : State × ImageOut) (i : Nat) {base : State} (hk :
    Keeps base r.1) :
    Keeps base (writeImageSector t img r i).1 := by
  have h1 := imageSector_keeps t (64 * i) 1 hk
  unfold writeImageSector
  refine keeps_ite1 (fun _ => hk) fun _ => ?_
  split
  · exact noteOwn_keeps _ _ _ _ (homeWrite_keeps _ _ _ _ _ _ _ (keeps_pair h1 (by assumption)))
  · exact keeps_pair h1 (by assumption)
  · exact keeps_pair h1 (by assumption)

theorem writeImage_keeps (t : Task) (img : List (BitVec 8))
    {base s : State} (hk : Keeps base s) : Keeps base (writeImage s t img).1 := by
  have key : ∀ (l : List Nat) (r : State × ImageOut), Keeps base r.1 → Keeps base (l.foldl (writeImageSector t img) r).1 := by
    intro l
    induction l with
    | nil => exact fun r h => h
    | cons i l ih => exact fun r h => ih _ (writeImageSector_keeps _ _ _ _ h)
  exact key _ _ hk

theorem endSwitchOut_keeps (n : Nat) (t : Task) {base s : State} (hk : Keeps base s) : Keeps base (endSwitchOut s n t) := by
  have h1 : Keeps base s.takeFree.2 := State.takeFree_keeps hk
  unfold endSwitchOut
  revert h1
  generalize s.takeFree = p
  intro h1
  dsimp only
  generalize imageBytes (s.core n).arch (s.core n).tm p.1 = img
  have h2 := writeImage_keeps t img h1
  revert h2
  generalize writeImage p.2 t img = r
  intro h2
  have h3 := fun f => clearCore_keeps n (switchCycles_keeps n t (State.updTask_keeps t.tid f h2))
  exact keeps_ite (fun _ => hk) fun _ => keeps_ite (fun _ => makeRunnable_keeps _ (h3 _)) (fun _ => h3 _)

theorem enterStream_keeps (a : Arch) (tm : Cells) (t : Task) (b : Bundle) {base s : State} (hk : Keeps base s) : Keeps base
    (enterStream s a tm t b) := State.updTask_keeps _ _ hk

theorem startTile_keeps (n t pc w : Nat) {base s : State} (hk : Keeps base s) : Keeps base (startTile s n t pc w) := by
  unfold startTile
  repeat' first
    | with_reducible apply staggerRequest_keeps | with_reducible apply keeps_setCore
    | with_reducible exact keeps_same hk rfl rfl rfl rfl rfl rfl rfl rfl | refine keeps_ite (fun _ => ?_) (fun _ => ?_) | intro _
    | exact Memory.core (by assumption) _

theorem issueBundle_keeps (n : Nat) (tk : Task) (b : Bundle) (t : Nat) {base s : State} (hk : Keeps base s) :
    Keeps base (issueBundle s n tk b t) := by
  have hstart : ∀ (l : List (Nat × Nat)) (u : State), Keeps base u →
      Keeps base (l.foldl (fun s x => startTile s n t b.pc x.2) u) := by
    intro l
    induction l with
    | nil => exact fun u h => h
    | cons x l ih => exact fun u h => ih _ (startTile_keeps _ _ _ _ h)
  have htm : ∀ (a : Arch) (l : List (Nat × Nat)) (m : Cells), m.wf = true → (l.foldl (fun tm x => tileStore a tm x.2) m).wf = true := by
    intro a l
    induction l with
    | nil => exact fun m h => h
    | cons x l ih => exact fun m h => ih _ (tileStore_wf _ _ _ h)
  unfold issueBundle
  extract_lets c a cop scal vec st loads call writes s1 c1 crws marks src a1 taken next c2 s2 s3
  have h1 : Keeps base s1 := hstart _ _ (keeps_setCore hk fun w => settleCrw_memWf (Memory.core w n))
  have h2 : Keeps base s2 := addCycles_keeps _ _ _ _ (keeps_setCore h1 fun w => ⟨htm _ _ _ (Memory.core w n).1, (Memory.core w n).2⟩)
  have h3 : Keeps base s3 := keeps_ite (fun _ => State.updTask_keeps _ _ h2) (fun _ => h2)
  exact pumpCore_keeps _ (enterStream_keeps _ _ _ _ h3)

theorem runBundle_keeps (n extra : Nat) {base s : State} (hk : Keeps base s) : Keeps base (runBundle s n extra) := by
  unfold runBundle
  repeat' first
    | with_reducible assumption | with_reducible apply stopTask_keeps | with_reducible apply issueBundle_keeps | dsimp only | split

theorem releaseOne_keeps (q : Nat) (t : Tracked) {base s : State} (hk : Keeps base s) : Keeps base (releaseOne s q t) := by
  unfold releaseOne
  repeat' first
    | with_reducible assumption | with_reducible apply State.takeFree_keeps | with_reducible apply State.updDyn_keeps
    | with_reducible apply track_keeps | refine keeps_ite (fun _ => ?_) (fun _ => ?_)

theorem releaseWaiting_keeps {base s : State} (hk : Keeps base s) : Keeps base (releaseWaiting s) := by
  unfold releaseWaiting
  repeat' first
    | with_reducible apply releaseOne_keeps | with_reducible apply keeps_forAll
    | with_reducible exact keeps_same hk rfl rfl rfl rfl rfl rfl rfl rfl | intro _

theorem untrack_keeps (reqid : Nat) {base s : State} (hk : Keeps base s) : Keeps base (untrack s reqid) := by
  unfold untrack
  repeat' first
    | with_reducible apply releaseWaiting_keeps | with_reducible apply State.updDyn_keeps | with_reducible apply keeps_forAll
    | with_reducible exact keeps_same hk rfl rfl rfl rfl rfl rfl rfl rfl | intro _

theorem takeHeader_keeps (p : Nat) (f : Flit) {base s : State} (hk : Keeps base s) : Keeps base (takeHeader s p f) :=
  State.setDyn_keeps _ _ hk

theorem stallCq_keeps (q : Nat) {base s : State} (hk : Keeps base s) : Keeps base (stallCq s q) := by
  unfold stallCq
  repeat' first
    | with_reducible assumption | with_reducible apply postEvent_keeps | with_reducible apply State.setCq_keeps | dsimp only | split

theorem walkEnd_keeps (e : Nat) (w : Walk) (out : WalkOut) {base s : State} (hk : Keeps base s) : Keeps base (walkEnd s e w out) := by
  unfold walkEnd
  repeat' first
    | with_reducible apply State.setWalk_keeps | with_reducible apply pumpCore_keeps | with_reducible apply jobPumpEngine_keeps
    | with_reducible apply State.setFar_keeps | with_reducible apply State.updJob_keeps | with_reducible apply taskFault_keeps
    | with_reducible apply keeps_updCore | with_reducible assumption | with_reducible apply jobFault_keeps | intro _ | dsimp only
    | split

theorem walkStep_keeps (e : Nat) (w : Walk) (x : Xmit) {base s : State} (hk : Keeps base s) : Keeps base (walkStep s e w x) := by
  unfold walkStep
  repeat' first
    | with_reducible assumption | with_reducible apply walkRead_keeps | with_reducible apply State.setWalk_keeps
    | with_reducible apply walkEnd_keeps | refine keeps_pair ?_ (by assumption) | split

theorem farLookup_keeps (e : Nat) (w : Walk) (evicted : List (Nat × Nat)) {base s : State} (hk : Keeps base s) : Keeps base
    (farLookup s e w evicted) := by
  unfold farLookup
  repeat' first
    | with_reducible assumption | with_reducible apply State.setFar_keeps | with_reducible apply walkEnd_keeps
    | with_reducible apply walkStep_keeps | dsimp only | split

theorem startRetrain_keeps (p : Nat) {base s : State} (hk : Keeps base s) : Keeps base (startRetrain s p) := by
  unfold startRetrain
  repeat' first
    | with_reducible assumption | with_reducible apply changePort_keeps | with_reducible apply countEdge_keeps | dsimp only | split

theorem wakeFence_keeps (d : FenceDone) {base s : State} (hk : Keeps base s) : Keeps base (wakeFence s d) := by
  unfold wakeFence
  repeat' first | with_reducible assumption | with_reducible apply releaseWaits_keeps | split

theorem replayAll_keeps (p : Nat) {base s0 : State} (hk : Keeps base s0) : Keeps base (replayAll s0 p) := by
  unfold replayAll
  repeat' first
    | with_reducible apply sendFlit_keeps | with_reducible apply countReplay_keeps | with_reducible apply startRetrain_keeps
    | with_reducible apply keeps_forAll | with_reducible exact keeps_same hk rfl rfl rfl rfl rfl rfl rfl rfl
    | refine keeps_ite (fun _ => ?_) (fun _ => ?_) | intro _

theorem returnCredits_keeps (p : Nat) {base s : State} (hk : Keeps base s) : Keeps base (returnCredits s p) := by
  unfold returnCredits
  repeat' first
    | with_reducible apply sendFlit_keeps | with_reducible apply keeps_forAll
    | with_reducible exact keeps_same hk rfl rfl rfl rfl rfl rfl rfl rfl | intro _

theorem pumpAll_keeps {base s : State} (hk : Keeps base s) : Keeps base (pumpAll s) := by
  unfold pumpAll
  repeat' first
    | with_reducible apply jobPumpAll_keeps | with_reducible apply pumpCore_keeps | with_reducible apply keeps_forAll
    | with_reducible exact keeps_same hk rfl rfl rfl rfl rfl rfl rfl rfl | intro _

end Sys2Proof.Machine
end

