-- ==== Sys2Proof/Laws/KeepQueues.lean ====
section
/-! SUPPORT. One lemma per operation that changes the state, on what it keeps (`Keeps`): settings and swaps, lockets, the pool, queues and descriptors, fences, halves. -/

namespace Sys2Proof.Machine

theorem abandonSwap_keeps (i status : Nat) (us : Option Nat) {base s : State} (hk : Keeps base s) :
    Keeps base (abandonSwap s i status us) := by
  have h0 : Keeps base (if us.isSome = true then s else s.takeFree.2) := keeps_ite (fun _ => hk) fun _ => State.takeFree_keeps hk
  unfold abandonSwap
  revert h0
  generalize (if us.isSome = true then s else s.takeFree.2) = s1
  intro h0
  repeat' first
    | with_reducible assumption | with_reducible apply State.setSetting_keeps | with_reducible apply endDesc_keeps
    | with_reducible apply keeps_updChan | with_reducible apply keeps_forAll | intro _ | exact Chan.undefine_wf _ | dsimp only | split
    | with_reducible exact keeps_same h0 rfl rfl rfl rfl rfl rfl rfl rfl

theorem abortContext_keeps (q : Nat) (d : Desc) {base s : State} (hk : Keeps base s) : Keeps base (abortContext s q d) := by
  unfold abortContext
  repeat' first
    | with_reducible apply settle_keeps | with_reducible apply startAbort_keeps | with_reducible apply endDesc_keeps | dsimp only
    | split | with_reducible exact keeps_same hk rfl rfl rfl rfl rfl rfl rfl rfl

theorem abortDrained_keeps (a : Abort) {base s : State} (hk : Keeps base s) : Keeps base (abortDrained s a) := by
  unfold abortDrained
  repeat' first
    | with_reducible apply finishAbort_keeps | with_reducible exact keeps_same hk rfl rfl rfl rfl rfl rfl rfl rfl
    | refine keeps_ite (fun _ => ?_) (fun _ => ?_)

theorem acceptReqs_keeps (h : Nat) {base s : State} (hk : Keeps base s) : Keeps base (acceptReqs s h) := by
  unfold acceptReqs
  repeat' first | with_reducible exact keeps_same hk rfl rfl rfl rfl rfl rfl rfl rfl

theorem setLeases_keeps (l : List Lease) {base s : State} (hk : Keeps base s) : Keeps base (setLeases s l) :=
  keeps_same hk rfl rfl rfl rfl rfl rfl rfl rfl

theorem leaseLost_keeps (pool block locket gen : Nat) {base s : State} (hk : Keeps base s) : Keeps base
    (leaseLost s pool block locket gen) := setLeases_keeps _ hk

theorem leaseSend_keeps (c : LeaseCmd) (op : Nat) {base s : State} (hk : Keeps base s) : Keeps base (leaseSend s c op) := by
  unfold leaseSend
  repeat' first
    | dsimp only | split
    | (with_reducible refine keeps_mk ?_ rfl rfl rfl rfl rfl rfl rfl rfl; first
        | with_reducible assumption | with_reducible apply sendControl_keeps | refine keeps_pair ?_ (by assumption))

theorem leaseProgress_keeps {base s : State} (hk : Keeps base s) : Keeps base (leaseProgress s) := by
  unfold leaseProgress
  repeat' first | with_reducible assumption | with_reducible apply leaseSend_keeps | split

theorem moveTask_keeps (t : Task) {base s : State} (hk : Keeps base s) : Keeps base (moveTask s t) := by
  unfold moveTask
  repeat' first
    | with_reducible assumption | with_reducible apply makeRunnable_keeps | with_reducible apply clearCore_keeps
    | with_reducible apply keeps_updCore | refine keeps_ite (fun _ => ?_) (fun _ => ?_) | intro _

theorem activateSwap_keeps (i : Nat) {base s : State} (hk : Keeps base s) : Keeps base (activateSwap s i) := by
  unfold activateSwap
  repeat' first
    | with_reducible assumption | with_reducible apply State.setSetting_keeps | with_reducible apply State.updSetting_keeps
    | with_reducible apply endDesc_keeps | with_reducible apply keeps_forAll | with_reducible apply moveTask_keeps | intro _
    | dsimp only | split

theorem sendTeardown_keeps (l m sub step tag : Nat) {base s : State} (hk : Keeps base s) : Keeps base
    (sendTeardown s l m sub step tag) := sendControl_keeps _ _ _ _ hk

theorem updTeardown_keeps (l : Nat) (f : Teardown → Teardown) {base s : State} (hk : Keeps base s) : Keeps base (updTeardown s l f) :=
  State.updSlot_keeps _ _ hk

theorem freeBlocksOf_keeps (l : Nat) {base s : State} (hk : Keeps base s) : Keeps base (freeBlocksOf s l) := by
  unfold freeBlocksOf
  repeat' first
    | intro _ | split
    | (with_reducible refine keeps_mk ?_ rfl rfl rfl rfl rfl rfl rfl rfl; first
        | with_reducible assumption | with_reducible apply State.setHomeRec_keeps | with_reducible apply keeps_forAll)

theorem retireKey_keeps (tag : Nat) {base s : State} (hk : Keeps base s) : Keeps base (retireKey s tag) :=
  keeps_same hk rfl rfl rfl rfl rfl rfl rfl rfl

theorem stepDone_keeps (l step : Nat) {base s : State} (hk : Keeps base s) : Keeps base (stepDone s l step) := by
  unfold stepDone
  repeat' first | with_reducible assumption | with_reducible apply sendTeardown_keeps | with_reducible apply updTeardown_keeps | split

theorem clearLocketQueues_keeps (l : Nat) {base s : State} (hk : Keeps base s) : Keeps base (clearLocketQueues s l) := by
  unfold clearLocketQueues
  repeat' first
    | with_reducible assumption | with_reducible apply destroyFence_keeps | with_reducible apply dropRanges_keeps
    | with_reducible apply State.setCtx_keeps | with_reducible apply freeSlots_keeps | with_reducible apply State.setSq_keeps
    | with_reducible apply State.updCq_keeps | with_reducible apply State.setEv_keeps | with_reducible apply State.updFq_keeps
    | with_reducible apply keeps_forAll | intro _

theorem expelReqs_keeps (p : Req → Bool) (st : Nat) {base s : State} (hk : Keeps base s) : Keeps base (expelReqs s p st) := by
  unfold expelReqs
  repeat' first
    | with_reducible apply answer_keeps | with_reducible apply keeps_forAll
    | with_reducible exact keeps_same hk rfl rfl rfl rfl rfl rfl rfl rfl | intro _

theorem startScrub_keeps (c initiator : Nat) {base s : State} (hk : Keeps base s) : Keeps base (startScrub s c initiator) := by
  unfold startScrub
  repeat' first | with_reducible assumption | with_reducible apply keeps_updChan | intro _

theorem releaseLocket_keeps (l : Nat) {base s : State} (hk : Keeps base s) : Keeps base (releaseLocket s l) := by
  unfold releaseLocket
  repeat' first
    | with_reducible assumption | intro _
    | (with_reducible refine keeps_mk ?_ rfl rfl rfl rfl rfl rfl rfl rfl; first
        | with_reducible apply State.setSetting_keeps | with_reducible apply clearLocketQueues_keeps
        | with_reducible apply expelReqs_keeps | with_reducible apply startScrub_keeps | with_reducible apply State.updSlot_keeps
        | with_reducible apply updTeardown_keeps | with_reducible apply keeps_updChan | with_reducible apply keeps_forAll)

theorem teardownDone_keeps (l tag qp members missing reqs : Nat) {base s : State} (hk : Keeps base s) : Keeps base
    (teardownDone s l tag qp members missing reqs) := by
  unfold teardownDone
  repeat' first | with_reducible assumption | with_reducible apply State.takeFree_keeps | with_reducible apply postEvent_keeps

theorem emptySlot_keeps (l : Nat) {base s : State} (hk : Keeps base s) : Keeps base (emptySlot s l) := State.setSlot_keeps _ _ hk

theorem answerStop_keeps (l : Nat) (t : Teardown) {base s : State} (hk : Keeps base s) : Keeps base (answerStop s l t) := by
  unfold answerStop
  repeat' first | with_reducible assumption | with_reducible apply reply_keeps | with_reducible apply State.setTdi_keeps | split

theorem finishTeardown_keeps (l : Nat) {base s : State} (hk : Keeps base s) : Keeps base (finishTeardown s l) := by
  unfold finishTeardown
  repeat' first
    | with_reducible assumption | with_reducible apply teardownDone_keeps | with_reducible apply emptySlot_keeps
    | with_reducible apply answerStop_keeps | with_reducible apply endDesc_keeps | split

theorem advanceTeardown_keeps (l : Nat) (fuel : Nat)
    {base s : State} (hk : Keeps base s) : Keeps base (advanceTeardown s l fuel) := by
  induction fuel generalizing s with
  | zero => exact hk
  | succ n ih =>
    unfold advanceTeardown
    split
    · exact hk
    · rename_i t ht
      split
      · exact hk
      · extract_lets send clear
        have hs : ∀ u step, Keeps base u → Keeps base (send u step) := fun u step h => keeps_forAll h fun t m h => sendTeardown_keeps _ _ _ _ _ h
        have hc : ∀ u step, Keeps base u → Keeps base (clear u step) := fun u step h => updTeardown_keeps _ _ h
        split
        · have h2 := freeBlocksOf_keeps l (retireKey_keeps t.tag (State.updSlot_keeps l (fun x => { x with state := 4 }) (hs _ 5 (hc _ 5 hk))))
          exact keeps_ite (fun _ => ih (stepDone_keeps _ _ h2)) (fun _ => h2)
        · split
          · rename_i s1 _ _
            have h1 : Keeps base s1 := releaseLocket_keeps l (hs _ 7 (hc _ 7 hk))
            split
            · split
              · exact ih (stepDone_keeps _ _ h1)
              · exact h1
            · exact h1
          · split
            · exact finishTeardown_keeps _ (hs _ _ hk)
            · exact hk

theorem advanceTo_keeps (n t : Nat) {base s : State} (hk : Keeps base s) : Keeps base (advanceTo s n t) := by
  unfold advanceTo
  repeat' first
    | with_reducible apply keeps_updCore | with_reducible assumption | with_reducible apply addCycles_keeps | intro _ | dsimp only
    | split

theorem recordOp_keeps (b : Nat) (op : RecordOp) {base s : State} (hk : Keeps base s) : Keeps base (recordOp s b op).1 := by
  unfold recordOp
  repeat' first | with_reducible assumption | with_reducible apply State.setHomeRec_keeps | dsimp only | split

theorem roleDone_keeps (q idx : Nat) {base s : State} (hk : Keeps base s) : Keeps base (roleDone s q idx) := by
  unfold roleDone
  repeat' first
    | with_reducible assumption | with_reducible apply endDesc_keeps | with_reducible apply State.updPcore_keeps
    | with_reducible apply keeps_updCore | with_reducible apply keeps_updChan | with_reducible apply keeps_forAll
    | with_reducible exact keeps_same hk rfl rfl rfl rfl rfl rfl rfl rfl | refine keeps_ite (fun _ => ?_) (fun _ => ?_) | intro _

theorem scrubbedFor_keeps (c : Nat) {base s : State} (hk : Keeps base s) : Keeps base (scrubbedFor s c) := by
  unfold scrubbedFor
  repeat' first
    | with_reducible assumption | with_reducible apply State.updDesc_keeps | with_reducible apply roleDone_keeps
    | with_reducible apply endDesc_keeps | with_reducible apply keeps_forAll | intro _ | dsimp only | split

theorem teardownScrubbed_keeps (c : Nat) {base s : State} (hk : Keeps base s) : Keeps base (teardownScrubbed s c) := by
  unfold teardownScrubbed
  repeat' first
    | with_reducible assumption | with_reducible apply updTeardown_keeps | with_reducible apply advanceTeardown_keeps
    | with_reducible apply stepDone_keeps | dsimp only | split

theorem dropScrub_keeps (c : Nat) {base s : State} (hk : Keeps base s) : Keeps base (dropScrub s c) := by
  unfold dropScrub
  repeat' first | with_reducible assumption | with_reducible apply scrubbedFor_keeps | with_reducible apply teardownScrubbed_keeps

theorem failMoves_keeps (c : Nat) {base s : State} (hk : Keeps base s) : Keeps base (failMoves s c) := by
  unfold failMoves
  repeat' first
    | with_reducible apply abandonSwap_keeps | with_reducible apply keeps_forAll
    | with_reducible exact keeps_same hk rfl rfl rfl rfl rfl rfl rfl rfl | intro _

theorem retire_keeps (unit reason : Nat) {base s : State} (hk : Keeps base s) : Keeps base (retire s unit reason) := by
  unfold retire
  repeat' first
    | with_reducible assumption | with_reducible apply putEv_keeps | with_reducible apply postEvent_keeps
    | with_reducible apply stopTask_keeps | with_reducible apply dropScrub_keeps | with_reducible apply failMoves_keeps
    | with_reducible apply keeps_updChan | with_reducible exact keeps_same hk rfl rfl rfl rfl rfl rfl rfl rfl | intro _ | dsimp only
    | split

theorem wantRate_keeps (h cause : Nat) {base s : State} (hk : Keeps base s) : Keeps base (wantRate s h cause) := by
  unfold wantRate
  repeat' first | with_reducible assumption | with_reducible apply State.updHalf_keeps | split

theorem takeArrived_keeps (q x2 : Nat) {base s : State} (hk : Keeps base s) : Keeps base (takeArrived s q x2) := by
  induction x2 generalizing s q with
  | zero => exact hk
  | succ m ih =>
    unfold takeArrived
    repeat' first
      | with_reducible assumption | apply ih | with_reducible apply State.setSq_keeps | with_reducible apply notePcie_keeps
      | dsimp only | split

theorem arriveDesc_keeps (q i : Nat) (d : BitVec 512) {base s : State} (hk : Keeps base s) : Keeps base (arriveDesc s q i d) := by
  unfold arriveDesc
  repeat' first
    | with_reducible assumption | with_reducible apply State.setSq_keeps | with_reducible apply takeArrived_keeps
    | apply hostSend_keeps | with_reducible apply settle_keeps | refine keeps_ite (fun _ => ?_) (fun _ => ?_)

theorem beginCopy_keeps (q : Nat) (d : Desc) (ce : Nat) {base s : State} (hk : Keeps base s) : Keeps base (beginCopy s q d ce) := by
  unfold beginCopy
  repeat' first
    | with_reducible apply endDesc_keeps | with_reducible apply settle_keeps | with_reducible apply jobPumpEngine_keeps | dsimp only
    | split | with_reducible exact keeps_same hk rfl rfl rfl rfl rfl rfl rfl rfl

theorem beginInval_keeps (q : Nat) (d : Desc) {base s : State} (hk : Keeps base s) : Keeps base (beginInval s q d) := by
  unfold beginInval
  repeat' first
    | intro _
    | (with_reducible refine keeps_mk ?_ rfl rfl rfl rfl rfl rfl rfl rfl; first
        | with_reducible assumption | with_reducible apply dropRanges_keeps | with_reducible apply beginDesc_keeps
        | with_reducible apply State.setWalk_keeps | with_reducible apply settle_keeps | with_reducible apply keeps_forAll)

theorem sendLaunch_keeps (q : Nat) (d : Desc) (l mod core peer t : Nat) {base s : State} (hk : Keeps base s) : Keeps base
    (sendLaunch s q d l mod core peer t) := by
  unfold sendLaunch
  repeat' first
    | with_reducible assumption | with_reducible apply sendRequest_keeps | with_reducible apply taskPart_keeps
    | refine keeps_pair ?_ (by assumption) | dsimp only | split

theorem startLoad_keeps (d : Desc) (who : Launcher) (cores : List Nat) (ctx locket set fn : Nat) {base s : State}
    (hk : Keeps base s) : Keeps base (startLoad s d who cores ctx locket set fn) := by
  unfold startLoad
  repeat' first | with_reducible apply jobPumpEngine_keeps | with_reducible exact keeps_same hk rfl rfl rfl rfl rfl rfl rfl rfl

theorem beginLoad_keeps (q : Nat) (d : Desc) {base s : State} (hk : Keeps base s) : Keeps base (beginLoad s q d) := by
  unfold beginLoad
  repeat' first
    | with_reducible assumption | with_reducible apply State.updDesc_keeps | with_reducible apply beginDesc_keeps
    | with_reducible apply sendLaunch_keeps | with_reducible apply taskPart_keeps | with_reducible apply startLoad_keeps
    | with_reducible apply keeps_forAll | refine keeps_ite (fun _ => ?_) (fun _ => ?_) | intro _

theorem beginScrub_keeps (q : Nat) (d : Desc) {base s : State} (hk : Keeps base s) : Keeps base (beginScrub s q d) := by
  unfold beginScrub
  repeat' first
    | with_reducible apply endDesc_keeps | with_reducible apply startScrub_keeps | with_reducible apply settle_keeps
    | with_reducible apply State.updDesc_keeps | with_reducible apply beginDesc_keeps | with_reducible apply keeps_forAll
    | with_reducible exact keeps_same hk rfl rfl rfl rfl rfl rfl rfl rfl | refine keeps_ite (fun _ => ?_) (fun _ => ?_) | intro _

theorem startMoves_keeps (i facet : Nat) {base s : State} (hk : Keeps base s) : Keeps base (startMoves s i facet) := by
  have h (ms : List Move) : Keeps base { s with mem := { s.mem with moves := s.mem.moves ++ ms } } :=
    keeps_same hk rfl rfl rfl rfl rfl rfl rfl rfl
  unfold startMoves
  exact keeps_ite (fun _ => activateSwap_keeps _ hk) fun _ =>
    keeps_ite (fun _ => abandonSwap_keeps _ _ _ (State.updSetting_keeps _ _ (h _))) fun _ => State.updSetting_keeps _ _ (h _)

theorem beginSwap_keeps (q : Nat) (d : Desc) {base s : State} (hk : Keeps base s) : Keeps base (beginSwap s q d) := by
  unfold beginSwap
  repeat' first
    | with_reducible assumption | with_reducible apply endDesc_keeps | with_reducible apply startMoves_keeps
    | with_reducible apply State.setSetting_keeps | dsimp only | split

theorem newTask_keeps (d : Desc) (who : Launcher) (t ctx locket set vcore : Nat) (pf : Bool) {base s : State} (hk : Keeps base s) :
    Keeps base (newTask s d who t ctx locket set vcore pf) := keeps_same hk rfl rfl rfl rfl rfl rfl rfl rfl

theorem beginTasks_keeps (q : Nat) (d : Desc) {base s : State} (hk : Keeps base s) : Keeps base (beginTasks s q d) := by
  unfold beginTasks
  repeat' first
    | with_reducible assumption | with_reducible apply endDesc_keeps | with_reducible apply newTask_keeps
    | with_reducible apply taskPart_keeps | with_reducible apply sendLaunch_keeps | with_reducible apply keeps_forAll
    | with_reducible exact keeps_same hk rfl rfl rfl rfl rfl rfl rfl rfl | refine keeps_ite (fun _ => ?_) (fun _ => ?_) | intro _

theorem refreshReset_keeps {base s : State} (hk : Keeps base s) : Keeps base (refreshReset s) := by
  unfold refreshReset
  repeat' first | with_reducible exact keeps_same hk rfl rfl rfl rfl rfl rfl rfl rfl

theorem fenceLocket_keeps (l : Nat) {base s : State} (hk : Keeps base s) : Keeps base (fenceLocket s l) := by
  unfold fenceLocket
  repeat' first
    | with_reducible apply abortStart_keeps | with_reducible apply stopQueue_keeps | with_reducible apply abortUnbegun_keeps
    | with_reducible apply keeps_forAll | with_reducible exact keeps_same hk rfl rfl rfl rfl rfl rfl rfl rfl | intro _

theorem tdiError_keeps (l : Nat) {base s : State} (hk : Keeps base s) : Keeps base (tdiError s l) := by
  unfold tdiError
  repeat' first
    | with_reducible apply stopQueue_keeps | with_reducible apply abortUnbegun_keeps | with_reducible apply keeps_forAll
    | with_reducible exact keeps_same hk rfl rfl rfl rfl rfl rfl rfl rfl | refine keeps_ite (fun _ => ?_) (fun _ => ?_) | intro _

theorem beginTeardown_keeps (l : Nat) (t : Teardown) {base s : State} (hk : Keeps base s) : Keeps base (beginTeardown s l t) := by
  unfold beginTeardown
  repeat' first
    | with_reducible assumption | with_reducible apply refreshReset_keeps | with_reducible apply State.updSlot_keeps
    | with_reducible apply abandonSwap_keeps | with_reducible apply fenceLocket_keeps | with_reducible apply tdiError_keeps
    | with_reducible apply keeps_forAll | intro _

theorem zeroBlock_keeps (b : Nat) {base s : State} (hk : Keeps base s) : Keeps base (zeroBlock s b) := by
  unfold zeroBlock
  repeat' first
    | with_reducible assumption | with_reducible apply keeps_updChan | with_reducible apply keeps_forAll | intro _
    | with_reducible apply Cells.wf_clear

theorem poolResult_keeps (result r : Nat) {base s : State} (hk : Keeps base s) : Keeps base (poolResult s result r) :=
  keeps_same hk rfl rfl rfl rfl rfl rfl rfl rfl

theorem teardownFreed_keeps {base s : State} (hk : Keeps base s) : Keeps base (teardownFreed s) := by
  unfold teardownFreed
  repeat' first
    | with_reducible assumption | with_reducible apply advanceTeardown_keeps | with_reducible apply stepDone_keeps
    | with_reducible apply keeps_forAll | refine keeps_ite (fun _ => ?_) (fun _ => ?_) | intro _

theorem blockCleared_keeps (b : Nat) {base s : State} (hk : Keeps base s) : Keeps base (blockCleared s b) := by
  unfold blockCleared
  repeat' first
    | dsimp only | split
    | (with_reducible refine keeps_mk ?_ rfl rfl rfl rfl rfl rfl rfl rfl; first
        | with_reducible assumption | with_reducible apply State.setHomeRec_keeps | with_reducible apply zeroBlock_keeps
        | with_reducible apply poolResult_keeps | with_reducible apply teardownFreed_keeps)

theorem noteReset_keeps (level : Nat) {base s : State} (hk : Keeps base s) : Keeps base (noteReset s level) :=
  keeps_same hk rfl rfl rfl rfl rfl rfl rfl rfl

theorem startLocketReset_keeps (l cause : Nat) {base s : State} (hk : Keeps base s) : Keeps base (startLocketReset s l cause) := by
  unfold startLocketReset
  repeat' first
    | with_reducible apply noteReset_keeps | with_reducible apply fenceLocket_keeps | with_reducible apply tdiError_keeps
    | with_reducible apply abandonSwap_keeps | with_reducible apply keeps_forAll
    | with_reducible exact keeps_same hk rfl rfl rfl rfl rfl rfl rfl rfl | refine keeps_ite (fun _ => ?_) (fun _ => ?_) | intro _

theorem ownFailure_keeps (unit reason : Nat) {base s : State} (hk : Keeps base s) : Keeps base (ownFailure s unit reason) := by
  unfold ownFailure
  repeat' first
    | with_reducible apply retire_keeps | with_reducible exact keeps_same hk rfl rfl rfl rfl rfl rfl rfl rfl
    | refine keeps_ite (fun _ => ?_) (fun _ => ?_)

theorem channelFailed_keeps (c : Nat) {base s : State} (hk : Keeps base s) : Keeps base (channelFailed s c) := by
  have h := dropScrub_keeps c (failMoves_keeps c hk)
  unfold channelFailed
  apply ownFailure_keeps
  split
  · exact startLocketReset_keeps _ _ (tdiError_keeps _ h)
  · exact h

theorem channelsFailed_keeps (l : List Nat) {base s : State} (hk : Keeps base s) : Keeps base (l.foldl channelFailed s) := by
  induction l generalizing s with
  | nil => exact hk
  | cons c l ih =>
    rw [List.foldl_cons]
    exact ih (channelFailed_keeps c hk)

theorem noteDrained_keeps (r : Req) {base s : State} (hk : Keeps base s) : Keeps base (noteDrained s r) := by
  unfold noteDrained
  repeat' first | with_reducible assumption | with_reducible apply State.setSetting_keeps | dsimp only | split

theorem leaveProgress_keeps {base s : State} (hk : Keeps base s) : Keeps base (leaveProgress s) := by
  unfold leaveProgress
  repeat' first
    | with_reducible assumption | with_reducible apply startScrub_keeps | with_reducible apply keeps_forAll
    | refine keeps_ite (fun _ => ?_) (fun _ => ?_) | intro _

theorem poolProgress_keeps {base s : State} (hk : Keeps base s) : Keeps base (poolProgress s) := by
  unfold poolProgress
  repeat' first | with_reducible assumption | with_reducible apply poolResult_keeps | with_reducible apply leaveProgress_keeps | split

theorem leaseResult_keeps (result gen : Nat) {base s : State} (hk : Keeps base s) : Keeps base (leaseResult s result gen) :=
  keeps_same hk rfl rfl rfl rfl rfl rfl rfl rfl

theorem putLease_keeps (e : Lease) {base s : State} (hk : Keeps base s) : Keeps base (putLease s e) := setLeases_keeps _ hk

theorem dropLease_keeps (pool block locket : Nat) {base s : State} (hk : Keeps base s) : Keeps base (dropLease s pool block locket) :=
  setLeases_keeps _ hk

theorem reconcile_keeps (c : LeaseCmd) (r : HomeRec) {base s : State} (hk : Keeps base s) : Keeps base (reconcile s c r) := by
  unfold reconcile
  repeat' first
    | with_reducible assumption | with_reducible apply leaseResult_keeps | with_reducible apply putLease_keeps
    | with_reducible apply dropLease_keeps | dsimp only | split

theorem leaseAnswered_keeps (reqid : Nat) (ok : Bool) (r : HomeRec) {base s : State} (hk : Keeps base s) : Keeps base
    (leaseAnswered s reqid ok r) := by
  unfold leaseAnswered
  repeat' first
    | with_reducible assumption | with_reducible apply reconcile_keeps | with_reducible apply leaseResult_keeps
    | with_reducible apply putLease_keeps | with_reducible apply dropLease_keeps | split

theorem moveSector_keeps (m : Move) (x : MoveSector) {base : State} {r : State × List Nat} (hk : Keeps base r.1) :
    Keeps base (moveSector m r x).1 := by
  unfold moveSector
  dsimp only
  refine settleXfer_keeps _ _ _ _ _ _ (settleXfer_keeps _ _ _ _ _ _ hk fun wf => ?_) fun wf => ?_
  · rw [readSector_mem]; exact Memory.chan wf _
  · repeat' split
    all_goals exact writeSector_wf _ _ _ _ _ _ (Memory.chan wf _)

theorem noteMove_keeps (m : Move) {base s : State} (hk : Keeps base s) : Keeps base (noteMove s m) := by
  unfold noteMove
  repeat' first
    | with_reducible assumption | with_reducible apply countDram_keeps | with_reducible apply noteGrant_keeps
    | with_reducible apply crossSeam_keeps

theorem copyMove_keeps (m : Move) (e : MoveEnd) {base s : State} (hk : Keeps base s) : Keeps base (copyMove s m e).1 := by
  unfold copyMove
  refine noteMove_keeps _ (keeps_foldl ?_ fun _ x h => moveSector_keeps _ x h)
  have h0 := keeps_updChan (n := m.src) (f := fun h => { h with corr := satAdd 32 h.corr e.corrected }) hk fun c h => h
  exact h0.trans (keeps_setChan (Keeps.refl _) fun wf => Memory.chan wf m.src)

theorem saveCovered_keeps (l : Labels) (root stop va n : Nat) {base s : State} (hk : Keeps base s) :
    Keeps base (saveCovered s l root stop va n).1 := by
  induction n generalizing s va with
  | zero => exact hk
  | succ n ih =>
    have h1 := walkVa_keeps l root va hk
    unfold saveCovered
    refine keeps_ite1 (fun _ => hk) fun _ => ?_
    split
    · rename_i s1 e h
      exact keeps_ite1 (fun _ => ih _ (keeps_pair h1 h)) fun _ => keeps_pair h1 h
    · exact keeps_pair h1 (by assumption)
    · exact keeps_pair h1 (by assumption)

theorem createContext_keeps (q : Nat) (d : Desc) {base s : State} (hk : Keeps base s) : ∀ u, createContext s q d = some u →
    Keeps base u.1 := by
  unfold createContext
  intro u hu
  repeat' first
    | with_reducible assumption | with_reducible apply saveCovered_keeps | with_reducible apply State.setCtx_keeps
    | refine keeps_pair ?_ (by assumption) | contradiction | (obtain rfl := Option.some.inj hu) | split at hu | dsimp only at hu

theorem fenceResult_keeps (r : Nat) {base s : State} (hk : Keeps base s) : Keeps base (fenceResult s r) :=
  keeps_same hk rfl rfl rfl rfl rfl rfl rfl rfl

theorem holdFence_keeps (c : FenceCmd) {base s : State} (hk : Keeps base s) : Keeps base (holdFence s c) := by
  unfold holdFence
  repeat' first | with_reducible exact keeps_same hk rfl rfl rfl rfl rfl rfl rfl rfl

theorem writeRecord_keeps (c off : Nat) (r : FenceRec) (x : Xmit) (w : Cause)
    {base s : State} (hk : Keeps base s) : Keeps base (writeRecord s c off r x w).1 := by
  unfold writeRecord
  repeat' first | with_reducible assumption | with_reducible apply chanAnswers_keeps | with_reducible apply modifySector_keeps | split

theorem makeFence_keeps (i : Nat) (a : FenceArg) (m : Mapped) (x : Xmit) {base s : State} (hk : Keeps base s) :
    Keeps base (makeFence s i a m x) := by
  unfold makeFence
  dsimp only
  have h := writeRecord_keeps m.c m.off
    { v := a.init.toNat, state := 0, regress := false, err := 0, index := i, gen := (s.fence i).gen % 63 + 1, errCtx := noCtx } x
    { dpa := s.ownDpa a.recOff, access := 2, wr := true } hk
  refine keeps_ite (fun _ => fenceResult_keeps _ (channelsFailed_keeps _ h)) fun _ => channelsFailed_keeps _ ?_
  exact keeps_same (noteOwn_keeps _ _ _ _ (State.setFence_keeps _ _ (markFence_keeps _ _ _ h))) rfl rfl rfl rfl rfl rfl rfl rfl

theorem createWith_keeps (i : Nat) (a : FenceArg) (x : Xmit)
    {base s : State} (hk : Keeps base s) : Keeps base (createWith s i a x) := by
  unfold createWith
  repeat' first
    | with_reducible assumption | with_reducible apply fenceResult_keeps | apply holdFence_keeps
    | with_reducible apply makeFence_keeps | refine keeps_ite (fun _ => ?_) (fun _ => ?_) | split

theorem createFence_keeps (i : Nat) (x : Xmit) {base s : State} (hk : Keeps base s) : Keeps base (createFence s i x) := by
  unfold createFence
  repeat' first | with_reducible assumption | with_reducible apply createWith_keeps | refine keeps_ite (fun _ => ?_) (fun _ => ?_)

theorem exchangeLocket_keeps (l : Nat) {base s : State} (hk : Keeps base s) : Keeps base (exchangeLocket s l) := by
  unfold exchangeLocket
  repeat' first
    | with_reducible assumption | with_reducible apply keeps_updChan | with_reducible apply keeps_forAll
    | with_reducible exact keeps_same hk rfl rfl rfl rfl rfl rfl rfl rfl | intro _

theorem installStaged_keeps (l tag : Nat) {base s : State} (hk : Keeps base s) : Keeps base (installStaged s l tag) := by
  unfold installStaged
  repeat' first | dsimp only | split | with_reducible exact keeps_same hk rfl rfl rfl rfl rfl rfl rfl rfl

theorem resetCredits_keeps (l : Nat) {base s : State} (hk : Keeps base s) : Keeps base (resetCredits s l) :=
  keeps_same hk rfl rfl rfl rfl rfl rfl rfl rfl

theorem createLocket_keeps (l : Nat) {base s : State} (hk : Keeps base s) : Keeps base (createLocket s l).1 := by
  unfold createLocket
  repeat' first
    | with_reducible assumption | with_reducible apply State.updSlot_keeps | with_reducible apply exchangeLocket_keeps
    | with_reducible apply installStaged_keeps | with_reducible apply resetCredits_keeps | dsimp only | split

theorem destroyWith_keeps (i : Nat) {base s : State} (hk : Keeps base s) : Keeps base (destroyWith s i) := by
  unfold destroyWith
  repeat' first
    | with_reducible assumption | apply holdFence_keeps | with_reducible apply fenceResult_keeps
    | with_reducible apply destroyFence_keeps | with_reducible apply errorFence_keeps | refine keeps_ite (fun _ => ?_) (fun _ => ?_)

theorem destroyCommand_keeps (i : Nat) {base s : State} (hk : Keeps base s) : Keeps base (destroyCommand s i) := by
  unfold destroyCommand
  repeat' first | with_reducible assumption | with_reducible apply destroyWith_keeps | refine keeps_ite (fun _ => ?_) (fun _ => ?_)

theorem destroyContext_keeps (n : Nat) {base s : State} (hk : Keeps base s) : Keeps base (destroyContext s n).1 := by
  unfold destroyContext
  repeat' first
    | with_reducible assumption | with_reducible apply dropRanges_keeps | with_reducible apply State.setFence_keeps
    | with_reducible apply State.setCtx_keeps | with_reducible apply keeps_forAll | refine keeps_ite1 (fun _ => ?_) (fun _ => ?_)
    | intro _

theorem settleFenceOps_keeps (l : Nat) {base s : State} (hk : Keeps base s) : Keeps base (settleFenceOps s l) := by
  unfold settleFenceOps
  repeat' first
    | with_reducible assumption | with_reducible apply settle_keeps | with_reducible apply descSignalled_keeps
    | with_reducible apply keeps_forAll | with_reducible exact keeps_same hk rfl rfl rfl rfl rfl rfl rfl rfl | intro _

theorem swapDone_keeps (locket qp object epoch moves tasks drained us : Nat) {base s : State} (hk : Keeps base s) : Keeps base
    (swapDone s locket qp object epoch moves tasks drained us) := postEvent_keeps _ hk

theorem unlockSwap_keeps (i us : Nat) {base s : State} (hk : Keeps base s) : Keeps base (unlockSwap s i us) := by
  unfold unlockSwap
  repeat' first
    | with_reducible assumption | with_reducible apply State.setSetting_keeps | with_reducible apply swapDone_keeps | dsimp only
    | split

theorem rehomeFences_keeps (src dst : Nat) {base s : State} (hk : Keeps base s) : Keeps base (rehomeFences s src dst) := by
  unfold rehomeFences
  repeat' first | with_reducible assumption | with_reducible apply State.setFence_keeps | with_reducible apply keeps_forAll | intro _

theorem endDrain_keeps (i : Nat) {base s : State} (hk : Keeps base s) : Keeps base (endDrain s i) := by
  unfold endDrain
  repeat' first
    | with_reducible assumption | with_reducible apply rehomeFences_keeps | with_reducible apply settleAll_keeps
    | with_reducible apply releaseHeld_keeps | with_reducible apply State.setSetting_keeps | with_reducible apply keeps_updChan
    | with_reducible apply keeps_forAll | with_reducible exact keeps_same hk rfl rfl rfl rfl rfl rfl rfl rfl | intro _ | dsimp only
    | split

theorem drainLocket_keeps (l : Nat) (remote : Bool) {base s : State} (hk : Keeps base s) : Keeps base (drainLocket s l remote) := by
  unfold drainLocket
  repeat' first
    | intro _
    | (with_reducible refine keeps_mk ?_ rfl rfl rfl rfl rfl rfl rfl rfl); first | with_reducible assumption | with_reducible apply forgetCtxReqs_keeps | with_reducible apply settleEndings_keeps | with_reducible apply expelReqs_keeps | with_reducible apply endJob_keeps | with_reducible apply jobFail_keeps | with_reducible apply dropReqs_keeps | with_reducible apply settleFenceOps_keeps | with_reducible apply State.takeFree_keeps | with_reducible apply unlockSwap_keeps | with_reducible apply endDrain_keeps | with_reducible apply errorFence_keeps | with_reducible apply endDesc_keeps | with_reducible apply keeps_updCore | with_reducible apply keeps_setCore | with_reducible apply keeps_updChan | with_reducible apply keeps_setChan | with_reducible apply keeps_setIntTgt | with_reducible apply keeps_forAll | with_reducible apply Cells.wf_clear | with_reducible apply Cells.wf_writeN | with_reducible apply Chan.store_wf | with_reducible apply writeSector_wf | with_reducible apply setArray_memWf | with_reducible apply settleCrw_memWf | with_reducible apply addRows_memWf | with_reducible apply completeOp_memWf | with_reducible apply beginPass_memWf | with_reducible apply clearedCore_memWf | with_reducible apply resetCore_memWf | with_reducible apply endFirst_memWf | with_reducible apply endSecond_memWf | with_reducible apply stopOp_memWf

theorem noteResetEnd_keeps (level : Nat) (esc : Bool) (us : Nat) {base s : State} (hk : Keeps base s) : Keeps base
    (noteResetEnd s level esc us) := keeps_same hk rfl rfl rfl rfl rfl rfl rfl rfl

theorem endCoreReset_keeps (n us : Nat) {base s : State} (hk : Keeps base s) : Keeps base (endCoreReset s n us) := by
  unfold endCoreReset
  repeat' first
    | with_reducible assumption | with_reducible apply resetDone_keeps | with_reducible apply noteResetEnd_keeps
    | with_reducible apply ownFailure_keeps | refine keeps_ite (fun _ => ?_) (fun _ => ?_)
    | exact keeps_updCore hk fun c h => ⟨h.1, Cells.wf_nil⟩

theorem resetLocketQueues_keeps (l : Nat) {base s : State} (hk : Keeps base s) : Keeps base (resetLocketQueues s l) := by
  unfold resetLocketQueues
  repeat' first
    | with_reducible assumption | with_reducible apply State.updSq_keeps | with_reducible apply State.updCq_keeps
    | with_reducible apply State.updFq_keeps | with_reducible apply State.setEv_keeps | with_reducible apply keeps_forAll | intro _

theorem endLocketReset_keeps (l us : Nat) {base s : State} (hk : Keeps base s) : Keeps base (endLocketReset s l us) := by
  unfold endLocketReset
  repeat' first
    | with_reducible assumption | with_reducible apply resetLocketQueues_keeps | with_reducible apply clearLocketQueues_keeps
    | with_reducible apply drainLocket_keeps | with_reducible apply State.updSlot_keeps | with_reducible apply noteResetEnd_keeps
    | with_reducible apply resetDone_keeps | refine keeps_ite (fun _ => ?_) (fun _ => ?_)

theorem endMove_keeps (i k : Nat) (e : MoveEnd) {base s : State} (hk : Keeps base s) : Keeps base (endMove s i k e).1 := by
  unfold endMove
  dsimp only
  split
  · exact hk
  · rename_i m hm
    have h1 := copyMove_keeps m e hk
    revert h1
    generalize copyMove s m e = o
    intro h1
    refine keeps_ite1 (fun _ => abandonSwap_keeps _ _ _ hk) fun _ => keeps_ite1 (fun _ => abandonSwap_keeps _ _ _ h1) fun _ => ?_
    have h2 : Keeps base { o.1 with mem := { o.1.mem with moves := mapWhere (· == m) (fun m => { m with done := true }) o.1.mem.moves } } :=
      keeps_same h1 rfl rfl rfl rfl rfl rfl rfl rfl
    revert h2
    generalize ({ o.1 with mem := { o.1.mem with moves := mapWhere (· == m) (fun m => { m with done := true }) o.1.mem.moves } } : State) = s2
    intro h2
    have h3 := State.updSetting_keeps i (fun x => { x with swap := x.swap.map (fun (w : Swap) => { w with us := e.us.toNat }) }) h2
    exact keeps_ite (fun _ => h3) fun _ => activateSwap_keeps _ h3

theorem endScrub_keeps (c us : Nat) {base s : State} (hk : Keeps base s) : Keeps base (endScrub s c us) := by
  unfold endScrub
  repeat' first
    | with_reducible assumption | with_reducible apply scrubbedFor_keeps | with_reducible apply teardownScrubbed_keeps
    | with_reducible apply keeps_setChan | with_reducible apply raise_keeps | with_reducible apply postEvent_keeps | intro _
    | exact Chan.scrubbedClean_wf _ | dsimp only | split

theorem endTaken_keeps (n : Nat) {base s : State} (hk : Keeps base s) : Keeps base (endTaken s n) := by
  unfold endTaken
  repeat' first
    | with_reducible apply abortDrained_keeps | with_reducible apply keeps_forAll
    | with_reducible exact keeps_same hk rfl rfl rfl rfl rfl rfl rfl rfl | intro _

theorem errorWaiter_keeps (x1 : Waiter) {base s : State} (hk : Keeps base s) : Keeps base (errorWaiter s x1) := by
  unfold errorWaiter
  repeat' first
    | with_reducible assumption | with_reducible apply releaseTask_keeps | with_reducible apply State.updTask_keeps
    | with_reducible apply releaseJob_keeps | with_reducible apply jobFail_keeps | split

theorem leaseCommand_keeps (op block : Nat) {base s : State} (hk : Keeps base s) : Keeps base (leaseCommand s op block) := by
  unfold leaseCommand
  repeat' first
    | with_reducible apply leaseSend_keeps | with_reducible apply leaseProgress_keeps | dsimp only | split
    | with_reducible exact keeps_same hk rfl rfl rfl rfl rfl rfl rfl rfl

theorem poolCommand_keeps (b : Nat) (op : RecordOp) {base s : State} (hk : Keeps base s) : Keeps base (poolCommand s b op) := by
  unfold poolCommand
  repeat' first
    | split
    | (with_reducible refine keeps_mk ?_ rfl rfl rfl rfl rfl rfl rfl rfl; first
        | with_reducible assumption | with_reducible apply poolResult_keeps | with_reducible apply recordOp_keeps
        | refine keeps_pair ?_ (by assumption))

theorem withReady_keeps (q op : Nat) (f : Desc → State) {base s : State} (hk : Keeps base s) (hf : ∀ y0, Keeps base (f y0)) :
    Keeps base (withReady s q op f) := by
  unfold withReady
  repeat' first | with_reducible assumption | apply hf | split

theorem finishLoad_keeps (lid : Nat) {base s : State} (hk : Keeps base s) : Keeps base (finishLoad s lid) := by
  unfold finishLoad
  split
  · rename_i x j _ _
    split
    · exact hk
    · split
      · exact endJob_keeps _ hk
      · exact endJob_keeps _ (keeps_forAll hk fun t n h => keeps_updCore h fun c hc => ⟨hc.1, Cells.wf_writeN _ _ _ hc.2⟩)
  · exact hk

theorem failFetch_keeps (q i kind st : Nat) {base s : State} (hk : Keeps base s) : Keeps base (failFetch s q i kind st) := by
  unfold failFetch
  extract_lets x keep s1
  split
  · have h1 : Keeps base s1 := freeSlots_keeps _ _ (State.setSq_keeps _ _ hk)
    exact postEvent_keeps _ (raise_keeps _ (keeps_same h1 rfl rfl rfl rfl rfl rfl rfl rfl))
  · exact hk

theorem startCoreReset_keeps (n cause kind : Nat) (own : Bool)
    {base s : State} (hk : Keeps base s) : Keeps base (startCoreReset s n cause kind own) := by
  unfold startCoreReset
  repeat' first
    | refine keeps_ite (fun _ => ?_) (fun _ => ?_) | intro _ | with_reducible apply resetCore_memWf
    | (with_reducible refine keeps_mk ?_ rfl rfl rfl rfl rfl rfl rfl rfl); first | with_reducible assumption | with_reducible apply stopTask_keeps | with_reducible apply dropHeld_keeps | with_reducible apply State.setWalk_keeps | with_reducible apply State.updPcore_keeps | with_reducible apply noteReset_keeps | with_reducible apply keeps_updCore | with_reducible apply keeps_setCore | with_reducible apply keeps_updChan | with_reducible apply keeps_setChan | with_reducible apply keeps_setIntTgt | with_reducible apply keeps_forAll | with_reducible apply Cells.wf_clear | with_reducible apply Cells.wf_writeN | with_reducible apply Chan.store_wf | with_reducible apply writeSector_wf | with_reducible apply setArray_memWf | with_reducible apply settleCrw_memWf | with_reducible apply addRows_memWf | with_reducible apply completeOp_memWf | with_reducible apply beginPass_memWf | with_reducible apply clearedCore_memWf | with_reducible apply resetCore_memWf | with_reducible apply endFirst_memWf | with_reducible apply endSecond_memWf | with_reducible apply stopOp_memWf

theorem unstall_keeps (c : Nat) {base s : State} (hk : Keeps base s) : Keeps base (unstall s c) := State.updCq_keeps _ _ hk

theorem writeCqCons_keeps (c v : Nat) {base s : State} (hk : Keeps base s) : Keeps base (writeCqCons s c v) := by
  unfold writeCqCons
  repeat' first
    | with_reducible assumption | with_reducible apply unstall_keeps | with_reducible apply State.updCq_keeps
    | with_reducible apply raise_keeps | refine keeps_ite (fun _ => ?_) (fun _ => ?_)

theorem writeCqCtl_keeps (c v m : Nat)
    {base s : State} (hk : Keeps base s) : Keeps base (writeCqCtl s c v m) := State.updCq_keeps _ _ hk

theorem sendFetch_keeps (q : Nat) {base s0 : State} (hk : Keeps base s0) : Keeps base (sendFetch s0 q) := by
  unfold sendFetch
  repeat' first
    | with_reducible apply stallCq_keeps | dsimp only | split | with_reducible exact keeps_same hk rfl rfl rfl rfl rfl rfl rfl rfl

theorem ringDoorbell_keeps (q p : Nat) {base s : State} (hk : Keeps base s) : Keeps base (ringDoorbell s q p) := by
  unfold ringDoorbell
  repeat' first
    | with_reducible assumption | with_reducible apply raise_keeps | with_reducible apply State.setSq_keeps
    | with_reducible apply postEvent_keeps | dsimp only | split

theorem writeDoorbell_keeps (q off size p : Nat)
    {base s : State} (hk : Keeps base s) : Keeps base (writeDoorbell s q off size p) := by
  unfold writeDoorbell
  repeat' first | with_reducible assumption | with_reducible apply State.updSq_keeps | with_reducible apply ringDoorbell_keeps | split

theorem writeEvCons_keeps (f v : Nat) {base s : State} (hk : Keeps base s) : Keeps base (writeEvCons s f v) := by
  unfold writeEvCons
  repeat' first | with_reducible assumption | with_reducible apply flushEv_keeps | with_reducible apply State.setEv_keeps

theorem writeEvCtl_keeps (f v m : Nat) {base s : State} (hk : Keeps base s) : Keeps base (writeEvCtl s f v m) := by
  unfold writeEvCtl
  repeat' first | with_reducible apply flushEv_keeps | split | with_reducible exact keeps_same hk rfl rfl rfl rfl rfl rfl rfl rfl

theorem resolveFault_keeps (q : Nat) (d : Desc) (action : Nat) {base s : State} (hk : Keeps base s) : Keeps base
    (resolveFault s q d action) := by
  unfold resolveFault
  repeat' first
    | with_reducible assumption | with_reducible apply endDesc_keeps | with_reducible apply endEntries_keeps
    | with_reducible apply dropRanges_keeps | with_reducible apply jobPumpAll_keeps | with_reducible apply retryWaiter_keeps
    | with_reducible apply errorWaiter_keeps | with_reducible apply keeps_forAll | intro _ | split
    | with_reducible exact keeps_same hk rfl rfl rfl rfl rfl rfl rfl rfl

theorem pollFence_keeps (q : Nat) (x : Xmit) {base s : State} (hk : Keeps base s) : Keeps base (pollFence s q x) := by
  unfold pollFence
  repeat' first
    | with_reducible assumption | with_reducible apply settle_keeps | with_reducible apply startWait_keeps | apply homeRead_keeps
    | with_reducible apply noteOwn_keeps | dsimp only | split

theorem flushFaults_keeps (l : Nat) {base s : State} (hk : Keeps base s) : Keeps base (flushFaults s l) := by
  unfold flushFaults
  repeat' first | with_reducible assumption | with_reducible apply jobPumpAll_keeps | with_reducible apply flushFq_keeps

theorem writeFqCons_keeps (l v : Nat) {base s : State} (hk : Keeps base s) : Keeps base (writeFqCons s l v) := by
  unfold writeFqCons
  repeat' first | with_reducible assumption | with_reducible apply flushFaults_keeps | with_reducible apply State.updFq_keeps

theorem writeFqCtl_keeps (l v m : Nat) {base s : State} (hk : Keeps base s) : Keeps base (writeFqCtl s l v m) := by
  unfold writeFqCtl
  repeat' first | with_reducible assumption | with_reducible apply flushFaults_keeps | with_reducible apply State.updFq_keeps

theorem inventoryGo_keeps (l : Nat) {base s : State} (hk : Keeps base s) : Keeps base (inventoryGo s l) := by
  unfold inventoryGo
  repeat' first | with_reducible assumption | with_reducible apply State.updSlot_keeps | split

theorem orphanEvent_keeps (e : Lease) (port op : Nat) {base s : State} (hk : Keeps base s) : Keeps base (orphanEvent s e port op) :=
  postEvent_keeps _ hk

theorem leaseTimeout_keeps {base s : State} (hk : Keeps base s) : Keeps base (leaseTimeout s) := by
  unfold leaseTimeout
  repeat' first
    | with_reducible assumption | with_reducible apply leaseSend_keeps | with_reducible apply untrack_keeps
    | with_reducible apply leaseResult_keeps | with_reducible apply orphanEvent_keeps | with_reducible apply putLease_keeps | split

theorem readHalfStatus_keeps (h : Nat) {base s : State} (hk : Keeps base s) : Keeps base (readHalfStatus s h).1 := by
  unfold readHalfStatus
  repeat' first | with_reducible assumption | with_reducible apply State.updHalf_keeps

theorem readParkedCnt_keeps {base s : State} (hk : Keeps base s) : Keeps base (readParkedCnt s).1 :=
  keeps_same hk rfl rfl rfl rfl rfl rfl rfl rfl

theorem fenceProgress_keeps {base s : State} (hk : Keeps base s) : Keeps base (fenceProgress s) := by
  unfold fenceProgress
  repeat' first
    | with_reducible apply createWith_keeps | with_reducible apply destroyWith_keeps
    | with_reducible exact keeps_same hk rfl rfl rfl rfl rfl rfl rfl rfl | split

theorem takeOver_keeps (l : Nat) (t : Teardown) {base s : State} (hk : Keeps base s) : Keeps base (takeOver s l t) := by
  unfold takeOver
  repeat' first
    | with_reducible assumption | with_reducible apply updTeardown_keeps | with_reducible apply advanceTeardown_keeps
    | with_reducible apply stepDone_keeps | dsimp only | split

theorem locketTeardown_keeps (q idx l : Nat) {base s0 : State} (hk : Keeps base s0) : Keeps base (locketTeardown s0 q idx l) := by
  unfold locketTeardown
  repeat' first
    | with_reducible assumption | with_reducible apply State.takeFree_keeps | with_reducible apply endDesc_keeps
    | with_reducible apply takeOver_keeps
    | with_reducible apply sendTeardown_keeps | with_reducible apply beginTeardown_keeps | with_reducible apply keeps_forAll | intro _
    | dsimp only | split

theorem setRateEff_keeps (h rate cause : Nat) {base s : State} (hk : Keeps base s) : Keeps base (setRateEff s h rate cause) := by
  unfold setRateEff
  repeat' first
    | with_reducible apply raise_keeps | with_reducible apply postEvent_keeps | with_reducible apply postCopy_keeps
    | refine keeps_ite (fun _ => ?_) (fun _ => ?_) | intro _ | split
    | (with_reducible refine keeps_mk ?_ rfl rfl rfl rfl rfl rfl rfl rfl; first
        | with_reducible assumption | with_reducible apply State.updHalf_keeps | with_reducible apply raise_keeps
        | with_reducible apply keeps_forAll)

theorem writeRate_keeps (h rate : Nat) {base s : State} (hk : Keeps base s) : Keeps base (writeRate s h rate) := by
  unfold writeRate
  repeat' first | with_reducible assumption | with_reducible apply wantRate_keeps | with_reducible apply State.updHalf_keeps | split

theorem moderate_keeps (kind i : Nat) {base s : State} (hk : Keeps base s) : Keeps base (moderate s kind i) := by
  unfold moderate
  repeat' first
    | with_reducible assumption | with_reducible apply sendMsi_keeps | with_reducible apply State.setCq_keeps
    | with_reducible apply State.setEv_keeps | with_reducible apply State.setFq_keeps | dsimp only | split

theorem unmask_keeps (f v : Nat) {base s : State} (hk : Keeps base s) : Keeps base (unmask s f v) := by
  unfold unmask
  repeat' first
    | with_reducible apply sendMsi_keeps | dsimp only | split | with_reducible exact keeps_same hk rfl rfl rfl rfl rfl rfl rfl rfl

theorem powerDownCore_keeps (n : Nat) {base s : State} (hk : Keeps base s) : Keeps base (powerDownCore s n) := by
  unfold powerDownCore
  repeat' first
    | with_reducible assumption | with_reducible apply State.setDie_keeps | with_reducible apply State.updPcore_keeps
    | with_reducible apply dropHeld_keeps | with_reducible apply keeps_updCore | intro _ | with_reducible apply resetCore_memWf

theorem setHalfState_keeps (h st : Nat) {base s : State} (hk : Keeps base s) : Keeps base (setHalfState s h st) := by
  unfold setHalfState
  repeat' first | with_reducible assumption | with_reducible apply raise_keeps | with_reducible apply State.updHalf_keeps

theorem requestPark_keeps (h : Nat) {base s : State} (hk : Keeps base s) : Keeps base (requestPark s h) := by
  unfold requestPark
  repeat' first
    | with_reducible assumption | with_reducible apply State.setHalf_keeps | with_reducible apply acceptReqs_keeps
    | with_reducible apply setHalfState_keeps | dsimp only | split

theorem requestUnpark_keeps (h : Nat) {base s : State} (hk : Keeps base s) : Keeps base (requestUnpark s h) := by
  unfold requestUnpark
  repeat' first
    | with_reducible assumption | with_reducible apply State.setHalf_keeps | with_reducible apply setHalfState_keeps | dsimp only
    | split

theorem takeHeldPark_keeps (h : Nat) {base s : State} (hk : Keeps base s) : Keeps base (takeHeldPark s h) := by
  unfold takeHeldPark
  repeat' first
    | with_reducible assumption | with_reducible apply State.setHalf_keeps | with_reducible apply requestPark_keeps
    | with_reducible apply requestUnpark_keeps | dsimp only | split

theorem writeFnMsix_keeps (f v m : Nat) {base s : State} (hk : Keeps base s) : Keeps base (writeFnMsix s f v m) := by
  unfold writeFnMsix
  repeat' first | dsimp only | split | with_reducible exact keeps_same hk rfl rfl rfl rfl rfl rfl rfl rfl

theorem maskVector_keeps (f v : Nat) {base s : State} (hk : Keeps base s) : Keeps base (maskVector s f v) :=
  keeps_same hk rfl rfl rfl rfl rfl rfl rfl rfl

theorem writeSqBase_keeps (q v m : Nat) {base s : State} (hk : Keeps base s) : Keeps base (writeSqBase s q v m) :=
  State.updSq_keeps _ _ hk

theorem writeSqCtl_keeps (q v m : Nat) {base s : State} (hk : Keeps base s) : Keeps base (writeSqCtl s q v m) := by
  unfold writeSqCtl
  repeat' first
    | with_reducible assumption | with_reducible apply stopQueue_keeps | with_reducible apply State.setSq_keeps | dsimp only | split

theorem writeSqCfg_keeps (q v m : Nat) {base s : State} (hk : Keeps base s) : Keeps base (writeSqCfg s q v m) := by
  unfold writeSqCfg
  repeat' first | with_reducible assumption | with_reducible apply State.setSq_keeps | dsimp only | split

theorem writeSqStatus_keeps (q v m : Nat) {base s : State} (hk : Keeps base s) : Keeps base (writeSqStatus s q v m) := by
  unfold writeSqStatus
  repeat' first | with_reducible assumption | with_reducible apply State.updSq_keeps

theorem writeSqCwb_keeps (q v m : Nat)
    {base s : State} (hk : Keeps base s) : Keeps base (writeSqCwb s q v m) := State.updSq_keeps _ _ hk

theorem writeCqBase_keeps (c v m : Nat) {base s : State} (hk : Keeps base s) : Keeps base (writeCqBase s c v m) :=
  State.updCq_keeps _ _ hk

theorem writeCqCfg_keeps (c v m : Nat) {base s : State} (hk : Keeps base s) : Keeps base (writeCqCfg s c v m) := by
  unfold writeCqCfg
  repeat' first | with_reducible assumption | with_reducible apply State.setCq_keeps | dsimp only | split

theorem writeCqStatus_keeps (c v m : Nat) {base s : State} (hk : Keeps base s) : Keeps base (writeCqStatus s c v m) :=
  State.updCq_keeps _ _ hk

theorem writeEvBase_keeps (f v m : Nat) {base s : State} (hk : Keeps base s) : Keeps base (writeEvBase s f v m) :=
  State.setEv_keeps _ _ hk

theorem writeEvStatus_keeps (f v m : Nat) {base s : State} (hk : Keeps base s) : Keeps base (writeEvStatus s f v m) :=
  State.setEv_keeps _ _ hk

theorem writeFqBase_keeps (l v m : Nat) {base s : State} (hk : Keeps base s) : Keeps base (writeFqBase s l v m) :=
  State.updFq_keeps _ _ hk

theorem writeFqStatus_keeps (l v m : Nat) {base s : State} (hk : Keeps base s) : Keeps base (writeFqStatus s l v m) := by
  unfold writeFqStatus
  repeat' first | with_reducible assumption | with_reducible apply State.updFq_keeps

theorem roleCompute_keeps (q idx : Nat) {base s : State} (hk : Keeps base s) : Keeps base (roleCompute s q idx) := by
  unfold roleCompute
  repeat' first
    | with_reducible apply endDesc_keeps | with_reducible apply leaveProgress_keeps | with_reducible apply roleDone_keeps
    | with_reducible exact keeps_same hk rfl rfl rfl rfl rfl rfl rfl rfl | refine keeps_ite (fun _ => ?_) (fun _ => ?_)

theorem rolePool_keeps (q idx : Nat) {base s : State} (hk : Keeps base s) : Keeps base (rolePool s q idx) := by
  unfold rolePool
  repeat' first
    | with_reducible assumption | with_reducible apply endDesc_keeps | with_reducible apply startScrub_keeps
    | with_reducible apply State.updDesc_keeps | with_reducible apply roleDone_keeps | with_reducible apply keeps_updCore
    | with_reducible apply keeps_forAll | with_reducible exact keeps_same hk rfl rfl rfl rfl rfl rfl rfl rfl
    | refine keeps_ite (fun _ => ?_) (fun _ => ?_) | intro _ | split

theorem swapLocket_keeps (q : Nat) (d : Desc) {base s : State} (hk : Keeps base s) : Keeps base (swapLocket s q d) := by
  unfold swapLocket
  repeat' first
    | with_reducible assumption | with_reducible apply endDesc_keeps | with_reducible apply swapDone_keeps
    | with_reducible apply exchangeLocket_keeps | dsimp only | split

theorem teardownDrained_keeps (l : Nat) {base s : State} (hk : Keeps base s) : Keeps base (teardownDrained s l) := by
  unfold teardownDrained
  repeat' first
    | with_reducible assumption | with_reducible apply updTeardown_keeps | with_reducible apply drainLocket_keeps
    | with_reducible apply advanceTeardown_keeps | with_reducible apply stepDone_keeps | split

theorem memberMissing_keeps (l m : Nat) {base s : State} (hk : Keeps base s) : Keeps base (memberMissing s l m) := by
  unfold memberMissing
  repeat' first
    | with_reducible assumption | with_reducible apply advanceTeardown_keeps | with_reducible apply updTeardown_keeps | split

theorem teardownReported_keeps (l m step : Nat) {base s : State} (hk : Keeps base s) : Keeps base (teardownReported s l m step) := by
  unfold teardownReported
  repeat' first
    | split
    | (with_reducible refine keeps_mk ?_ rfl rfl rfl rfl rfl rfl rfl rfl; first
        | with_reducible assumption | with_reducible apply updTeardown_keeps | with_reducible apply advanceTeardown_keeps)

theorem memberStep_keeps (l home step : Nat) {base s : State} (hk : Keeps base s) : Keeps base (memberStep s l home step) := by
  unfold memberStep
  extract_lets x
  split
  · exact keeps_ite (fun _ => hk) fun _ => beginTeardown_keeps _ _ hk
  · split
    · extract_lets s1
      have h1 : Keeps base s1 := freeBlocksOf_keeps _ (retireKey_keeps _ (State.updSlot_keeps _ _ (updTeardown_keeps _ _ hk)))
      exact keeps_ite (fun _ => stepDone_keeps _ _ h1) fun _ => h1
    · exact hk
  · split
    · have h1 : Keeps base (releaseLocket s l) := releaseLocket_keeps _ hk
      split
      · exact keeps_ite (fun _ => stepDone_keeps _ _ h1) fun _ => h1
      · exact h1
    · exact hk
  · split
    · exact answerStop_keeps _ _ (emptySlot_keeps _ hk)
    · exact hk
  · exact hk

end Sys2Proof.Machine
end

