-- ==== Sys2Proof/Laws/KeepModule.lean ====
section
/-! SUPPORT. One lemma per operation that changes the state, on what it keeps (`Keeps`): packets handled, resets, power, interrupts, firmware, bring-up, DECRID, registers. -/

namespace Sys2Proof.Machine

theorem Req.enter_keeps (r : Req) {base s : State} (hk : Keeps base s) : Keeps base (Req.enter r s) := by
  unfold Req.enter
  repeat' first | with_reducible assumption | with_reducible apply Req.cross_keeps | refine keeps_ite (fun _ => ?_) (fun _ => ?_)

theorem State.blank_keeps {base s : State} (hk : Keeps base s) : Keeps base (State.blank s) := by
  refine hk.trans ⟨rfl, fun _ => ?_, fun _ t => ?_, fun _ => ?_, fun _ => ⟨SMap.wf_nil _, SMap.wf_nil _⟩⟩
  · refine (Memory.wf_iff _).2 ⟨?_, by simp [State.blank]⟩
    have key : ∀ (l : List Nat) (m : SMap Chan), (∀ e ∈ m, e.2.mem.wf = true) →
        ∀ e ∈ l.foldl (fun m c => SMap.set chanD m c { state := 5, retired := true }) m, e.2.mem.wf = true := by
      intro l
      induction l with
      | nil => exact fun m h => h
      | cons c l ih => exact fun m h => ih _ (SMap.all_set (P := fun x : Chan => x.mem.wf = true) h c Cells.wf_nil)
    exact key _ _ (by simp)
  · exact Nat.zero_le 8
  · refine ⟨?_, ?_, ?_, ?_⟩ <;> simp [State.blank]

theorem State.setFw_keeps (f : Fw) {base s : State} (hk : Keeps base s) : Keeps base (State.setFw s f) :=
  keeps_same hk rfl rfl rfl rfl rfl rfl rfl rfl

theorem ownersGone_keeps (gone : Nat → Bool) {base s : State} (hk : Keeps base s) : Keeps base (ownersGone s gone) := by
  unfold ownersGone
  repeat' first
    | with_reducible assumption | with_reducible apply settle_keeps | with_reducible apply finishDesc_keeps
    | with_reducible apply keeps_forAll | intro _

theorem checkFailed_keeps (q idx : Nat) {base s : State} (hk : Keeps base s) : Keeps base (checkFailed s q idx) := by
  unfold checkFailed
  repeat' first | with_reducible assumption | with_reducible apply settle_keeps | with_reducible apply refuseDesc_keeps | split

theorem requestEnds_keeps (t : Tracked) (status : Nat)
    {base s : State} (hk : Keeps base s) : Keeps base (requestEnds s t status) := by
  unfold requestEnds
  repeat' first
    | with_reducible apply settle_keeps | with_reducible apply descSignalled_keeps | with_reducible apply answer_keeps
    | with_reducible apply checkFailed_keeps | with_reducible apply finishDesc_keeps | with_reducible apply taskPart_keeps | split
    | with_reducible exact keeps_same hk rfl rfl rfl rfl rfl rfl rfl rfl

theorem endRequest_keeps (t : Tracked) (status : Nat) {base s : State} (hk : Keeps base s) : Keeps base (endRequest s t status) := by
  unfold endRequest
  repeat' first
    | with_reducible assumption | with_reducible apply settleEndings_keeps | with_reducible apply requestEnds_keeps
    | with_reducible apply ownersGone_keeps | split

theorem accessAnswered_keeps (p : Nat) (t : Tracked) (status : Nat) (data : List (BitVec 8)) {base s : State} (hk : Keeps base s) :
    Keeps base (accessAnswered s p t status data) := by
  have h2 (u : State) (h : Keeps base u) : Keeps base (settleEndings (leaseProgress u)) := settleEndings_keeps (leaseProgress_keeps h)
  unfold accessAnswered
  split
  · rename_i r _
    have h0 : Keeps base (r.cross s (portHalf p) r.source.half (if status = stOK then r.bytesBack else 0)) := Req.cross_keeps _ _ _ _ hk
    have h1 := keeps_ite (c := status = stOWNLOST)
      (fun _ => leaseLost_keeps (dpaModule r.dpa) (dpaLocal r.dpa / blockBytes) r.locket t.pkt.gen h0) fun _ => h0
    refine keeps_ite (fun _ => ownersGone_keeps _ (h2 _ ?_)) fun _ => h2 _ ?_
    all_goals
      split
      · exact settle_keeps _ (descSignalled_keeps _ _ h1)
      · exact answer_keeps _ _ _ _ _ h1
  · exact endRequest_keeps _ _ hk

theorem ackTarget_keeps (t : Nat) {base s : State} (hk : Keeps base s) : Keeps base (ackTarget s t).1 := by
  unfold ackTarget
  split
  · exact hk
  · rename_i i hi
    refine keeps_setIntTgt (State.setIntSrc_keeps _ _ hk) fun _ => ?_
    have := State.selected_room hi
    simp only [List.length_cons]
    omega

theorem logFw_keeps (code svn : Nat)
    {base s : State} (hk : Keeps base s) : Keeps base (logFw s code svn) := logEntry_keeps _ _ _ _ _ _ hk

theorem fwError_keeps (e : Nat) {base s : State} (hk : Keeps base s) : Keeps base (fwError s e) := State.setFw_keeps _ hk

theorem activationReset_keeps (f : Fw)
    {base s : State} (hk : Keeps base s) : Keeps base (activationReset s f) := State.setFw_keeps _ hk

theorem activate_keeps {base s0 : State} (hk : Keeps base s0) : Keeps base (activate s0) := by
  unfold activate
  repeat' first
    | with_reducible assumption | with_reducible apply logFw_keeps | with_reducible apply fwError_keeps
    | with_reducible apply activationReset_keeps | dsimp only | split

theorem controlAnswer_keeps (k : Packet) (payload : List (BitVec 8)) {base s : State} (hk : Keeps base s) : Keeps base
    (controlAnswer s k payload) := sendResponse_keeps _ _ hk

theorem answerLease_keeps (k : Packet) (l : Nat) (payload : List (BitVec 8)) {base s : State} (hk : Keeps base s) : Keeps base
    (answerLease s k l payload) := by
  unfold answerLease
  repeat' first
    | with_reducible assumption | with_reducible apply controlAnswer_keeps | with_reducible apply recordOp_keeps | dsimp only | split

theorem answerPcie_keeps (status : Nat) (bytes : List (BitVec 8)) {base s : State} (hk : Keeps base s) : Keeps base
    (answerPcie s status bytes) := keeps_same hk rfl rfl rfl rfl rfl rfl rfl rfl

theorem answerQuery_keeps (k : Packet) (l : Nat) (payload : List (BitVec 8))
    {base s : State} (hk : Keeps base s) : ∀ u, answerQuery s k l payload = some u → Keeps base u := by
  unfold answerQuery
  intro u hu
  repeat' first
    | with_reducible assumption | contradiction | (obtain rfl := Option.some.inj hu) | with_reducible apply controlAnswer_keeps
    | with_reducible apply registerWait_keeps | split at hu | dsimp only at hu

theorem applyBist_keeps (cores chans : List Nat) {base s : State} (hk : Keeps base s) : Keeps base (applyBist s cores chans) := by
  unfold applyBist
  repeat' first
    | intro _
    | (with_reducible refine keeps_mk ?_ rfl rfl rfl rfl rfl rfl rfl rfl); first | with_reducible assumption | with_reducible apply retire_keeps | with_reducible apply keeps_updCore | with_reducible apply keeps_setCore | with_reducible apply keeps_updChan | with_reducible apply keeps_setChan | with_reducible apply keeps_setIntTgt | with_reducible apply keeps_forAll | with_reducible apply Cells.wf_clear | with_reducible apply Cells.wf_writeN | with_reducible apply Chan.store_wf | with_reducible apply writeSector_wf | with_reducible apply setArray_memWf | with_reducible apply settleCrw_memWf | with_reducible apply addRows_memWf | with_reducible apply completeOp_memWf | with_reducible apply beginPass_memWf | with_reducible apply clearedCore_memWf | with_reducible apply resetCore_memWf | with_reducible apply endFirst_memWf | with_reducible apply endSecond_memWf | with_reducible apply stopOp_memWf

theorem applyCore_keeps (m : Measures) (n : Nat) {base s : State} (hk : Keeps base s) : Keeps base (applyCore m s n) := by
  unfold applyCore
  repeat' first | with_reducible assumption | with_reducible apply State.updPcore_keeps | split

theorem checkPin_keeps (n : Nat) {base s : State} (hk : Keeps base s) : Keeps base (checkPin s n) := by
  unfold checkPin
  repeat' first
    | with_reducible assumption | with_reducible apply postEvent_keeps | with_reducible apply State.setPcore_keeps
    | with_reducible apply postCopy_keeps | dsimp only | split

theorem checkPins_keeps {base s : State} (hk : Keeps base s) : Keeps base (checkPins s) :=
  keeps_forAll hk fun _ x h => checkPin_keeps x h

theorem recap_keeps (c cause : Nat) {base s : State} (hk : Keeps base s) : Keeps base (recap s c cause) := by
  unfold recap
  repeat' first
    | with_reducible apply raise_keeps | with_reducible apply postEvent_keeps | with_reducible apply keeps_setChan
    | with_reducible exact keeps_same hk rfl rfl rfl rfl rfl rfl rfl rfl | refine keeps_ite (fun _ => ?_) (fun _ => ?_) | intro _
    | exact Memory.chan (by assumption) _

theorem checkMeshPin_keeps (h : Nat) {base s : State} (hk : Keeps base s) : Keeps base (checkMeshPin s h) := by
  unfold checkMeshPin
  repeat' first
    | with_reducible apply postEvent_keeps | dsimp only | split | with_reducible exact keeps_same hk rfl rfl rfl rfl rfl rfl rfl rfl

theorem applyMeasures_keeps (m : Measures) {base s : State} (hk : Keeps base s) : Keeps base (applyMeasures s m) := by
  unfold applyMeasures
  extract_lets src s1 s2 s3
  have h1 : Keeps base s1 := keeps_same hk rfl rfl rfl rfl rfl rfl rfl rfl
  have h2 : Keeps base s2 := checkPins_keeps (keeps_forAll h1 fun _ _ h => applyCore_keeps _ _ h)
  have h3 : Keeps base s3 := keeps_forAll h2 fun _ _ h => recap_keeps _ _ h
  exact keeps_forAll h3 fun _ _ h => checkMeshPin_keeps _ (wantRate_keeps _ _ (State.updHalf_keeps _ _ h))

theorem takeReq_keeps (rid : Nat) {base s : State} (hk : Keeps base s) : Keeps base (takeReq s rid) :=
  keeps_same hk rfl rfl rfl rfl rfl rfl rfl rfl

theorem concludeReq_keeps (r : Req) (status : Nat) (data : List (BitVec 8)) (unit : Option Nat) {base s : State} (hk : Keeps base s) :
    Keeps base (concludeReq s r status data unit) := by
  unfold concludeReq
  repeat' first
    | with_reducible assumption | with_reducible apply Req.cross_keeps | with_reducible apply takeReq_keeps
    | with_reducible apply settleEndings_keeps | with_reducible apply answer_keeps | with_reducible apply noteDrained_keeps

theorem refuseReq_keeps (r : Req) (st unit : Nat) {base s : State} (hk : Keeps base s) : Keeps base (refuseReq s r st unit) := by
  unfold refuseReq
  repeat' first
    | with_reducible assumption | with_reducible apply concludeReq_keeps | with_reducible apply Req.enter_keeps
    | with_reducible apply countParked_keeps | refine keeps_ite (fun _ => ?_) (fun _ => ?_)

theorem expireReq_keeps (r : Req) {base s : State} (hk : Keeps base s) : Keeps base (expireReq s r) := by
  unfold expireReq
  repeat' first
    | with_reducible assumption | with_reducible apply takeReq_keeps | with_reducible apply releaseHeld_keeps
    | with_reducible apply countExpired_keeps | split

theorem putReq_keeps (r : Req) {base s : State} (hk : Keeps base s) : Keeps base (putReq s r) :=
  keeps_same hk rfl rfl rfl rfl rfl rfl rfl rfl

theorem serveSectors_keeps (r : Req) (off : Nat) (f : State → Req → Nat → State × HomeOutcome) (l : List Nat) {base s : State}
    (hk : Keeps base s) (hf : ∀ t r i, Keeps base t → Keeps base (f t r i).1) : Keeps base (serveSectors s r off f l).1 := by
  induction l generalizing s r with
  | nil => exact keeps_ite (fun _ => concludeReq_keeps _ _ _ _ hk) fun _ => putReq_keeps _ hk
  | cons i l ih => exact ih _ (hf _ _ _ (keeps_ite (fun _ => Req.cross_keeps _ _ _ _ hk) fun _ => hk))

theorem noteChannel_keeps (r : Req) (c n : Nat) (ok : Bool) {base s : State} (hk : Keeps base s) : Keeps base
    (noteChannel s r c n ok) := by
  unfold noteChannel
  repeat' first | with_reducible assumption | with_reducible apply noteGrant_keeps | with_reducible apply countDram_keeps | split

theorem performSector_keeps (c off : Nat) (x : Xmit) (r : Req) (i : Nat) {base s : State} (hk : Keeps base s) :
    Keeps base (performSector c off x s r i).1 := by
  unfold performSector
  dsimp only
  refine noteChannel_keeps _ _ _ _ ?_
  split
  · exact homeRead_keeps _ _ _ _ _ hk
  · exact homeStore_keeps _ _ _ _ _ _ _ _ hk
  · exact homeAtom_keeps _ _ _ _ _ _ _ _ _ hk
  · exact hk

theorem channelRequest_keeps (r : Req) (c off : Nat) (part : BitVec 4) (x : Xmit) {base s : State} (hk : Keeps base s) :
    Keeps base (channelRequest s r c off part x) := by
  unfold channelRequest
  split
  · exact refuseReq_keeps _ _ _ hk
  · have h0 := State.takeFree_keeps hk
    dsimp only
    refine keeps_ite (fun _ => hk) fun _ => ?_
    have h1 := ageCredits_keeps (chanUnit c) 0 (Config.arbiterNs s.takeFree.1) h0
    split
    · exact poolProgress_keeps (expireReq_keeps _ h1)
    · exact poolProgress_keeps (channelsFailed_keeps _ (serveSectors_keeps _ _ _ _ (keeps_updChan h1 fun ch h => h)
        fun t r i h => performSector_keeps _ _ _ _ _ h))

theorem chargeEnergy_keeps {base s : State} (hk : Keeps base s) : Keeps base (chargeEnergy s) := by
  unfold chargeEnergy
  repeat' first
    | with_reducible assumption | with_reducible apply State.takeFree_keeps | with_reducible apply State.updCtx_keeps
    | with_reducible apply State.updSlot_keeps | with_reducible apply keeps_forAll | intro _

theorem clearIvs_keeps (t g : Nat) {base s : State} (hk : Keeps base s) : Keeps base (clearIvs s t g) :=
  keeps_same hk rfl rfl rfl rfl rfl rfl rfl rfl

theorem clearRetired_keeps {base s : State} (hk : Keeps base s) : Keeps base (clearRetired s) :=
  keeps_same hk rfl rfl rfl rfl rfl rfl rfl rfl

theorem stackStep_keeps (k : Nat) (t : Int) {base s : State} (hk : Keeps base s) : Keeps base (stackStep s k t) := by
  unfold stackStep
  repeat' first
    | with_reducible assumption | with_reducible apply recap_keeps | with_reducible apply keeps_setChan
    | with_reducible apply keeps_forAll | intro _ | exact Memory.chan (by assumption) _

theorem stacksUp_keeps {base s : State} (hk : Keeps base s) : Keeps base (stacksUp s) := by
  unfold stacksUp
  repeat' first | with_reducible assumption | with_reducible apply stackStep_keeps | with_reducible apply keeps_forAll | intro _

theorem comeUp_keeps (cause count us : Nat) (cores chans : List Nat)
    {base s : State} (hk : Keeps base s) : Keeps base (comeUp s cause count us cores chans) := by
  unfold comeUp
  repeat' first
    | (with_reducible refine keeps_mk ?_ rfl rfl rfl rfl rfl rfl rfl rfl); first | with_reducible assumption | with_reducible apply applyBist_keeps | with_reducible apply resetDone_keeps | with_reducible apply stacksUp_keeps | with_reducible apply keeps_updCore | with_reducible apply keeps_setCore | with_reducible apply keeps_updChan | with_reducible apply keeps_setChan | with_reducible apply keeps_setIntTgt | with_reducible apply keeps_forAll | with_reducible apply Cells.wf_clear | with_reducible apply Cells.wf_writeN | with_reducible apply Chan.store_wf | with_reducible apply writeSector_wf | with_reducible apply setArray_memWf | with_reducible apply settleCrw_memWf | with_reducible apply addRows_memWf | with_reducible apply completeOp_memWf | with_reducible apply beginPass_memWf | with_reducible apply clearedCore_memWf | with_reducible apply resetCore_memWf | with_reducible apply endFirst_memWf | with_reducible apply endSecond_memWf | with_reducible apply stopOp_memWf

theorem commit_keeps (fuseFail : Bool) {base s : State} (hk : Keeps base s) : Keeps base (commit s fuseFail) := by
  unfold commit
  repeat' first
    | with_reducible assumption | with_reducible apply fwError_keeps | with_reducible apply logFw_keeps
    | with_reducible apply State.setFw_keeps | dsimp only | split

theorem showKeygen_keeps (t g : Nat) {base s : State} (hk : Keeps base s) : Keeps base (showKeygen s t g) := by
  unfold showKeygen
  repeat' first | with_reducible assumption | with_reducible apply State.updSlot_keeps | split

theorem commitKey_keeps (t g : Nat) {base s : State} (hk : Keeps base s) : Keeps base (commitKey s t g).1 := by
  unfold commitKey
  repeat' first
    | with_reducible assumption | with_reducible apply showKeygen_keeps | with_reducible apply State.setTagKeys_keeps | dsimp only
    | split

theorem configWrite_keeps (reg value : Nat) {base s : State} (hk : Keeps base s) : Keeps base (configWrite s reg value) := by
  unfold configWrite
  repeat' first
    | with_reducible apply tdiError_keeps | with_reducible apply keeps_forAll
    | with_reducible exact keeps_same hk rfl rfl rfl rfl rfl rfl rfl rfl | refine keeps_ite (fun _ => ?_) (fun _ => ?_) | intro _

theorem controlAnswered_keeps (t : Tracked) (reqid : Nat) (payload : List (BitVec 8)) {base s : State} (hk : Keeps base s) :
    Keeps base (controlAnswered s t reqid payload) := by
  unfold controlAnswered
  repeat' first
    | with_reducible assumption | with_reducible apply checkFailed_keeps | with_reducible apply State.updDesc_keeps
    | with_reducible apply settle_keeps | with_reducible apply waitOutcome_keeps | with_reducible apply signalAway_keeps
    | with_reducible apply descSignalled_keeps | with_reducible apply leaseAnswered_keeps | with_reducible apply taskPart_keeps
    | dsimp only | split

theorem raiseGuard_keeps (n : Nat) {base s : State} (hk : Keeps base s) : Keeps base (raiseGuard s n) := by
  unfold raiseGuard
  repeat' first
    | with_reducible apply State.updPcore_keeps | with_reducible apply keeps_forAll
    | with_reducible exact keeps_same hk rfl rfl rfl rfl rfl rfl rfl rfl | refine keeps_ite (fun _ => ?_) (fun _ => ?_) | intro _

theorem lowerGuard_keeps (d : Nat) {base s : State} (hk : Keeps base s) : Keeps base (lowerGuard s d) := by
  unfold lowerGuard
  repeat' first
    | with_reducible apply State.updPcore_keeps | with_reducible apply keeps_forAll
    | with_reducible exact keeps_same hk rfl rfl rfl rfl rfl rfl rfl rfl | refine keeps_ite (fun _ => ?_) (fun _ => ?_) | intro _

theorem coreMargin_keeps (n : Nat) (alert : Bool) (margin : Nat)
    {base s : State} (hk : Keeps base s) : Keeps base (coreMargin s n alert margin) := by
  unfold coreMargin
  repeat' first
    | with_reducible assumption | with_reducible apply State.setPcore_keeps | with_reducible apply State.updPcore_keeps
    | with_reducible apply raiseGuard_keeps | with_reducible apply lowerGuard_keeps | refine keeps_ite (fun _ => ?_) (fun _ => ?_)

theorem corrected_keeps (p : Nat) {base s : State} (hk : Keeps base s) : Keeps base (corrected s p) := by
  unfold corrected
  repeat' first | with_reducible assumption | with_reducible apply State.updPort_keeps | with_reducible apply State.takeFree_keeps

theorem countTest_keeps (p errors : Nat) (units : BitVec 64)
    {base s : State} (hk : Keeps base s) : Keeps base (countTest s p errors units) := by
  unfold countTest
  repeat' first | with_reducible assumption | with_reducible apply State.updDyn_keeps

theorem crossing_keeps (sensor : Nat) (old new thr : Int)
    {base s : State} (hk : Keeps base s) : Keeps base (crossing s sensor old new thr) := by
  unfold crossing
  repeat' first | with_reducible assumption | with_reducible apply platformEvent_keeps | refine keeps_ite (fun _ => ?_) (fun _ => ?_)

theorem denyPacket_keeps (k : Packet) (tag status : Nat) {base s : State} (hk : Keeps base s) : Keeps base
    (denyPacket s k tag status) := sendResponse_keeps _ _ hk

theorem driftStep_keeps (r : PowerReading) (est leak : Nat)
    {base s : State} (hk : Keeps base s) : Keeps base (driftStep s r est leak) := by
  unfold driftStep
  repeat' first
    | with_reducible exact keeps_same hk rfl rfl rfl rfl rfl rfl rfl rfl | refine keeps_ite (fun _ => ?_) (fun _ => ?_) | split

theorem dropBad_keeps (a : Arrived) {base s : State} (hk : Keeps base s) : Keeps base (dropBad s a) := countBadpkt_keeps _ hk

theorem endDebug_keeps {base s : State} (hk : Keeps base s) : Keeps base (endDebug s) := by
  unfold endDebug
  repeat' first | split | with_reducible exact keeps_same hk rfl rfl rfl rfl rfl rfl rfl rfl

theorem endInterrupt_keeps (t i : Nat) {base s : State} (hk : Keeps base s) : Keeps base (endInterrupt s t i) := by
  unfold endInterrupt
  dsimp only
  split
  · rename_i j p rest h
    split
    · refine keeps_setIntTgt (State.setIntSrc_keeps _ _ hk) fun w => ?_
      have k : (s.intTgt t).stack.length ≤ 8 := w t
      rw [h, List.length_cons] at k
      exact Nat.le_of_succ_le k
    · exact keeps_setIntTgt hk fun w => w t
  · exact keeps_setIntTgt hk fun w => w t

theorem noteChanges_keeps (old : State) {base s : State} (hk : Keeps base s) : Keeps base (noteChanges old s) :=
  keeps_forAll hk fun _ _ h => platformEvent_keeps _ h

theorem endModuleReset_keeps (cores chans : List Nat) (us : Nat) {base s : State} (hk : Keeps base s) : Keeps base
    (endModuleReset s cores chans us) := by
  unfold endModuleReset
  refine keeps_ite (fun _ => noteChanges_keeps _ (comeUp_keeps _ _ _ _ _ ?_)) fun _ => hk
  exact keeps_same (State.blank_keeps hk) rfl rfl rfl rfl rfl rfl rfl rfl

theorem openPacket_keeps (a : Arrived) (resid : Nat) {base s : State} (hk : Keeps base s) :
    (∀ t, openPacket s a resid = .done t → Keeps base t) ∧ ∀ t l p, openPacket s a resid = .ok t l p → Keeps base t := by
  have h1 : Keeps base (consumePacket s a) := consumePacket_keeps _ hk
  unfold openPacket
  dsimp only
  constructor
  · intro t ht
    repeat' split at ht
    all_goals first
      | contradiction
      | (obtain rfl := Opened.done.inj ht)
    all_goals first
      | exact countAuth_keeps _ h1
      | exact denyPacket_keeps _ _ _ h1
      | exact countExpired_keeps _ h1
      | exact h1
  · intro t l p ht
    repeat' split at ht
    all_goals first
      | contradiction
      | (obtain ⟨rfl, -, -⟩ := Opened.ok.inj ht)
    all_goals exact countTrb_keeps _ _ _ (noteGrant_keeps _ _ _ _ _ _ h1)

theorem handlePacket_keeps (pid resid : Nat) (kinds : List Nat) (f : State → Arrived → Nat → List (BitVec 8) → State)
    {base s : State} (hk : Keeps base s) (hf : ∀ t a l p, Keeps base t → Keeps base (f t a l p)) :
    Keeps base (handlePacket s pid resid kinds f) := by
  unfold handlePacket
  split
  · exact hk
  · rename_i a _
    have h := openPacket_keeps a resid hk
    split
    · exact h.1 _ (by assumption)
    · exact hf _ _ _ _ (h.2 _ _ _ (by assumption))

theorem remoteAccess_keeps (a : Arrived) (l : Nat) (kind : ReqKind) (len : Nat) (data : List (BitVec 8)) {base s : State}
    (hk : Keeps base s) : Keeps base (remoteAccess s a l kind len data) := by
  unfold remoteAccess
  repeat' first
    | with_reducible assumption | with_reducible apply denyPacket_keeps | with_reducible apply sendLocal_keeps
    | refine keeps_pair ?_ (by assumption) | dsimp only | split

theorem sendNak_keeps (p : Nat) {base s : State} (hk : Keeps base s) : Keeps base (sendNak s p) := by
  unfold sendNak
  repeat' first
    | with_reducible assumption | with_reducible apply sendFlit_keeps | with_reducible apply State.setDyn_keeps | dsimp only | split

theorem receiveBad_keeps (p overlap : Nat) {base s : State} (hk : Keeps base s) : Keeps base (receiveBad s p overlap) := by
  unfold receiveBad
  repeat' first
    | with_reducible assumption | with_reducible apply State.updDyn_keeps | with_reducible apply countCrc_keeps
    | with_reducible apply State.updPort_keeps | with_reducible apply sendNak_keeps | dsimp only | split

theorem sendPattern_keeps (p : Nat) {base s : State} (hk : Keeps base s) : Keeps base (sendPattern s p) := by
  unfold sendPattern
  repeat' first | with_reducible assumption | with_reducible apply sendFlit_keeps | with_reducible apply State.updDyn_keeps | split

theorem patternBack_keeps (p errors : Nat) {base s : State} (hk : Keeps base s) : Keeps base (patternBack s p errors) := by
  unfold patternBack
  repeat' first | with_reducible assumption | with_reducible apply sendPattern_keeps | with_reducible apply countTest_keeps

theorem handleControl_keeps (pid resid : Nat) (code : Nat → Bool) (f : State → Arrived → Nat → List (BitVec 8) → Option State)
    {base s : State} (hk : Keeps base s) (hf : ∀ t a l p u, Keeps base t → f t a l p = some u → Keeps base u) :
    Keeps base (handleControl s pid resid code f) := by
  unfold handleControl
  split
  · exact hk
  · rename_i a _
    have h := openPacket_keeps a resid hk
    split
    · exact h.1 _ (by assumption)
    · have h1 := h.2 _ _ _ (by assumption)
      exact keeps_ite (fun _ => hk) fun _ => keeps_ite (fun _ => denyPacket_keeps _ _ _ h1) fun _ =>
        keeps_getD (fun u hu => hf _ _ _ _ _ h1 hu) hk

theorem sendPiece_keeps (bid : Nat) (wr : Bool) (start : Nat) (data : List (BitVec 8)) (p : Nat × Nat) {base s : State}
    (hk : Keeps base s) : Keeps base (sendPiece bid wr start data s p) := by
  unfold sendPiece
  extract_lets pos w
  have h1 := sendLocal_keeps w (if wr then .write false else .read) (s.ownDpa p.1) p.2 ((data.drop pos).take p.2) hk
  revert h1
  generalize sendLocal s w (if wr then .write false else .read) (s.ownDpa p.1) p.2 ((data.drop pos).take p.2) = r
  intro h1
  obtain ⟨s1, o⟩ := r
  cases o
  · exact h1
  · exact bar4Answer_keeps _ _ _ _ h1

theorem sendBar4_keeps (tag : Nat) (wr : Bool) (start n : Nat) (data : List (BitVec 8)) {base s : State} (hk : Keeps base s) :
    Keeps base (sendBar4 s tag wr start n data) := by
  have key : ∀ (bid : Nat) (l : List (Nat × Nat)) (u : State), Keeps base u →
      Keeps base (l.foldl (fun s p => sendPiece bid wr start data s p) u) := by
    intro bid l
    induction l with
    | nil => exact fun u h => h
    | cons x l ih => exact fun u h => ih _ (sendPiece_keeps _ _ _ _ _ h)
  unfold sendBar4
  exact key _ _ _ (noteGrant_keeps _ _ _ _ _ _ (keeps_same (State.fresh_keeps hk) rfl rfl rfl rfl rfl rfl rfl rfl))

theorem fallbackEvent_keeps (state cause : Nat) {base s : State} (hk : Keeps base s) : Keeps base (fallbackEvent s state cause) :=
  postEvent_keeps _ hk

theorem setTap_keeps (op : Nat) {base s : State} (hk : Keeps base s) : Keeps base (setTap s op) :=
  keeps_same hk rfl rfl rfl rfl rfl rfl rfl rfl

theorem withSpdm_keeps (t : Transport) (k : Nat) (f : State) {base s : State} (hk : Keeps base s) (hf : Keeps base f) :
    Keeps base (withSpdm s t k f) :=
  keeps_ite (fun _ => hk) fun _ => keeps_ite (fun _ => reply_keeps _ _ hk) fun _ => hf

theorem flushLog_keeps {base s : State} (hk : Keeps base s) : Keeps base (flushLog s) := keeps_same hk rfl rfl rfl rfl rfl rfl rfl rfl

theorem settleFenceOpsAll_keeps {base s : State} (hk : Keeps base s) : Keeps base (settleFenceOpsAll s) := by
  unfold settleFenceOpsAll
  repeat' first
    | with_reducible apply completeDesc_keeps | with_reducible apply keeps_forAll
    | with_reducible exact keeps_same hk rfl rfl rfl rfl rfl rfl rfl rfl | intro _

theorem stopTasks_keeps {base s : State} (hk : Keeps base s) : Keeps base (stopTasks s) := by
  unfold stopTasks
  repeat' first
    | intro _
    | (with_reducible refine keeps_mk ?_ rfl rfl rfl rfl rfl rfl rfl rfl; first
        | with_reducible assumption | with_reducible apply clearCore_keeps | with_reducible apply keeps_forAll)

theorem fenceModule_keeps {base s : State} (hk : Keeps base s) : Keeps base (fenceModule s) := by
  have h1 : Keeps base (settleFenceOpsAll (abortUnbegun s (fun _ _ => true)).1) := settleFenceOpsAll_keeps (abortUnbegun_keeps _ hk)
  unfold fenceModule
  generalize settleFenceOpsAll (abortUnbegun s (fun _ _ => true)).1 = s1 at h1
  dsimp only
  have h2 : Keeps base (stopTasks (s1.forAll s1.queueIds stopQueue)) := stopTasks_keeps (keeps_forAll h1 fun t x h => stopQueue_keeps _ h)
  revert h2
  generalize stopTasks (s1.forAll s1.queueIds stopQueue) = s2
  intro h2
  refine keeps_forAll ?_ fun t i h => errorFence_keeps _ _ _ h
  exact keeps_same h2 rfl rfl rfl rfl rfl rfl rfl rfl

theorem takePins_keeps (op : Nat) {base s : State} (hk : Keeps base s) : Keeps base (takePins s op) := by
  have h1 : Keeps base (if s.moduleFenced then s else flushLog (fenceModule s)) :=
    keeps_ite (fun _ => hk) (fun _ => flushLog_keeps (fenceModule_keeps hk))
  unfold takePins
  refine keeps_ite (fun _ => ?_) (fun _ => logEntry_keeps _ _ _ _ _ _ (setTap_keeps _ hk))
  revert h1
  generalize (if s.moduleFenced then s else flushLog (fenceModule s)) = s1
  intro h1
  exact keeps_same h1 rfl rfl rfl rfl rfl rfl rfl rfl

theorem takeResponse_keeps (p reqid : Nat) (k : State → Tracked → State) {base s : State} (hk : Keeps base s)
    (hk : ∀ y0 y1, Keeps base y0 → Keeps base (k y0 y1)) : Keeps base (takeResponse s p reqid k) := by
  unfold takeResponse
  repeat' first
    | with_reducible assumption | with_reducible apply countLate_keeps | with_reducible apply untrack_keeps | apply hk | split

theorem requestCoreReset_keeps (n : Nat) {base s : State} (hk : Keeps base s) : Keeps base (requestCoreReset s n) := by
  unfold requestCoreReset
  repeat' first | with_reducible assumption | with_reducible apply startCoreReset_keeps | split

theorem goodFlit_keeps (p : Nat) (w : BitVec 2048) (k : Nat) (f : State → Flit → State) {base s : State} (hk :
    Keeps base s) (hf : ∀ y0 y1, Keeps base y0 → Keeps base (f y0 y1)) : Keeps base (goodFlit s p w k f) := by
  unfold goodFlit
  repeat' first
    | with_reducible assumption | with_reducible apply corrected_keeps | with_reducible apply State.updDyn_keeps | apply hf
    | refine keeps_ite (fun _ => ?_) (fun _ => ?_)

theorem takeBody_keeps (p : Nat) (f : Flit) {base s : State} (hk : Keeps base s) : Keeps base (takeBody s p f) := by
  unfold takeBody
  repeat' first
    | intro _ | dsimp only | split
    | (with_reducible refine keeps_mk ?_ rfl rfl rfl rfl rfl rfl rfl rfl; first
        | with_reducible assumption | with_reducible apply State.setDyn_keeps | with_reducible apply State.fresh_keeps
        | with_reducible apply raise_keeps | with_reducible apply keeps_forAll)

theorem receiveData_keeps (p : Nat) (f : Flit) {base s : State} (hk : Keeps base s) : Keeps base (receiveData s p f) := by
  unfold receiveData
  repeat' first
    | with_reducible assumption | with_reducible apply takeHeader_keeps | with_reducible apply State.updDyn_keeps
    | with_reducible apply sendFlit_keeps | with_reducible apply takeBody_keeps | with_reducible apply sendNak_keeps | dsimp only
    | split

theorem reflectFlit_keeps (p : Nat) (f : Flit) {base s : State} (hk : Keeps base s) : Keeps base (reflectFlit s p f) := by
  unfold reflectFlit
  repeat' first | with_reducible assumption | with_reducible apply State.updDyn_keeps | refine keeps_ite (fun _ => ?_) (fun _ => ?_)

theorem inSession_keeps (sid : Nat) (f : Session → State) {base s : State} (hk : Keeps base s) (hf : ∀ y0, Keeps base (f y0)) :
    Keeps base (inSession s sid f) := by
  unfold inSession
  repeat' first | with_reducible assumption | with_reducible apply reply_keeps | apply hf | split

theorem useNonce_keeps {base s : State} (hk : Keeps base s) : Keeps base (useNonce s) := keeps_same hk rfl rfl rfl rfl rfl rfl rfl rfl

theorem portsDown_keeps {base s : State} (hk : Keeps base s) : Keeps base (portsDown s) := by
  unfold portsDown
  repeat' first
    | with_reducible apply changePort_keeps | with_reducible apply keeps_forAll
    | with_reducible exact keeps_same hk rfl rfl rfl rfl rfl rfl rfl rfl | intro _

theorem startModuleReset_keeps (cause : Nat) (esc : Bool) {base s : State} (hk : Keeps base s) : Keeps base
    (startModuleReset s cause esc) := by
  unfold startModuleReset
  refine keeps_ite (fun _ => hk) fun _ => portsDown_keeps (flushLog_keeps (noteChanges_keeps _ ?_))
  refine keeps_ite (fun _ => ?_) fun _ => fenceModule_keeps ?_ <;> exact keeps_same hk rfl rfl rfl rfl rfl rfl rfl rfl

theorem requestTray_keeps {base s : State} (hk : Keeps base s) : Keeps base (requestTray s) := by
  unfold requestTray
  exact keeps_ite (fun _ => hk) fun _ => noteChanges_keeps _
    (keeps_same (State.blank_keeps (flushLog_keeps hk)) rfl rfl rfl rfl rfl rfl rfl rfl)

theorem sendEcho_keeps (dst : Nat) {base s : State} (hk : Keeps base s) : Keeps base (sendEcho s dst) := by
  unfold sendEcho
  repeat' first
    | dsimp only | split
    | (with_reducible refine keeps_mk ?_ rfl rfl rfl rfl rfl rfl rfl rfl; first
        | with_reducible assumption | with_reducible apply sendRequest_keeps | refine keeps_pair ?_ (by assumption))

theorem setSessions_keeps (l : List Session) {base s : State} (hk : Keeps base s) : Keeps base (setSessions s l) :=
  keeps_same hk rfl rfl rfl rfl rfl rfl rfl rfl

theorem takeRelease_keeps (k : Packet) (payload : List (BitVec 8)) {base s : State} (hk : Keeps base s) : Keeps base
    (takeRelease s k payload) := by
  unfold takeRelease
  repeat' first
    | with_reducible assumption | with_reducible apply settle_keeps | with_reducible apply waitOutcome_keeps
    | with_reducible apply controlAnswer_keeps | split

theorem serveFence_keeps (r : Req) (c off : Nat) (x : Xmit)
    {base s : State} (hk : Keeps base s) : Keeps base (serveFence s r c off x) := by
  unfold serveFence
  have h : Keeps base (performFence (r.enter (takeReq s r.rid)) r c off x).1 :=
    performFence_keeps _ _ _ _ (Req.enter_keeps _ (takeReq_keeps _ hk))
  revert h
  generalize performFence (r.enter (takeReq s r.rid)) r c off x = o
  intro h
  refine channelsFailed_keeps _ (settleEndings_keeps (wakeFence_keeps _ (releaseHeld_keeps ?_)))
  repeat' first
    | with_reducible assumption | with_reducible apply Req.cross_keeps | with_reducible apply noteChannel_keeps
    | with_reducible apply noteDrained_keeps | with_reducible apply settle_keeps | with_reducible apply descSignalled_keeps
    | with_reducible apply answer_keeps | dsimp only | split

theorem fenceRequest_keeps (r : Req) (c off : Nat) (x : Xmit) {base s : State} (hk : Keeps base s) : Keeps base
    (fenceRequest s r c off x) := by
  unfold fenceRequest
  have h := State.takeFree_keeps hk
  dsimp only
  split
  · exact expireReq_keeps _ h
  · exact serveFence_keeps _ _ _ _ h

theorem hostReads_keeps (r : State × Nat) {base s : State} (hk : Keeps base s) (hr : Keeps base r.1) : Keeps base (hostReads s r) :=
  keeps_ite (fun _ => answerRead_keeps _ hr) (fun _ => hk)

theorem readWaits_keeps (m : Nat) {base s : State} (hk : Keeps base s) : Keeps base (readWaits s m).1 :=
  keeps_same hk rfl rfl rfl rfl rfl rfl rfl rfl

theorem setSpdm_keeps (t : Transport) (k : Nat) {base s : State} (hk : Keeps base s) : Keeps base (setSpdm s t k) :=
  keeps_same hk rfl rfl rfl rfl rfl rfl rfl rfl

theorem onTdi_keeps (v : Nat) (f : State) {base s : State} (hk : Keeps base s) (hf : Keeps base f) : Keeps base (onTdi s v f) :=
  keeps_ite (fun _ => hk) fun _ => keeps_ite (fun _ => hf) fun _ => reply_keeps _ _ hk

theorem sendHello_keeps (p : Nat) {base s : State} (hk : Keeps base s) : Keeps base (sendHello s p) := sendFlit_keeps _ _ _ hk

theorem markStale_keeps (p : Nat) {base s : State} (hk : Keeps base s) : Keeps base (markStale s p) := by
  unfold markStale
  repeat' first | with_reducible exact keeps_same hk rfl rfl rfl rfl rfl rfl rfl rfl

theorem receiveHello_keeps (p : Nat) (f : Flit) {base s : State} (hk : Keeps base s) : Keeps base (receiveHello s p f) := by
  unfold receiveHello
  repeat' first
    | with_reducible assumption | with_reducible apply sendHello_keeps | with_reducible apply State.updDyn_keeps
    | with_reducible apply changePort_keeps | with_reducible apply markStale_keeps | with_reducible apply txPump_keeps
    | with_reducible apply State.setPort_keeps | refine keeps_ite (fun _ => ?_) (fun _ => ?_)

theorem hostReadCompletion_keeps (rid : Nat) (ok : Bool) (data : List (BitVec 8)) {base s : State} (hk : Keeps base s) : Keeps base
    (hostReadCompletion s rid ok data) := by
  unfold hostReadCompletion
  repeat' first
    | with_reducible assumption | with_reducible apply jobPumpEngine_keeps | with_reducible apply State.updJob_keeps
    | with_reducible apply jobFail_keeps | with_reducible apply notePcie_keeps | split

theorem setIde_keeps (f : Nat) (k : Option Nat) {base s : State} (hk : Keeps base s) : Keeps base (setIde s f k) :=
  keeps_same hk rfl rfl rfl rfl rfl rfl rfl rfl

theorem powerOff_keeps {base s : State} (hk : Keeps base s) : Keeps base (powerOff s) := by
  unfold powerOff
  repeat' first
    | (with_reducible refine keeps_mk ?_ rfl rfl rfl rfl rfl rfl rfl rfl; first
        | with_reducible assumption | with_reducible apply State.blank_keeps)

theorem settleIntSrc_keeps (i : Nat) {base s : State} (hk : Keeps base s) : Keeps base (settleIntSrc s i) := by
  unfold settleIntSrc
  repeat' first | with_reducible assumption | with_reducible apply State.setIntSrc_keeps | dsimp only | split

theorem writeIntSrc_keeps (i v : Nat) {base s : State} (hk : Keeps base s) : Keeps base (writeIntSrc s i v) :=
  State.setIntSrc_keeps _ _ hk

theorem swTrigger_keeps (i : Nat) {base s : State} (hk : Keeps base s) : Keeps base (swTrigger s i) := by
  unfold swTrigger
  repeat' first | with_reducible assumption | with_reducible apply raise_keeps | split

theorem programIde_keeps (f k : Nat) (key : Option (BitVec 256))
    {base s : State} (hk : Keeps base s) : Keeps base (programIde s f k key) := by
  unfold programIde
  repeat' first | with_reducible exact keeps_same hk rfl rfl rfl rfl rfl rfl rfl rfl | split

theorem keyCommand_keeps (sid code t g : Nat) (f : State → State × Nat) {base s : State} (hk : Keeps base s)
    (hf : ∀ y0, Keeps base y0 → Keeps base (f y0).1) : Keeps base (keyCommand s sid code t g f) := by
  unfold keyCommand
  repeat' first
    | with_reducible assumption | with_reducible apply inSession_keeps | with_reducible apply reply_keeps
    | with_reducible apply logEntry_keeps | apply hf | intro _ | split

theorem installKey_keeps (t g : Nat) (k : BitVec 256) {base s : State} (hk : Keeps base s) : Keeps base (installKey s t g k).1 := by
  unfold installKey
  repeat' first
    | with_reducible apply showKeygen_keeps | dsimp only | split | with_reducible exact keeps_same hk rfl rfl rfl rfl rfl rfl rfl rfl

theorem retireGen_keeps (t g : Nat) {base s : State} (hk : Keeps base s) : Keeps base (retireGen s t g).1 := by
  unfold retireGen
  repeat' first | with_reducible assumption | with_reducible apply State.setTagKeys_keeps | dsimp only | split

theorem readLatVal_keeps (l m : Nat) {base s : State} (hk : Keeps base s) : Keeps base (readLatVal s l m).1 := by
  unfold readLatVal
  repeat' first | with_reducible assumption | with_reducible apply State.updSlot_keeps

theorem readRegs_keeps (get : State → Nat → Nat → State × Nat) (off size : Nat) {base s : State} (hk : Keeps base s)
    (hg : ∀ t a m, Keeps base t → Keeps base (get t a m).1) : Keeps base (readRegs s get off size).1 := by
  unfold readRegs
  dsimp only
  have key : ∀ (l : List (Nat × Nat × Nat)) (a : State × List (BitVec 8)), Keeps base a.1 →
      Keeps base (l.foldl (fun (a : State × List (BitVec 8)) x =>
        ((get a.1 x.1 (byteMask x.2.1 x.2.2)).1, a.2 ++ leBytes x.2.1 ((get a.1 x.1 (byteMask x.2.1 x.2.2)).2 >>> (8 * x.2.2)))) a).1 := by
    intro l
    induction l with
    | nil => exact fun a h => h
    | cons x l ih => exact fun a h => ih _ (hg _ _ _ h)
  exact key _ _ hk

theorem readSqStatus_keeps (q m : Nat) {base s : State} (hk : Keeps base s) : Keeps base (readSqStatus s q m).1 := by
  unfold readSqStatus
  repeat' first | with_reducible assumption | with_reducible apply State.updSq_keeps

theorem readSqSet_keeps (q r m : Nat) {base s : State} (hk : Keeps base s) : Keeps base (readSqSet s q r m).1 := by
  unfold readSqSet
  repeat' first | with_reducible assumption | with_reducible apply readSqStatus_keeps | split

theorem readEvStatus_keeps (f m : Nat) {base s : State} (hk : Keeps base s) : Keeps base (readEvStatus s f m).1 :=
  State.setEv_keeps _ _ hk

theorem readEvSet_keeps (f r m : Nat) {base s : State} (hk : Keeps base s) : Keeps base (readEvSet s f r m).1 := by
  unfold readEvSet
  repeat' first | with_reducible assumption | with_reducible apply readEvStatus_keeps | split

theorem readQue_keeps (o m : Nat) {base s : State} (hk : Keeps base s) : Keeps base (readQue s o m).1 := by
  unfold readQue
  repeat' first | with_reducible assumption | with_reducible apply readSqSet_keeps | with_reducible apply readEvSet_keeps | split

theorem readFnc_keeps (o m : Nat) {base s : State} (hk : Keeps base s) : Keeps base (readFnc s o m).1 := by
  unfold readFnc
  repeat' first | with_reducible assumption | with_reducible apply readWaits_keeps | split

theorem readFqStatus_keeps (l m : Nat) {base s : State} (hk : Keeps base s) : Keeps base (readFqStatus s l m).1 := by
  unfold readFqStatus
  repeat' first | with_reducible assumption | with_reducible apply State.updFq_keeps

theorem readFqSet_keeps (l r m : Nat) {base s : State} (hk : Keeps base s) : Keeps base (readFqSet s l r m).1 := by
  unfold readFqSet
  repeat' first | split | with_reducible exact keeps_same hk rfl rfl rfl rfl rfl rfl rfl rfl

theorem readXltStatus_keeps (m : Nat) {base s : State} (hk : Keeps base s) : Keeps base (readXltStatus s m).1 :=
  keeps_same hk rfl rfl rfl rfl rfl rfl rfl rfl

theorem readXlt_keeps (o m : Nat) {base s : State} (hk : Keeps base s) : Keeps base (readXlt s o m).1 := by
  unfold readXlt
  repeat' first | with_reducible assumption | with_reducible apply readFqSet_keeps | with_reducible apply readXltStatus_keeps | split

theorem readChCorr_keeps (c m : Nat) {base s : State} (hk : Keeps base s) : Keeps base (readChCorr s c m).1 := by
  unfold readChCorr
  repeat' first | with_reducible assumption | with_reducible apply keeps_updChan | intro _

theorem readChRetry_keeps (c m : Nat) {base s : State} (hk : Keeps base s) : Keeps base (readChRetry s c m).1 := by
  unfold readChRetry
  repeat' first | with_reducible assumption | with_reducible apply keeps_updChan | intro _

theorem readChPoison_keeps (c m : Nat) {base s : State} (hk : Keeps base s) : Keeps base (readChPoison s c m).1 := by
  unfold readChPoison
  repeat' first | with_reducible assumption | with_reducible apply keeps_updChan | intro _

theorem readBistFail_keeps (high : Bool) {base s : State} (hk : Keeps base s) : Keeps base (readBistFail s high).1 :=
  keeps_same hk rfl rfl rfl rfl rfl rfl rfl rfl

theorem readMem_keeps (o m : Nat) {base s : State} (hk : Keeps base s) : Keeps base (readMem s o m).1 := by
  unfold readMem
  repeat' first
    | with_reducible apply readChCorr_keeps | with_reducible apply readChRetry_keeps | with_reducible apply readChPoison_keeps
    | with_reducible apply readBistFail_keeps | with_reducible exact keeps_same hk rfl rfl rfl rfl rfl rfl rfl rfl
    | refine keeps_ite1 (fun _ => ?_) (fun _ => ?_)

theorem readMsh_keeps (o m : Nat) {base s : State} (hk : Keeps base s) : Keeps base (readMsh s o m).1 := by
  unfold readMsh
  repeat' first
    | with_reducible assumption | with_reducible apply readHalfStatus_keeps | with_reducible apply readParkedCnt_keeps | split

theorem readSetStatus_keeps (i m : Nat) {base s : State} (hk : Keeps base s) : Keeps base (readSetStatus s i m).1 := by
  unfold readSetStatus
  repeat' first | with_reducible assumption | with_reducible apply State.updSetting_keeps

theorem readSet_keeps (o m : Nat) {base s : State} (hk : Keeps base s) : Keeps base (readSet s o m).1 := by
  unfold readSet
  repeat' first | dsimp only | split | with_reducible exact keeps_same hk rfl rfl rfl rfl rfl rfl rfl rfl

theorem readAcct_keeps (l r m : Nat) {base s : State} (hk : Keeps base s) : Keeps base (readAcct s l r m).1 := by
  unfold readAcct
  repeat' first | with_reducible assumption | with_reducible apply readLatVal_keeps | split

theorem readLkt_keeps (o m : Nat) {base s : State} (hk : Keeps base s) : Keeps base (readLkt s o m).1 := by
  unfold readLkt
  repeat' first | with_reducible assumption | with_reducible apply readAcct_keeps | split

theorem readPortFec_keeps (p m : Nat) {base s : State} (hk : Keeps base s) : Keeps base (readPortFec s p m).1 := by
  unfold readPortFec
  repeat' first | with_reducible assumption | with_reducible apply State.updPort_keeps

theorem readPortLink_keeps (p m : Nat) {base s : State} (hk : Keeps base s) : Keeps base (readPortLink s p m).1 :=
  keeps_same hk rfl rfl rfl rfl rfl rfl rfl rfl

theorem readPortDrop_keeps (p m : Nat) {base s : State} (hk : Keeps base s) : Keeps base (readPortDrop s p m).1 := by
  unfold readPortDrop
  repeat' first | with_reducible assumption | with_reducible apply State.updDyn_keeps

theorem testCounts_keeps (p errors : Nat) (units : BitVec 64)
    {base s : State} (hk : Keeps base s) : Keeps base (testCounts s p errors units) := by
  unfold testCounts
  repeat' first | with_reducible assumption | with_reducible apply countTest_keeps | refine keeps_ite (fun _ => ?_) (fun _ => ?_)

theorem lookAtTest_keeps (p : Nat) {base s : State} (hk : Keeps base s) : Keeps base (lookAtTest s p) := by
  unfold lookAtTest
  repeat' first
    | with_reducible assumption | with_reducible apply State.takeFree_keeps | with_reducible apply testCounts_keeps
    | refine keeps_ite (fun _ => ?_) (fun _ => ?_)

theorem readPortTest_keeps (p m : Nat) {base s0 : State} (hk : Keeps base s0) : Keeps base (readPortTest s0 p m).1 := by
  unfold readPortTest
  repeat' first | with_reducible assumption | with_reducible apply lookAtTest_keeps | with_reducible apply State.updDyn_keeps

theorem readTrb_keeps (o m : Nat) {base s : State} (hk : Keeps base s) : Keeps base (readTrb s o m).1 := by
  unfold readTrb
  repeat' first
    | with_reducible assumption | with_reducible apply readPortFec_keeps | with_reducible apply readPortLink_keeps
    | with_reducible apply readPortDrop_keeps | with_reducible apply readPortTest_keeps | with_reducible apply lookAtTest_keeps
    | refine keeps_ite1 (fun _ => ?_) (fun _ => ?_)

theorem readPwrStatus_keeps (m : Nat) {base s : State} (hk : Keeps base s) : Keeps base (readPwrStatus s m).1 :=
  keeps_same hk rfl rfl rfl rfl rfl rfl rfl rfl

theorem readStagger_keeps (m : Nat) {base s : State} (hk : Keeps base s) : Keeps base (readStagger s m).1 :=
  keeps_same hk rfl rfl rfl rfl rfl rfl rfl rfl

theorem readModel_keeps (m : Nat) {base s : State} (hk : Keeps base s) : Keeps base (readModel s m).1 :=
  keeps_same hk rfl rfl rfl rfl rfl rfl rfl rfl

theorem readPwrCore_keeps (n m : Nat) {base s : State} (hk : Keeps base s) : Keeps base (readPwrCore s n m).1 := by
  unfold readPwrCore
  repeat' first | with_reducible assumption | with_reducible apply State.updPcore_keeps

theorem readPwr_keeps (o m : Nat) {base s : State} (hk : Keeps base s) : Keeps base (readPwr s o m).1 := by
  unfold readPwr
  repeat' first
    | with_reducible assumption | with_reducible apply readPwrStatus_keeps | with_reducible apply readStagger_keeps
    | with_reducible apply readModel_keeps | with_reducible apply readPwrCore_keeps | split

theorem readInt_keeps (o m : Nat) {base s : State} (hk : Keeps base s) : Keeps base (readInt s o m).1 := by
  unfold readInt
  repeat' first
    | with_reducible assumption | with_reducible apply settleIntSrc_keeps | with_reducible apply ackTarget_keeps | dsimp only | split

theorem readFwStatus_keeps (m : Nat) {base s : State} (hk : Keeps base s) : Keeps base (readFwStatus s m).1 := State.setFw_keeps _ hk

theorem readLogStatus_keeps (m : Nat) {base s : State} (hk : Keeps base s) : Keeps base (readLogStatus s m).1 :=
  keeps_same hk rfl rfl rfl rfl rfl rfl rfl rfl

theorem readMgt_keeps (o m : Nat) {base s : State} (hk : Keeps base s) : Keeps base (readMgt s o m).1 := by
  unfold readMgt
  repeat' first
    | with_reducible assumption | with_reducible apply readFwStatus_keeps | with_reducible apply State.takeFree_keeps
    | with_reducible apply readLogStatus_keeps | split

theorem readWord_keeps (off m : Nat) {base s : State} (hk : Keeps base s) : Keeps base (readWord s off m).1 := by
  unfold readWord
  repeat' first
    | with_reducible assumption | with_reducible apply readQue_keeps | with_reducible apply readFnc_keeps
    | with_reducible apply readXlt_keeps | with_reducible apply readMem_keeps | with_reducible apply readMsh_keeps
    | with_reducible apply readSet_keeps | with_reducible apply readLkt_keeps | with_reducible apply readTrb_keeps
    | with_reducible apply readPwr_keeps | with_reducible apply readInt_keeps | with_reducible apply readMgt_keeps | split

theorem readVfWord_keeps (f off m : Nat) {base s : State} (hk : Keeps base s) : Keeps base (readVfWord s f off m).1 := by
  unfold readVfWord
  repeat' first
    | with_reducible assumption | with_reducible apply readFqSet_keeps | with_reducible apply readEvSet_keeps
    | with_reducible apply readSqSet_keeps | with_reducible apply readAcct_keeps | dsimp only | split

theorem hostRead_keeps (f : Nat) (doorbells : Bool) (off size : Nat) {base s : State} (hk : Keeps base s) :
    ∀ u, hostRead s f doorbells off size = some u → Keeps base u.1 := by
  intro u hu
  unfold hostRead at hu
  repeat' split at hu
  all_goals first
    | contradiction
    | (obtain rfl := Option.some.inj hu)
  · exact hk
  all_goals first
    | exact hk
    | exact readRegs_keeps _ _ _ hk fun t a m h => readWord_keeps _ _ h
    | exact readRegs_keeps _ _ _ hk fun t a m h => readVfWord_keeps _ _ _ h

theorem vfReads_keeps (fn : FnIx) (off : Option Nat) {base s : State} (hk : Keeps base s) : Keeps base (vfReads s fn off) := by
  unfold vfReads
  split
  · rename_i r hr
    obtain ⟨o, -, ho⟩ := Option.bind_eq_some_iff.1 hr
    exact answerRead_keeps _ (hostRead_keeps _ _ _ _ hk _ ho)
  · exact hk

theorem loopBack_keeps (p : Nat) {base s : State} (hk : Keeps base s) : Keeps base (loopBack s p) := by
  unfold loopBack
  repeat' first
    | with_reducible assumption | with_reducible apply sendPattern_keeps | with_reducible apply State.updDyn_keeps
    | refine keeps_ite (fun _ => ?_) (fun _ => ?_)

theorem memBistGo_keeps {base s : State} (hk : Keeps base s) : Keeps base (memBistGo s) := by
  unfold memBistGo
  repeat' first
    | refine keeps_ite (fun _ => ?_) (fun _ => ?_) | intro _ | exact Cells.wf_nil
    | (with_reducible refine keeps_mk ?_ rfl rfl rfl rfl rfl rfl rfl rfl; first
        | with_reducible assumption | with_reducible apply keeps_updChan | with_reducible apply keeps_forAll)

theorem watchdog_keeps (src object ctx kind action level bound : Nat) {base s : State} (hk : Keeps base s) : Keeps base
    (watchdog s src object ctx kind action level bound) := postEvent_keeps _ hk

theorem takeCore_keeps (ctx n : Nat) {base s : State} (hk : Keeps base s) : Keeps base (takeCore s ctx n) := by
  unfold takeCore
  repeat' first | with_reducible exact keeps_same hk rfl rfl rfl rfl rfl rfl rfl rfl | refine keeps_ite (fun _ => ?_) (fun _ => ?_)

theorem setLink_keeps (l : LinkState) {base s : State} (hk : Keeps base s) : Keeps base (setLink s l) :=
  keeps_ite (fun _ => hk) fun _ => noteChanges_keeps _ (raise_keeps _ (keeps_same hk rfl rfl rfl rfl rfl rfl rfl rfl))

theorem startPort_keeps (p : Nat) {base s : State} (hk : Keeps base s) : Keeps base (startPort s p) := by
  unfold startPort
  repeat' first
    | with_reducible assumption | with_reducible apply changePort_keeps | with_reducible apply State.updDyn_keeps | dsimp only | split

theorem routesLost_keeps {base s : State} (hk : Keeps base s) : Keeps base (routesLost s) := ownersGone_keeps _ hk

theorem stopPort_keeps (p : Nat) {base s : State} (hk : Keeps base s) : Keeps base (stopPort s p) := by
  unfold stopPort
  repeat' first
    | with_reducible assumption | with_reducible apply routesLost_keeps | with_reducible apply changePort_keeps | dsimp only | split

theorem writePortCtl_keeps (p v m : Nat) {base s : State} (hk : Keeps base s) : Keeps base (writePortCtl s p v m) := by
  unfold writePortCtl
  repeat' first
    | with_reducible assumption | with_reducible apply State.updPort_keeps | with_reducible apply startPort_keeps
    | with_reducible apply stopPort_keeps | dsimp only | split

theorem setLimit_keeps {base s : State} (hk : Keeps base s) : Keeps base (setLimit s) := keeps_same hk rfl rfl rfl rfl rfl rfl rfl rfl

theorem fallbackStep_keeps (r : PowerReading) (est : Nat)
    {base s : State} (hk : Keeps base s) : Keeps base (fallbackStep s r est) := by
  unfold fallbackStep
  repeat' first
    | with_reducible apply fallbackEvent_keeps | dsimp only | split
    | with_reducible exact keeps_same hk rfl rfl rfl rfl rfl rfl rfl rfl

theorem heatCore_keeps (n : Nat) {base s : State} (hk : Keeps base s) : Keeps base (heatCore s n) := State.updPcore_keeps _ _ hk

theorem heatStep_keeps {base s : State} (hk : Keeps base s) : Keeps base (heatStep s) := by
  unfold heatStep
  repeat' first
    | with_reducible assumption | apply heatCore_keeps | with_reducible apply State.updHalf_keeps | with_reducible apply keeps_forAll
    | refine keeps_ite (fun _ => ?_) (fun _ => ?_) | intro _

theorem writeRegs_keeps (put : State → Nat → Nat → Nat → State) (off size value : Nat) {base s : State} (hk : Keeps base s)
    (hp : ∀ t a v m, Keeps base t → Keeps base (put t a v m)) : Keeps base (writeRegs s put off size value) := by
  unfold writeRegs
  generalize wordsOf off size = l
  induction l generalizing s with
  | nil => exact hk
  | cons x l ih => exact ih (hp _ _ _ _ hk)

theorem writeIntOwn_keeps (o v m : Nat) {base s : State} (hk : Keeps base s) : Keeps base (writeIntOwn s o v m) := by
  unfold writeIntOwn
  dsimp only
  refine keeps_ite (fun _ => writeIntSrc_keeps _ _ hk) fun _ => keeps_ite (fun _ => ?_) fun _ => ?_
  · refine keeps_ite (fun _ => keeps_setIntTgt hk fun w => w _) fun _ => keeps_ite (fun _ => keeps_setIntTgt hk fun w => w _) fun _ => ?_
    exact keeps_ite (fun _ => keeps_ite (fun _ => endInterrupt_keeps _ _ hk) fun _ => hk) fun _ => hk
  · exact keeps_ite (fun _ => keeps_ite (fun _ => swTrigger_keeps _ hk) fun _ => hk) fun _ => hk

theorem writeMsix_keeps (f o v m : Nat) {base s : State} (hk : Keeps base s) : Keeps base (writeMsix s f o v m) := by
  unfold writeMsix
  repeat' first
    | with_reducible apply unmask_keeps | dsimp only | split | with_reducible exact keeps_same hk rfl rfl rfl rfl rfl rfl rfl rfl

theorem writePcx_keeps (o v m : Nat) {base s : State} (hk : Keeps base s) : Keeps base (writePcx s o v m) := by
  unfold writePcx
  repeat' first
    | with_reducible apply writeMsix_keeps | dsimp only | split | with_reducible exact keeps_same hk rfl rfl rfl rfl rfl rfl rfl rfl

theorem writeSqSet_keeps (q r v m : Nat) (pf : Bool) {base s : State} (hk : Keeps base s) : Keeps base (writeSqSet s q r v m pf) := by
  unfold writeSqSet
  repeat' first
    | with_reducible assumption | with_reducible apply writeSqBase_keeps | with_reducible apply writeSqCtl_keeps
    | with_reducible apply writeSqCfg_keeps | with_reducible apply writeSqStatus_keeps | with_reducible apply writeSqCwb_keeps | split

theorem writeCqSet_keeps (c r v m : Nat) (pf : Bool) {base s : State} (hk : Keeps base s) : Keeps base (writeCqSet s c r v m pf) := by
  unfold writeCqSet
  repeat' first
    | with_reducible assumption | with_reducible apply writeCqBase_keeps | with_reducible apply writeCqCtl_keeps
    | with_reducible apply writeCqCfg_keeps | with_reducible apply writeCqCons_keeps | with_reducible apply writeCqStatus_keeps
    | split

theorem writeEvSet_keeps (f r v m : Nat) {base s : State} (hk : Keeps base s) : Keeps base (writeEvSet s f r v m) := by
  unfold writeEvSet
  repeat' first
    | with_reducible assumption | with_reducible apply writeEvBase_keeps | with_reducible apply writeEvCtl_keeps
    | with_reducible apply writeEvCons_keeps | with_reducible apply writeEvStatus_keeps | split

theorem writeQue_keeps (o v m : Nat) (pf : Bool) {base s : State} (hk : Keeps base s) : Keeps base (writeQue s o v m pf) := by
  unfold writeQue
  repeat' first
    | with_reducible assumption | with_reducible apply writeSqSet_keeps | with_reducible apply writeCqSet_keeps
    | with_reducible apply writeEvSet_keeps | with_reducible apply writeFnMsix_keeps | split

theorem writeFnc_keeps (o v m : Nat) {base s : State} (hk : Keeps base s) : Keeps base (writeFnc s o v m) := by
  unfold writeFnc
  repeat' first
    | with_reducible apply createFence_keeps | with_reducible apply destroyCommand_keeps | dsimp only | split
    | with_reducible exact keeps_same hk rfl rfl rfl rfl rfl rfl rfl rfl

theorem writeFqSet_keeps (l r v m : Nat) {base s : State} (hk : Keeps base s) : Keeps base (writeFqSet s l r v m) := by
  unfold writeFqSet
  repeat' first
    | with_reducible assumption | with_reducible apply writeFqBase_keeps | with_reducible apply writeFqCtl_keeps
    | with_reducible apply writeFqCons_keeps | with_reducible apply writeFqStatus_keeps | split

theorem writeXlt_keeps (o v m : Nat) {base s : State} (hk : Keeps base s) : Keeps base (writeXlt s o v m) := by
  unfold writeXlt
  repeat' first | with_reducible assumption | with_reducible apply writeFqSet_keeps | split

theorem writeChCtl_keeps (c v m : Nat) {base s : State} (hk : Keeps base s) : Keeps base (writeChCtl s c v m) := by
  unfold writeChCtl
  repeat' first
    | with_reducible assumption | with_reducible apply recap_keeps | with_reducible apply keeps_setChan | intro _
    | exact Memory.chan (by assumption) _

theorem writePoolCtl_keeps (v m : Nat) {base s : State} (hk : Keeps base s) : Keeps base (writePoolCtl s v m) :=
  keeps_same hk rfl rfl rfl rfl rfl rfl rfl rfl

theorem writePoolCmd_keeps (v m : Nat) {base s : State} (hk : Keeps base s) : Keeps base (writePoolCmd s v m) := by
  unfold writePoolCmd
  repeat' first | with_reducible assumption | with_reducible apply poolCommand_keeps | dsimp only | split

theorem writeLeaseCtl_keeps (v m : Nat) {base s : State} (hk : Keeps base s) : Keeps base (writeLeaseCtl s v m) := by
  unfold writeLeaseCtl
  repeat' first | dsimp only | split | with_reducible exact keeps_same hk rfl rfl rfl rfl rfl rfl rfl rfl

theorem writeLeaseArg_keeps (v m : Nat) {base s : State} (hk : Keeps base s) : Keeps base (writeLeaseArg s v m) :=
  keeps_same hk rfl rfl rfl rfl rfl rfl rfl rfl

theorem writeLeaseCmd_keeps (v m : Nat) {base s : State} (hk : Keeps base s) : Keeps base (writeLeaseCmd s v m) := by
  unfold writeLeaseCmd
  repeat' first | with_reducible assumption | with_reducible apply leaseCommand_keeps | dsimp only | split

theorem writeBistSel_keeps (high : Bool) (v m : Nat) {base s : State} (hk : Keeps base s) : Keeps base (writeBistSel s high v m) :=
  keeps_same hk rfl rfl rfl rfl rfl rfl rfl rfl

theorem writeMem_keeps (o v m : Nat) {base s : State} (hk : Keeps base s) : Keeps base (writeMem s o v m) := by
  unfold writeMem
  repeat' first
    | with_reducible apply writeChCtl_keeps | with_reducible apply writePoolCmd_keeps | with_reducible apply writeLeaseCtl_keeps
    | with_reducible apply writeLeaseCmd_keeps | with_reducible apply writeBistSel_keeps | with_reducible apply memBistGo_keeps
    | dsimp only | split | with_reducible exact keeps_same hk rfl rfl rfl rfl rfl rfl rfl rfl

theorem writeHalfCtl_keeps (h v m : Nat) {base s : State} (hk : Keeps base s) : Keeps base (writeHalfCtl s h v m) := by
  unfold writeHalfCtl
  repeat' first
    | with_reducible assumption | with_reducible apply writeRate_keeps | with_reducible apply requestPark_keeps
    | with_reducible apply requestUnpark_keeps | dsimp only | split

theorem writeMsh_keeps (o v m : Nat) {base s : State} (hk : Keeps base s) : Keeps base (writeMsh s o v m) := by
  unfold writeMsh
  repeat' first | with_reducible apply writeHalfCtl_keeps | split | with_reducible exact keeps_same hk rfl rfl rfl rfl rfl rfl rfl rfl

theorem writeCoreCtl_keeps (n v m : Nat) {base s : State} (hk : Keeps base s) : Keeps base (writeCoreCtl s n v m) := by
  unfold writeCoreCtl
  repeat' first
    | with_reducible assumption | with_reducible apply runBundle_keeps | with_reducible apply keeps_updCore
    | refine keeps_ite (fun _ => ?_) (fun _ => ?_) | intro _

theorem writeCore_keeps (o v m : Nat) {base s : State} (hk : Keeps base s) : Keeps base (writeCore s o v m) := by
  unfold writeCore
  repeat' first | with_reducible assumption | with_reducible apply writeCoreCtl_keeps | split

theorem writeSet_keeps (o v m : Nat) {base s : State} (hk : Keeps base s) : Keeps base (writeSet s o v m) := by
  unfold writeSet
  repeat' first | with_reducible assumption | with_reducible apply State.setSetting_keeps | dsimp only | split

theorem writeTables_keeps (l r v m : Nat) {base s : State} (hk : Keeps base s) : Keeps base (writeTables s l r v m) := by
  unfold writeTables
  repeat' first | with_reducible assumption | with_reducible apply State.setSlot_keeps | dsimp only | split

theorem writeModFloor_keeps (v m : Nat) {base s : State} (hk : Keeps base s) : Keeps base (writeModFloor s v m) := by
  unfold writeModFloor
  repeat' first | dsimp only | split | with_reducible exact keeps_same hk rfl rfl rfl rfl rfl rfl rfl rfl

theorem writeAcct_keeps (l r v m : Nat) {base s : State} (hk : Keeps base s) : Keeps base (writeAcct s l r v m) := by
  unfold writeAcct
  repeat' first | with_reducible assumption | with_reducible apply State.setSlot_keeps | split

theorem writeInv_keeps (l r v m : Nat) {base s : State} (hk : Keeps base s) : Keeps base (writeInv s l r v m) := by
  unfold writeInv
  repeat' first
    | with_reducible assumption | with_reducible apply State.setSlot_keeps | with_reducible apply inventoryGo_keeps | split

theorem writeLkt_keeps (o v m : Nat) {base s : State} (hk : Keeps base s) : Keeps base (writeLkt s o v m) := by
  unfold writeLkt
  repeat' first
    | with_reducible assumption | with_reducible apply writeTables_keeps | with_reducible apply writeModFloor_keeps
    | with_reducible apply writeAcct_keeps | with_reducible apply writeInv_keeps | split

theorem writeTrbId_keeps (v m : Nat) {base s : State} (hk : Keeps base s) : Keeps base (writeTrbId s v m) := by
  unfold writeTrbId
  repeat' first | split | with_reducible exact keeps_same hk rfl rfl rfl rfl rfl rfl rfl rfl

theorem writeTrbCtl_keeps (v m : Nat) {base s : State} (hk : Keeps base s) : Keeps base (writeTrbCtl s v m) :=
  keeps_same hk rfl rfl rfl rfl rfl rfl rfl rfl

theorem writeEcho_keeps (v m : Nat) {base s : State} (hk : Keeps base s) : Keeps base (writeEcho s v m) := by
  unfold writeEcho
  repeat' first | with_reducible apply sendEcho_keeps | split | with_reducible exact keeps_same hk rfl rfl rfl rfl rfl rfl rfl rfl

theorem testGo_keeps (p errors : Nat) (units : BitVec 64)
    {base s : State} (hk : Keeps base s) : Keeps base (testGo s p errors units) := by
  unfold testGo
  repeat' first
    | with_reducible assumption | with_reducible apply testCounts_keeps | with_reducible apply changePort_keeps
    | with_reducible apply State.updDyn_keeps | with_reducible apply sendFlit_keeps | refine keeps_ite (fun _ => ?_) (fun _ => ?_)

theorem testGoFree_keeps (p : Nat) {base s : State} (hk : Keeps base s) : Keeps base (testGoFree s p) := by
  unfold testGoFree
  repeat' first | with_reducible assumption | with_reducible apply State.takeFree_keeps | with_reducible apply testGo_keeps

theorem writeTrb_keeps (o v m : Nat) {base s : State} (hk : Keeps base s) : Keeps base (writeTrb s o v m) := by
  unfold writeTrb
  repeat' first
    | with_reducible assumption | with_reducible apply writeTrbId_keeps | with_reducible apply writeTrbCtl_keeps
    | with_reducible apply clearRetired_keeps | with_reducible apply writeEcho_keeps | with_reducible apply writePortCtl_keeps
    | with_reducible apply testGoFree_keeps | split

theorem setAgeMode_keeps (b : Bool) {base s : State} (hk : Keeps base s) : Keeps base (setAgeMode s b) := by
  unfold setAgeMode
  repeat' first
    | with_reducible apply State.updPcore_keeps | with_reducible apply keeps_forAll
    | with_reducible exact keeps_same hk rfl rfl rfl rfl rfl rfl rfl rfl | refine keeps_ite (fun _ => ?_) (fun _ => ?_) | intro _

theorem writePwrCtl_keeps (v m : Nat) {base s : State} (hk : Keeps base s) : Keeps base (writePwrCtl s v m) := by
  unfold writePwrCtl
  extract_lets p w cap peak cp ignored s1 age
  have h1 : Keeps base s1 := hk.trans ⟨rfl, id, id, fun h => capPeak_limits _ _ h, id⟩
  refine keeps_ite (fun _ => h1) fun _ => keeps_ite (fun _ => ?_) fun _ => setAgeMode_keeps _ h1
  exact keeps_same h1 rfl rfl rfl rfl rfl rfl rfl rfl

theorem writeStagger_keeps (v m : Nat) {base s : State} (hk : Keeps base s) : Keeps base (writeStagger s v m) := by
  unfold writeStagger
  repeat' first | dsimp only | split | with_reducible exact keeps_same hk rfl rfl rfl rfl rfl rfl rfl rfl

theorem writeTherm_keeps (v m : Nat) {base s : State} (hk : Keeps base s) : Keeps base (writeTherm s v m) := by
  unfold writeTherm
  repeat' first | dsimp only | split | with_reducible exact keeps_same hk rfl rfl rfl rfl rfl rfl rfl rfl

theorem writePwrCore_keeps (n v m : Nat) {base s : State} (hk : Keeps base s) : Keeps base (writePwrCore s n v m) := by
  unfold writePwrCore
  repeat' first | with_reducible assumption | with_reducible apply State.setPcore_keeps | dsimp only | split

theorem writePwr_keeps (o v m : Nat) {base s : State} (hk : Keeps base s) : Keeps base (writePwr s o v m) := by
  unfold writePwr
  repeat' first
    | with_reducible assumption | with_reducible apply writePwrCtl_keeps | with_reducible apply writeStagger_keeps
    | with_reducible apply writeTherm_keeps | with_reducible apply writePwrCore_keeps | with_reducible apply State.updPcore_keeps
    | split

theorem writeInt_keeps (o v m : Nat) {base s : State} (hk : Keeps base s) : Keeps base (writeInt s o v m) := by
  unfold writeInt
  repeat' first | with_reducible assumption | with_reducible apply writeIntOwn_keeps | split

theorem writeRstCtl_keeps (v m : Nat) {base s : State} (hk : Keeps base s) : Keeps base (writeRstCtl s v m) := by
  unfold writeRstCtl
  repeat' first
    | with_reducible assumption | with_reducible apply requestCoreReset_keeps | with_reducible apply startLocketReset_keeps
    | with_reducible apply startModuleReset_keeps | with_reducible apply requestTray_keeps | with_reducible apply retire_keeps
    | dsimp only | split

theorem writeWdog_keeps (v m : Nat) {base s : State} (hk : Keeps base s) : Keeps base (writeWdog s v m) :=
  keeps_same hk rfl rfl rfl rfl rfl rfl rfl rfl

theorem selftestGo_keeps {base s : State} (hk : Keeps base s) : Keeps base (selftestGo s) := by
  unfold selftestGo
  repeat' first | split | with_reducible exact keeps_same hk rfl rfl rfl rfl rfl rfl rfl rfl

theorem writeRst_keeps (o v m : Nat) {base s : State} (hk : Keeps base s) : Keeps base (writeRst s o v m) := by
  unfold writeRst
  repeat' first
    | with_reducible apply writeRstCtl_keeps | with_reducible apply selftestGo_keeps | split
    | with_reducible exact keeps_same hk rfl rfl rfl rfl rfl rfl rfl rfl

theorem revert_keeps {base s0 : State} (hk : Keeps base s0) : Keeps base (revert s0) := by
  unfold revert
  repeat' first
    | with_reducible assumption | with_reducible apply logFw_keeps | with_reducible apply fwError_keeps
    | with_reducible apply activationReset_keeps | dsimp only | split

theorem writeFwCtl_keeps (v m : Nat) {base s : State} (hk : Keeps base s) : Keeps base (writeFwCtl s v m) := by
  unfold writeFwCtl
  repeat' first
    | with_reducible assumption | with_reducible apply activate_keeps | with_reducible apply commit_keeps
    | with_reducible apply revert_keeps | split

theorem writeMgt_keeps (o v m : Nat) {base s : State} (hk : Keeps base s) : Keeps base (writeMgt s o v m) := by
  unfold writeMgt
  repeat' first | with_reducible apply writeFwCtl_keeps | split | with_reducible exact keeps_same hk rfl rfl rfl rfl rfl rfl rfl rfl

theorem writeWord_keeps (off v m : Nat) {base s : State} (hk : Keeps base s) : Keeps base (writeWord s off v m) := by
  unfold writeWord
  repeat' first
    | with_reducible assumption | with_reducible apply writePcx_keeps | with_reducible apply writeQue_keeps
    | with_reducible apply writeFnc_keeps | with_reducible apply writeXlt_keeps | with_reducible apply writeMem_keeps
    | with_reducible apply writeMsh_keeps | with_reducible apply writeCore_keeps | with_reducible apply writeSet_keeps
    | with_reducible apply writeLkt_keeps | with_reducible apply writeTrb_keeps | with_reducible apply writePwr_keeps
    | with_reducible apply writeInt_keeps | with_reducible apply writeRst_keeps | with_reducible apply writeMgt_keeps | split

theorem writeVfWord_keeps (f off v m : Nat) {base s : State} (hk : Keeps base s) : Keeps base (writeVfWord s f off v m) := by
  unfold writeVfWord
  repeat' first
    | with_reducible assumption | with_reducible apply writeFqSet_keeps | with_reducible apply writeEvSet_keeps
    | with_reducible apply writeSqSet_keeps | with_reducible apply writeCqSet_keeps | with_reducible apply writeMsix_keeps
    | with_reducible apply writeAcct_keeps | with_reducible apply writeInv_keeps | split

theorem registerWrite_keeps (w : Writer) (off size value : Nat) {base s : State} (hk : Keeps base s) : Keeps base
    (registerWrite s w off size value) := by
  unfold registerWrite
  repeat' first
    | with_reducible assumption | with_reducible apply writeRegs_keeps | with_reducible apply writeWord_keeps
    | with_reducible apply writeIntOwn_keeps | with_reducible apply writeVfWord_keeps | intro _ | split

theorem takeLaunch_keeps (a : Arrived) (l : Nat) (payload : List (BitVec 8)) {base s : State} (hk : Keeps base s) : Keeps base
    (takeLaunch s a l payload) := by
  unfold takeLaunch
  repeat' first
    | with_reducible assumption | with_reducible apply controlAnswer_keeps | with_reducible apply newTask_keeps
    | with_reducible apply startLoad_keeps | dsimp only | split

theorem portDown_keeps (p reason : Nat) {base s : State} (hk : Keeps base s) : Keeps base (portDown s p reason) := by
  unfold portDown
  repeat' first
    | with_reducible assumption | with_reducible apply changePort_keeps | with_reducible apply routesLost_keeps
    | with_reducible apply State.updDyn_keeps | split

theorem takeAnswer_keeps (r : Req) (status : Nat) (data : List (BitVec 8)) {base s : State} (hk : Keeps base s) : Keeps base
    (takeAnswer s r status data) := by
  unfold takeAnswer
  repeat' first | with_reducible assumption | with_reducible apply deliver_keeps | split

theorem performMmio_keeps (r : Req) (off : Nat) {base s : State} (hk : Keeps base s) : Keeps base (performMmio s r off).1 := by
  unfold performMmio
  repeat' first
    | with_reducible assumption | with_reducible apply writeRegs_keeps | with_reducible apply writeWord_keeps
    | with_reducible apply readRegs_keeps | with_reducible apply readWord_keeps | intro _ | split

theorem streamResponse_keeps (rid : Nat) {base s : State} (hk : Keeps base s) : Keeps base (streamResponse s rid) := by
  unfold streamResponse
  repeat' first
    | with_reducible apply takeAnswer_keeps | with_reducible apply performMmio_keeps | with_reducible apply settleEndings_keeps
    | with_reducible apply releaseHeld_keeps | split | with_reducible exact keeps_same hk rfl rfl rfl rfl rfl rfl rfl rfl

theorem thermalEvent_keeps (sensor reason sev : Nat) (t : Int) {base s : State} (hk : Keeps base s) : Keeps base
    (thermalEvent s sensor reason sev t) := by
  unfold thermalEvent
  repeat' first
    | (with_reducible refine keeps_mk ?_ rfl rfl rfl rfl rfl rfl rfl rfl; first
        | with_reducible assumption | with_reducible apply postEvent_keeps)

theorem throttleStep_keeps (i : Nat) (t : Int) {base s : State} (hk : Keeps base s) : Keeps base (throttleStep s i t) := by
  unfold throttleStep
  repeat' first
    | dsimp only | split
    | (with_reducible refine keeps_mk ?_ rfl rfl rfl rfl rfl rfl rfl rfl; first
        | with_reducible assumption | with_reducible apply raise_keeps | with_reducible apply thermalEvent_keeps)

theorem parkOutstanding_keeps {base s : State} (hk : Keeps base s) : Keeps base (parkOutstanding s) := by
  unfold parkOutstanding
  repeat' first
    | intro _ | split
    | (with_reducible refine keeps_mk ?_ rfl rfl rfl rfl rfl rfl rfl rfl; first
        | with_reducible assumption | with_reducible apply countParked_keeps | with_reducible apply completeDesc_keeps
        | with_reducible apply answer_keeps | with_reducible apply keeps_forAll)

theorem tripMesh_keeps (h : Nat) {base s : State} (hk : Keeps base s) : Keeps base (tripMesh s h) := by
  unfold tripMesh
  repeat' first
    | dsimp only | split
    | (with_reducible refine keeps_mk ?_ rfl rfl rfl rfl rfl rfl rfl rfl; first
        | with_reducible assumption | with_reducible apply setRateEff_keeps | with_reducible apply postEvent_keeps)

theorem tripModule_keeps {base s : State} (hk : Keeps base s) : Keeps base (tripModule s) := by
  have h1 : Keeps base { s with pdyn := { s.pdyn with trip := true }, mgt2 := { s.mgt2 with thermTrip := true } } :=
    keeps_same hk rfl rfl rfl rfl rfl rfl rfl rfl
  unfold tripModule
  revert h1
  generalize ({ s with pdyn := { s.pdyn with trip := true }, mgt2 := { s.mgt2 with thermTrip := true } } : State) = s1
  intro h1
  dsimp only
  have h3 : Keeps base (parkOutstanding (stopTasks (s1.forAll s1.queueIds stopQueue))) :=
    parkOutstanding_keeps (stopTasks_keeps (keeps_forAll h1 fun t x h => stopQueue_keeps _ h))
  revert h3
  generalize parkOutstanding (stopTasks (s1.forAll s1.queueIds stopQueue)) = s3
  intro h3
  have h4 : Keeps base (abortUnbegun s3 (fun _ _ => true)).1 := abortUnbegun_keeps _ h3
  revert h4
  generalize (abortUnbegun s3 (fun _ _ => true)).1 = s4
  intro h4
  refine noteChanges_keeps _ (tripMesh_keeps _ (tripMesh_keeps _ (keeps_forAll (keeps_forAll ?_ fun t x h => powerDownCore_keeps _ h)
    fun t c h => keeps_updChan h fun d hd => ?_)))
  · exact keeps_same (parkOutstanding_keeps h4) rfl rfl rfl rfl rfl rfl rfl rfl
  · split <;> exact hd

theorem forwardPacket_keeps (a : Arrived) (resid : Nat)
    {base s : State} (hk : Keeps base s) : Keeps base (forwardPacket s a resid) := by
  unfold forwardPacket
  repeat' first
    | with_reducible assumption | with_reducible apply consumePacket_keeps | with_reducible apply countDiscard_keeps
    | with_reducible apply denyPacket_keeps | with_reducible apply crossSeam_keeps | with_reducible apply noteGrant_keeps
    | with_reducible apply countExpired_keeps | with_reducible apply enqueue_keeps | dsimp only | split

theorem maskAll_keeps (f : Nat) {base s : State} (hk : Keeps base s) : Keeps base (maskAll s f) :=
  keeps_same hk rfl rfl rfl rfl rfl rfl rfl rfl

theorem performLine_keeps (n off : Nat) (r : Req) (i : Nat) {base s : State} (hk : Keeps base s) :
    Keeps base (performLine n off s r i).1 := by
  unfold performLine
  dsimp only
  repeat' split
  all_goals first
    | exact hk
    | (refine keeps_updCore (n := n) (f := fun c => { c with tm := c.tm.writeN _ _ }) hk ?_
       intro c h; exact ⟨Cells.wf_writeN _ _ _ h.1, h.2⟩)

end Sys2Proof.Machine
end

