-- ==== Sys2Proof/Laws/Posted.lean ====
section
/-! SUPPORT. What reporting can touch: a record, an event, a message or a log entry changes event rings, what waits for them, what has left
for the host, pending messages and Decrid's log, what the arbiter and the account of bytes hold of the grant, and nothing else. -/

namespace Sys2Proof.Machine

/-- `u` is `s` after reports. -/
def Posted (s u : State) : Prop :=
  ∃ evs held out pend mgt mgt2 ctr slots arbs ctxs,
    u = { s with que := { s.que with evs := evs, held := held, out := out, msixPend := pend }, mgt := mgt, mgt2 := mgt2, freeCtr := ctr
                 lkt := { s.lkt with slots := slots, arbs := arbs }, fnc := { s.fnc with ctxs := ctxs } }

theorem Posted.refl (s : State) : Posted s s := ⟨_, _, _, _, _, _, _, _, _, _, rfl⟩

theorem Posted.trans {s t u : State} (h : Posted s t) (k : Posted t u) : Posted s u := by
  obtain ⟨_, _, _, _, _, _, _, _, _, _, rfl⟩ := h
  obtain ⟨_, _, _, _, _, _, _, _, _, _, rfl⟩ := k
  exact ⟨_, _, _, _, _, _, _, _, _, _, rfl⟩

theorem setEv_posted (s : State) (f : Nat) (e : EvRing) : Posted s (s.setEv f e) := ⟨_, _, _, _, _, _, _, _, _, _, rfl⟩

theorem logEntry_posted (s : State) (kind sev code unit value : Nat) (r : Option Record) : Posted s (logEntry s kind sev code unit value r) :=
  ⟨_, _, _, _, _, _, _, _, _, _, rfl⟩

theorem platformEvent_posted (s : State) (m : PlatformMsg) : Posted s (platformEvent s m) := by
  unfold platformEvent; split <;> exact ⟨_, _, _, _, _, _, _, _, _, _, rfl⟩

theorem sendMsi_posted (s : State) (f v : Nat) : Posted s (sendMsi s f v) := by
  unfold sendMsi; (repeat' split) <;> exact ⟨_, _, _, _, _, _, _, _, _, _, rfl⟩

theorem charge_posted (s : State) (ctx l : Nat) (f : Acct → Acct) : Posted s (charge s ctx l f) := by
  have h (u : State) : Posted u (chargeLocket u l f) := by
    unfold chargeLocket; split <;> exact ⟨_, _, _, _, _, _, _, _, _, _, rfl⟩
  refine Posted.trans ?_ (h _)
  split <;> exact ⟨_, _, _, _, _, _, _, _, _, _, rfl⟩

theorem noteGrant_posted (s : State) (l f set unit dir n : Nat) : Posted s (noteGrant s l f set unit dir n) := by
  unfold noteGrant grantPair
  generalize s.pairOf l f set unit dir = pair
  have h : Posted s (grantBytes s.takeFree.2 unit dir pair n (Config.arbiterNs s.takeFree.1)) :=
    ⟨_, _, _, _, _, _, _, _, _, _, rfl⟩
  dsimp only
  revert h
  generalize grantBytes s.takeFree.2 unit dir pair n (Config.arbiterNs s.takeFree.1) = t
  intro h
  (repeat' split) <;> first | exact h | exact h.trans ⟨_, _, _, _, _, _, _, _, _, _, rfl⟩

theorem notePcie_posted (s : State) (l f ctx dir n : Nat) : Posted s (notePcie s l f ctx dir n) := by
  refine Posted.trans ?_ (noteGrant_posted _ _ _ _ _ _ _)
  unfold countPcie; split
  · exact charge_posted _ _ _ _
  · exact Posted.refl s

theorem emit_posted (s : State) (f : Nat) (r : Ring) (irq : Bool) (x : Record) (facet : Nat) : Posted s (emit s f r irq x facet) := by
  have h : Posted s (hostSend (notePcie s x.locket facet x.ctx 0 32) (.record f r.addr r.prod.toNat r.phase x)) :=
    (notePcie_posted _ _ _ _ _ _).trans ⟨_, _, _, _, _, _, _, _, _, _, rfl⟩
  unfold emit; dsimp only; split
  · exact h.trans (sendMsi_posted _ _ _)
  · exact h

theorem emitEv_posted (s : State) (f : Nat) (x : Record) : Posted s (emitEv s f x) :=
  (setEv_posted _ _ _).trans (emit_posted _ _ _ _ _ _)

theorem loseEv_posted (s : State) (f : Nat) (x : Record) : Posted s (loseEv s f x) := setEv_posted _ _ _

theorem putEv_posted (s : State) (f : Nat) (x : Record) : Posted s (putEv s f x) := by
  unfold putEv; (repeat' split) <;> first | exact emitEv_posted _ _ _ | exact loseEv_posted _ _ _ | exact ⟨_, _, _, _, _, _, _, _, _, _, rfl⟩

theorem postCopy_posted (s : State) (x : Record) (l : Nat) : Posted s (postCopy s x l) := putEv_posted _ _ _

theorem postEvent_posted (s : State) (x : Record) : Posted s (postEvent s x) := by
  unfold postEvent; dsimp only
  have h1 : Posted s (if x.locket = 0xFF then putEv s 0 x else putEv s (x.locket + 1) x) := by split <;> exact putEv_posted _ _ _
  generalize (if x.locket = 0xFF then putEv s 0 x else putEv s (x.locket + 1) x) = s1 at h1 ⊢
  have h2 : ∀ b : Bool, Posted s (if b = true then putEv s1 0 x else s1) := fun b => by
    cases b
    · exact h1
    · exact h1.trans (putEv_posted _ _ _)
  generalize (decide (x.locket ≠ 0xFF) && (decide (4 ≤ x.sev) || (s1.ev 0).mirror)) = b
  have h2 := h2 b
  generalize (if b = true then putEv s1 0 x else s1) = s2 at h2 ⊢
  (repeat' split) <;> first
    | exact h2.trans ((logEntry_posted _ _ _ _ _ _ _).trans (platformEvent_posted _ _)) | exact h2.trans (platformEvent_posted _ _)
    | exact h2.trans (logEntry_posted _ _ _ _ _ _ _) | exact h2

theorem forAll_posted {α : Type} (f : State → α → State) (hf : ∀ s x, Posted s (f s x)) (xs : List α) (s : State) :
    Posted s (s.forAll xs f) := by
  induction xs generalizing s with
  | nil => exact Posted.refl s
  | cons x xs ih => exact (hf s x).trans (ih _)

end Sys2Proof.Machine
end

