-- ==== Sys2Proof/WellFormed.lean ====
section
/-! DEFINITION. Commands that can be sent: counts, sizes and numbers within what the interfaces carry. An operand that the module
itself judges (a queue that is not enabled, a number of no unit) is well formed: what the module does with it is its meaning. -/

namespace Sys2Proof

/-- A transmission is tried at most five times (R203). -/
def Xmit.wf (x : Xmit) : Bool :=
  x.poisonFails.all (fun k => decide (k ≤ 5)) && (x.rdErrs ++ x.wrErrs).all (fun l => decide (l.length ≤ 5) && l.all (fun e => decide (e < 2 ^ 528)))

/-- The sectors of a slot of 4.5 GiB whose transmissions failed in a move job (R203, R398). -/
def moveSectors (l : List MoveSector) : Bool :=
  l.all (fun x => decide (x.sec < 0x4800000) && Xmit.wf { rdErrs := [x.rdErrs], wrErrs := [x.wrErrs], poisonFails := [x.poisonFails] })

/-- A link that is down has no width; one that is up runs at a width of R351; at 64 GT/s it runs in flit mode (R302). -/
def LinkState.wf (l : LinkState) : Bool :=
  if l.rate.val = 0 then l.width == 0 else [1, 2, 4, 8, 16].contains l.width.val && (l.rate.val != 6 || l.flit)

/-- An access of 1 to 8 bytes within a space of `n` bytes (R309, R320). -/
def pieceOk (n off size : Nat) : Bool := decide (1 ≤ size) && decide (size ≤ 8) && decide (off + size ≤ n)

/-- Cores and channels that failed their BIST (R598). -/
def unitsOk (cores chans : List Nat) : Bool := cores.all (fun n => decide (n < 192)) && chans.all (fun c => decide (c < 128))

/-- A well-formed command. -/
def Instr.wf (i : Instr) : Bool :=
  match i with
  | .bundleIssue _ _ => true
  | .streamResponse _ => true
  | .farCacheLookup _ _ => true
  | .rangeWalkStep _ x => x.wf
  | .tileOccupancyEnd _ _ => true
  | .tileSecondPassEnd _ _ => true
  | .staggerStep => true
  | .arrayRampComplete _ _ => true
  | .arrayIdle _ _ => true
  | .arrayRowGate _ _ => true
  | .taskStart _ => true
  | .taskCompletion _ => true
  | .sliceExpiry _ => true
  | .switchOutStart _ _ => true
  | .switchDrainTimeout _ => true
  | .switchOutComplete _ => true
  | .switchInStart _ _ => true
  | .switchInComplete _ => true
  | .noRetireTimeout _ => true
  | .dmaStallTimeout _ => true
  | .coreStop _ => true
  | .coreResume _ => true
  | .coreStep _ _ => true
  | .channelRequest _ x => x.wf
  | .fenceSignal _ x => x.wf
  | .channelRefresh _ _ => true
  | .windowAccess _ => true
  | .windowAccessTimeout _ => true
  | .scrubComplete _ _ => true
  | .copyJobComplete _ => true
  | .moveJobComplete _ _ e => moveSectors e.sectors
  | .swapDrainComplete _ => true
  | .swapUnlock _ _ => true
  | .doorbell fn page off size _ => decide (page < if fn.val = 0 then 1024 else 128) && pieceOk 4096 off size
  | .descriptorFetch _ => true
  | .descriptorArrival _ _ _ => true
  | .descriptorFetchError _ _ _ => true
  | .completionTimeout _ _ => true
  | .nopDescriptor _ => true
  | .task _ => true
  | .codeLoad _ => true
  | .codeLoadComplete _ => true
  | .copy _ _ => true
  | .scrub _ => true
  | .contextCreate _ => true
  | .contextDestroy _ => true
  | .contextAbort _ => true
  | .contextAbortDrained _ => true
  | .rangeInval _ => true
  | .rangeInvalComplete _ _ => true
  | .faultResolveRetry _ => true
  | .faultResolveError _ => true
  | .setSwap _ => true
  | .setSwapLocket _ => true
  | .locketCreate _ => true
  | .locketTeardown _ => true
  | .teardownDrainEnd _ => true
  | .teardownMemberMissing _ _ => true
  | .rolePool _ => true
  | .roleCompute _ => true
  | .sqEnable _ _ _ => true
  | .sqDisable _ _ => true
  | .cqEnable _ _ _ => true
  | .evEnable _ _ => true
  | .fqEnable _ _ _ => true
  | .cqConsWrite _ _ _ => true
  | .evConsWrite _ _ => true
  | .fqConsWrite _ _ _ => true
  | .msixModerationTimeout kind ring => decide (ring.val < if kind.val = 0 then 1024 else if kind.val = 1 then 33 else 32)
  | .msixUnmask _ _ => true
  | .queFnMsixWrite _ _ => true
  | .fenceCreate _ x => x.wf
  | .fenceDestroy _ => true
  | .fencePoll _ x => x.wf
  | .alloc _ _ => true
  | .revoke _ => true
  | .free _ => true
  | .blockClearDone _ => true
  | .accept _ => true
  | .grant _ => true
  | .release _ => true
  | .probe _ => true
  | .drop _ => true
  | .leaseProbeTimeout => true
  | .inventoryGo _ _ => true
  | .inventoryComplete _ => true
  | .meshRateWrite _ _ => true
  | .meshRateEffect _ => true
  | .parkRequest _ => true
  | .parkComplete _ => true
  | .unparkRequest _ => true
  | .unparkComplete _ => true
  | .data _ _ _ => true
  | .nak _ _ _ => true
  | .idle _ _ _ => true
  | .hello _ _ => true
  | .loopFlit _ _ => true
  | .helloTimer _ => true
  | .replayTimeout _ => true
  | .portEnable _ _ => true
  | .portDisable _ => true
  | .portTrained _ _ _ => true
  | .fecLockLoss _ => true
  | .retrainComplete _ => true
  | .retrainTimeout _ _ => true
  | .routeHoldEnd _ => true
  | .read _ _ => true
  | .write _ _ => true
  | .atomic _ _ => true
  | .respData _ _ => true
  | .respAck _ _ => true
  | .fenceQuery _ _ => true
  | .fenceRelease _ _ => true
  | .leaseOperation _ _ => true
  | .remoteLaunch _ _ => true
  | .teardownStep _ _ => true
  | .teardownReport _ _ => true
  | .controlResp _ _ => true
  | .echo _ _ => true
  | .echoResp _ _ _ => true
  | .transitForward _ _ => true
  | .requestDeadline _ _ => true
  | .echoGo _ => true
  | .retiredClr => true
  | .testGo _ _ _ => true
  | .powerControlStep _ => true
  | .inputPowerSample _ => true
  | .peakSkipRelease => true
  | .setpointTransitionComplete _ => true
  | .droopTrip _ => true
  | .droopRecovery _ => true
  | .brakeAssert => true
  | .brakeDeassert => true
  | .brakeHoldEnd => true
  | .marginSample _ _ _ => true
  | .thermalSample _ _ => true
  | .throttleReleaseStep => true
  | .voltageSample _ _ _ => true
  | .interruptEdge _ => true
  | .intTgtAck _ => true
  | .intTgtEoi _ _ => true
  | .intSwtrig _ => true
  | .intSrcCfgWrite _ _ => true
  | .intMaskEffect _ => true
  | .progressWatchdog _ => true
  | .overrun level target late _ => decide (target < if level.val = 0 then 4096 else if level.val = 1 then 192 else if level.val = 2 then 32 else 1)
      && (late.isEmpty || level.val == 0)
  | .eccUncorrectable _ => true
  | .coreReset _ => true
  | .coreResetComplete _ _ => true
  | .locketReset _ => true
  | .locketResetComplete _ _ => true
  | .moduleReset cause => decide (cause.val ≠ 0)
  | .moduleResetComplete failedCores failedChans _ => unitsOk failedCores failedChans
  | .powerCycle => true
  | .retireUnit _ => true
  | .decridWatchdog _ => true
  | .logFlush => true
  | .correctedSummary _ => true
  | .powerUp _ => true
  | .powerUpComplete failedCores failedChans => unitsOk failedCores failedChans
  | .inputOutOfRange => true
  | .perstAssert => true
  | .perstDeassert => true
  | .pcieLinkTrained l => l.wf
  | .pcieLoopback => true
  | .vfFlr _ => true
  | .pfFlr => true
  | .vfEnable _ _ => true
  | .configRequest _ _ _ _ => true
  | .bar4Access _ wr len bytes _ => decide (1 ≤ len) && decide (len ≤ 4096) && (!wr || bytes.length == len)
  | .selftestGo => true
  | .selftestComplete _ _ _ => true
  | .memBistGo => true
  | .memBistChannelDone _ _ _ => true
  | .activate => true
  | .commit _ => true
  | .revert => true
  | .setEndpointId _ _ => true
  | .getSensorReading _ => true
  | .setEventReceiver _ _ => true
  | .requestUpdate _ => true
  | .requestFirmwareData _ bytes _ => decide (1 ≤ bytes.length)
  | .verifyComplete => true
  | .activateFirmware => true
  | .getVersion _ => true
  | .getCapabilities _ => true
  | .negotiateAlgorithms _ _ => true
  | .getDigests _ => true
  | .getCertificate _ _ _ _ => true
  | .challenge _ _ _ => true
  | .getMeasurements _ _ _ => true
  | .keyExchange _ _ => true
  | .finish _ _ _ => true
  | .heartbeat _ => true
  | .keyUpdate _ => true
  | .endSession _ => true
  | .ownerSet _ _ _ => true
  | .keyInstall _ _ _ _ => true
  | .keyCommit _ _ _ => true
  | .keyRetireGen _ _ _ => true
  | .logRead _ _ _ => true
  | .debugNonce _ => true
  | .debugUnlock _ token _ => token.length == 192
  | .debugLock _ => true
  | .retireLift _ token _ => token.length == 192
  | .debugLifetimeEnd => true
  | .debugNonceExpiry => true
  | .kSetGo _ _ => true
  | .ideStreamFailure _ => true
  | .getTdispVersion _ => true
  | .getTdispCapabilities _ => true
  | .lockInterfaceRequest _ => true
  | .getDeviceInterfaceReport _ => true
  | .getDeviceInterfaceState _ => true
  | .startInterfaceRequest _ => true
  | .stopInterfaceRequest _ => true
  | .idcode => true
  | .samplePreload _ => true
  | .extest => true
  | .clamp => true
  | .highz => true
  | .extestPulse => true
  | .extestTrain => true
  | .bypass => true
  | .tapReset => true
  | .mshHalfStatusRead _ => true
  | .mshParkedCntRead => true
  | .memChCorrRead _ => true
  | .memChRetryRead _ => true
  | .memChPoisonRead _ => true
  | .xltFqStatusRead _ => true
  | .xltStatusRead => true
  | .queSqStatusRead _ => true
  | .queEvStatusRead _ => true
  | .fncWaitsRead => true
  | .setStatusRead _ => true
  | .lktLatValRead _ => true
  | .trbPortFecRead _ => true
  | .trbPortLinkRead _ => true
  | .trbPortDropRead _ => true
  | .trbPortTestRead _ => true
  | .pwrStatusRead => true
  | .pwrStaggerRead => true
  | .pwrModelRead => true
  | .pwrCoreStatusRead _ => true
  | .mgtFwStatusRead => true
  | .mgtLogStatusRead => true
  | .memBistFailRead _ => true
  | .registerWrite _ off size _ => pieceOk (2 ^ 26) off size
  | .badFlit _ overlap _ => overlap.val == 0 || decide (3 ≤ overlap.val)
  | .badpkt _ _ => true
  | .hostReadCompletion _ _ _ => true
  | .decridRestartComplete => true
  | .noreflectTimeout _ => true

end Sys2Proof
end

