-- ==== Sys2Proof/Tests/Slice0.lean ====
section
/-! SUPPORT. Tests: ill-formed commands that Instr.wf refuses, small checks whose expected values are worked out by hand from the
manual's rules, and for each statement a state and operands that meet its hypotheses (a clause of its own for each clause). -/

set_option Elab.async false
set_option maxRecDepth 100000

namespace Sys2Proof.Tests
open Sys2Proof Sys2Proof.Machine

/-! ## A small working module -/

/-- A descriptor from its opcode and its fields (byte, value) (R328). -/
def desc (op : Nat) (l : List (Nat × Nat)) : BitVec 512 := BitVec.ofNat 512 (l.foldl (fun a f => a + f.2 <<< (8 * f.1)) op)

/-- Reset, with the host link trained at 64 GT/s x16. -/
def linked : State := { State.reset with que := { State.reset.que with link := { rate := 6, width := 16, flit := true, sris := false } } }

/-- Setting 0: two local cores, a region of channel 0. -/
def map0 : SetCopy := { hdr := 0x20001, rgn := 1, core := [(0, 0x80000000), (1, 0x80000001)] }

/-- Locket 0 with cores 0, 1 and channel 0, Setting 0, context 5, and queue 0 with its completion ring running. -/
def world : State :=
  { linked with
    sets := [(0, { active := map0 })]
    lkt := { slots := [(0, { active := { valid := true, tag := 5, cores := 3, chans := 1 }, state := 1 })] }
    mem := { chans := [(0, { state := 1 })] }
    fnc := { ctxs := [(5, { state := 1, set := 0, root := 1, saveVa := 0x10000, saveN := 2 })] }
    que := { linked.que with
      sqs := [(0, { enable := true, state := 1, kernel := true, prod := 4, cons := 1 })]
      cqs := [(0, { ring := { enable := true, base := 0x1000 }, reserved := 1 })] } }

/-- The world with one descriptor ready at the head of queue 0. -/
def withDesc (op : Nat) (l : List (Nat × Nat)) : State :=
  { world with que := { world.que with
    sqs := [(0, { enable := true, state := 1, kernel := true, prod := 4, cons := 1, descs := [{ idx := 0, data := desc op l, phase := .ready }] })] } }

/-- A task of context 5 on core 0. -/
def task0 : Task :=
  { tid := 1, launcher := .desc 0 0, idx := 0, count := 1, ctx := 5, locket := 0, set := 0, vcore := 0, priv := false, facet := 0, prio := 3
    pf := false, st := .onCore, slot := some 0, core := 0 }
/-- Its core: a bundle of one scalar slot ADD g1, g2, 5 at the start of a loaded block (R64, R120). -/
def core0 : Core :=
  { arch := { winLimit := 0x400, g := [(2, 7)] }, task := some 1, phase := 1, loaded := [0]
    im := [(0, 1), (16, 1), (17, 1), (18, 2), (20, 1), (24, 5)] }
/-- The world with that task running. -/
def running : State := { world with tasks := [task0], cores := [(0, core0)] }

/-! ## Well-formedness -/

theorem wf_refuses_transmission_count : (Instr.channelRequest ⟨0, 1⟩ { rdErrs := [[0, 0, 0, 0, 0, 0]] }).wf = false := by decide
theorem wf_refuses_error_bits : (Instr.fenceSignal 0 { wrErrs := [[2 ^ 528]] }).wf = false := by decide +kernel
theorem wf_refuses_walk_count : (Instr.rangeWalkStep 0 { poisonFails := [9] }).wf = false := by decide
theorem wf_refuses_create_count : (Instr.fenceCreate 0 { rdErrs := [[], [1, 1, 1, 1, 1, 1]] }).wf = false := by decide
theorem wf_refuses_poll_count : (Instr.fencePoll 0 { wrErrs := [[0, 1, 2, 3, 4, 5]] }).wf = false := by decide
theorem wf_refuses_move_sectors : (Instr.moveJobComplete 0 0 { us := 0, sectors := [{ sec := 0, rdErrs := [1, 1, 1, 1, 1, 1] }] }).wf = false
    ∧ (Instr.moveJobComplete 0 0 { us := 0, sectors := [{ sec := 0x4800000, wrErrs := [1] }] }).wf = false := by decide +kernel
theorem wf_refuses_overlap : (Instr.badFlit 0 2 0).wf = false ∧ (Instr.badFlit 0 0 0).wf = true ∧ (Instr.badFlit 0 3 0).wf = true := by decide
theorem wf_refuses_half_flit_rate : (Instr.pcieLinkTrained { rate := 6, width := 16, flit := false, sris := false }).wf = false := by decide
theorem wf_refuses_doorbell_page : (Instr.doorbell 1 128 0 4 0).wf = false := by decide
theorem wf_refuses_doorbell_size : (Instr.doorbell 0 0 0 9 0).wf = false := by decide
theorem wf_refuses_event_ring : (Instr.msixModerationTimeout 1 33).wf = false := by decide
theorem wf_refuses_link_width : (Instr.pcieLinkTrained { rate := 6, width := 3, flit := true, sris := false }).wf = false := by decide
theorem wf_refuses_reset_cause : (Instr.moduleReset 0).wf = false := by decide
theorem wf_refuses_bist_core : (Instr.moduleResetComplete [192] [] 0).wf = false := by decide
theorem wf_refuses_bist_channel : (Instr.powerUpComplete [] [128]).wf = false := by decide
theorem wf_refuses_overrun_core : (Instr.overrun 1 192 [] 0).wf = false := by decide
theorem wf_refuses_bar4_length : (Instr.bar4Access 0 true 4 [0] 0).wf = false := by decide
theorem wf_refuses_token : (Instr.debugUnlock 1 [] 0).wf = false ∧ (Instr.retireLift 1 [] 0).wf = false := by decide
theorem wf_refuses_register_size : ∀ w v, (Instr.registerWrite w 0 0 v).wf = false := fun _ _ => rfl
theorem wf_refuses_empty_firmware : (Instr.requestFirmwareData 0 [] true).wf = false := by decide
theorem wf_accepts : (Instr.doorbell 0 1023 0 4 7).wf = true ∧ (Instr.overrun 0 4095 [3] 200).wf = true ∧ (Instr.bundleIssue 0 0).wf = true := by
  decide


/-! ## Witnesses: for each statement with hypotheses, states and operands that meet them, clause by clause -/

/-- Reset with the west half as given. -/
def westHalf (x : Half) : State := { State.reset with mesh := { west := x } }
/-- A core that has nothing on it, or what is given, as core 0 of the running world. -/
def runningWith (c : Core) : State := { running with cores := [(0, c)] }
/-- The running world with debug access open to core control. -/
def debugging : State := { runningWith { core0 with stop := true } with mgt := { dbgState := 1, dbgScope := 2 } }
/-- A tile operation on array 1 of core 0. -/
def withArray (ph : ArrPhase) (desc : Nat) : State :=
  runningWith { core0 with arrays := [(1, { phase := ph, op := some { desc := desc, off := 0, pc := 0, cntA := (5, 5, 5) } })] }
/-- An operation whose descriptor has a fallback copy of A. -/
def escalating : TileOp := { desc := 8 + 8 <<< 8 + 1 <<< 16 + 1 <<< 384, off := 0, pc := 0, snap := [(0, 0x7F)] }
/-- The world with one task that waits, or is as given. -/
def withTask (t : Task) : State := { world with tasks := [t] }
def task1 : Task := { task0 with st := .waiting, slot := none, core := 0xFFFF }
/-- A request of task 1 in flight. -/
def req0 (kind : ReqKind) (place : Place) : Req :=
  { rid := 9, src := .op 1 0 0 0, kind := kind, place := place, dpa := 0, len := 64, data := List.replicate 64 1, locket := 0, ctx := 5
    source := coreStop 0, dest := chanStop 0 }
def inFlight (r : Req) : State := { running with mem := { running.mem with inflight := [r] } }
/-- Its answer. -/
def answer0 (status : Nat) : Answer :=
  { req := { req0 .read (.chan 0 0) with len := 8 }, status := status, data := List.replicate 8 1, from' := chanStop 0 }
def op0 (op : Nat) : StreamOp := { seq := 0, op := op, pc := 0, slot := 5, va := 0, size := 8, dst := 3, out := [(0, 0)] }
def answered (status op : Nat) : State :=
  { running with
    tasks := [{ task0 with ops := [op0 op] }]
    mem := { running.mem with answers := [answer0 status] } }
/-- A copy job. -/
def job0 : Job :=
  { jid := 4, ce := 0, q := 0, idx := 1, ctx := 5, locket := 0, set := 0, facet := 0, priv := false, fn := 0, srcKind := 1, dstKind := 0
    src := 0, dst := 0, len := 64, reads := [0] }
def withJob (j : Job) : State := { running with mem := { running.mem with jobs := [j] } }
/-- A walk of core 0. -/
def withWalk (st : WalkStage) (far : List RangeEnt) : State :=
  { running with xlt := { farWest := far, walks := [(0, some { stage := st, va := 0x1000, who := .task 1, ctx := 5 })] } }
/-- The world whose queue 0 is as given. -/
def withSq (x : Sq) : State := { world with que := { world.que with sqs := [(0, x)] } }
def sq0 : Sq := { enable := true, state := 1, kernel := true, prod := 4, cons := 1 }
/-- A channel 0 as given. -/
def withChan (c : Chan) : State := { world with mem := { chans := [(0, c)] } }
/-- Setting 0 as given. -/
def withSetting (op : Nat) (l : List (Nat × Nat)) (x : Setting) : State := { withDesc op l with sets := [(0, x)] }
/-- Slot 0 as given. -/
def withSlot (x : Slot) : State := { world with lkt := { slots := [(0, x)] } }
def slot0 : Slot := { active := { valid := true, tag := 5, cores := 3, chans := 1 }, state := 1 }
/-- Reset in the pool role with one channel, whose record of block 1 is as given. -/
def pooled (r : HomeRec) : State :=
  ({ withSlot slot0 with pool := { state := 2, chans := [1], recs := [] } } : State).setHomeRec 1 r
/-- A port that is UP, with its traffic as given. -/
def port0 : Port := { en := true, state := 3, lanes := 2 }
def withPort (x : Port) (d : PortDyn) : State := { world with trb := { ports := [(0, x)], dyn := [(0, d)], kxM1 := 1 } }
def flit0 (kind seq : Nat) : Flit := { kind := kind, seq := seq, body := List.replicate 240 0 }
/-- A packet that has arrived at port 0. -/
def pkt0 (kind dst tag : Nat) : Packet := { pkind := kind, dst := dst, src := 1, tag := tag, budget := 100, payload := List.replicate 16 0 }
def arrived0 (k : Packet) : Arrived := { pid := 3, port := 0, vc := 0, hold := 2, units := 1, pkt := k }
def withPacket (k : Packet) : State :=
  { world with trb := { ports := [(0, port0)], kxM1 := 1, arrived := [arrived0 k], keys := [(5, { cur := some { gen := 0, key := 7 } })] } }
/-- A finished session of the BMC, and one of the owner. -/
def session0 (t : Transport) (k : Option (BitVec 256)) : Session := { sid := 1, transport := t, finished := true, key := k }
def withSession (x : Session) (m : Mgt) : State := { State.reset with mgt := { m with sessions := [x] } }
/-- An outstanding fault of context 5. -/
def fault0 : OutEnt :=
  { entry := 0, gen := 1, waiters := [.task 1]
    fault := { fid := 1, engine := 0, who := .task 1, ctx := 5, locket := 0, kind := 1, access := 0, priv := false, va := 0x1000, pos := 0xFFFF
               key := (0, 0, 0, 0), pc := 0 } }
/-- Slot 1 with a shadow copy of tag `t` over core 2 and channel 3, beside slot 0. -/
def newLkt (t : Nat) : Lkt := { slots := [(0, slot0), (1, { shadow := { valid := true, tag := t, cores := 4, chans := 8, share := [(0, 1)] } })] }
/-- The world with the arguments of a fence command at a record offset. -/
def fencing (off : Nat) : State := { withChan { state := 1, scrubbed := true } with fnc := { world.fnc with argLocket := 0, argRec := off } }
/-- A descriptor that polls fence 0, and the world it waits in. -/
def polled : Desc := { idx := 0, data := desc 0 [(1, 1), (2, 0xFFFF), (4, 0x10000)], phase := .polling }
def polling (off : Nat) : State :=
  { fencing off with fnc := { world.fnc with fences := [(0, { valid := true, gen := 1, recOff := off })] }
                     que := { world.que with sqs := [(0, { sq0 with descs := [polled] })] } }
/-- A HELLO of the neighbour at port 0. -/
def hello0 : Flit := { kind := 3, body := leBytes 2 1 ++ [BitVec.ofNat 8 (partnerPort 0)] ++ leBytes 2 1 ++ [1] ++ List.replicate 234 0 }
/-- Two pending sources of target 0, and one of them active. -/
def sourced : State :=
  { State.reset with int := {
      srcs := [(3, { prio := 9, target := 0, enable := true, pend := true }), (7, { prio := 4, target := 0, enable := true, pend := true })]
      tgts := [(0, { enable := true })] } }
def stacked (c : Option (Nat × Nat × Bool)) : State :=
  { State.reset with int := { srcs := [(7, { prio := 4, target := 0, enable := true, active := true, newCfg := c })]
                              tgts := [(0, { enable := true, stack := [(7, 4)] })] } }
/-- Queue 0 of function `f` with a begun descriptor. -/
def begunDesc (op : Nat) (l : List (Nat × Nat)) : Desc := { idx := 0, data := desc op l, phase := .running, begun := true }
def begun (f op : Nat) (l : List (Nat × Nat)) : State := withSq { sq0 with func := f, descs := [begunDesc op l] }
/-- The world with two VFs and an enabled stream of VF 1. -/
def vfWorld : State := { world with que := { world.que with vfEnable := true, numVfs := 2, vfMse := true }, mgt := { ide := [(1, some 0)] } }

/-- The world with a level-1 entry, a bucket of one range and a save area of zeros behind it. -/
def mapped : State :=
  withChan { state := 1, scrubbed := true, mem := [(0, 0x03), (1, 0x10), (4096, 1), (4104, 1), (4108, 0x30)] }
/-- A request of task 1 in flight to a channel 0 as given. -/
def inDram (r : Req) (c : Chan) : State := { running with mem := { chans := [(0, c)], inflight := [r] } }
def clean0 : Chan := { state := 1, scrubbed := true }
/-- Setting 0 with a move of channel 0 to channel 1 waiting in its shadow copy, and a SET_SWAP for it. -/
def moving : State :=
  { withSetting 0x20 [] { active := map0, shadow := { map0 with chan := [(0, 0x81)] } } with
    lkt := { slots := [(0, { active := { valid := true, tag := 5, cores := 3, chans := 3 }, state := 1 })] }
    mem := { chans := [(0, { state := 1 }), (1, { state := 1 })] } }
/-- The world with that move begun, its source and its destination as given. -/
def moving1 (a b : Chan) : State :=
  { world with mem := { chans := [(2, a), (3, b)], moves := [{ set := 0, index := 1, src := 2, dst := 3 }] } }
/-- The world with a descriptor of opcode `op` ready, and slot 0 as given. -/
def slotDesc (op : Nat) (l : List (Nat × Nat)) (x : Slot) : State := { withDesc op l with lkt := { slots := [(0, x)] } }
def load0 (cores : List Nat) : CodeLoad := { lid := 4, launcher := .desc 0 1, cores := cores, off := 0, len := 64, ctx := 5, locket := 0 }
def loading (cores : List Nat) (j : Job) : State := { withJob j with que := { running.que with loads := [load0 cores] } }
def ready0 (op : Nat) (l : List (Nat × Nat)) : Desc := { idx := 0, data := desc op l, phase := .ready }
/-- The world whose completion ring 0 is as given. -/
def withCq (x : CqRing) : State := { world with que := { world.que with cqs := [(0, x)] } }
def arriving (op : Nat) (l : List (Nat × Nat)) : Desc := { idx := 1, data := desc op l }
/-- The same while a move to channel 0 of a map that has become active is not over, with the wait ready to be registered. -/
def heldWait : State :=
  { polling 0 with sets := [(0, { active := map0, phase := 3 })], mem := { chans := [(0, clean0)], moves := [{ set := 0, index := 0, src := 5, dst := 0 }] } }
/-- A lease of block 3 of module 0, and a lease command for it. -/
def lease0 (state : Nat) : Lease := { pool := 0, block := 3, locket := 0, gen := 1, state := state }
def leaseCmd0 (op stage : Nat) : LeaseCmd := { op := op, block := 3, pool := 0, locket := 0, target := 0, stage := stage }
def leasing (l : List Lease) (c : Option LeaseCmd) : State := { world with pool := { leases := l, cmd := c } }
/-- Reset with a queue block as given. -/
def withQue (x : Que) : State := { State.reset with que := x }
/-- The world with a packet at port 0 whose tag is retired. -/
def withRetired (k : Packet) : State := { withPacket k with trb := { (withPacket k).trb with retired := [5] } }
/-- The world with the module key installed, and port 0 UP. -/
def keyed : State := { withPort port0 {} with trb := { (withPort port0 {}).trb with keys := [(0, { cur := some { gen := 0, key := 7 } })] } }
def tracked0 (p : Purpose) : Tracked := { reqid := 0, dst := 1, purpose := p, pkt := pkt0 0x20 1 0 }
/-- The world with one more request in flight, ahead of the others. -/
def ahead (r : Req) (s : State) : State := { s with mem := { s.mem with inflight := r :: s.mem.inflight } }
/-- A packet with the authentication tag of its ciphertext under a key (R483). -/
def tagged (k : Packet) (key : BitVec 256) : Packet :=
  { k with auth := BitVec.ofNat 128 (leNat (beBytes 16 (gcmTag (gcmKeys key) (packetIv k.src k.ivp k.nonce).toNat (k.header 0) k.payload))) }
/-- Such a packet under the world's key of its tag. -/
def sealedPkt (kind : Nat) : Packet := tagged (pkt0 kind 0 5) 7
/-- A finished session over the PF's DOE (R586). -/
def vfSession : State := { vfWorld with mgt := { vfWorld.mgt with sessions := [session0 .doe none] } }
/-! ## Checks worked out by hand -/

/-- A test of the state that a command leaves. -/
def after (o : Res) (p : State → Bool) : Bool :=
  match o with
  | .next u => p u
  | _ => false

/-- R49: 192 GB/s for each sixteenth of the slower half. -/
theorem test_seam_capacity : seamCap 16 16 = 3072 ∧ seamCap 4 16 = 768 := by decide
/-- R199: with a list of two channels and 256-byte granules, offset 0x300 lies in the second channel at 0x100. -/
theorem test_interleave : interleave [4, 9] 256 0x300 = (9, 0x100) ∧ interleave [4, 9] 256 0x210 = (4, 0x110) := by decide
/-- R466: CRC-32C of the nine digits is 0xE3069283. -/
theorem test_crc32c : crc32c [0x31, 0x32, 0x33, 0x34, 0x35, 0x36, 0x37, 0x38, 0x39] = 0xE3069283 := by decide +kernel
/-- R65, R120: ADD g1 = g2 + 5 with g2 = 7, and the PC past the two words of the bundle. -/
theorem test_scalar_add : after (exec (.bundleIssue 0 0) running)
    (fun u => (u.core 0).arch.getG 1 == 12 && (u.core 0).arch.pc == 32 && (u.core 0).retire == 1) = true := by decide +kernel
/-- R120: ADD wraps at 64 bits. -/
theorem test_add_wraps : scalarOp 0x01 (BitVec.allOnes 64) 2 = some 1 := by decide
/-- R120: SAR fills with the sign, SHR with zeros. -/
theorem test_shifts : scalarOp 0x08 (BitVec.ofInt 64 (-8)) 1 = some (BitVec.ofInt 64 (-4)) ∧ scalarOp 0x07 (BitVec.ofInt 64 (-8)) 60 = some 15 := by decide
/-- R535: the acknowledged source is the lowest PRIO. -/
theorem test_ack : after (exec (.intTgtAck 0) sourced)
    (fun u => u.lastRead == 7 && (u.intTgt 0).stack == [(7, 4)] && (u.intSrc 7).active && (u.intSrc 3).pend) = true := by decide +kernel
/-- R525: CAP_W reads 0x230 and PEAK_W 0x334 after reset. -/
theorem test_reset_caps : State.reset.pwr.capW = 0x230 ∧ State.reset.pwr.peakW = 0x334 := by decide
/-- R320: a doorbell of 5 with PROD 4 and CONS 1 is taken. -/
theorem test_doorbell : after (exec (.doorbell 0 0 0 4 5) world) (fun u => (u.sq 0).prod == 5) = true := by decide +kernel
/-- R321: one beyond CONS plus the size is not. -/
theorem test_doorbell_bad : after (exec (.doorbell 0 0 0 4 66) world) (fun u => (u.sq 0).dbBad && (u.sq 0).prod == 4) = true := by
  decide +kernel
/-- R606: IDCODE. -/
theorem test_idcode : after (exec .idcode State.reset) (fun u => u.lastRead == 0x109A5537) = true := by decide +kernel
/-- R206: a sector written is read back, and a neighbour stays zero after a scrub. -/
theorem test_dram : ((({} : Chan).scrubbedClean.store 2 (List.replicate 64 7) false).sector 0 2 = List.replicate 64 7)
    ∧ ((({} : Chan).scrubbedClean.store 2 (List.replicate 64 7) false).sector 0 3 = List.replicate 64 0) := by decide +kernel
/-- R21: bytes in little-endian order. -/
theorem test_little_endian : leBytes 4 0x11223344 = [0x44, 0x33, 0x22, 0x11] ∧ leNat [0x44, 0x33, 0x22, 0x11] = 0x11223344 := by decide
/-- R367: a signal raises V; one below it regresses. -/
theorem test_fence : (fenceApply (.signal 5 0) (FenceRec.decode [3])).1.v = 5 ∧ (fenceApply (.signal 2 0) (FenceRec.decode [3])).2.1 = 1 := by
  decide +kernel
/-- R417: GEN skips 0. -/
theorem test_gen : leaseGen 0xFFFFFFFF = 1 := by decide
/-- R499: SKIP 8 halves 1.0 GHz. -/
theorem test_effective : ({ State.reset with pdyn := { cores := [(0, { skip := 8 })] } } : State).effective 0 = 0x14 := by decide +kernel
/-- R267: the walk of a VA in the first range of the first slice finds its entry. -/
theorem test_walk : (walkRead mapped { ctx := 5, locket := 0, facet := 0, half := 0 } 1 0x10000 (.probe 1 1 0 1 none []) {}).2
    = .found { ctx := 5, lo := 1, hi := 0x3000000001 } := by decide +kernel
/-- R262, R272: VA 0x10040 of the range lies at DPA 0x10040. -/
theorem test_dpa : ({ ctx := 5, lo := 1, hi := 0x3000000001 } : RangeEnt).dpa 0x10040 = 0x10040 := by decide

/-- R202: the CRC of the bond over the nine digits, divided out by hand: polynomial 0x8BB7, initial value 0xFFFF, most significant bit first. -/
theorem test_crc16 : crc16 [0x31, 0x32, 0x33, 0x34, 0x35, 0x36, 0x37, 0x38, 0x39] = 0x8e3c := by decide +kernel
/-- R213: a command for the first sector of a read of two leaves the second to be performed. -/
theorem test_one_sector : after (exec (.channelRequest ⟨9, 1⟩ {}) (inDram { req0 .read (.chan 0 0) with len := 128 } clean0))
    (fun u => u.mem.answers.isEmpty && (u.mem.inflight.map (fun r => r.parts.map (fun p => p.1))) == [[0]]) = true := by decide +kernel
/-- R207: a sector whose read comes poisoned is not stored in a window, which answers POISON (log 41). -/
theorem test_poison_window : after (exec (.windowAccess ⟨9, 15⟩) (inFlight (req0 (.write true) (.window 0 0))))
    (fun u => (u.core 0).tm == [] && (u.mem.answers.map (fun a => a.status)) == [stPOISON]) = true := by decide +kernel
/-- R53: a clock asked for by RATE carries cause 0. -/
theorem test_rate_cause : after (exec (.meshRateWrite 0 8) State.reset) (fun u => u.mesh.west.want == some 8 && u.mesh.west.wantCause == 0) = true := by
  decide +kernel
/-- R436: 100 GB/s at 64 GT/s and 16 lanes; half the lanes carry half. -/
theorem test_link_capacity : linkCap { rate := 6, width := 16, flit := true, sris := false } = 1000
    ∧ linkCap { rate := 6, width := 8, flit := true, sris := false } = 500 := by decide
theorem wit_MeshesAndHalves :
    (westHalf {}).pfAnswers = true
    ∧ (westHalf {}).pdyn.trip = false
    ∧ ({ ({} : Half) with rate := 16 } : Half).target = ({} : Half).rateEff
    ∧ ({ ({} : Half) with rate := 4 } : Half).target ≠ ({} : Half).rateEff
    ∧ ((westHalf { want := some 8 }).half 0).want = some 8
    ∧ (westHalf { want := some 8 }).mesh.cap = seamCap 16 16
    ∧ (westHalf {}).boundIn 0 = none
    ∧ world.boundIn 0 = some 0
    ∧ (world.half 0).state = 0
    ∧ ((westHalf { state := 2 }).half 0).state = 2
    ∧ ((westHalf { state := 1 }).half 0).state = 1
    ∧ ((westHalf { state := 1 }).half 0).heldPark = none
    ∧ (∀ c, c < 128 → chanHalf c = 0 → ((westHalf { state := 1 }).chan c).state ≠ 2)
    ∧ ((westHalf { state := 3 }).half 0).state = 3 := by decide +kernel

theorem wit_MeshesAndHalves_2 :
    (({ State.reset with pdyn := { trip := true } } : State).pfAnswers = true ∧ ({ State.reset with pdyn := { trip := true } } : State).pdyn.trip = true)
    ∧ ({ ({} : Half) with rate := 4, want := some 4 } : Half).want = some ({ ({} : Half) with rate := 4 } : Half).target
    ∧ ((4 : BitVec 5).toNat = 4 ∧ (16 : BitVec 5).toNat = 16 ∧ (3 : BitVec 5).toNat < 4 ∧ 16 < (17 : BitVec 5).toNat)
    ∧ (((westHalf { want := some 16 }).half 0).want = some (State.reset.half 0).rateEff ∧ (8 : Nat) ≠ (State.reset.half 0).rateEff)
    ∧ (State.reset.half 0).want = none
    ∧ (((westHalf { state := 1, heldPark := some false }).half 0).heldPark = some false ∧ ((westHalf { state := 1, heldPark := some false }).half 0).state = 1)
    ∧ (∃ c, c < 128 ∧ chanHalf c = 0 ∧ (({ westHalf { state := 1 } with mem := { chans := [(0, { state := 2 })] } } : State).chan c).state = 2)
    ∧ ((westHalf { state := 1 }).acceptedOut 0 = false ∧ (westHalf { state := 1 }).xlt.heldQueue = [] ∧ (westHalf { state := 1 }).xlt.heldTable = [])
    ∧ ({ westHalf { state := 1 } with mem := { inflight := [{ req0 .read (.chan 0 0) with accepted := true }] } } : State).acceptedOut 0 = true
    ∧ (∃ r ∈ (acceptReqs (inFlight { req0 .read (.chan 0 0) with parts := [(0, [])] }) 0).mem.inflight, r.place.half = some 0 ∧ r.parts ≠ []) := by decide +kernel

theorem wit_BundlesRun :
    running.coreTask 0 = some task0
    ∧ task0.err = none
    ∧ (running.core 0).phase = 1
    ∧ debugging.coreDebug = true
    ∧ debugging.pfAnswers = true
    ∧ debugging.coreTask 0 = some task0
    ∧ (runningWith { core0 with arch := { core0.arch with pc := 0x3F8 } }).coreTask 0 = some task0
    ∧ ({ core0 with arch := { core0.arch with pc := 0x3F8 } } : Core).fetchable 0x3F8 16 = false
    ∧ core0.fetchable 0 16 = true
    ∧ core0.fetchable 0 32 = true
    ∧ issueCycle core0 task0 (fetchBundle core0.im 0) = some 0
    ∧ issueCycle core0 { task0 with ops := [op0 0x10] } (fetchBundle ((core0.im.write 18 3)) 0) = none
    ∧ (bundleCause (core0.settleCrw 0).arch core0.tm false (fetchBundle core0.im 0)).1 = 0
    ∧ bundleCause (core0.settleCrw 0).arch core0.tm false (fetchBundle (core0.im.write 16 0x7F) 0) = (0x01, 1) := by decide +kernel

theorem wit_BundlesRun_2 :
    task0.ops = []
    ∧ core0.crw = []
    ∧ core0.arch.loops = []
    ∧ imWord core0.im 0 = 1
    ∧ (scalarInfo (imWord core0.im 16)).bad = false
    ∧ slotOp (imWord core0.im 16) = 1
    ∧ scImmf (imWord core0.im 16) = true
    ∧ scalarOp 1 (core0.arch.getG 2) 5 = some 12
    ∧ (running.coreTask 1 = none ∧ (running.core 1).stop = false)
    ∧ (running.coreDebug = false ∧ (running.core 0).stop = false)
    ∧ ((runningWith { core0 with phase := 4 }).coreTask 0 = some task0 ∧ ((runningWith { core0 with phase := 4 }).core 0).phase ≠ 1) := by decide +kernel

theorem wit_TileOperations :
    ((withArray .direct 0).core 0).array 1 = { phase := .direct, op := some { desc := 0, off := 0, pc := 0, cntA := (5, 5, 5) } }
    ∧ ((withArray .first 0).core 0).array 1 = { phase := .first, op := some { desc := 0, off := 0, pc := 0, cntA := (5, 5, 5) } }
    ∧ (TileDesc.ofWord 0).fbA = 0
    ∧ (TileDesc.ofWord 0).fbB = 0
    ∧ (((withArray .second 0).core 0).array 1).phase = .second
    ∧ ((TileDesc.ofWord escalating.desc).fbA ≠ 0 ∧ operandExceeds (takeCounts { core0 with tm := [(0, 0x7F)] } escalating) false = true)
    ∧ (((runningWith core0).core 0).array 1).op = none
    ∧ (TileDesc.ofWord escalating.desc).fbB = 0
    ∧ (((withArray .ramping 0).core 0).array 1 ≠ {} ∧ (((withArray .ramping 0).core 0).array 1).phase ≠ .first ∧ (((withArray .ramping 0).core 0).array 1).phase ≠ .direct ∧ (((withArray .ramping 0).core 0).array 1).phase ≠ .second) := by decide +kernel

theorem wit_ArraysRampAndRest :
    ((withArray .ramping 0).core 0).array 1 = { phase := .ramping, op := some { desc := 0, off := 0, pc := 0, cntA := (5, 5, 5) } }
    ∧ (((runningWith { core0 with arrays := [(1, { phase := .ended })] }).core 0).array 1).phase = .ended
    ∧ (((runningWith { core0 with arrays := [(1, { phase := .gated })] }).core 0).array 1).phase = .gated
    ∧ (0, 1) ∈ (({ running with pwr := { requests := [(0, 1)] } } : State).pwr.requests.take 24)
    ∧ (((running.core 0).array 1).op = none ∧ ((running.core 0).array 1).phase ≠ .ended ∧ ((running.core 0).array 1).phase ≠ .gated ∧ ((running.core 0).array 1).phase ≠ .ramping)
    ∧ (State.reset.pdyn.peak = false ∧ ({ State.reset with pdyn := { peakSkip := 1 } } : State).pdyn.peakSkip ≠ 0) := by decide +kernel

theorem wit_TasksStartAndEnd :
    (withTask task1).task? 1 = some task1
    ∧ task1.st = .waiting
    ∧ (withTask task1).placeOf task1 = some 0
    ∧ (withTask task1).coreOfV task1.set 0 = some 0
    ∧ (withTask task1).coreFree 0 = true
    ∧ (withTask task1).turn task1 0 = true
    ∧ (upto ((withTask task1).ctx 5).saveN).find? (fun i => !((withTask task1).ctx 5).used.contains i) = some 0
    ∧ (runningWith { core0 with phase := 4 }).coreTask 0 = some task0
    ∧ (∀ a, a < 4 → (((runningWith { core0 with phase := 4 }).core 0).array a).op = none)
    ∧ task0.st ≠ .waiting
    ∧ (({ withTask task1 with cores := [(0, core0)] } : State).coreFree 0 = false ∧ ({ withTask task1 with cores := [(0, core0)] } : State).placeOf task1 = some 0)
    ∧ ({ world with tasks := [task1, { task1 with tid := 2, prio := 0 }] } : State).turn task1 0 = false
    ∧ ((running.core 0).phase ≠ 4 ∧ (runningWith { core0 with phase := 4 }).coreTask 0 = some task0 ∧ task0.ops = [])
    ∧ ({ task0 with ops := [op0 0x10] } : Task).ops ≠ [] := by decide +kernel

theorem wit_TasksStartAndEnd_2 :
    (∃ a, a < 4 ∧ (({ withArray .direct 0 with } : State).core 0).array a ≠ {}) := by decide +kernel

theorem wit_TasksSwitch :
    running.coreTask 0 = some task0
    ∧ (∃ w, w ∈ ({ running with tasks := [task0, { task1 with tid := 2 }] } : State).tasks ∧ w.tid ≠ 1 ∧ ({ running with tasks := [task0, { task1 with tid := 2 }] } : State).fits w 0 = true ∧ w.prio ≤ task0.prio)
    ∧ (∀ w, w ∈ running.tasks → w.tid ≠ task0.tid → running.fits w 0 = true → task0.prio < w.prio)
    ∧ ((runningWith { core0 with phase := 2 }).core 0).phase = 2
    ∧ ((runningWith { core0 with phase := 5, drained := true }).core 0).phase = 5
    ∧ ((runningWith { core0 with phase := 5, drained := true }).core 0).drained = true
    ∧ (runningWith { core0 with phase := 3 }).coreTask 0 = some task0
    ∧ (withTask { task1 with st := .runnable, slot := some 0 }).task? 1 = some { task1 with st := .runnable, slot := some 0 }
    ∧ (withTask { task1 with st := .runnable, slot := some 0 }).coreFree 0 = true
    ∧ (withTask { task1 with st := .runnable, slot := some 0 }).turn { task1 with st := .runnable, slot := some 0 } 0 = true
    ∧ ((withSlot { slot0 with active := { slot0.active with preempt := true } }).preempted 0 task0 = false ∧ running.misplaced task0 = false ∧ running.preempted 0 task0 = false)
    ∧ ({ running with sets := [(0, { active := { map0 with core := [(0, 0x80000001)] } })] } : State).misplaced task0 = true
    ∧ (({ task0 with ops := [{ op0 0x10 with out := [] }] } : Task).readsOut = false ∧ ({ task0 with ops := [op0 0x10] } : Task).readsOut = true)
    ∧ (readImage mapped { task0 with image := [(0, 64, List.replicate 64 0)] } 64).2 = (.ok, List.replicate 64 0) := by decide +kernel

theorem wit_TasksSwitch_2 :
    (readImage (withChan { state := 4 }) { task0 with image := [(0, 64, List.replicate 64 0)] } 64).2.1 = .failed
    ∧ (writeImage mapped { task0 with slot := some 0 } (List.replicate 64 0)).2 = .ok
    ∧ (writeImage (withChan { state := 4 }) { task0 with slot := some 0 } (List.replicate 64 0)).2 = .failed
    ∧ ({ task0 with err := some (0x20, 0, 5, 0) } : Task).err = some (0x20, 0, 5, 0)
    ∧ ((withTask task1).task? 1 = some task1 ∧ task1.st ≠ .runnable)
    ∧ ({ running with tasks := [{ task1 with st := .runnable, slot := some 0 }] } : State).coreFree 0 = false := by decide +kernel

theorem wit_WalksStallsAndStops :
    (running.core 0).phase = 1
    ∧ running.rst.retireLog2 ≠ 0
    ∧ ({ running with rst := { retireLog2 := 0 } } : State).rst.retireLog2 = 0
    ∧ ({ running with tasks := [{ task0 with ops := [{ op0 0x18 with tag := 3 }] }] } : State).coreTask 0 = some { task0 with ops := [{ op0 0x18 with tag := 3 }] }
    ∧ [{ op0 0x18 with tag := 3 }].find? (fun o => o.isDma && o.tag == 3 && !o.out.isEmpty) = some { op0 0x18 with tag := 3 }
    ∧ (withJob job0).job? 4 = some job0
    ∧ job0.quiet = false
    ∧ debugging.coreDebug = true
    ∧ running.coreDebug = false
    ∧ (withWalk .lookup []).walk 0 = some { stage := .lookup, va := 0x1000, who := .task 1, ctx := 5 }
    ∧ findRange ((withWalk .lookup [{ ctx := 5, lo := 1, hi := 0x10 }]).far 0) 5 0x1000 = findRange [{ ctx := 5, lo := 1, hi := 0x10 }] 5 0x1000
    ∧ findRange ((withWalk .lookup []).far 0) 5 0x1000 = none
    ∧ rootOut ((withWalk .lookup []).ctx 5).root.toNat 0x1000 = none
    ∧ (walkRead mapped { ctx := 5, locket := 0, facet := 0, half := 0 } 1 0x10000 .level1 {}).2 = .need (.probe 1 1 0 1 none []) := by decide +kernel

theorem wit_WalksStallsAndStops_2 :
    (walkRead (withChan { state := 4 }) { ctx := 5, locket := 0, facet := 0, half := 0 } 1 0x10000 .level1 {}).2 = .fault 5 0xFFFF
    ∧ rootOut 0 0x1000 = some (.fault 8 0xFFFF)
    ∧ (({ job0 with reads := [] } : Job).quiet = true ∧ (withJob { job0 with reads := [] }).job? 4 = some { job0 with reads := [] })
    ∧ (running.walk 0 = none ∧ (withWalk .level1 []).walk 0 = some { stage := .level1, va := 0x1000, who := .task 1, ctx := 5 })
    ∧ (∀ o, o ∈ task0.ops → o.isDma = true → o.tag = 3 → o.out = [])
    ∧ ((State.reset.core 0).phase ≠ 1 ∧ (State.reset.core 0).phase ≠ 2 ∧ (State.reset.core 0).phase ≠ 4)
    ∧ ({ running with pdyn := { trip := true } } : State).coreDebug = false := by decide +kernel

theorem wit_DramAnswersWhatItHolds :
    ((List.replicate 64 (7 : BitVec 8)).length = 64 ∧ world.chanError 0 = none ∧ (world.chan 0).fences.contains 2 = false ∧ (world.chan 0).inj = 0)
    ∧ ((inDram (req0 .read (.chan 0 0)) clean0).nextReq 9 = some (req0 .read (.chan 0 0)) ∧ (req0 .read (.chan 0 0)).kind.isFence = false)
    ∧ ((inDram (req0 .read (.chan 0 0)) { state := 4 }).chanError 0 = some stCHFAIL ∧ (inDram (req0 .read (.chan 0 0)) clean0).chanError 0 = none)
    ∧ ((req0 .read (.chan 0 0)).src = .op 1 0 0 0 ∧ (req0 .read (.chan 0 0)).dropped = false ∧ (req0 .read (.chan 0 0)).len = 64 ∧ (req0 .read (.chan 0 0)).parts = [] ∧ (req0 .read (.chan 0 0)).bad = none ∧ (1 : BitVec 4).getLsbD 0 = true)
    ∧ ((inDram (req0 .read (.chan 0 0)) clean0).mem.held = [] ∧ (inDram (req0 .read (.chan 0 0)) clean0).que.ending = [] ∧ (inDram (req0 .read (.chan 0 0)) clean0).pool.revoking = none ∧ (inDram (req0 .read (.chan 0 0)) clean0).mem.moves = [])
    ∧ (clean0.inj = 0 ∧ clean0.marked 0 0 = false ∧ ({ clean0 with marks := [0] } : Chan).marked 0 0 = true)
    ∧ ((req0 (.write false) (.chan 0 0)).data.length = 64 ∧ clean0.fences.contains 0 = false ∧ ({ clean0 with fences := [0] } : Chan).fences.contains 0 = true)
    ∧ (running.nextReq 9 = none ∧ (inDram (req0 (.signal 5 0) (.chan 0 0)) clean0).nextReq 9 = some (req0 (.signal 5 0) (.chan 0 0)))
    ∧ ((withChan { state := 2, initiator := some 0 }).chan 0).state = 2
    ∧ ((withChan { state := 2, initiator := some 0 }).chan 0).bist = false
    ∧ ((withChan { state := 2, initiator := some 0 }).chan 0).initiator = some 0
    ∧ (∀ e, e ∈ (withChan { state := 2, initiator := some 0 }).que.sqs → ∀ d, d ∈ e.2.descs → d.scrubs.contains 0 = false)
    ∧ ((State.reset.chan 0).state ≠ 2 ∧ ((withChan { state := 2, bist := true }).chan 0).bist = true)
    ∧ ((inDram (req0 .read (.chan 0 0)) clean0).flying 9 = some (req0 .read (.chan 0 0)) ∧ (inDram (req0 .read (.chan 0 0)) clean0).chanError 0 (req0 .read (.chan 0 0)).accepted = none ∧ (inDram (req0 .read (.chan 0 0)) clean0).wholeFree (req0 .read (.chan 0 0)) = true) := by decide +kernel

theorem wit_DramAnswersWhatItHolds_2 :
    ((inDram (req0 .read (.chan 0 0)) clean0).toServe (req0 .read (.chan 0 0)) 0 1 = [0] ∧ (inDram (req0 .read (.chan 0 0)) clean0).toServe (req0 .read (.chan 0 0)) 0 0 = [])
    ∧ ((inDram (req0 .read (.chan 0 0)) { state := 4 }).chanError 0 (req0 .read (.chan 0 0)).accepted = some stCHFAIL ∧ (inDram (req0 .read (.chan 0 0)) { state := 4 }).wholeFree (req0 .read (.chan 0 0)) = true)
    ∧ ((ahead { req0 (.write false) (.chan 0 0) with rid := 8 } (inDram (req0 .read (.chan 0 0)) { state := 4 })).wholeFree (req0 .read (.chan 0 0)) = false ∧ (ahead { req0 (.write false) (.chan 0 0) with rid := 8 } (inDram (req0 .read (.chan 0 0)) { state := 4 })).flying 9 = some (req0 .read (.chan 0 0)))
    ∧ ((inDram (req0 .read (.chan 0 0)) clean0).pool.state ≠ 3 ∧ (req0 (.write false) (.chan 0 0)).kind = .write false)
    ∧ ((inDram (req0 .read (.chan 0 0)) clean0).servesPair (req0 .read (.chan 0 0)) 0 true = true ∧ (inDram (req0 .read (.chan 0 0)) clean0).servesPair (req0 .read (.chan 0 0)) 0 false = true)
    ∧ (((inDram (req0 .read (.chan 0 0)) clean0).chan 0).fences.contains 0 = false ∧ (inFlight (req0 .read (.chan 0 0))).flying 8 = none) := by decide +kernel

theorem wit_SignalsRaiseFences :
    ((5 : Nat) ≤ (5 : BitVec 64).toNat ∧ (5 : BitVec 64).toNat ≠ terminal)
    ∧ (BitVec.allOnes 64).toNat = terminal
    ∧ ({ (FenceRec.decode []) with state := 2 } : FenceRec).state = 2
    ∧ ((inDram (req0 (.signal 5 0) (.chan 0 0)) clean0).nextReq 9 = some (req0 (.signal 5 0) (.chan 0 0)) ∧ (req0 (.signal 5 0) (.chan 0 0)).kind.isFence = true)
    ∧ ((inDram { req0 (.signal 5 0) (.chan 0 0) with src := .desc 0 1 } clean0).nextReq 9 = some { req0 (.signal 5 0) (.chan 0 0) with src := .desc 0 1 } ∧ ({ req0 (.signal 5 0) (.chan 0 0) with src := .desc 0 1 } : Req).dropped = false)
    ∧ ((inDram (req0 .read (.chan 0 0)) clean0).nextReq 9 = some (req0 .read (.chan 0 0)) ∧ (req0 .read (.chan 0 0)).kind.isFence = false)
    ∧ ((req0 (.signal 5 0) (.chan 0 0)).src = .op 1 0 0 0 ∧ ({ (req0 (.signal 5 0) (.chan 0 0)) with src := .desc 0 1, dropped := true } : Req).dropped = true ∧ (inDram { (req0 (.signal 5 0) (.chan 0 0)) with src := .desc 0 1, dropped := true } clean0).nextReq 9 = some { (req0 (.signal 5 0) (.chan 0 0)) with src := .desc 0 1, dropped := true })
    ∧ (inDram { (req0 (.signal 5 0) (.chan 0 0)) with src := .remote 0 0 1 0 5 5 } clean0).nextReq 9 = some { (req0 (.signal 5 0) (.chan 0 0)) with src := .remote 0 0 1 0 5 5 }
    ∧ (ahead { (req0 (.signal 5 0) (.chan 0 0)) with rid := 8 } (inDram (req0 (.signal 5 0) (.chan 0 0)) clean0)).nextReq 9 = none := by decide +kernel

theorem wit_WindowsReachTileMemory :
    (inFlight (req0 .read (.window 0 0))).nextReq 9 = some (req0 .read (.window 0 0))
    ∧ (inFlight (req0 .read (.window 0 0))).windowError (req0 .read (.window 0 0)) 0 0 = none
    ∧ ({ inFlight (req0 .read (.window 0 0)) with mesh := { west := { state := 1 } } } : State).windowError (req0 .read (.window 0 0)) 0 0 = some stPARKED
    ∧ (inFlight (req0 (.atom 0 8 1 2) (.window 0 0))).windowError (req0 (.atom 0 8 1 2) (.window 0 0)) 0 0 = some stDENIED
    ∧ (inFlight (req0 .read (.window 1 0))).windowError (req0 .read (.window 1 0)) 1 0 = some stNOTASK
    ∧ ((req0 .read (.window 0 0)).parts = [] ∧ (req0 .read (.window 0 0)).bad = none ∧ 0 < (req0 .read (.window 0 0)).len ∧ (req0 .read (.window 0 0)).len ≤ 256 ∧ ∀ i, i ∈ (req0 .read (.window 0 0)).places 0 → (15 : BitVec 4).getLsbD i = true)
    ∧ ((inFlight (req0 (.write false) (.window 0 0))).windowError (req0 (.write false) (.window 0 0)) 0 0 = none ∧ (req0 (.write false) (.window 0 0)).data.length = (req0 (.write false) (.window 0 0)).len)
    ∧ ((inFlight (req0 (.write true) (.window 0 0))).windowError (req0 (.write true) (.window 0 0)) 0 0 = none ∧ (inFlight (req0 (.write true) (.window 0 0))).nextReq 9 = some (req0 (.write true) (.window 0 0)))
    ∧ ((inDram (req0 .read (.chan 0 0)) clean0).nextReq 9 = some (req0 .read (.chan 0 0)) ∧ (req0 .read (.chan 0 0)).place = .chan 0 0)
    ∧ ((inFlight (req0 .read (.window 0 0))).flying 9 = some (req0 .read (.window 0 0)) ∧ (inFlight (req0 .read (.window 0 0))).wholeFree (req0 .read (.window 0 0)) = true ∧ (inFlight (req0 .read (.window 0 0))).toServe (req0 .read (.window 0 0)) 0 15 = [0] ∧ (inFlight (req0 .read (.window 0 0))).toServe (req0 .read (.window 0 0)) 0 0 = [])
    ∧ ((ahead { req0 (.write false) (.window 0 0) with rid := 8 } (inFlight (req0 .read (.window 0 0)))).wholeFree (req0 .read (.window 0 0)) = false ∧ (ahead { req0 (.write false) (.window 0 0) with rid := 8 } (inFlight (req0 .read (.window 0 0)))).windowError (req0 .read (.window 0 0)) 0 0 = none ∧ (ahead { req0 (.write false) (.window 0 0) with rid := 8 } (inFlight (req0 .read (.window 0 0)))).flying 9 = some (req0 .read (.window 0 0)))
    ∧ (inFlight { (req0 .read (.window 0 0)) with src := .remote 0 0 1 0 5 5 }).toServe { (req0 .read (.window 0 0)) with src := .remote 0 0 1 0 5 5 } 0 1 ≠ [] := by decide +kernel

theorem wit_EnginesTakeAnswers :
    (answered 0 0x10).mem.answers.find? (fun a => a.req.rid == 9) = some (answer0 0)
    ∧ (answered 0 0x10).nextAnswer (answer0 0) = true
    ∧ ({ answered 0 0x10 with mem := { running.mem with answers := [{ answer0 0 with req := { req0 .read (.chan 0 0) with rid := 8 } }, answer0 0] } } : State).nextAnswer (answer0 0) = false
    ∧ ((answer0 0).req.dropped = false ∧ (answer0 0).req.src = .op 1 0 0 0 ∧ ({ req0 .read (.chan 0 0) with dropped := true } : Req).dropped = true)
    ∧ ((answered 0 0x10).task? 1 = some { task0 with ops := [op0 0x10] } ∧ ([op0 0x10] : List StreamOp).find? (fun o => o.seq == 0) = some (op0 0x10))
    ∧ ((op0 0x10).out.contains (0, 0) = true ∧ (op0 0x10).returns = true ∧ (op0 0x14).returns = false)
    ∧ ((answered 0 0x10).onCore 1 = some 0 ∧ ((answered 0 0x10).core 0).phase ≠ 3 ∧ (answer0 0).status = stOK)
    ∧ ((answered 0x20 0x10).mem.answers.find? (fun a => a.req.rid == 9) = some (answer0 0x20) ∧ (answer0 0x20).status ≠ stOK)
    ∧ ((inFlight (req0 .read (.mmio 0))).mem.answers.find? (fun a => a.req.rid == 9) = none ∧ (inFlight (req0 .read (.mmio 0))).nextReq 9 = some (req0 .read (.mmio 0)))
    ∧ ((withJob { job0 with fetchId := 8 }).mem.jobs.find? (fun j => j.fetchId == 7 + 1) = some { job0 with fetchId := 8 } ∧ running.mem.jobs.find? (fun j => j.fetchId == 7 + 1) = none)
    ∧ ((List.replicate 64 (1 : BitVec 8)).length = ({ job0 with fetchId := 8 } : Job).pieceLen ∧ (List.replicate 65 (1 : BitVec 8)).length ≠ ({ job0 with fetchId := 8 } : Job).pieceLen)
    ∧ ((withJob { job0 with pos := 64, reads := [] }).job? 4 = some { job0 with pos := 64, reads := [] } ∧ ({ job0 with pos := 64, reads := [] } : Job).ended = true ∧ ({ job0 with pos := 64, reads := [] } : Job).code = false)
    ∧ ((withJob job0).job? 4 = some job0 ∧ job0.ended = false ∧ running.job? 4 = none)
    ∧ ((withJob { job0 with reads := [], pos := 64 }).job? 4 = some { job0 with reads := [], pos := 64 } ∧ ({ job0 with reads := [], pos := 64 } : Job).ended = true ∧ (withJob { job0 with reads := [], pos := 64 }).jobWritesOut 4 = false) := by decide +kernel

theorem wit_EnginesTakeAnswers_2 :
    (ahead { req0 (.write false) (.chan 0 0) with src := .jobWrite 4 0, dropped := true } (withJob { job0 with reads := [], pos := 64 })).jobWritesOut 4 = true := by decide +kernel

theorem wit_QueuesFetchAndCheck :
    world.pfAnswers = true
    ∧ world.linkFetches = true
    ∧ (world.sq 0).state = 1
    ∧ ((world.sq 0).prod - (world.sq 0).cons).toNat ≤ ((4 : BitVec 32) - (world.sq 0).cons).toNat
    ∧ ((65 : BitVec 32) ≠ (world.sq 0).prod ∧ (4 : BitVec 32) = (world.sq 0).prod)
    ∧ ((65 : BitVec 32) - (world.sq 0).cons).toNat = 2 ^ (world.sq 0).size
    ∧ ((3 : BitVec 32) - (world.sq 0).cons).toNat < ((world.sq 0).prod - (world.sq 0).cons).toNat
    ∧ 2 ^ (world.sq 0).size < ((66 : BitVec 32) - (world.sq 0).cons).toNat
    ∧ (world.sq 0).dbBad = false
    ∧ ((withSq { sq0 with dbBad := true }).sq 0).dbBad = true
    ∧ (world.sq 1).state ≠ 1
    ∧ world.fetchable 0 = true
    ∧ (world.cq (world.sq 0).cq).free = true
    ∧ ({ world with que := { world.que with cqs := [(0, { stalled := true })] } } : State).fetchable 0 = true := by decide +kernel

theorem wit_QueuesFetchAndCheck_2 :
    (({ world with que := { world.que with cqs := [(0, { stalled := true })] } } : State).cq 0).free = false
    ∧ (({ world with que := { world.que with cqs := [(0, {})] } } : State).fetchable 0 = true ∧ (({ world with que := { world.que with cqs := [(0, {})] } } : State).cq 0).free = false ∧ (({ world with que := { world.que with cqs := [(0, {})] } } : State).cq 0).stalled = false)
    ∧ world.fetchable 1 = false
    ∧ ((withSq { sq0 with fetches := [(1, none), (2, none)] }).sq 0).fetches = (1, none) :: [(2, none)]
    ∧ ((withSq { sq0 with fetches := [(1, none), (2, none)] }).sq 0).next = none
    ∧ ((withSq { sq0 with fetches := [(1, none)] }).sq 0).fetches = [((1 : BitVec 32).toNat, none)]
    ∧ ({ idx := 1, data := desc 0xFF [] } : Desc).check6 world sq0 0 = 0x02
    ∧ ({ idx := 1, data := desc 0x00 [(2, 0xFFFF)] } : Desc).check6 world sq0 0 = 0
    ∧ ({ idx := 1, data := desc 0x00 [(2, 0xFFFF)] } : Desc).check7 world = 0
    ∧ ({ idx := 1, data := desc 0x00 [(2, 0xFFFF)] } : Desc).remoteFences world = []
    ∧ ({ idx := 1, data := desc 0x00 [(2, 0xFFFF)] } : Desc).hasWait = false
    ∧ ({ idx := 1, data := desc 0x12 [(2, 0xFFFF), (32, 9)] } : Desc).check6 world sq0 0 = 0x05
    ∧ ({ idx := 1, data := desc 0x08 [(32, 5), (34, 3)] } : Desc).check6 world sq0 0 = 0
    ∧ ({ idx := 1, data := desc 0x08 [(32, 5), (34, 3)] } : Desc).check7 world ≠ 0 := by decide +kernel

theorem wit_QueuesFetchAndCheck_3 :
    (world.turnOf (world.sq 0).qp = some 0 ∧ world.turnOf 7 = none ∧ (withCq {}).turnOf 0 = some 0)
    ∧ (world.pageQueue 0 0 = some 0 ∧ world.pageQueue 0 1024 = none ∧ world.vfAnswers 1 = false)
    ∧ ({ State.reset with pdyn := { trip := true } } : State).linkFetches = false
    ∧ ((1 : BitVec 32).toNat ≠ (2 : BitVec 32).toNat ∧ ([(2, none)] : List (Nat × Option (BitVec 512))).any (fun f => f.1 == (2 : BitVec 32).toNat && f.2.isNone) = true)
    ∧ (∀ f, f ∈ ([] : List (Nat × Option (BitVec 512))) → f.2 = none ∧ f.1 ≠ (1 : BitVec 32).toNat)
    ∧ ((withSq { sq0 with fetches := [(1, none)] }).sq 0 = { sq0 with fetches := [(1, none)] } ∧ sq0.descs = [])
    ∧ ((arriving 0x00 [(1, 1), (2, 0xFFFF), (4, 0x10000)]).hasWait = true ∧ (arriving 0x00 [(1, 1), (2, 0xFFFF), (4, 0x10000)]).check6 (polling 0) sq0 0 = 0 ∧ (arriving 0x00 [(1, 1), (2, 0xFFFF), (4, 0x10000)]).check7 (polling 0) = 0 ∧ (arriving 0x00 [(1, 1), (2, 0xFFFF), (4, 0x10000)]).remoteFences (polling 0) = [])
    ∧ ({ fencing 0 with fnc := { (fencing 0).fnc with fences := [(0, { valid := true, gen := 1, recOff := 0 })] } } : State).waitHeld 0 (arriving 0x00 [(1, 1), (2, 0xFFFF), (4, 0x10000)]) = false
    ∧ heldWait.waitHeld 0 (arriving 0x00 [(1, 1), (2, 0xFFFF), (4, 0x10000)]) = true
    ∧ (arriving 0x00 [(1, 1), (2, 0xFFFF), (4, 0x410000)]).remoteFences world ≠ []
    ∧ (heldWait.waitHeld 0 (ready0 0 []) = false ∧ (polling 0).signalOut 0 0 = false) := by decide +kernel

theorem wit_NopAndTaskBegin :
    (withDesc 0x00 [(2, 0xFFFF)]).ready 0 0x00 = some { idx := 0, data := desc 0 [(2, 0xFFFF)], phase := .ready }
    ∧ ((withDesc 0x00 [(2, 0xFFFF)]).sq 0).descs = [{ idx := 0, data := desc 0 [(2, 0xFFFF)], phase := .ready }]
    ∧ ((withDesc 0x00 [(2, 0xFFFF)]).sq 0).state = 1
    ∧ ({ idx := 0, data := desc 0 [(2, 0xFFFF)] } : Desc).hasSignal = false
    ∧ ({ idx := 0, data := desc 0 [(2, 0xFFFF)] } : Desc).nocomp = false
    ∧ ((withDesc 0x00 [(2, 0xFFFF)]).cq 0).ring.sends 0 false = true
    ∧ (withDesc 0x01 [(32, 5), (34, 0), (36, 1)]).ready 0 0x01 = some { idx := 0, data := desc 1 [(32, 5), (34, 0), (36, 1)], phase := .ready }
    ∧ ((withDesc 0x01 [(32, 5), (34, 0), (36, 1)]).setting 0).active.valid = true
    ∧ ({ idx := 0, data := desc 1 [(32, 5), (34, 0), (36, 1)] } : Desc).count = 2
    ∧ (∀ t, t < 2 → (withDesc 0x01 [(32, 5), (34, 0), (36, 1)]).localEntry map0 (0 + t) = true)
    ∧ (world.ready 0 0x00 = none ∧ world.ready 0 0x01 = none)
    ∧ ({ idx := 0, data := desc 0 [(1, 16), (2, 0xFFFF)] } : Desc).nocomp = true
    ∧ ((ready0 1 [(32, 5), (34, 0xFFFF)]).vcore = 0xFFFF ∧ (upto map0.ncore).any ((withDesc 0x01 [(32, 5), (34, 0xFFFF)]).localEntry map0) = true)
    ∧ (({} : SetCopy).valid = false ∧ (ready0 1 [(32, 5), (34, 0), (36, 1)]).vcore ≠ 0xFFFF) := by decide +kernel

theorem wit_NopAndTaskBegin_2 :
    (∀ t, t < 2 → 0 + t < map0.ncore ∧ map0.coreValid (0 + t) = true) := by decide +kernel

theorem wit_LoadsCopiesScrubs :
    (withDesc 0x02 [(32, 5), (34, 0), (36, 1)]).ready 0 0x02 = some { idx := 0, data := desc 2 [(32, 5), (34, 0), (36, 1)], phase := .ready }
    ∧ (∀ t, t < 2 → (withDesc 0x02 [(32, 5), (34, 0), (36, 1)]).localEntry map0 (0 + t) = true)
    ∧ ({ job0 with jid := 4, reads := [], pos := 64, code := true } : Job).ended = true
    ∧ running.loadWaits { lid := 4, launcher := .desc 0 1, cores := [1], off := 0, len := 64, ctx := 5, locket := 0 } = false
    ∧ running.loadWaits { lid := 4, launcher := .desc 0 1, cores := [0], off := 0, len := 64, ctx := 5, locket := 0 } = true
    ∧ (withDesc 0x08 [(32, 5), (56, 64)]).ready 0 0x08 = some { idx := 0, data := desc 8 [(32, 5), (56, 64)], phase := .ready }
    ∧ ((withDesc 0x08 [(32, 5), (56, 64)]).sq 0).func = 0
    ∧ countP (fun j => j.ce == 0) (withDesc 0x08 [(32, 5), (56, 64)]).mem.jobs < 64
    ∧ 64 ≤ countP (fun (j : Job) => j.ce == 0) (List.replicate 64 job0)
    ∧ (withDesc 0x09 [(32, 1)]).ready 0 0x09 = some { idx := 0, data := desc 9 [(32, 1)], phase := .ready }
    ∧ (∃ c, c ∈ ({ idx := 0, data := desc 9 [(32, 1)] } : Desc).scrubMask ∧ ((withDesc 0x09 [(32, 1)]).chanOwner c).isSome = true)
    ∧ ({ idx := 0, data := desc 9 [(32, 6)] } : Desc).scrubMask = [1, 2]
    ∧ (∀ c, c ∈ ({ idx := 0, data := desc 9 [(32, 6)] } : Desc).scrubMask → (withDesc 0x09 [(32, 6)]).chanOwner c = none ∧ (withDesc 0x09 [(32, 6)]).chanBusy c = false ∧ ((withDesc 0x09 [(32, 6)]).chan c).bist = false ∧ ((withDesc 0x09 [(32, 6)]).chan c).state = 0 ∧ (withDesc 0x09 [(32, 6)]).halfClosed (chanHalf c) = false)
    ∧ (withDesc 0x09 [(32, 6)]).inPool = false := by decide +kernel

theorem wit_LoadsCopiesScrubs_2 :
    (world.ready 0 0x02 = none ∧ world.ready 0 0x08 = none ∧ world.ready 0 0x09 = none)
    ∧ ((loading [1] { job0 with reads := [], pos := 64, code := true }).que.loads.find? (fun x => x.lid == 4) = some (load0 [1]) ∧ (loading [1] { job0 with reads := [], pos := 64, code := true }).job? 4 = some { job0 with reads := [], pos := 64, code := true })
    ∧ ((loading [1] { job0 with reads := [], pos := 64, code := true }).loadWaits (load0 [1]) = false ∧ (loading [0] job0).loadWaits (load0 [0]) = true)
    ∧ (({ job0 with reads := [], pos := 64, code := true, err := some 0x12 } : Job).ended = true ∧ job0.ended = false ∧ running.que.loads.find? (fun x => x.lid == 4) = none)
    ∧ ((ready0 9 [(32, 4)]).scrubMask = [2] ∧ (inFlight { req0 .read (.chan 2 0) with rid := 1 }).chanBusy 2 = true)
    ∧ (({ withDesc 0x09 [(32, 6)] with mem := { chans := [(1, { state := 4 }), (2, { state := 5 })] } } : State).chan 1 = { state := 4 } ∧ ({ withDesc 0x09 [(32, 6)] with mem := { chans := [(1, { state := 4 }), (2, { state := 5 })] } } : State).chan 2 = { state := 5 })
    ∧ (bits ((ready0 8 [(32, 5), (34, 2), (40, 0x4800000000), (56, 64)]).f 34 1) 0 2 = 2 ∧ world.ownDram 0 0x4800000000 64 = false) := by decide +kernel

theorem wit_ContextLives :
    (withDesc 0x10 [(32, 6), (40, 1), (48, 0x10000), (56, 2)]).ready 0 0x10 = some { idx := 0, data := desc 0x10 [(32, 6), (40, 1), (48, 0x10000), (56, 2)], phase := .ready }
    ∧ (withDesc 0x11 [(2, 0xFFFF), (32, 5)]).ready 0 0x11 = some { idx := 0, data := desc 0x11 [(2, 0xFFFF), (32, 5)], phase := .ready }
    ∧ ((withDesc 0x11 [(2, 0xFFFF), (32, 5)]).ctx 5).state ≠ 2
    ∧ (withDesc 0x11 [(2, 0xFFFF), (32, 5)]).ctxInUse 5 = false
    ∧ ({ withDesc 0x11 [(2, 0xFFFF), (32, 5)] with tasks := [task1] } : State).ctxInUse 5 = true
    ∧ (withDesc 0x12 [(2, 0xFFFF), (32, 5)]).ready 0 0x12 = some { idx := 0, data := desc 0x12 [(2, 0xFFFF), (32, 5)], phase := .ready }
    ∧ ((withDesc 0x12 [(2, 0xFFFF), (32, 5)]).ctx 5).state = 1
    ∧ ((withDesc 0x12 [(2, 0xFFFF), (32, 6)]).ctx 6).state = 0
    ∧ ({ world with fnc := { world.fnc with aborts := [{ ctx := 5 }] } } : State).fnc.aborts.find? (fun a => a.ctx == 5) = some { ctx := 5 }
    ∧ world.fenced (world.ctx 5).locket = false
    ∧ (withSlot { slot0 with state := 2 }).fenced 0 = true
    ∧ createContext world 0 (ready0 0x10 [(32, 5), (40, 1), (56, 1)]) = some (world, stCONTEXT)
    ∧ createContext world 0 (ready0 0x10 [(32, 6), (40, 0), (56, 1)]) = some (world, stARG)
    ∧ (createContext mapped 0 (ready0 0x10 [(32, 6), (40, 1), (48, 0x10000), (56, 1)])).isSome = true := by decide +kernel

theorem wit_ContextLives_2 :
    (world.ready 0 0x10 = none ∧ world.ready 0 0x11 = none ∧ world.ready 0 0x12 = none ∧ (ready0 0x12 [(32, 5)]).context = 5)
    ∧ ({ withDesc 0x12 [(32, 5)] with fnc := { ctxs := [(5, { state := 2 })] } } : State).ctx 5 = { state := 2 }
    ∧ (world.abortHeld 5 = false ∧ world.fnc.aborts.find? (fun a => a.ctx == 5) = none)
    ∧ (({ ctx := 5 } : Abort).takers = [] ∧ ({ ctx := 5, takers := [0] } : Abort).takers ≠ [])
    ∧ ({ world with fnc := { world.fnc with aborts := [{ ctx := 5, takers := [0] }] } } : State).fnc.aborts.find? (fun a => a.ctx == 5) = some { ctx := 5, takers := [0] } := by decide +kernel

theorem wit_FaultsAreResolved :
    (withDesc 0x18 [(2, 0xFFFF), (32, 5)]).ready 0 0x18 = some { idx := 0, data := desc 0x18 [(2, 0xFFFF), (32, 5)], phase := .ready }
    ∧ ({ running with fnc := { running.fnc with invals := [{ q := 0, idx := 1, ctx := 5, reqs := [9], walks := [], ops := [] }] } } : State).fnc.invals.find? (fun x => x.q == 0 && x.idx == (1 : BitVec 32).toNat) = some { q := 0, idx := 1, ctx := 5, reqs := [9], walks := [], ops := [] }
    ∧ running.invalDone { q := 0, idx := 1, ctx := 5, reqs := [9], walks := [], ops := [] } = true
    ∧ (inFlight (req0 .read (.chan 0 0))).invalDone { q := 0, idx := 1, ctx := 5, reqs := [9], walks := [], ops := [] } = false
    ∧ (withDesc 0x19 [(2, 0xFFFF)]).ready 0 0x19 = some { idx := 0, data := desc 0x19 [(2, 0xFFFF)], phase := .ready }
    ∧ (withDesc 0x19 [(2, 0xFFFF)]).faultNamed 0 0 = none
    ∧ ({ withDesc 0x19 [(2, 0xFFFF)] with xlt := { outst := [fault0] } } : State).faultNamed 0 (faultId fault0) = some fault0
    ∧ (world.ready 0 0x18 = none ∧ world.ready 0 0x19 = none ∧ world.fnc.invals.find? (fun x => x.q == 0 && x.idx == (1 : BitVec 32).toNat) = none)
    ∧ (bits ((ready0 0x19 [(36, 1)]).f 36 1) 0 2 = 1 ∧ bits ((ready0 0x19 []).f 36 1) 0 2 = 0) := by decide +kernel

theorem wit_SettingsSwapAndMove :
    (withSetting 0x20 [] { shLock := true }).ready 0 0x20 = some { idx := 0, data := desc 0x20 [], phase := .ready }
    ∧ ((withSetting 0x20 [] { shLock := true }).setting 0).shLock = true
    ∧ ((withSetting 0x20 [] { phase := 2 }).setting 0).phase ≠ 0
    ∧ (withSetting 0x20 [] { active := map0, shadow := map0 }).inPool = false
    ∧ swapChecks (beginDesc (withSetting 0x20 [] { active := map0, shadow := map0 }) 0 0) 0 map0 = none
    ∧ map0.moves = []
    ∧ (swapChecks (beginDesc (withSetting 0x20 [] { active := map0, shadow := { map0 with core := [(0, 0x80000000), (1, 0x80000000)] } }) 0 0) 0 { map0 with core := [(0, 0x80000000), (1, 0x80000000)] }).isSome = true
    ∧ [({ set := 0, index := 1, src := 0, dst := 2 } : Move)].find? (fun m => m.set == 0 && m.index == 1 && !m.done) = some { set := 0, index := 1, src := 0, dst := 2 }
    ∧ ((withSetting 0 [] { swap := some { q := 0, idx := 0, stepFour := true } }).setting 0).swap = some { q := 0, idx := 0, stepFour := true }
    ∧ (withSetting 0 [] { swap := some { q := 0, idx := 0, stepFour := true } }).oldOut 0 = 0
    ∧ ((withSetting 0 [] { swap := some { q := 0, idx := 0, stepFour := true, mirrorsOff := true } }).tasks.any (fun t => t.set == 0 && (withSetting 0 [] { swap := some { q := 0, idx := 0, stepFour := true, mirrorsOff := true } }).misplaced t)) = false
    ∧ ((withSetting 0x20 [] { active := map0, shadow := map0 }).ready 0 0x20 = some (ready0 0x20 []) ∧ bit ((ready0 0x20 []).f 32 1) 0 = false ∧ (ready0 0x20 []).setting = 0)
    ∧ ((world.settingLocket 0x20 0).any world.fenced = false ∧ ((withSlot { slot0 with state := 2 }).settingLocket 0x20 0).any (withSlot { slot0 with state := 2 }).fenced = true)
    ∧ (moving.ready 0 0x20 = some (ready0 0x20 []) ∧ (moving.setting 0).shadow.moves = [0] ∧ (moving.setting 0).shLock = false ∧ (moving.setting 0).phase = 0 ∧ moving.inPool = false) := by decide +kernel

theorem wit_SettingsSwapAndMove_2 :
    swapChecks (beginDesc moving 0 0) 0 (moving.setting 0).shadow = none
    ∧ (∀ k, k ∈ (moving.setting 0).shadow.moves → moving.chanDown ((moving.setting 0).active.ch k) = false ∧ moving.chanDown ((moving.setting 0).shadow.ch k) = false)
    ∧ world.ready 0 0x20 = none
    ∧ ((moving1 {} {}).mem.moves.find? (fun m => m.set == 0 && m.index == 1 && !m.done) = some { set := 0, index := 1, src := 2, dst := 3 } ∧ (moving1 {} {}).chanDown 2 = false ∧ (moving1 {} {}).chanDown 3 = false ∧ ((moving1 {} {}).chan 2).inj = 0 ∧ ((moving1 {} {}).chan 3).inj = 0 ∧ (2 : Nat) ≠ 3)
    ∧ ((moving1 { state := 4 } {}).chanDown 2 = true ∧ (moving1 {} { state := 5 }).chanDown 3 = true ∧ world.mem.moves.find? (fun m => m.set == 0 && m.index == 1 && !m.done) = none)
    ∧ ((world.setting 0).swap = none ∧ ((withSetting 0 [] { swap := some { q := 0, idx := 0 } }).setting 0).swap = some { q := 0, idx := 0 })
    ∧ ({ running with sets := [(0, { active := { map0 with core := [(0, 0x80000001)] }, swap := some { q := 0, idx := 0, stepFour := true, mirrorsOff := true } })] } : State).misplaced task0 = true
    ∧ (({ withSetting 0x20 [] { shadow := map0 } with pool := { state := 2 } } : State).inPool = true ∧ map0.valid = true ∧ map0.rgnValid = true ∧ 0 < map0.ncore ∧ map0.coreModule 0 = State.reset.trb.idModule)
    ∧ ((moving1 { corr := 5 } {}).chanDown 2 = false ∧ ({ us := 0 } : MoveEnd).sectors = [])
    ∧ ((readSector 2 { rdErrs := [[1, 1, 1, 1, 1], [1, 1, 1, 1, 1]], wrErrs := [[], []], poisonFails := [0, 0] } clean0 7 (min 7 1)).2.1 = .bond ∧ ((moving1 clean0 clean0).chan 2) = clean0 ∧ ((moving1 clean0 clean0).chan 3).inj = 0)
    ∧ ((withSetting 0 [] {}).fnc.cmd = none ∧ ({ moving with pool := {} } : State).inPool = false)
    ∧ ((moving1 clean0 clean0).chanDown 2 = false ∧ (moving1 { clean0 with marks := [3] } clean0).chanDown 2 = false ∧ ({ clean0 with marks := [3] } : Chan).defined 3 = true) := by decide +kernel

theorem wit_LocketsAreCreatedAndShown :
    (withDesc 0x28 [(2, 0xFFFF), (32, 0)]).ready 0 0x28 = some { idx := 0, data := desc 0x28 [(2, 0xFFFF), (32, 0)], phase := .ready }
    ∧ ((withDesc 0x28 [(2, 0xFFFF), (32, 0)]).slot 0).active.valid = true
    ∧ ({ withDesc 0x28 [(2, 0xFFFF), (32, 1)] with lkt := newLkt 9, mem := { chans := [(3, { clean := true })] } } : State).ready 0 0x28 = some { idx := 0, data := desc 0x28 [(2, 0xFFFF), (32, 1)], phase := .ready }
    ∧ (({ withDesc 0x28 [(2, 0xFFFF), (32, 1)] with lkt := newLkt 9, mem := { chans := [(3, { clean := true })] } } : State).slot 1).active.valid = false
    ∧ (({ withDesc 0x28 [(2, 0xFFFF), (32, 1)] with lkt := newLkt 9, mem := { chans := [(3, { clean := true })] } } : State).slot 1).shadow.valid = true
    ∧ locketChecks ({ withDesc 0x28 [(2, 0xFFFF), (32, 1)] with lkt := newLkt 9, mem := { chans := [(3, { clean := true })] } } : State) 1 false = none
    ∧ (locketChecks ({ withDesc 0x28 [(2, 0xFFFF), (32, 1)] with lkt := newLkt 5 } : State) 1 false).isSome = true
    ∧ ({ withDesc 0x20 [(2, 0xFFFF), (32, 1)] with lkt := { slots := [(0, { slot0 with shadow := { valid := true, tag := 5, cores := 3, chans := 1, share := [(0, 1)] } })] } } : State).ready 0 0x20 = some { idx := 0, data := desc 0x20 [(2, 0xFFFF), (32, 1)], phase := .ready }
    ∧ locketChecks ({ withDesc 0x20 [(2, 0xFFFF), (32, 1)] with lkt := { slots := [(0, { slot0 with shadow := { valid := true, tag := 5, cores := 3, chans := 1, share := [(0, 1)] } })] } } : State) 0 true = none
    ∧ (locketChecks ({ withDesc 0x20 [(2, 0xFFFF), (32, 1)] with lkt := { slots := [(0, { slot0 with shadow := { valid := true, tag := 0 } })] } } : State) 0 true).isSome = true
    ∧ world.holdsLocket 0 = true
    ∧ world.holdsLocket 1 = false
    ∧ ((withSlot { slot0 with invBusy := true }).slot 0).invBusy = true
    ∧ (world.ready 0 0x28 = none ∧ (ready0 0x28 [(2, 0xFFFF), (32, 1)]).f 32 1 = 1 ∧ bit ((ready0 0x20 [(2, 0xFFFF), (32, 1)]).f 32 1) 0 = true ∧ (ready0 0x20 [(2, 0xFFFF), (32, 1)]).f 33 1 = 0) := by decide +kernel

theorem wit_LocketsAreCreatedAndShown_2 :
    (({ slot0 with resetting := true } : Slot).active.valid = true ∧ slot0.resetting = false ∧ slot0.teardown = none ∧ slot0.state = 1)
    ∧ (world.reaches 0 1 = true ∧ world.reaches 1 1 = false ∧ (world.slot 0).invBusy = false) := by decide +kernel

theorem wit_TeardownsRun :
    (withDesc 0x29 [(2, 0xFFFF), (32, 1)]).ready 0 0x29 = some { idx := 0, data := desc 0x29 [(2, 0xFFFF), (32, 1)], phase := .ready }
    ∧ ((withDesc 0x29 [(2, 0xFFFF), (32, 1)]).slot 1).state = 0
    ∧ ((withDesc 0x29 [(2, 0xFFFF), (32, 0)]).slot 0).state = 1
    ∧ ((withDesc 0x29 [(2, 0xFFFF), (32, 0)]).slot 0).teardown = none
    ∧ ((withSlot { slot0 with resetting := true }).slot 0).resetting = true
    ∧ ((withSlot { slot0 with state := 3, teardown := some { step := 3 } }).slot 0).teardown = some { step := 3 }
    ∧ ({ step := 3 } : Teardown).reported.contains (withSlot { slot0 with state := 3, teardown := some { step := 3 } }).trb.idModule = false
    ∧ ({ step := 3, members := [7] } : Teardown).members.contains 7 = true
    ∧ ({ step := 3, members := [7] } : Teardown).reported.contains 7 = false
    ∧ (world.ready 0 0x29 = none ∧ (ready0 0x29 [(2, 0xFFFF), (32, 1)]).f 32 1 = 1)
    ∧ (((slotDesc 0x29 [(2, 0xFFFF)] { slot0 with state := 3, teardown := some { msgHome := some 7 } }).slot 0).teardown = some { msgHome := some 7 } ∧ ({ msgHome := some 7 } : Teardown).msgHome = some 7 ∧ ({} : Teardown).msgHome = none)
    ∧ (({ step := 3, reported := [0] } : Teardown).reported.contains 0 = true ∧ (world.slot 0).teardown = none)
    ∧ ((withSlot { slot0 with state := 3, teardown := some { step := 3 } }).fnc.cmd = none ∧ (withSlot { slot0 with state := 3, teardown := some { step := 3 } }).pool.revoking = none ∧ (withSlot { slot0 with state := 3, teardown := some { step := 3 } }).pool.state ≠ 3)
    ∧ (((withSlot { slot0 with state := 3, teardown := some { step := 4, msgHome := some 7 } }).slot 0).teardown = some { step := 4, msgHome := some 7 } ∧ ({ step := 4 } : Teardown).step ≠ 3 ∧ ({ step := 3, msgHome := some 7 } : Teardown).msgHome ≠ none) := by decide +kernel

theorem wit_RolesChange :
    ({ State.reset with que := (withDesc 0x2A [(2, 0xFFFF), (32, 1)]).que } : State).ready 0 0x2A = some { idx := 0, data := desc 0x2A [(2, 0xFFFF), (32, 1)], phase := .ready }
    ∧ bit (({ idx := 0, data := desc 0x2A [(2, 0xFFFF), (32, 1)] } : Desc).f 32 1) 0 = true
    ∧ rolePoolCheck (beginDesc ({ State.reset with que := (withDesc 0x2A [(2, 0xFFFF), (32, 1)]).que } : State) 0 0) = none
    ∧ rolePoolCheck (beginDesc (withDesc 0x2A [(2, 0xFFFF), (32, 1)]) 0 0) = some stBUSY
    ∧ bit (({ idx := 0, data := desc 0x2A [(2, 0xFFFF), (32, 0)] } : Desc).f 32 1) 0 = false
    ∧ State.reset.pool.state ≠ 2
    ∧ (pooled {}).pool.state = 2
    ∧ (pooled {}).pool.chans.any (pooled {}).chanBusy = false
    ∧ ({ pooled {} with mem := { inflight := [req0 .read (.chan 1 0)] } } : State).pool.chans.any ({ pooled {} with mem := { inflight := [req0 .read (.chan 1 0)] } } : State).chanBusy = true
    ∧ (pooled { state := 2 }).pool.recs.any (fun e => e.2.state != 0 && e.2.state != 5) = true
    ∧ ({ State.reset with pool := { state := 2, chans := [1] } } : State).pool.recs.any (fun e => e.2.state != 0 && e.2.state != 5) = false
    ∧ world.ready 0 0x2A = none
    ∧ (State.reset.goodChans ≠ [] ∧ (pooled {}).pool.chans.any (fun c => ((pooled {}).chan c).state == 1) = false)
    ∧ (({ pooled {} with mem := { chans := [(1, { state := 1 })] } } : State).pool.chans.any (fun c => (({ pooled {} with mem := { chans := [(1, { state := 1 })] } } : State).chan c).state == 1) = true ∧ ({ pooled {} with mem := { chans := [(1, { state := 1 })] } } : State).chanBusy 1 = false) := by decide +kernel

theorem wit_RolesChange_2 :
    (({ pooled {} with mem := { chans := [(1, { state := 1 })], inflight := [req0 .read (.chan 1 0)] } } : State).chanBusy 1 = true ∧ State.reset.coreRetired 191 = false) := by decide +kernel

theorem wit_RingsEnable :
    (State.reset.cq (bits (13 : BitVec 64).toNat 8 10)).func = (State.reset.sq 0).func
    ∧ (State.reset.sq 0).state = 0
    ∧ (State.reset.sq 0).enable = false
    ∧ State.reset.queueOpen 0 = true
    ∧ (bit (13 : BitVec 64).toNat 0 = true ∧ bits (13 : BitVec 64).toNat 1 5 = 6)
    ∧ (bit (33 : BitVec 64).toNat 0 = true ∧ bits (33 : BitVec 64).toNat 1 5 = 16)
    ∧ ({ State.reset with que := { cqs := [(0, { func := 1 })] } } : State).pfAnswers = true
    ∧ (({ State.reset with que := { cqs := [(0, { func := 1 })] } } : State).cq 0).func ≠ (State.reset.sq 0).func
    ∧ ((world.sq 0).enable = true ∧ (world.sq 0).state = 1 ∧ (world.sq 0).size < 32 ∧ (world.sq 0).cq < 1024 ∧ (world.sq 0).ctx < 65536 ∧ (world.cq 0).func = (world.sq 0).func)
    ∧ ((State.reset.cq 0).ring.enable = false ∧ (State.reset.cq 0).reserved = 0)
    ∧ ((State.reset.fq 0).ring.enable = false ∧ State.reset.xlt.heldQueue = [])
    ∧ (bit (17 : BitVec 64).toNat 0 = true ∧ bits (17 : BitVec 64).toNat 1 4 = 8)
    ∧ (bit (29 : BitVec 64).toNat 0 = true ∧ bits (29 : BitVec 64).toNat 1 4 = 14)
    ∧ ((world.cq 0).ring.prod - 0).toNat ≤ (world.cq 0).ring.slots := by decide +kernel

theorem wit_RingsEnable_2 :
    (world.cq 0).ring.slots < ((world.cq 0).ring.prod - 1).toNat
    ∧ ((State.reset.fq 0).ring.prod - 0).toNat ≤ (State.reset.fq 0).ring.slots
    ∧ (State.reset.fq 0).ring.slots < ((State.reset.fq 0).ring.prod - 1).toNat
    ∧ (State.reset.reaches 0 0 = true ∧ State.reset.reaches 1 0 = false ∧ State.reset.reaches 0 1 = true ∧ State.reset.reaches 1 1 = false)
    ∧ ((withQue { sqs := [(0, { func := 1 })] }).queueOpen 0 = true ∧ ({ withQue { sqs := [(0, { func := 1 })] } with lkt := { slots := [(0, { slot0 with state := 3 })] } } : State).queueOpen 0 = false)
    ∧ ((withSq { sq0 with enable := false, state := 2 }).sq 0 = { sq0 with enable := false, state := 2 } ∧ bit (0 : BitVec 64).toNat 0 = false)
    ∧ (((withCq { reserved := 1 }).cq 0).ring.enable = false ∧ ((withCq { reserved := 1 }).cq 0).reserved ≠ 0)
    ∧ (((withCq { ring := { enable := true, prod := 4 } }).cq 0).ring.used = 4 ∧ ({ enable := true, prod := 4, cons := 2 } : Ring).used < 4 ∧ ({ enable := true, prod := 4, cons := 2 } : Ring).used = 2) := by decide +kernel

theorem wit_MessagesAndEvents :
    ({ State.reset with que := {} } : State).pfAnswers = true
    ∧ ((({ State.reset with que := {} } : State).ev 0).ring.enable = false ∧ (({ State.reset with que := {} } : State).ev 0).lostSince = 0 ∧ ({ State.reset with que := {} } : State).que.held = [])
    ∧ (bits (13 : BitVec 64).toNat 1 5 = 6 ∧ bits (29 : BitVec 64).toNat 1 5 = 14)
    ∧ ((({ State.reset with que := {} } : State).ev 0).ring.prod - 0).toNat ≤ (({ State.reset with que := {} } : State).ev 0).ring.slots
    ∧ (State.reset.cq 0).ring.since = 0
    ∧ (({ State.reset with que := { cqs := [(0, { ring := { since := 1 } })], unmasked := [(0, 0)] } } : State).cq 0).ring.since ≠ 0
    ∧ 0 < ({ State.reset with que := { cqs := [(0, { ring := { since := 1 } })], unmasked := [(0, 0)] } } : State).msixCountOf 0
    ∧ ({ State.reset with que := { cqs := [(0, { ring := { since := 1 } })], unmasked := [(0, 0)] } } : State).que.unmasked.contains (0, 0) = true
    ∧ 63 < State.reset.msixCountOf 0
    ∧ ({ State.reset with que := { msixPend := [(0, 63)] } } : State).que.unmasked.contains (0, 63) = false
    ∧ ({ State.reset with que := { msixPend := [(0, 63)] } } : State).que.msixPend.contains (0, 63) = true
    ∧ (State.reset.que.vfEnable = false ∧ State.reset.tdiClosed 0 = false)
    ∧ (bits (BitVec.ofNat 64 (1792 + 256 <<< 16)).toNat 16 12 = 256 ∧ bits (BitVec.ofNat 64 (1792 + 256 <<< 16)).toNat 0 11 + 256 = 2048)
    ∧ (∀ g, g < 33 → g ≠ 1 → ({ State.reset with que := { msixCount := [(0, 16)] } } : State).msixCountOf g = 0 ∨ 1792 + 256 ≤ ({ State.reset with que := { msixCount := [(0, 16)] } } : State).msixBaseOf g ∨ ({ State.reset with que := { msixCount := [(0, 16)] } } : State).msixBaseOf g + ({ State.reset with que := { msixCount := [(0, 16)] } } : State).msixCountOf g ≤ 1792) := by decide +kernel

theorem wit_MessagesAndEvents_2 :
    (State.reset.reaches 0 0 = true ∧ State.reset.reaches 1 1 = false ∧ vfWorld.reaches 1 1 = true ∧ (vfWorld.ev 1).ring.enable = false ∧ (vfWorld.ev 1).lostSince = 0)
    ∧ (withQue { evs := [(0, { ring := { since := 1 } })], unmasked := [(0, 0)] }).ev 0 = { ring := { since := 1 } }
    ∧ (({ withQue { unmasked := [(1, 0)], msixCount := [(1, 8)] } with xlt := { fqs := [(0, { ring := { since := 1 } })] } } : State).fq 0 = { ring := { since := 1 } } ∧ 0 < (withQue { unmasked := [(1, 0)], msixCount := [(1, 8)] }).msixCountOf 1)
    ∧ ((withQue {}).que.msixPend.contains (0, 63) = false ∧ State.reset.msixCountOf 1 ≤ 0)
    ∧ (({ State.reset with pdyn := { trip := true } } : State).pfAnswers = true ∧ ({ State.reset with mgt2 := { perst := true } } : State).pfAnswers = false)
    ∧ (bits (BitVec.ofNat 64 (257 <<< 16)).toNat 16 12 = 257 ∧ 2048 < bits (BitVec.ofNat 64 (1793 + 256 <<< 16)).toNat 0 11 + bits (BitVec.ofNat 64 (1793 + 256 <<< 16)).toNat 16 12)
    ∧ ((withQue { vfEnable := true }).que.vfEnable = true ∧ 0 < State.reset.msixCountOf 0 ∧ 0 < State.reset.msixBaseOf 0 + State.reset.msixCountOf 0 ∧ State.reset.msixBaseOf 0 < 0 + 8)
    ∧ (∀ g, g < 33 → g ≠ 0 → State.reset.msixCountOf g = 0 ∨ 2048 ≤ State.reset.msixBaseOf g) := by decide +kernel

theorem wit_FencesAreMade :
    createResult State.reset 0 {} = 2
    ∧ createResult (fencing 0) 0 (fencing 0).fnc.arg = 0
    ∧ ((fencing 0).mapDram 0).isSome = true
    ∧ ((fencing 0).chanError 0 = none ∧ ((fencing 0).chan 0).inj = 0 ∧ ((fencing 0).chan 0).marked 0 0 = false)
    ∧ (State.reset.fence 0).valid = false
    ∧ (({ State.reset with fnc := { fences := [(0, { valid := true })] } } : State).fence 0).valid = true
    ∧ (((polling 0).sq 0).next = some polled ∧ polled.phase = .polling ∧ handleModule polled.waitFence = (polling 0).trb.idModule)
    ∧ ((polling 0).mapDram ((polling 0).fence (handleIndex polled.waitFence)).recOff).isSome = true
    ∧ (polling 0x40000000000).mapDram ((polling 0x40000000000).fence (handleIndex polled.waitFence)).recOff = none
    ∧ ((homeRead (polling 0) 0 0 0 {} {}).2.status = stOK ∧ (polling 0).waitHeld 0 polled = false)
    ∧ (homeRead { polling 0 with mem := { chans := [(0, { state := 4 })] } } 0 0 0 {} {}).2.status ≠ stOK
    ∧ ((fencing 0).heldAt 0 = false ∧ (fencing 0).mapDram 0 = some { c := 0, off := 0, set := 0, epoch := 0 } ∧ (fencing 0).pfAnswers = true)
    ∧ (heldWait.heldAt 0 = true ∧ createResult { heldWait with fnc := (fencing 0).fnc } 0 (fencing 0).fnc.arg = 0 ∧ (heldWait.fence 0).valid = true ∧ heldWait.waitHeld 0 polled = true ∧ (heldWait.sq 0).next = some polled)
    ∧ ((polling 0).heldAt ((polling 0).fence 0).recOff = false ∧ ((polling 0).fence 0).valid = true ∧ (world.sq 0).next = none ∧ ready0 0 [] ≠ polled ∧ (ready0 0 []).phase ≠ .polling) := by decide +kernel

theorem wit_FencesAreMade_2 :
    ({ State.reset with mgt2 := { perst := true } } : State).pfAnswers = false
    ∧ ((fencing 0).fnc.cmd = none ∧ ({ fencing 0 with fnc := { (fencing 0).fnc with cmd := some (.destroy 3) } } : State).fnc.cmd ≠ none)
    ∧ ((heldWait.fence 0).valid = true ∧ heldWait.heldAt (heldWait.fence 0).recOff = true)
    ∧ (writeRecord (fencing 0) 0 0 { v := 5, state := 0, regress := false, err := 0, index := 3, gen := 1, errCtx := noCtx } {} { dpa := (fencing 0).ownDpa 0, access := 2, wr := true }).2.status = stOK
    ∧ ((writeRecord { fencing 0 with mem := { chans := [(0, { state := 4 })] } } 0 0 { v := 5, state := 0, regress := false, err := 0, index := 3, gen := 1, errCtx := noCtx } {} { dpa := 0, access := 2, wr := true }).2.status ≠ stOK ∧ createResult { fencing 0 with mem := { chans := [(0, { state := 4 })] } } 0 (fencing 0).fnc.arg = 0 ∧ ({ fencing 0 with mem := { chans := [(0, { state := 4 })] } } : State).heldAt 0 = false)
    ∧ ((fencing 0).fnc.arg.recOff % 16 = 0 ∧ (0 : Nat) % 64 ≤ 48 ∧ (fencing 0).mem.moves = [])
    ∧ ((readRecord (polling 0) (fenceLabels ((polling 0).sq 0).locket polled.facet) 0 {}).2.isSome = true ∧ (readRecord { polling 0 with mem := { chans := [(0, { state := 4 })] } } (fenceLabels 0 0) 0 {}).2 = none ∧ (polling 0).waitHeld 0 polled = false)
    ∧ (polled.hasWait = true ∧ ((polling 0).fence (handleIndex polled.waitFence)).gen = handleGen polled.waitFence ∧ ((polling 0).fence (handleIndex polled.waitFence)).valid = true)
    ∧ ((readRecord { polling 0 with mem := { chans := [(0, clean0.store 0 ((leBytes 8 0 ++ [2]) ++ List.replicate 55 0) false)] } } (fenceLabels 0 0) 0 {}).2.map (fun c => c.v)) = some 0
    ∧ (((readRecord (polling 0) (fenceLabels 0 0) 0 {}).2.map (fun c => (c.v, c.state))) = some (0, 0) ∧ polled.waitValue = 0)
    ∧ ((readRecord { polling 0 with mem := { chans := [(0, clean0.store 0 (({ v := 0, state := 2, regress := false, err := 1, index := 0, gen := 1, errCtx := 0 } : FenceRec).encode ++ List.replicate 48 0) false)] } } (fenceLabels 0 0) 0 {}).2.map (fun c => c.state)) = some 2
    ∧ (({ polled with data := desc 0 [(1, 1), (2, 0xFFFF), (4, 0x10000), (16, 9)] } : Desc).hasWait = true ∧ (polling 0).fnc.waits.length < 4096) := by decide +kernel

theorem wit_PoolCommandsChangeRecords :
    (State.reset.pfAnswers = true ∧ State.reset.pool.busy = false ∧ State.reset.pool.state ≠ 2)
    ∧ ((pooled {}).pool.state = 2 ∧ (pooled {}).pool.busy = false)
    ∧ (pooled {}).pool.blocks ≤ (2304 : BitVec 19).toNat
    ∧ ((0 : BitVec 19).toNat < (pooled {}).pool.recordBlocks ∧ (0 : BitVec 19).toNat < (pooled {}).pool.blocks)
    ∧ ((pooled {}).pool.recordBlocks = 1 ∧ (2303 : BitVec 19).toNat < (pooled {}).pool.blocks)
    ∧ (((pooled { state := 0, gen := 1 }).homeRec 1).state = 0 ∧ (pooled { state := 0, gen := 1 }).holdsLocket 0 = true ∧ (pooled {}).holdsLocket 1 = false)
    ∧ ((pooled { state := 1 }).homeRec 1).state = 1
    ∧ (((pooled { state := 2 }).homeRec 1).state = 2 ∧ (pooled { state := 2 }).blockBusy 1 = false)
    ∧ (((pooled { state := 3 }).homeRec 1).state = 3 ∧ (pooled { state := 3 }).blockBusy 1 = false)
    ∧ ((pooled { state := 4 }).homeRec 1).state = 4
    ∧ ((pooled { state := 5 }).homeRec 1).state = 5
    ∧ (({ pooled { state := 4 } with pool := { (pooled { state := 4 }).pool with clearing := some 1 } } : State).homeRec 1).state = 4
    ∧ ({ pooled { state := 4 } with pool := { (pooled { state := 4 }).pool with clearing := some 1 } } : State).blockBusy 1 = false
    ∧ ({ pooled { state := 2 } with mem := { inflight := [{ req0 .read (.chan 1 0) with dpa := 0x200000 }] } } : State).blockBusy 1 = true := by decide +kernel

theorem wit_PoolCommandsChangeRecords_2 :
    (({ pooled {} with pool := { (pooled {}).pool with busy := true } } : State).pool.busy = true ∧ ((pooled { state := 1 }).homeRec 1).state ≠ 2 ∧ ((pooled { state := 1 }).homeRec 1).state ≠ 3)
    ∧ (((pooled { state := 5 }).homeRec 1).state ≠ 1 ∧ ((pooled { state := 5 }).homeRec 1).state ≠ 4 ∧ (0xFFFFFFFF : Nat) < 2 ^ 32) := by decide +kernel

theorem wit_LeaseCommandsUseTheTable :
    (world.pfAnswers = true ∧ world.pool.lbusy = false ∧ (world.slot 0).state < 2 ∧ world.holdsLocket 0 = true)
    ∧ ({ world with pool := { argLocket := 1 } } : State).holdsLocket 1 = false
    ∧ (world.leaseHit 0 3 0 = none ∧ world.pool.leases.length < leaseEntries)
    ∧ leaseEntries ≤ (List.replicate leaseEntries ({ pool := 1, block := 1, locket := 1, gen := 1, state := 0 } : Lease)).length
    ∧ (2 ≤ ((withSlot { slot0 with state := 2 }).slot 0).state ∧ (leasing [] (some (leaseCmd0 1 1))).pfAnswers = true)
    ∧ ((leasing [lease0 0] none).leaseHit 0 3 0 = some (lease0 0) ∧ (leasing [lease0 1] none).leaseHit 0 3 0 = some (lease0 1) ∧ (leasing [lease0 3] none).leaseHit 0 3 0 = some (lease0 3))
    ∧ ((leasing [lease0 0] (some (leaseCmd0 4 2))).leaseHit 0 3 0 = some (lease0 0) ∧ (leasing [lease0 0] (some (leaseCmd0 4 2))).pool.cmd = some (leaseCmd0 4 2))
    ∧ ((leasing [] (some (leaseCmd0 1 1))).pool.cmd = some (leaseCmd0 1 1) ∧ (leasing [] (some (leaseCmd0 2 0))).pool.cmd = some (leaseCmd0 2 0) ∧ world.pool.cmd = none)
    ∧ ({ leasing [lease0 0] none with trb := { dyn := [(0, { tracker := [{ reqid := 0, dst := 0, purpose := .access { req0 .read .away with dpa := 3 * 0x200000 }, pkt := { pkind := 1, dst := 0, src := 1, lease := true } }] })] } } : State).leaseUnanswered (leaseCmd0 2 0) = true
    ∧ ({ leasing [] none with pool := { lbusy := true } } : State).pool.lbusy = true
    ∧ ((lease0 0).state ≠ 3 ∧ (lease0 3).state = 3)
    ∧ (leasing [lease0 0] none).leaseUnanswered (leaseCmd0 2 0) = false := by decide +kernel

theorem wit_FlitsReadBack :
    ({ kind := 4, seq := 4095, ack := 4095, cvc := 7, cred := 4095, start := 15, fvc := 7, hold := 1023, body := List.replicate 240 0 } : Flit).kind < 5
    ∧ ({ kind := 4, body := List.replicate 240 0 } : Flit).body.length = 240 := by decide +kernel

theorem wit_FlitsAreHandled :
    (withPort port0 {}).portLive 0 = true
    ∧ (flitGood (flit0 0 0).encode = true ∧ Flit.decode (flit0 0 0).encode = flit0 0 0)
    ∧ (flitGood (flit0 1 0).encode = true ∧ Flit.decode (flit0 1 0).encode = flit0 1 0)
    ∧ (flitGood (flit0 1 1).encode = true ∧ Flit.decode (flit0 1 1).encode = flit0 1 1 ∧ ((withPort port0 {}).dyn 0).link.expect = 1)
    ∧ (flitGood (flit0 2 0).encode = true ∧ ((withPort port0 {}).dyn 0).link.queue = [])
    ∧ flitGood 0 = false
    ∧ ((withPort port0 { link := { replay := [{ seq := 0, vc := 0, start := 0, body := [] }] } }).dyn 0).link.replay ≠ []
    ∧ ((withPort port0 {}).dyn 0).link.replay = []
    ∧ (flitGood (flit0 4 0).encode = true ∧ Flit.decode (flit0 4 0).encode = flit0 4 0)
    ∧ (((withPort { reflect := true } {}).port 0).en = false ∧ ((withPort { reflect := true } {}).port 0).reflect = true ∧ ((withPort { reflect := true } {}).dyn 0).testBusy = false)
    ∧ ((withPort { port0 with state := 1 } {}).portLive 0 = false ∧ (flit0 1 0).fvc < 6 ∧ ((withPort port0 {}).dyn 0).marked = 0)
    ∧ (((withPort port0 { marked := 2 }).dyn 0).marked ≠ 0 ∧ ((withPort port0 {}).port 0).state = 3 ∧ (State.reset.port 0).state ≠ 2 ∧ (State.reset.port 0).state ≠ 3 ∧ (State.reset.port 0).state ≠ 4)
    ∧ ((3 : Fin 5).val ≠ 0 ∧ (0 : Fin 5).val = 0)
    ∧ ((withPort port0 {}).delineated 0 = true ∧ (withPort { port0 with state := 2 } {}).delineated 0 = false ∧ (withPort { port0 with state := 2 } { good := 8 }).delineated 0 = true) := by decide +kernel

theorem wit_FlitsAreHandled_2 :
    ((withPort { loop := 4, state := 6 } { testBusy := true, pattern := .flits 5 }).testsFlits 0 = true ∧ (withPort { loop := 4, state := 6 } { testBusy := true, pattern := .flits 5 }).portLive 0 = false ∧ (withPort { loop := 4, state := 6 } { testBusy := true, pattern := .flits 5 }).delineated 0 = true ∧ ((withPort { loop := 4, state := 6 } { testBusy := true, pattern := .flits 5 }).port 0).state = 6)
    ∧ ((withPort { loop := 3, state := 6 } { testBusy := true, pattern := .loops }).testsFlits 0 = false ∧ ((withPort { loop := 3, state := 6 } { testBusy := true, pattern := .loops }).dyn 0).pattern = .loops ∧ ((withPort { loop := 3, state := 6 } { testBusy := true, pattern := .prbs31 }).dyn 0).pattern ≠ .loops)
    ∧ ((withPort { reflect := true } {}).reflects 0 = true ∧ (withPort port0 {}).reflects 0 = false ∧ ((withPort port0 {}).dyn 0).testBusy = false ∧ ((withPort port0 {}).port 0).en = true)
    ∧ (decide ((0 : Fin 5).val ≠ 0) || decide (((withPort port0 {}).dyn 0).marked ≠ 0) || !flitGood (flit0 1 1).encode) = false := by decide +kernel

theorem wit_PortsTrainAndTest :
    (State.reset.pfAnswers = true ∧ (State.reset.port 0).en = false ∧ (State.reset.dyn 0).testBusy = false)
    ∧ ((withPort port0 {}).port 0).en = true
    ∧ (((withPort { port0 with state := 1 } {}).port 0).state = 1 ∧ (2 : Fin 4).val ≤ port0.maxLanes + 1)
    ∧ (flitGood hello0.encode = true ∧ Flit.decode hello0.encode = hello0 ∧ helloReason (withPort { port0 with state := 2 } {}) 0 hello0.body = 0 ∧ bit (leNat ((hello0.body.drop 5).take 1)) 0 = true)
    ∧ (flitGood (flit0 3 0).encode = true ∧ Flit.decode (flit0 3 0).encode = flit0 3 0 ∧ helloReason (withPort { port0 with state := 2 } {}) 0 (flit0 3 0).body ≠ 0)
    ∧ ((withPort { port0 with state := 4 } {}).port 0).state = 4
    ∧ ((withPort port0 {}).port 0).state = 3
    ∧ (((withPort { port0 with state := 7 } {}).port 0).state = 7 ∧ ((withPort { port0 with state := 7 } {}).dyn 0).link.queue = [])
    ∧ ({ State.reset with trb := { echoBusy := true } } : State).trb.echoBusy = true
    ∧ (State.reset.trb.echoBusy = false ∧ (State.reset.tagKeys 0).cur = none)
    ∧ ({ withPort port0 {} with trb := { (withPort port0 {}).trb with keys := [(0, { cur := some { gen := 0, key := 7 } })] } } : State).egress 1 = some 0
    ∧ (({ withPort port0 {} with trb := { (withPort port0 {}).trb with keys := [(0, { cur := some { gen := 0, key := 7 } })] } } : State).tagKeys 0).cur ≠ none
    ∧ (((withPort { loop := 3 } {}).port 0).en = false ∧ ((withPort { loop := 3 } {}).port 0).loop ≠ 0)
    ∧ (((withPort { loop := 3 } { testBusy := true }).dyn 0).testBusy = true ∧ 3 ≤ ((withPort { loop := 3 } { testBusy := true }).port 0).loop) := by decide +kernel

theorem wit_PortsTrainAndTest_2 :
    (((withPort port0 { testBusy := true }).dyn 0).testBusy = true ∧ ({ State.reset with mgt2 := { perst := true } } : State).pfAnswers = false)
    ∧ (((withPort { port0 with state := 1, slow := true } {}).port 0).slow = true ∧ (0 : Fin 4).val = 0 ∧ ({ port0 with maxLanes := 0 } : Port).maxLanes + 1 < (2 : Fin 4).val)
    ∧ (((withPort { port0 with state := 2 } { marked := 1 }).dyn 0).marked ≠ 0 ∧ (flit0 1 0).kind ≠ 3 ∧ hello0.kind = 3 ∧ hello0.fvc < 6)
    ∧ helloReason (withPort { port0 with state := 2 } {}) 0 { hello0 with body := leBytes 2 1 ++ [BitVec.ofNat 8 (partnerPort 0)] ++ leBytes 2 1 ++ [0] ++ List.replicate 234 0 }.body = 0
    ∧ (((withPort { port0 with state := 5 } {}).port 0).state ≠ 2 ∧ ((withPort { port0 with state := 5 } {}).port 0).state ≠ 3 ∧ ((withPort { port0 with state := 5 } {}).port 0).state ≠ 4 ∧ ((withPort { port0 with state := 5 } {}).port 0).state ≠ 7 ∧ ((withPort { port0 with state := 5 } {}).port 0).state ≠ 1)
    ∧ (((withPort port0 {}).port 0).en = true ∧ ((withPort { port0 with state := 2 } {}).port 0).state = 2)
    ∧ ((withPort port0 {}).egress 7 = none ∧ (withPort { loop := 2 } { testBusy := true }).port 0 = { loop := 2 } ∧ (State.reset.port 0).loop = 0)
    ∧ (((withPort { port0 with state := 2 } {}).dyn 0).good < 8 ∧ 8 ≤ ((withPort { port0 with state := 2 } { good := 8 }).dyn 0).good ∧ ((withPort { port0 with state := 2 } { good := 8 }).port 0).state = 2)
    ∧ helloReason (withPort { port0 with state := 2 } { good := 8 }) 0 hello0.body = 0
    ∧ (((withPort { loop := 4 } { testBusy := true, pattern := .loops }).dyn 0).pattern = .loops ∧ ((withPort { loop := 4 } { testBusy := true, pattern := .flits 3 }).dyn 0).pattern ≠ .loops ∧ ((withPort { loop := 4 } { testBusy := true }).port 0).loop = 4 ∧ ((withPort { loop := 3 } { testBusy := true, pattern := .prbs31 }).port 0).loop ≠ 4) := by decide +kernel

theorem wit_PacketsAreOpened :
    (withPacket (pkt0 1 0 5)).arrivedFor 3 [1] = some (arrived0 (pkt0 1 0 5))
    ∧ ({ withPacket (pkt0 1 0 5) with trb := { (withPacket (pkt0 1 0 5)).trb with retired := [5] } } : State).trb.retired.contains 5 = true
    ∧ ((withPacket (pkt0 1 0 5)).trb.retired.contains 5 = false ∧ (withPacket (pkt0 1 0 5)).slotOfTag 5 ≠ none)
    ∧ unprotect (withPacket { pkt0 1 0 5 with enc := false }) { pkt0 1 0 5 with enc := false } = none
    ∧ ((withPacket (pkt0 1 0 9)).slotOfTag 9 = none ∧ (pkt0 1 0 9).isRequest = true ∧ (withPacket (pkt0 1 0 9)).arrivedFor 3 [1] = some (arrived0 (pkt0 1 0 9)))
    ∧ ((withPacket (pkt0 0x30 0 5)).trb.arrived.find? (fun a => a.pid == 3) = some (arrived0 (pkt0 0x30 0 5)) ∧ (pkt0 0x30 0 5).dst = (withPacket (pkt0 0x30 0 5)).trb.idModule)
    ∧ [0x01, 0x02, 0x03, 0x08, 0x09, 0x10, 0x11, 0x20, 0x21].contains (pkt0 0x30 0 5).pkind = false
    ∧ ((withPacket (pkt0 1 1 5)).trb.arrived.find? (fun a => a.pid == 3) = some (arrived0 (pkt0 1 1 5)) ∧ (pkt0 1 1 5).dst ≠ (withPacket (pkt0 1 1 5)).trb.idModule)
    ∧ ((withPacket (pkt0 1 1 5)).trb.arrived.takeWhile (fun x => x.pid != 3)).any (fun x => x.port == 0 && x.vc == 0) = false
    ∧ (({ withPacket (pkt0 1 1 5) with trb := { (withPacket (pkt0 1 1 5)).trb with hold := [1] } } : State).trb.hold.contains 1 = true ∧ classVc 1 = 0)
    ∧ (consumePacket (withPacket (pkt0 1 1 5)) (arrived0 (pkt0 1 1 5))).egress 1 = some 0
    ∧ max 1 (2 + 1) + ((withPacket (pkt0 1 1 5)).port 0).dly < (pkt0 1 1 5).budget
    ∧ (consumePacket (withPacket (pkt0 1 7 5)) (arrived0 (pkt0 1 7 5))).egress 7 = none
    ∧ ((0 : Nat) ≤ 100 ∧ (pkt0 1 0 5).budget ≤ (arrived0 (pkt0 1 0 5)).hold + 98 ∧ (arrived0 (pkt0 1 0 5)).hold + 97 < (pkt0 1 0 5).budget) := by decide +kernel

theorem wit_PacketsAreOpened_2 :
    ((pkt0 1 1 5).budget ≤ max 1 (2 + 100) + ((withPacket (pkt0 1 1 5)).port 0).dly ∧ (pkt0 0x10 0 5).pkind = 0x10 ∧ (pkt0 1 0 5).pkind ≠ 0x10)
    ∧ (world.trb.arrived.find? (fun a => a.pid == 3) = none ∧ ({ withPacket (pkt0 1 1 5) with trb := { (withPacket (pkt0 1 1 5)).trb with arrived := [{ arrived0 (pkt0 1 1 5) with pid := 2 }, arrived0 (pkt0 1 1 5)] } } : State).trb.arrived.takeWhile (fun x => x.pid != 3) ≠ [])
    ∧ ((withPacket (pkt0 8 0 9)).arrivedFor 3 [8] = some (arrived0 (pkt0 8 0 9)) ∧ (withPacket (pkt0 8 0 9)).slotOfTag 9 = none ∧ (withPacket (pkt0 8 0 9)).trb.retired.contains 9 = false ∧ (pkt0 8 0 9).tag ≠ 0) := by decide +kernel

theorem wit_ControlStepHoldsTheLimit :
    ({ State.reset with rst := { running := true } } : State).moduleFenced = true
    ∧ ({ State.reset with mgt := { fw := { restarting := true } } } : State).mgt.fw.restarting = true
    ∧ (State.reset.mgt.fw.restarting = false ∧ State.reset.moduleFenced = false ∧ State.reset.pdyn.driftRun < 19)
    ∧ ({ State.reset with pdyn := { driftRun := 19 } } : State).pdyn.driftRun = 19
    ∧ (agrees 100 100 = true ∧ agrees 100 0 = false) := by decide +kernel

theorem wit_PeakAndBrakeSlowTheCores :
    (({ State.reset with pdyn := { cores := [(0, { want := some 0x30 })] } } : State).pcore 0).want = some 0x30
    ∧ (State.reset.pcore 0).want = none
    ∧ (0 : Nat) ≤ State.reset.pwr.peakW * 1
    ∧ (State.reset.pwr.peakW * 1 < 821 ∧ State.reset.pdyn.trip = false)
    ∧ ({ State.reset with pdyn := { peak := true, peakSkip := 12, fast := [100] } } : State).pdyn.fast.foldl (· + ·) 0 * 100 < 95 * 0x334 * 1
    ∧ (∀ n, n < 192 → (({ State.reset with pdyn := { peak := true, peakSkip := 12, fast := [100] } } : State).pcore n).skip < 12 - 1)
    ∧ (∀ n, n < 192 → 1 - 1 ≤ (({ State.reset with pdyn := { peak := true, peakSkip := 1, fast := [100] } } : State).pcore n).skip)
    ∧ 95 * 0x334 * 1 ≤ [900].foldl (· + ·) 0 * 100
    ∧ ({ State.reset with pdyn := { brake := true, brakeHold := true } } : State).pdyn.brake = true
    ∧ (State.reset.pdyn.brake = false ∧ State.reset.moduleFenced = false ∧ State.reset.pdyn.brakeHold = false)
    ∧ (({ State.reset with pdyn := { brakeHold := true } } : State).pdyn.brakeHold = true ∧ ({ State.reset with pdyn := { brakeHold := true } } : State).pdyn.brake = false)
    ∧ (({ State.reset with pdyn := { peak := true, peakSkip := 12, fast := [100] } } : State).pdyn.peak = true ∧ State.reset.pdyn.peak = false)
    ∧ (({ State.reset with pdyn := { trip := true, brakeHold := true } } : State).pdyn.trip = true ∧ ({ State.reset with rst := { running := true } } : State).moduleFenced = true ∧ ({ State.reset with rst := { running := true } } : State).pdyn.brake = false ∧ ({ State.reset with rst := { running := true } } : State).pdyn.trip = false ∧ ({ State.reset with rst := { running := true } } : State).mgt2.power ≠ 0)
    ∧ (({ State.reset with mgt2 := { power := 0 } } : State).mgt2.power = 0 ∧ ({ State.reset with mgt2 := { power := 0 } } : State).pdyn.brake = false) := by decide +kernel

theorem wit_DroopAndMargin :
    (State.reset.governed 0 = true ∧ State.reset.mgt.fw.restarting = false)
    ∧ (State.reset.pcore 0).learns = false
    ∧ (({ State.reset with pwr := { ageMode := true }, pdyn := { cores := [(0, { samples := 100 })] } } : State).pcore 0).learns = true
    ∧ ({ State.reset with pdyn := { trip := true } } : State).governed 0 = false
    ∧ ((({ State.reset with pdyn := { cores := [(0, { samples := 100 })] } } : State).pcore 0).learns = true ∧ State.reset.pwr.ageMode = false)
    ∧ (∀ m, m < 48 → 1000 ≤ (({ State.reset with pdyn := { cores := (upto 48).map (fun n => (n, { trimRun := 1000 })) } } : State).pcore (48 * 0 + m)).trimRun ∧ (({ State.reset with pdyn := { cores := (upto 48).map (fun n => (n, { trimRun := 1000 })) } } : State).pcore (48 * 0 + m)).block = 0)
    ∧ (State.reset.pcore (48 * 0 + 3)).trimRun < 1000
    ∧ ((9998 : Nat) < 9999 ∧ (9999 : Nat) ≤ ({ monRun := 9999 } : PCore).monRun ∧ (State.reset.pcore 0).fSet ≠ 0x48)
    ∧ ((5 : MonitorIx).val = (5 : CoreIx).val ∧ State.reset.mgt2.power ≠ 0 ∧ 192 ≤ (192 : MonitorIx).val ∧ ({ State.reset with mgt2 := { power := 0 } } : State).mgt2.power = 0 ∧ ({ restarting := true } : Fw).restarting = true)
    ∧ (∃ m, m < 48 ∧ State.reset.governed (48 * 0 + m) = true)
    ∧ ({ State.reset with rst := { retiredCores := [3] } } : State).governed 3 = false := by decide +kernel

theorem wit_HeatAndSupplies :
    ({ State.reset with mgt2 := { power := 0 } } : State).mgt2.power = 0
    ∧ (State.reset.mgt2.power = 1 ∧ State.reset.moduleFenced = false ∧ State.reset.pdyn.trip = false)
    ∧ (SMap.wf pcoreD State.reset.pdyn.cores = true ∧ State.reset.mgt.fw.restarting = false)
    ∧ SMap.wf pcoreD ({ State.reset with pwr := { hotSensors := [3] }, pdyn := { cores := [(3, { heatSkip := 2 })] } } : State).pdyn.cores = true
    ∧ (State.reset.rst.running = false ∧ State.reset.mgt2.trayReq = false)
    ∧ (({ State.reset with pdyn := { trip := true } } : State).pdyn.trip = true ∧ State.reset.pwr.hotSensors.contains 3 = false ∧ [3].contains 3 = true)
    ∧ ((9 : Fin 12).val < 10 ∧ 10 ≤ (10 : Fin 12).val)
    ∧ (({ State.reset with rst := { running := true } } : State).pdyn.trip = false ∧ ({ State.reset with rst := { running := true } } : State).moduleFenced = true ∧ 105 * 8 ≤ (some 840 : Option Int).getD 0) := by decide +kernel

theorem wit_InterruptsAreTaken :
    sourced.selected 0 = some 7
    ∧ State.reset.selected 0 = none
    ∧ ((stacked none).intTgt 0 = { enable := true, stack := [(7, 4)] } ∧ ((stacked none).intSrc 7).newCfg = none)
    ∧ ((stacked (some (1, 2, true))).intSrc 7).newCfg = some (1, 2, true)
    ∧ (State.reset.intTgt 0).stack = []
    ∧ intAssigned 0 = true
    ∧ (∃ i, i < 1024 ∧ intAssigned i = false)
    ∧ ((0x3F0 : BitVec 10).toNat = 0x3F0 ∧ (0x3EF : BitVec 10).toNat < 0x3F0)
    ∧ bits (0x800 : BitVec 32).toNat 8 4 = 8
    ∧ (((stacked (some (1, 2, true))).intSrc 7).newCfg = some (1, 2, true) ∧ ((stacked (some (1, 2, true))).intSrc 7).active = true)
    ∧ (({ State.reset with int := { srcs := [(7, { newCfg := some (1, 2, true) })] } } : State).intSrc 7).active = false
    ∧ (8 < bits (0x900 : BitVec 32).toNat 8 4 ∧ (State.reset.intSrc 7).newCfg = none)
    ∧ ((State.reset.intSrc 7).newCfg = none ∧ (State.reset.intTgt 0).stack ≠ [(7, 4)]) := by decide +kernel

theorem wit_SelectionIsRight :
    (SMap.wf intSrcD sourced.int.srcs = true ∧ sourced.selected 0 = some 7)
    ∧ sourced.eligible 0 3 = true
    ∧ ((sourced.intTgt 0).stack = [] ∧ (sourced.intSrc 3).pend = true ∧ (sourced.intSrc 3).enable = true ∧ (sourced.intSrc 3).active = false ∧ (sourced.intSrc 3).target = 0)
    ∧ ((sourced.intSrc 0).pend = false ∧ (sourced.intSrc 3).target ≠ 1)
    ∧ (((stacked none).intTgt 0).stack = (7, 4) :: [] ∧ ((stacked none).intTgt 0).stack.length < 8 ∧ ((stacked none).intSrc 7).active = true)
    ∧ (((stacked none).intTgt 0).stack = (7, 4) :: [] ∧ (4 : Nat) < 0x100 ∧ 8 ≤ (List.replicate 8 (7, 4)).length) := by decide +kernel

theorem wit_CoreResets :
    (running.pfAnswers = true ∧ (running.core 0).parked = false ∧ (running.core 0).resetting = false)
    ∧ (State.reset.coreTask 0).isNone = true
    ∧ (((runningWith { resetting := true }).core 0).resetting = true ∧ ((runningWith { resetting := true }).core 0).ownFault = false)
    ∧ (({ runningWith { resetting := true, ownFault := true } with rst := { failTimes := [(0, [7])], clock := 1007 } } : State).core 0).ownFault = true
    ∧ ((SMap.get (fun _ => []) ({ runningWith { resetting := true, ownFault := true } with rst := { failTimes := [(0, [7])], clock := 1007 } } : State).rst.failTimes 0).any (fun x => decide (1007 - x ≤ 1000)) = true ∧ ([7] : List Nat).any (fun x => decide (1008 - x ≤ 1000)) = false)
    ∧ (({ State.reset with mgt2 := { perst := true } } : State).pfAnswers = false ∧ ({ State.reset with rst := { jtag := true } } : State).moduleFenced = true)
    ∧ ((runningWith { core0 with parked := true }).core 0).parked = true
    ∧ (world.coreTaken 0 = false ∧ ({ runningWith { resetting := true, taken := true } with lkt := { slots := [(0, { slot0 with state := 2, resetting := true })] } } : State).coreTaken 0 = true)
    ∧ (∀ a, a ∈ ({ world with fnc := { world.fnc with aborts := [{ ctx := 5 }] } } : State).fnc.aborts → a.takers = []) := by decide +kernel

theorem wit_LocketResetsAndRetirement :
    (world.pfAnswers = true ∧ (world.slot 0).state = 1 ∧ (world.slot 0).resetting = false)
    ∧ (world.slot 1).state ≠ 1
    ∧ (((withSlot { slot0 with state := 2, resetting := true }).slot 0).resetting = true ∧ ((withSlot { slot0 with state := 2, resetting := true }).slot 0).rstCause ≠ 2)
    ∧ ((191 : BitVec 16).toNat < 192 ∧ world.coreRetired 191 = false)
    ∧ ({ world with rst := { retiredCores := [191] } } : State).coreRetired 191 = true
    ∧ ((0x17F : BitVec 16).toNat = chanUnit 127 ∧ (world.chan 127).retired = false)
    ∧ ((withChan { retired := true }).chan 0).retired = true
    ∧ (192 ≤ (192 : BitVec 16).toNat ∧ ∀ c, c < 128 → (192 : BitVec 16).toNat ≠ chanUnit c)
    ∧ (((withSlot { slot0 with state := 2, resetting := true, rstCause := 2 }).slot 0).rstCause = 2 ∧ 0 ∈ slot0.active.coreList ∧ (world.core 0).ownFault = false)
    ∧ (∀ m, m ∈ world.mem.moves → m.src ≠ 127 ∧ m.dst ≠ 127)
    ∧ ((∀ n, n ∈ ((withSlot { slot0 with state := 2, resetting := true }).slot 0).active.coreList → ((withSlot { slot0 with state := 2, resetting := true }).core n).taken = false) ∧ (withSlot { slot0 with state := 2, resetting := true }).fnc.cmd = none)
    ∧ ((({ withSlot { slot0 with state := 2, resetting := true } with cores := [(0, { resetting := true, taken := true })] } : State).core 0).taken = true ∧ 0 ∈ slot0.active.coreList) := by decide +kernel

theorem wit_ModuleResetsAndLog :
    (State.reset.pfAnswers = true ∧ State.reset.mgt2.power = 1 ∧ State.reset.pdyn.trip = false ∧ State.reset.rst.running = false)
    ∧ (({ State.reset with rst := { running := true } } : State).rst.running = true ∧ ({ State.reset with rst := { running := true } } : State).mgt2.trayReq = false ∧ ({ State.reset with rst := { running := true } } : State).mgt.fw.recovery = false)
    ∧ (1 : BitVec 64) ≠ 0
    ∧ (!State.reset.rst.running && !State.reset.mgt2.trayReq && State.reset.mgt2.power == 1 && (!State.reset.pdyn.trip || State.reset.cool)) = true
    ∧ ((1 : Fin 7).val ≠ 0 ∧ ({ State.reset with pdyn := { trip := true } } : State).cool = true ∧ (!({ State.reset with rst := { running := true } } : State).rst.running) = false)
    ∧ (({ State.reset with mgt := { fw := { recovery := true } } } : State).mgt.fw.recovery = true ∧ ({ State.reset with mgt := { fw := { restarting := true } } } : State).mgt.fw.restarting = true)
    ∧ (({ State.reset with mgt2 := { trayReq := true } } : State).mgt2.trayReq = true ∧ ({ State.reset with mgt2 := { power := 0 } } : State).mgt2.power = 0)
    ∧ (({ State.reset with pdyn := { trip := true }, pwr := { temps := [(0, 110 * 8)] } } : State).cool = false ∧ ({ State.reset with pdyn := { trip := true }, pwr := { temps := [(0, 110 * 8)] } } : State).pdyn.trip = true ∧ ({ State.reset with rst := { running := true } } : State).mgt.fw.restarting = false) := by decide +kernel

theorem wit_WatchdogsEscalate :
    (State.reset.rst.queueMs ≠ 0 ∧ State.reset.watchPaused 0 = false)
    ∧ (∀ e, e ∈ (State.reset.sq 0).descs → e.begun = false)
    ∧ (((begun 0 8 [(32, 5)]).sq 0).descs.find? (fun e => e.begun) = some (begunDesc 8 [(32, 5)]) ∧ (begunDesc 8 [(32, 5)]).recordCtx ((begun 0 8 [(32, 5)]).sq 0) = 5 ∧ ((begun 0 8 [(32, 5)]).ctx 5).state = 1)
    ∧ (((begun 1 0x20 []).sq 0).descs.find? (fun e => e.begun) = some (begunDesc 0x20 []) ∧ 4096 ≤ (begunDesc 0x20 []).recordCtx ((begun 1 0x20 []).sq 0) ∧ ((begun 1 0x20 []).slot (((begun 1 0x20 []).sq 0).func - 1)).state = 1)
    ∧ (4096 ≤ (begunDesc 0x20 []).recordCtx ((begun 0 0x20 []).sq 0) ∧ ((begun 0 0x20 []).sq 0).func = 0)
    ∧ (({ world with fnc := { world.fnc with aborts := [{ ctx := 5 }] } } : State).fnc.aborts.any (fun a => a.ctx == 5) = true ∧ world.rst.running = false ∧ (world.core 0).resetting = false)
    ∧ (((world.slot (world.ctx 5).locket).state = 1) ∧ (world.slot (world.ctx 5).locket).resetting = false)
    ∧ (((runningWith { resetting := true }).core 0).resetting = true ∧ (runningWith { resetting := true }).coreOwner 0 = some 0)
    ∧ (((withSlot { slot0 with resetting := true }).slot 0).resetting = true ∧ (withSlot { slot0 with resetting := true }).moduleFenced = false ∧ (withSlot { slot0 with resetting := true }).pdyn.trip = false)
    ∧ (({ State.reset with rst := { running := true } } : State).rst.running = true ∧ State.reset.mgt2.power ≠ 0)
    ∧ ((begunDesc 8 [(32, 6)]).recordCtx ((begun 0 8 [(32, 6)]).sq 0) = 6 ∧ ((begun 0 8 [(32, 6)]).ctx 6).state ≠ 1 ∧ (begun 0 8 []).watchPaused 0 = false)
    ∧ (({ State.reset with rst := { queueMs := 0 } } : State).rst.queueMs = 0 ∧ world.fnc.aborts.any (fun a => a.ctx == 5) = false ∧ ([0] : List (Fin 192)) ≠ [])
    ∧ (((runningWith { resetting := true }).core 0).resetting = true ∧ ({ State.reset with cores := [(5, { resetting := true })] } : State).coreOwner 5 = none ∧ ({ runningWith { resetting := true } with } : State).slot 0 = slot0 ∧ (world.core 0).resetting = false ∧ (world.slot 0).resetting = false ∧ State.reset.rst.running = false)
    ∧ world.coreOwner 0 = some 0 := by decide +kernel

theorem wit_FirmwareIsUpdated :
    (State.reset.decridUp = true ∧ State.reset.mgt.fw.recovery = false ∧ Transport.i3c ≠ .doe)
    ∧ (({ b := { st := .trial } } : Fw).find .trial).isSome = true
    ∧ (({} : Fw).find .trial = none ∧ ({} : Fw).update = 0)
    ∧ (({ update := 1, agent := some .i3c } : Fw).agent ≠ some .smbus ∧ ({ update := 1, agent := some .i3c } : Fw).update ≠ 0)
    ∧ (({ update := 1 } : Fw).update = 1 ∧ ({ update := 1 } : Fw).applied = false)
    ∧ (imageRegion + [(0 : BitVec 8)].length > imageRegion ∧ 0 + [(0 : BitVec 8)].length ≤ imageRegion)
    ∧ (({ update := 2 } : Fw).update = 2 ∧ ({ applied := true } : Fw).applied = true)
    ∧ (State.reset.decridRuns = true ∧ State.reset.allFree = true ∧ world.allFree = false)
    ∧ (({} : Fw).find .pending = none ∧ ({ b := { st := .pending } } : Fw).find .pending = some true ∧ ({ b := { st := .trial } } : Fw).find .trial = some true)
    ∧ ({ restarting := true, thenReset := true } : Fw).thenReset = true
    ∧ (({ State.reset with mgt := { fw := { restarting := true } } } : State).decridUp = false ∧ ({ State.reset with mgt2 := { perst := true } } : State).pfAnswers = false)
    ∧ (({ recovery := true } : Fw).recovery = true ∧ ({} : Fw).update ≠ 1 ∧ ({} : Fw).update ≠ 2 ∧ ({} : Fw).applied = false)
    ∧ (({ restarting := true } : Fw).restarting = true ∧ ({ restarting := true } : Fw).thenReset = false ∧ State.reset.rst.running = false ∧ State.reset.mgt2.trayReq = false ∧ State.reset.mgt2.power = 1 ∧ State.reset.pdyn.trip = false)
    ∧ (({ b := { st := .trial } } : Fw).find .trial = some true ∧ ({ recovery := true } : Fw).restarting = false) := by decide +kernel

theorem wit_DecridAnswers :
    State.reset.decridRuns = true
    ∧ (State.reset.sensor 0x101).isSome = true
    ∧ State.reset.sensor 0 = none
    ∧ ({ State.reset with mgt := { spdm := [(0, 1)] } } : State).spdmAt .i3c = 1
    ∧ ({ State.reset with mgt := { spdm := [(0, 2)] } } : State).spdmAt .i3c = 2
    ∧ ({ State.reset with mgt := { spdm := [(0, 3)] } } : State).spdmAt .i3c = 3
    ∧ State.reset.spdmAt .i3c < 2
    ∧ (({ State.reset with mgt := { fw := { recovery := true } } } : State).decridUp = true ∧ ({ State.reset with mgt := { fw := { recovery := true } } } : State).decridRuns = false ∧ ({ State.reset with mgt := { fw := { restarting := true } } } : State).decridUp = false)
    ∧ ((0x220 : BitVec 16) = 0x220 ∧ (0x101 : BitVec 16) ≠ 0x220 ∧ State.reset.spdmAt .i3c < 1 ∧ (1 : Fin 8).val ≤ 1 ∧ 2 ≤ (2 : Fin 8).val)
    ∧ (1 ≤ (11 : BitVec 8).toNat ∧ (11 : BitVec 8).toNat ≤ 11 ∧ 11 < (12 : BitVec 8).toNat ∧ (0xFE : BitVec 8).toNat < 0xFF)
    ∧ (State.reset.pfAnswers = true ∧ Transport.i3c ≠ .doe ∧ ({ State.reset with mgt2 := { perst := true } } : State).pfAnswers = false ∧ ({ State.reset with mgt2 := { perst := true } } : State).decridRuns = true) := by decide +kernel

theorem wit_SessionsAndKeys :
    (State.reset.decridRuns = true ∧ ({ State.reset with mgt := { spdm := [(0, 3)] } } : State).spdmAt .i3c = 3)
    ∧ 8 ≤ (List.replicate 8 (session0 .i3c none)).length
    ∧ State.reset.mgt.sessions.length < 8
    ∧ [({ sid := 1, transport := .i3c } : Session)].any (fun y => y.sid == 1 && !y.finished) = true
    ∧ State.reset.session? 1 = none
    ∧ ((withSession (session0 .i3c none) {}).session? 1 = some (session0 .i3c none) ∧ (session0 .i3c none).byBmc = true ∧ (withSession (session0 .i3c none) {}).mgt.owner = none)
    ∧ ((session0 .vdm none).byBmc = false ∧ (withSession (session0 .vdm none) { owner := some 1 }).mgt.owner.isSome = true)
    ∧ (withSession (session0 .vdm none) { owner := some 1 }).ownerSession (session0 .vdm none) = false
    ∧ (State.reset.tagHeld 0 = true ∧ (State.reset.tagKeys 0).cur = none)
    ∧ (State.reset.tagHeld 9 = false ∧ State.reset.trb.staged.any (fun e => e.1 == 9) = false ∧ State.reset.trb.staged.length < 32)
    ∧ 32 ≤ (List.replicate 32 ((1 : Nat), ({ gen := 0, key := 0 } : Key))).length
    ∧ ((({ State.reset with trb := { keys := [(0, { cur := some { gen := 65535, key := 7 } })] } } : State).tagKeys 0).cur = some { gen := 65535, key := 7 } ∧ (0 : BitVec 16).toNat = (65535 + 1) % 65536)
    ∧ (({ State.reset with trb := { keys := [(0, { cur := some { gen := 0, key := 7 }, other := some { gen := 1, key := 8 }, otherNext := true })] } } : State).tagKeys 0).other = some { gen := 1, key := 8 }
    ∧ (State.reset.spdmAt .i3c < 3 ∧ ({ State.reset with mgt := { fw := { restarting := true } } } : State).decridRuns = false) := by decide +kernel

theorem wit_SessionsAndKeys_2 :
    [session0 .i3c none].any (fun y => y.sid == 1 && !y.finished) = false
    ∧ ((1 : BitVec 16).toNat ≠ (65535 + 1) % 65536 ∧ ({ gen := 1, key := 8 } : Key).gen = (1 : BitVec 16).toNat ∧ ({ gen := 1, key := 8 } : Key).gen ≠ (2 : BitVec 16).toNat ∧ ({} : TagKeys).other = none ∧ ({} : TagKeys).otherNext = false)
    ∧ ([((9 : Nat), ({ gen := 0, key := 0 } : Key))].any (fun e => e.1 == 9) = true ∧ (session0 .vdm none).byBmc = false ∧ (64 : Nat) ≤ 64 ∧ (64 : Nat) < 65)
    ∧ (vfSession.mgt.sessions.any (fun y => y.sid == 1 && y.transport == .doe) = true ∧ vfSession.session? 1 = some (session0 .doe none) ∧ (session0 .doe none).transport = .doe ∧ (session0 .i3c none).transport ≠ .doe)
    ∧ (({ vfSession with mgt2 := { perst := true } } : State).pfAnswers = false ∧ ({ vfSession with mgt2 := { perst := true } } : State).decridRuns = true) := by decide +kernel

theorem wit_DebugOpensAndCloses :
    (State.reset.decridRuns = true ∧ (withSession (session0 .i3c none) {}).session? 1 = some (session0 .i3c none))
    ∧ (State.reset.tokenResult 1 [] 0 ≠ 0 ∧ State.reset.tokenResult 2 [] 0 ≠ 0)
    ∧ ({ State.reset with mgt := { dbgState := 1 } } : State).mgt.dbgState = 1
    ∧ State.reset.mgt.dbgState ≠ 1
    ∧ ((withSession (session0 .i3c none) {}).allFree = true ∧ ({ withSession (session0 .i3c none) {} with lkt := world.lkt } : State).allFree = false)
    ∧ (State.reset.unitRetired 0 = false ∧ ({ State.reset with rst := { retiredCores := [0] } } : State).unitRetired 0 = true)
    ∧ (imageField (List.replicate 192 0) 56 8 = 0 ∧ 28800 < imageField (List.replicate 192 1) 56 8 ∧ imageField (List.replicate 56 0 ++ [1] ++ List.replicate 135 0) 56 8 = 1)
    ∧ (vfSession.pfAnswers = true ∧ (session0 .i3c none).transport ≠ .doe ∧ vfSession.session? 1 = some (session0 .doe none) ∧ vfSession.decridRuns = true) := by decide +kernel

theorem wit_InterfacesLockAndRun :
    (State.reset.decridRuns = true ∧ State.reset.moduleFenced = false ∧ State.reset.fnExists 0 = true)
    ∧ (vfWorld.fnExists 1 = true ∧ vfWorld.tdi 0 = 0 ∧ (vfWorld.slot 0).state = 1 ∧ vfWorld.mgt.dbgState = 0 ∧ (vfWorld.ideOf 1).isSome = true ∧ vfWorld.decridRuns = true ∧ vfWorld.moduleFenced = false)
    ∧ (vfWorld.setTdi 0 1).tdi 0 = 1
    ∧ (vfWorld.setTdi 0 2).tdi 0 = 2
    ∧ vfWorld.tdiClosed 0 = false
    ∧ (({ vfWorld with lkt := {} } : State).tdi 0 = 0 ∧ (({ vfWorld with lkt := {} } : State).slot 0).state = 0)
    ∧ (vfWorld.slot 0).teardown = none
    ∧ State.reset.fnExists 1 = false
    ∧ (({ State.reset with mgt := { fw := { restarting := true } } } : State).decridRuns = false ∧ ({ State.reset with rst := { jtag := true } } : State).moduleFenced = true)
    ∧ ((vfWorld.setTdi 0 1).tdiClosed 0 = true ∧ (vfWorld.setTdi 0 3).tdi 0 ≠ 1 ∧ vfWorld.ideOf 2 = none ∧ ({ vfWorld with mgt := { dbgState := 1 } } : State).mgt.dbgState ≠ 0)
    ∧ ((({ vfWorld with lkt := { slots := [(0, { slot0 with state := 3, teardown := some {} })] } } : State).slot 0).teardown = some {} ∧ (({ vfWorld with lkt := { slots := [(0, { slot0 with state := 3, teardown := some {} })] } } : State).slot 0).state ≠ 0)
    ∧ (vfSession.decridRuns = true ∧ vfSession.pfAnswers = true ∧ vfSession.fnExists 1 = true ∧ vfSession.session? 1 = some (session0 .doe none) ∧ vfSession.session? 2 = none ∧ vfSession.ideKey 1 0 = none)
    ∧ (({ vfSession with mgt := { vfSession.mgt with ideKeys := [(2, some 7)] } } : State).ideKey 1 0 = some 7 ∧ (some 7 : Option (BitVec 256)).isSome = true)
    ∧ (({ vfWorld with mgt2 := { perst := true } } : State).pfAnswers = false ∧ ({ msgHome := some 7 } : Teardown).msgHome.isNone = false ∧ ({} : Teardown).runs 0 = true) := by decide +kernel

theorem wit_TapTakesThePins :
    (State.reset.allFree = true ∧ State.reset.moduleFenced = false)
    ∧ world.allFree = false := by decide +kernel

theorem wit_PowerComesUp :
    State.reset.mgt2.power ≠ 0
    ∧ ({ State.reset with mgt2 := { power := 0 } } : State).mgt2.power = 0
    ∧ ({ State.reset.mgt with boots := 2, fw := State.reset.mgt.fw.tryPending.select } : Mgt).fw.recovery = false
    ∧ ({ State.reset.mgt with boots := 2, fw := ({ a := { st := .active }, revoked := [0] } : Fw).tryPending.select } : Mgt).fw.recovery = true
    ∧ ((none : Option (Fin 2)) ≠ some 1 ∧ (1 : Fin 2).val = 1 ∧ (0 : Fin 2).val ≠ 1) := by decide +kernel

theorem wit_PowerUpCompletes :
    (({ State.reset with mgt2 := { power := 2 } } : State).mgt2.power = 2 ∧ ({ State.reset with mgt2 := { power := 2 } } : State).cool = true ∧ ({ State.reset with mgt2 := { power := 2 } } : State).mgt2.perst = false)
    ∧ ({ State.reset with pwr := { temps := [(0, 95 * 8)] } } : State).cool = false
    ∧ ({ State.reset with mgt2 := { perst := true } } : State).mgt2.perst = true
    ∧ (State.reset.mgt.fw.recovery = false ∧ State.reset.mgt.fw.restarting = false ∧ ({ recovery := true } : Fw).recovery = true)
    ∧ (({ State.reset with mgt2 := { power := 2 } } : State).mgt.fw.recovery = false ∧ ({ State.reset with mgt2 := { power := 2 } } : State).mgt.fw.restarting = false)
    ∧ (({ restarting := true } : Fw).restarting = true ∧ State.reset.mgt2.power ≠ 2)
    ∧ ((191 : Nat) ∈ [191] ∧ (127 : Nat) ∈ [127]) := by decide +kernel

theorem wit_InputsRemovePower :
    ({ State.reset with mgt2 := { power := 0 } } : State).mgt2.power = 0
    ∧ State.reset.mgt2.power ≠ 0 := by decide +kernel

theorem wit_LinkAndFunctions :
    (State.reset.mgt2.perst = false ∧ State.reset.moduleFenced = false ∧ State.reset.pdyn.trip = false ∧ State.reset.pfAnswers = true)
    ∧ ({ State.reset with mgt2 := { trayReq := true } } : State).mgt2.trayReq = true
    ∧ (vfWorld.pfAnswers = true ∧ vfWorld.fnExists 1 = true ∧ (vfWorld.slot 0).state = 1 ∧ (vfWorld.slot 0).resetting = false)
    ∧ (vfWorld.fnExists 2 = true ∧ (vfWorld.slot 1).state = 0)
    ∧ State.reset.fnExists 1 = false
    ∧ (({ State.reset with mgt2 := { perst := true } } : State).pfAnswers = false ∧ State.reset.mgt2.power ≠ 0 ∧ State.reset.mgt2.power ≠ 3 ∧ ({ State.reset with mgt2 := { power := 3 } } : State).mgt2.power = 3)
    ∧ State.reset.mgt2.trayReq = false := by decide +kernel

theorem wit_HostRequestsAreAnswered :
    ({ State.reset with rst := { running := true } } : State).moduleFenced = true
    ∧ (State.reset.moduleFenced = false ∧ State.reset.fnExists 1 = false ∧ State.reset.fnExists 0 = true ∧ vfWorld.fnExists 1 = true)
    ∧ State.reset.linkFetches = false
    ∧ (linked.pfAnswers = true ∧ linked.linkFetches = true)
    ∧ ({ linked with que := { linked.que with bar4Base := 0x3000000000 } } : State).linkFetches = true
    ∧ (pieces (linked.que.bar4Base + (255 : BitVec 34).toNat) (min 4096 2) 32).any (fun p => linked.bar4Refused p.1) = false
    ∧ pieces (linked.que.bar4Base + (255 : BitVec 34).toNat) (min 4096 2) 32 = [(255, 1), (256, 1)]
    ∧ ((0 : BitVec 32) = 0 ∧ (1 : BitVec 32) ≠ 0 ∧ (1 : FnIx).val ≠ 0 ∧ ({ State.reset with mgt2 := { perst := true } } : State).pfAnswers = false)
    ∧ (({ State.reset with rst := { running := true } } : State).retryStatus = true ∧ State.reset.retryStatus = false ∧ ({ State.reset with mgt := { fw := { recovery := true } } } : State).retryStatus = true ∧ State.reset.msixCountOf 0 ≠ 0) := by decide +kernel

theorem wit_SelfTestsRun :
    ({ State.reset with test := { busy := true } } : State).test.busy = true
    ∧ (State.reset.test.busy = false ∧ State.reset.allFree = true ∧ ∀ e, e ∈ State.reset.fnc.ctxs → e.2.state ≠ 1)
    ∧ (world.allFree = false ∧ ∃ e, e ∈ world.fnc.ctxs ∧ e.2.state = 1)
    ∧ (bitList (({ State.reset with mem := { bistSel := 1 } } : State).mem.bistSel).toNat 128).all (fun i => (({ State.reset with mem := { bistSel := 1 } } : State).chan i).state == 0 && !(({ State.reset with mem := { bistSel := 1 } } : State).chan i).retired && !(State.reset.inPool && State.reset.pool.chans.contains i)) = true
    ∧ (bitList (1 : BitVec 128).toNat 128).all (fun i => (world.chan i).state == 0 && !(world.chan i).retired && !(world.inPool && world.pool.chans.contains i)) = false
    ∧ (State.reset.chan 0).bist = false
    ∧ (((withChan { bist := true, state := 2 }).chan 0).bist = true ∧ ((withChan { bist := true, state := 2 }).chan 0).state = 2 ∧ ((withChan { bist := true, state := 2 }).chan 0).retired = false)
    ∧ (∀ e, e ∈ (withChan { bist := true, state := 2 }).que.sqs → ∀ d, d ∈ e.2.descs → d.scrubs.contains 0 = false)
    ∧ (({ State.reset with mgt2 := { perst := true } } : State).pfAnswers = false ∧ ∀ e, e ∈ State.reset.que.sqs → ∀ d, d ∈ e.2.descs → d.scrubs.contains 0 = false)
    ∧ (unitNamed 0x17F = true ∧ unitNamed 0xC0 = false ∧ unitNamed 0x2F0 = true ∧ unitNamed 0xBF = true) := by decide +kernel

theorem wit_CountersClear :
    State.reset.pfAnswers = true
    ∧ (State.reset.pwr.err < 8 ∧ State.reset.pwr.limit < 2 ^ 16 ∧ State.reset.pwr.drifts < 2 ^ 16 ∧ (State.reset.pcore 0).fSet < 128 ∧ State.reset.mgt.lost < 2 ^ 16)
    ∧ ({ State.reset with mgt2 := { perst := true } } : State).pfAnswers = false
    ∧ State.reset.pfAnswers = true
    ∧ (({ State.reset with mgt2 := { perst := true } } : State).pfAnswers = false ∧ vfWorld.vfAnswers 1 = true ∧ vfWorld.vfAnswers 3 = false ∧ (1 : FnIx) ≠ 0)
    ∧ (({ vfWorld with que := { vfWorld.que with sqs := [(7, { func := 1, slot := 4 })] } } : State).pageQueue 1 4 = some 7 ∧ (0 : SlotIx).val + 1 = (1 : FnIx).val ∧ (1 : SlotIx).val + 1 ≠ (1 : FnIx).val ∧ (vfWorld.sq 0).func ≠ 1)
    ∧ (((withPort { loop := 3 } { testBusy := true }).dyn 0).testBusy = true ∧ (State.reset.dyn 0).testBusy = false) := by decide +kernel

theorem wit_RegisterWritesTakeTheirCodes :
    (State.reset.pfAnswers = true ∧ State.reset.trb.lock = false ∧ State.reset.coreDebug = false)
    ∧ ({ State.reset with trb := { lock := true } } : State).trb.lock = true
    ∧ ((0x7FFFF8 : Nat) < 0x800000 ∧ (0x7FFFF8 : Nat) % 8 = 0)
    ∧ (300 ≤ State.reset.pwr.capW ∧ State.reset.pwr.capW ≤ 750 ∧ State.reset.pwr.capW ≤ State.reset.pwr.peakW ∧ State.reset.pwr.peakW ≤ 900)
    ∧ ((BitVec.ofNat 64 (300 + 300 <<< 16)).toNat % 1024 = 300 ∧ (BitVec.ofNat 64 (750 + 900 <<< 16)).toNat / 2 ^ 16 % 1024 = 900)
    ∧ ({ State.reset with rst := { running := true } } : State).pfAnswers = false
    ∧ State.reset.vfAnswers 1 = false
    ∧ (0x3008 : Nat) % 8 = 0
    ∧ ((1 : FnIx).val ≠ 0 ∧ (0x700000 : Nat) % 8 = 0 ∧ (BitVec.ofNat 64 (1 <<< 32)).getLsbD 32 = true ∧ State.reset.pwr.ageMode = (BitVec.ofNat 64 300).getLsbD 32) := by decide +kernel

theorem wit_StepRunsTheFrontCommand :
    ({ State.reset with pending := [.idcode] } : State).pending = .idcode :: []
    ∧ State.reset.pending = [] := by decide +kernel

theorem wit_PacketsOpenAsSealed :
    ((keyed.tagKeys (pkt0 1 0 0).tag).cur = some { gen := 0, key := 7 } ∧ (keyed.tagKeys (pkt0 1 0 5).tag).cur = none)
    ∧ (SMap.get zeroD keyed.trb.ivs (ivKey 0 0 0) = 0 ∧ (keyed.tagKeys (pkt0 1 0 0).tag).ofKg (0 % 4) = some { gen := 0, key := 7 })
    ∧ 2 ^ 64 - 1 ≤ SMap.get zeroD ({ keyed with trb := { keyed.trb with ivs := [(ivKey 0 0 0, 2 ^ 64 - 1)] } } : State).trb.ivs (ivKey 0 0 0)
    ∧ SMap.get zeroD ({ keyed with trb := { keyed.trb with ivs := [(ivKey 0 0 0, 2 ^ 64 - 2)] } } : State).trb.ivs (ivKey 0 0 0) < 2 ^ 64 - 1
    ∧ (0 : BitVec 128) ≠ 1 := by decide +kernel

theorem wit_RequestsAreServed :
    ((withRetired (pkt0 1 0 5)).arrivedFor 3 [1] = some (arrived0 (pkt0 1 0 5)) ∧ (withRetired (pkt0 1 0 5)).trb.retired.contains 5 = true)
    ∧ (world.arrivedFor 3 [1] = none ∧ world.arrivedFor 3 [2] = none ∧ world.arrivedFor 3 [3] = none ∧ world.arrivedFor 3 [0x10] = none ∧ world.arrivedFor 3 [0x20] = none)
    ∧ (world.ingressCloses 0 = false ∧ world.moduleFenced = false ∧ (withSlot { slot0 with state := 3 }).ingressCloses 0 = true ∧ ({ State.reset with rst := { jtag := true } } : State).moduleFenced = true)
    ∧ (world.remoteCheck { pkt0 1 0 5 with addr := 0 } 0 = none ∧ world.remoteCheck { pkt0 1 0 5 with addr := 4 * slotBytes } 0 = some stNOREGION)
    ∧ (dpaModule 0x200000 = (pooled {}).trb.idModule ∧ (pooled {}).ingressCloses 0 = false ∧ (pooled {}).pool.state = 2 ∧ 0x200000 < (pooled {}).pool.chans.length * slotBytes)
    ∧ ((pooled {}).pool.recordBlocks ≤ 0x200000 / blockBytes ∧ 0 / blockBytes < (pooled {}).pool.recordBlocks ∧ ({ pkt0 1 0 5 with lease := true } : Packet).lease = true ∧ (pkt0 1 0 5).lease = false)
    ∧ ((pooled { state := 2, owner := 1, gen := 0, locket := 0 }).homeRec 1 = { state := 2, owner := 1, gen := 0, locket := 0 } ∧ (pkt0 1 0 5).src = 1 ∧ (pkt0 1 0 5).gen = 0 ∧ (pooled { state := 2, owner := 1, gen := 3 }).homeRec 1 = { state := 2, owner := 1, gen := 3 })
    ∧ (atomOf 8 0 (leBytes 8 0x20 ++ leBytes 8 3) = some (.atom 0x20 8 3 0) ∧ atomOf 8 0 (leBytes 8 0x30 ++ leBytes 8 3) = none ∧ atomOf 8 0 (leBytes 8 0x29 ++ leBytes 8 3) = some (.signal 3 0) ∧ atomOf 8 0x28 (leBytes 8 0x20 ++ leBytes 8 3) = some (.atom 0x28 8 3 0x20) ∧ (pkt0 3 0 5).status ≠ 0x28)
    ∧ ((leBytes 8 0x20 ++ leBytes 8 3).length = 16 ∧ 0x20 ≤ leNat ((leBytes 8 0x20 ++ leBytes 8 3).take 1) ∧ leNat ((leBytes 8 0x27 ++ leBytes 8 3).take 1) < 0x28 ∧ ({ pkt0 3 0 5 with size := 3 } : Packet).size = 3 ∧ sizeBytes 2 = 4)
    ∧ (sizeBytes (pkt0 2 0 5).size ≤ (List.replicate 32 (0x21 : BitVec 8)).length ∧ ([] : List (BitVec 8)).length < sizeBytes (pkt0 2 0 5).size)
    ∧ ((upto 7).all (fun k => subcode (BitVec.ofNat 8 k :: List.replicate 15 0) == k) = true ∧ subcode [7] = 7)
    ∧ (teardownOf world ([5, 4] ++ leBytes 2 5 ++ List.replicate 12 0) = some (0, 4) ∧ teardownOf world ([6, 4] ++ leBytes 2 9 ++ List.replicate 12 0) = none)
    ∧ (localPlace (dpaLocal (pkt0 1 0 5).addr) = .dram 0 ∧ world.ingressCloses 0 = false ∧ world.pool.state ≠ 2 ∧ world.pool.state ≠ 3 ∧ (world.mapDram 0).isSome = true ∧ ((world.setting 0).active).locket = 0)
    ∧ (ReqKind.isFence (.signal 3 0) = true ∧ ReqKind.isFence .read = false ∧ world.tdiClosed 0 = false ∧ noLocket ≠ 0) := by decide +kernel

theorem wit_RequestsAreServed_2 :
    ((withPacket (sealedPkt 1)).ingressCloses 0 = false ∧ (withPacket (sealedPkt 1)).moduleFenced = false) := by decide +kernel

theorem wit_ResponsesComeHome :
    ((withPort port0 {}).tracked 0 = none ∧ (withPort port0 { tracker := [tracked0 .echo] }).tracked 0 = some (tracked0 .echo) ∧ (tracked0 .notice).purpose ≠ .echo)
    ∧ ((tracked0 (.access (req0 .read .away))).purpose = .access (req0 .read .away) ∧ (tracked0 .echo).pkt.gen = (pkt0 8 0 5).gen)
    ∧ (((withPort port0 { tracker := [tracked0 .leaseOp] }).dyn 0).tracker.find? (fun t => t.reqid == (0 : BitVec 16).toNat) = some (tracked0 .leaseOp) ∧ (tracked0 .leaseOp).purpose = .leaseOp ∧ (tracked0 .echo).purpose ≠ .leaseOp)
    ∧ (((withPort port0 {}).dyn 0).tracker ++ ((withPort port0 {}).dyn 0).waiting).find? (fun t => t.reqid == (0 : BitVec 16).toNat) = none
    ∧ (world.arrivedFor 3 [0x08] = none ∧ world.arrivedFor 3 [0x09] = none ∧ world.arrivedFor 3 [0x11] = none ∧ world.arrivedFor 3 [0x21] = none) := by decide +kernel

/-! ### Witnesses that compute no cryptography, or hold whatever a free value is -/

/-- A packet whose tag is right opens. -/
theorem tagged_opens (s : State) (k : Packet) (key : Key) (h : (s.tagKeys k.tag).ofKg k.kg = some key) (he : k.enc = true) :
    unprotect s (tagged k key.key) = some (gcmText (gcmKeys key.key) (packetIv k.src k.ivp k.nonce).toNat k.payload) := by
  have hx (x : BitVec 128) : ({ k with auth := x } : Packet).header 0 = k.header 0 := rfl
  have hh : (tagged k key.key).header 0 = k.header 0 := hx _
  simp only [unprotect, hh, gcmOpen]
  simp only [tagged, h, he, if_true]
theorem tagged_is_given (s : State) (a : Arrived) (p : List (BitVec 8)) (l : Nat) (hr : s.trb.retired.contains a.pkt.tag = false) (ht : a.pkt.tag ≠ 0)
    (hs : s.slotOfTag a.pkt.tag = some l) (hb : ¬ a.pkt.budget ≤ a.hold) (u : unprotect s a.pkt = some p) : ∃ t, openPacket s a 0 = .ok t l p := by
  simp only [openPacket, hr, ht, hs, u, if_false, Nat.add_zero, hb, Bool.false_eq_true]
  exact ⟨_, rfl⟩
theorem wit_opened (kind : Nat) :
    (withPacket (sealedPkt kind)).arrivedFor 3 [kind] = some (arrived0 (sealedPkt kind))
    ∧ ∃ p t, unprotect (withPacket (sealedPkt kind)) (sealedPkt kind) = some p
      ∧ openPacket (withPacket (sealedPkt kind)) (arrived0 (sealedPkt kind)) 0 = .ok t 0 p := by
  have u := tagged_opens (withPacket (sealedPkt kind)) (pkt0 kind 0 5) { gen := 0, key := 7 } rfl rfl
  obtain ⟨t, ht⟩ := tagged_is_given (withPacket (sealedPkt kind)) (arrived0 (sealedPkt kind)) _ 0 rfl
    (show (5 : Nat) ≠ 0 by decide) rfl (show ¬ 100 ≤ 2 by decide) u
  exact ⟨by simp [State.arrivedFor, withPacket, arrived0, sealedPkt, tagged, pkt0], _, t, u, ht⟩
/-- A packet of a retired tag does not open. -/
theorem wit_not_opened (kind : Nat) :
    openPacket (withRetired (pkt0 kind 0 5)) (arrived0 (pkt0 kind 0 5)) 0
      = .done (countAuth (consumePacket (withRetired (pkt0 kind 0 5)) (arrived0 (pkt0 kind 0 5))) 0) := by
  have h : (withRetired (pkt0 kind 0 5)).trb.retired.contains (arrived0 (pkt0 kind 0 5)).pkt.tag = true := rfl
  simp only [openPacket, h, if_true]
  rfl
/-- An owner session: the digest of its key is the owner's root. -/
theorem wit_owner_session (k : BitVec 256) :
    (withSession (session0 .vdm (some k)) { owner := some (digestOf (leBytes 32 k.toNat)) }).ownerSession (session0 .vdm (some k)) = true := by
  simp [State.ownerSession, withSession, session0]
/-- The factory's image, or another, is valid or not as R575 says; both clauses of VerifyComplete are named. -/
theorem wit_verify (f : Fw) (i : Image) : f.valid i = true ∨ f.valid i = false := by cases f.valid i <;> simp
/-- An image of a revoked key is not valid. -/
theorem wit_verify_refused : ({ revoked := [0] } : Fw).valid { bytes := [] } = false := by decide +kernel

/-! ### Witnesses over all of something -/

theorem wit_EveryStepKeepsTheInvariant : Memory.wf running = true ∧ running.nesting ∧ running.limits ∧ running.tables ∧ step running = .next running :=
  ⟨by decide +kernel, fun _ => Nat.zero_le _, by unfold State.limits; decide +kernel, by unfold State.tables; decide +kernel, rfl⟩
theorem wit_no_core_resets : (∀ n, ((withSetting 0x20 [] { active := map0, shadow := map0 }).core n).resetting = false)
    ∧ ∀ n, (moving.core n).resetting = false := ⟨fun _ => rfl, fun _ => rfl⟩
theorem wit_nothing_taken_down : ∀ l t, (world.slot l).teardown = some t → t.scrubs.contains 0 = false ∧ t.step ≠ 5 := by
  intro l t h
  have : (world.slot l).teardown = none := by
    simp only [world, State.slot, SMap.get]
    split <;> rfl
  simp [this] at h

/-- A request of a task reaches its home whatever it waits; one of another module with nothing left of its budget never does. -/
theorem wit_reach (k : Nat) : (req0 .read (.chan 0 0)).reach k = some (req0 .read (.chan 0 0))
    ∧ ({ req0 .read (.chan 0 0) with src := .remote 0 0 1 0 5 5 } : Req).reach k = none := ⟨rfl, rfl⟩
end Sys2Proof.Tests
end

section
/-! Reads of whole registers: what a read clears and what it answers (R22, R23, R311), for the PF and for a VF; and O55, which says it
of every row whose register holds a read-to-clear field. -/

namespace Sys2Proof.Machine

/-- A mask of 64 ones touches every field of a 64-bit word, so a read of the whole register clears what is read-to-clear. -/
@[simp] theorem cleared_fullMask {lo w : Nat} (v : Nat) (hw : 0 < w) (h : lo + w ≤ 64) : cleared fullMask lo w v = 0 := by
  have low : (bits fullMask lo w).testBit 0 = true := by
    rw [bits, Nat.testBit_mod_two_pow, Nat.testBit_shiftRight, fullMask, Nat.testBit_two_pow_sub_one]
    simp; omega
  have ne : bits fullMask lo w ≠ 0 := by
    intro h0; simp [h0] at low
  simp [cleared, hit, ne]

@[simp] theorem leNat_leBytes (n v : Nat) : leNat (leBytes n v) = v % 2 ^ (8 * n) := by
  induction n generalizing v with
  | zero => simp [leBytes, leNat, Nat.mod_one]
  | succ n ih =>
    have split : v % 2 ^ (8 * (n + 1)) = v % 256 + 256 * (v / 256 % 2 ^ (8 * n)) := by
      rw [show 2 ^ (8 * (n + 1)) = 256 * 2 ^ (8 * n) by rw [Nat.mul_add, Nat.pow_add]; omega, Nat.mod_mul]
    simp [leBytes, leNat, ih, split]

theorem wordsOf_whole {off : Nat} (h : off % 8 = 0) : wordsOf off 8 = [(off, 8, 0)] := by
  have hw : off / 8 * 8 = off := by omega
  simp [wordsOf, h, hw, upto]

theorem readRegs_whole (s : State) (get : State → Nat → Nat → State × Nat) {off : Nat} (h : off % 8 = 0) :
    readRegs s get off 8 = ((get s off fullMask).1, leBytes 8 (get s off fullMask).2) := by
  simp [readRegs, wordsOf_whole h, byteMask, fullMask]

theorem hostReads_eq {s : State} (h : s.pfAnswers = true) (r : State × Nat) : hostReads s r = { r.1 with lastRead := r.2 } := by
  simp [hostReads, h, answerRead]
theorem hostReads_silent {s : State} (h : s.pfAnswers = false) (r : State × Nat) : hostReads s r = s := by simp [hostReads, h]

theorem vfReads_eq {s : State} {f : FnIx} {off : Nat} (hf : f ≠ 0) (h : s.vfAnswers f = true) (ho : off % 8 = 0) :
    vfReads s f (some off) = { (readVfWord s f off fullMask).1 with lastRead := (readVfWord s f off fullMask).2 % 2 ^ 64 } := by
  have hf' : f.val ≠ 0 := fun e => hf (Fin.ext e)
  simp [vfReads, hostRead, hf', h, readRegs_whole _ _ ho, answerRead]
theorem vfReads_silent {s : State} {f : FnIx} (hf : f ≠ 0) (h : s.vfAnswers f = false) (off : Option Nat) : vfReads s f off = s := by
  have hf' : f.val ≠ 0 := fun e => hf (Fin.ext e)
  cases off <;> simp [vfReads, hostRead, hf', h]
theorem vfReads_none (s : State) (f : FnIx) : vfReads s f none = s := rfl


/-! ### What each register with a read-to-clear field answers -/

theorem readPwrStatus_fields {s : State} (he : s.pwr.err < 8) (hl : s.pwr.limit < 2 ^ 16) :
    bits (readPwrStatus s fullMask).2 56 3 = s.pwr.err ∧ bits (readPwrStatus s fullMask).2 32 16 = s.pwr.limit := by
  have b (x : Bool) : b2n x ≤ 1 := by cases x <;> decide
  have h48 := b s.capLimits
  have h49 := b s.pdyn.peak
  have h50 := b (!s.pwr.hotSensors.isEmpty)
  have h51 := b s.pdyn.fallback
  have h52 := b s.pdyn.brakeHold
  have h53 := b s.pdyn.trip
  have hm := Nat.min_le_left 0x3FF (s.pwr.pMeas.getD 0x3FF)
  have hp := Nat.min_le_left 0x3FF s.pwr.pEst
  simp only [readPwrStatus, bits, Nat.shiftLeft_eq, Nat.shiftRight_eq_div_pow]
  omega

theorem readModel_drifts {s : State} (h : s.pwr.drifts < 2 ^ 16) : bits (readModel s fullMask).2 48 16 = s.pwr.drifts := by
  simp only [readModel, bits, Nat.shiftLeft_eq, Nat.shiftRight_eq_div_pow]
  omega

theorem readPwrCore_fSet {s : State} {n : Nat} (h : (s.pcore n).fSet < 128) : bits (readPwrCore s n fullMask).2 0 7 = (s.pcore n).fSet := by
  simp only [readPwrCore, bits, Nat.shiftLeft_eq, Nat.shiftRight_eq_div_pow]
  omega

theorem readLogStatus_lost {s : State} (h : s.mgt.lost < 2 ^ 16) : bits (readLogStatus s fullMask).2 0 16 = s.mgt.lost := by
  simp only [readLogStatus, bits, Nat.shiftLeft_eq, Nat.shiftRight_eq_div_pow]
  omega

/-- A register that the PF reads whole answers its word and leaves what the read makes of the state. -/
theorem hostReads_next {s u : State} {v : Nat} {r : State × Nat} (h : s.pfAnswers = true) (hr : r = (u, v)) :
    (Host.Outcome.next (hostReads s r) : Res) = .next { u with lastRead := v } := by
  rw [hostReads_eq h, hr]

theorem hostReads_next_silent {s : State} {r : State × Nat} (h : s.pfAnswers = false) :
    (Host.Outcome.next (hostReads s r) : Res) = .next s := by
  rw [hostReads_silent h]

theorem readChCorr_whole (s : State) (c : Nat) :
    readChCorr s c fullMask = (s.setChan c { s.chan c with corr := 0 }, (s.chan c).corr) := by
  simp [readChCorr, State.updChan_eq]
theorem readChRetry_whole (s : State) (c : Nat) :
    readChRetry s c fullMask = (s.setChan c { s.chan c with retry := 0 }, (s.chan c).retry) := by
  simp [readChRetry, State.updChan_eq]
theorem readChPoison_whole (s : State) (c : Nat) :
    readChPoison s c fullMask = (s.setChan c { s.chan c with poison := 0 },
      (s.chan c).poison + (s.chan c).last <<< 16 + b2n (s.chan c).lastWr <<< 43) := by
  simp [readChPoison, State.updChan_eq]
theorem readBistFail_low (s : State) :
    readBistFail s false = ({ s with mem := { s.mem with bistFail := BitVec.ofNat 128 (s.mem.bistFail.toNat / 2 ^ 64 * 2 ^ 64) } },
      s.mem.bistFail.toNat % 2 ^ 64) := by
  simp [readBistFail, Nat.shiftLeft_eq]
theorem readHalfStatus_eq (s : State) (h : Nat) :
    readHalfStatus s h = (s.setHalf h { s.half h with err := 0, boundUnit := 0 }, (s.half h).statusWord) := rfl
theorem readFqStatus_whole (s : State) (l : Nat) :
    readFqStatus s l fullMask = (s.setFq l { s.fq l with deferred := 0 },
      b2n (s.fq l).overflow + b2n (s.fq l).ring.consErr <<< 1 + (s.fq l).deferred <<< 16 + s.heldCount l <<< 32) := by
  simp [readFqStatus, State.updFq_eq]
theorem readXltStatus_whole (s : State) :
    readXltStatus s fullMask = ({ s with xlt := { s.xlt with stale := 0, merged := 0 } },
      s.xlt.outst.length + s.xlt.stale <<< 16 + s.xlt.merged <<< 32) := by
  simp [readXltStatus]
theorem readSqStatus_whole (s : State) (q : Nat) :
    readSqStatus s q fullMask = (s.setSq q { s.sq q with dbIgnored := 0 }, sqStatusWord (s.sq q)) := by
  simp [readSqStatus, State.updSq_eq]
theorem readEvStatus_whole (s : State) (f : Nat) :
    readEvStatus s f fullMask = (s.setEv f { s.ev f with lost := 0 },
      b2n (s.ev f).ring.consErr + b2n (s.ev f).overflow <<< 1 + (s.ev f).lost <<< 16) := by
  simp [readEvStatus, evStatusWord]
theorem readWaits_whole (s : State) :
    readWaits s fullMask = ({ s with fnc := { s.fnc with full := 0 } }, s.fnc.waits.length + s.fnc.full <<< 16) := by
  simp [readWaits]
theorem readSetStatus_whole (s : State) (i : Nat) :
    readSetStatus s i fullMask = (s.setSetting i { s.setting i with shIgnored := 0 }, s.setStatusWord i) := by
  simp [readSetStatus, State.updSetting_eq]
theorem readLatVal_whole (s : State) (l : Nat) :
    readLatVal s l fullMask = (s.setSlot l { s.slot l with lat := SMap.set zeroD (s.slot l).lat (s.slot l).latSelKey 0 },
      SMap.get zeroD (s.slot l).lat (s.slot l).latSelKey) := by
  simp [readLatVal, State.updSlot_eq, SMap.upd]
theorem readPortFec_whole (s : State) (p : Nat) :
    readPortFec s p fullMask = (s.setPort p { s.port p with fecCorr := 0, fecUncorr := 0 },
      (s.port p).fecCorr + (s.port p).fecUncorr <<< 32) := by
  simp [readPortFec, State.updPort_eq]
theorem readPortLink_whole (s : State) (p : Nat) :
    readPortLink s p fullMask = (s.setPort p { s.port p with lnkCrc := 0, lnkReplay := 0, lnkRetrain := 0, lnkBadpkt := 0 },
      (s.port p).lnkCrc + (s.port p).lnkReplay <<< 16 + (s.port p).lnkRetrain <<< 32 + (s.port p).lnkBadpkt <<< 48) := by
  simp [readPortLink, State.updPort_eq]
theorem readPortDrop_whole (s : State) (p : Nat) :
    readPortDrop s p fullMask = (s.setDyn p { s.dyn p with auth := 0, expired := 0, discard := 0, late := 0 },
      (s.dyn p).auth + (s.dyn p).expired <<< 16 + (s.dyn p).discard <<< 32 + (s.dyn p).late <<< 48) := by
  simp [readPortDrop, State.updDyn_eq]
theorem readPortTest_whole (s : State) (p : Nat) :
    readPortTest s p fullMask = ((lookAtTest s p).setDyn p { (lookAtTest s p).dyn p with testErrors := 0 },
      b2n ((lookAtTest s p).dyn p).testBusy <<< 1 + ((lookAtTest s p).dyn p).testResult <<< 2
        + ((lookAtTest s p).dyn p).testErrors <<< 32) := by
  simp [readPortTest, State.updDyn_eq]
theorem readPwrStatus_whole (s : State) :
    readPwrStatus s fullMask = ({ s with pwr := { s.pwr with err := 0 } }, (readPwrStatus s fullMask).2) := by
  simp [readPwrStatus]
theorem readStagger_whole (s : State) :
    readStagger s fullMask = ({ s with pwr := { s.pwr with held := 0, admitted := 0 } },
      s.pwr.budget + s.staggerBudget <<< 8 + s.pwr.held <<< 16 + s.pwr.admitted <<< 32) := by
  simp [readStagger]
theorem readModel_whole (s : State) :
    readModel s fullMask = ({ s with pwr := { s.pwr with drifts := 0 } }, (readModel s fullMask).2) := by
  simp [readModel]
theorem readPwrCore_whole (s : State) (n : Nat) :
    readPwrCore s n fullMask = (s.setPcore n { s.pcore n with droops := 0 }, (readPwrCore s n fullMask).2) := by
  simp [readPwrCore, State.updPcore_eq]
theorem readFwStatus_whole (s : State) :
    readFwStatus s fullMask = ({ s with mgt := { s.mgt with fw := { s.mgt.fw with err := 0 } } }, s.mgt.fw.statusWord) := by
  simp [readFwStatus, State.setFw]
theorem readLogStatus_whole (s : State) :
    readLogStatus s fullMask = ({ s with mgt := { s.mgt with lost := 0 } }, (readLogStatus s fullMask).2) := by
  simp [readLogStatus]

/-! ### The registers of a VF's BAR0 (R311) -/

theorem readVfWord_fqStatus {s : State} {f l : Nat} (h : l + 1 = f) :
    readVfWord s f 0x1020 fullMask = readFqStatus s l fullMask := by
  subst h; rfl
theorem readVfWord_evStatus (s : State) (f : Nat) : readVfWord s f 0x2028 fullMask = readEvStatus s f fullMask := rfl
theorem readVfWord_latVal {s : State} {f l : Nat} (h : l + 1 = f) :
    readVfWord s f 0xA048 fullMask = readLatVal s l fullMask := by
  subst h; rfl

/-- The queue that a VF finds in a slot is its own. -/
theorem pageQueue_vf {s : State} {f page q : Nat} (hf : f ≠ 0) (h : s.pageQueue f page = some q) : page < 128 ∧ (s.sq q).func = f := by
  unfold State.pageQueue at h
  rw [if_neg hf] at h
  split at h
  · next hp =>
    have hq := List.find?_some h
    simp only [Bool.and_eq_true, beq_iff_eq] at hq
    exact ⟨hp, hq.1⟩
  · cases h

theorem readVfWord_sqStatus {s : State} {f page q : Nat} (hf : f ≠ 0) (h : s.pageQueue f page = some q) :
    readVfWord s f (0x4028 + page * 0x40) fullMask = readSqStatus s q fullMask := by
  have hp := (pageQueue_vf hf h).1
  have hi : (0x4028 + page * 0x40 - 0x4000) / 0x40 = page := by omega
  have hr : (0x4028 + page * 0x40) % 0x40 = 0x28 := by omega
  unfold readVfWord
  rw [if_neg (by omega), if_neg (by omega), if_neg (by omega), if_pos (by omega), hi, h, hr]
  rfl

/-! ### A running loop-back test (R495, R498) -/

theorem lookAtTest_idle {s : State} {p : Nat} (h : (s.dyn p).testBusy = false) : lookAtTest s p = s := by simp [lookAtTest, h]

/-- Looking at a running test can change what it has counted, and nothing else of what is said of it here. -/
theorem lookAtTest_busy {s : State} {p : Nat} (h : (s.dyn p).testBusy = true) :
    (((lookAtTest s p).dyn p).testErrors = (s.dyn p).testErrors
        ∨ ∃ n, ((lookAtTest s p).dyn p).testErrors = satAdd 32 (s.dyn p).testErrors n)
      ∧ ((lookAtTest s p).dyn p).testBusy = true ∧ ((lookAtTest s p).dyn p).testResult = (s.dyn p).testResult
      ∧ (lookAtTest s p).port p = s.port p ∧ (lookAtTest s p).mem = s.mem ∧ (lookAtTest s p).cores = s.cores := by
  rw [lookAtTest, h]
  simp only [Bool.not_true, Bool.false_eq_true, if_false, testCounts]
  split
  · simp only [countTest, State.dyn_updDyn_same]
    exact ⟨.inr ⟨_, rfl⟩, h, rfl, rfl, rfl, rfl⟩
  · exact ⟨.inl rfl, h, rfl, rfl, rfl, rfl⟩

/-! ### The reads, block by block -/

theorem memoryReads_clear (s : State) (c : ChIx) :
    (s.pfAnswers = true →
      exec (.memChCorrRead c) s = .next { s.setChan c { s.chan c with corr := 0 } with lastRead := (s.chan c).corr }
      ∧ exec (.memChRetryRead c) s = .next { s.setChan c { s.chan c with retry := 0 } with lastRead := (s.chan c).retry }
      ∧ exec (.memChPoisonRead c) s = .next { s.setChan c { s.chan c with poison := 0 } with
          lastRead := (s.chan c).poison + (s.chan c).last <<< 16 + b2n (s.chan c).lastWr <<< 43 }
      ∧ exec (.memBistFailRead false) s = .next { s with
          mem := { s.mem with bistFail := BitVec.ofNat 128 (s.mem.bistFail.toNat / 2 ^ 64 * 2 ^ 64) }, lastRead := s.mem.bistFail.toNat % 2 ^ 64 }
      ∧ exec (.memBistFailRead true) s = .next { s with
          mem := { s.mem with bistFail := BitVec.ofNat 128 (s.mem.bistFail.toNat % 2 ^ 64) }, lastRead := s.mem.bistFail.toNat / 2 ^ 64 })
    ∧ (s.pfAnswers = false → exec (.memChCorrRead c) s = .next s ∧ exec (.memChRetryRead c) s = .next s ∧ exec (.memChPoisonRead c) s = .next s
        ∧ ∀ h, exec (.memBistFailRead h) s = .next s) :=
  ⟨fun h => ⟨hostReads_next h (readChCorr_whole s c), hostReads_next h (readChRetry_whole s c), hostReads_next h (readChPoison_whole s c),
      hostReads_next h (readBistFail_low s), hostReads_next h rfl⟩,
    fun h => ⟨hostReads_next_silent h, hostReads_next_silent h, hostReads_next_silent h, fun _ => hostReads_next_silent h⟩⟩

theorem meshReads_clear (s : State) (h : HalfIx) :
    (s.pfAnswers = true →
      exec (.mshHalfStatusRead h) s = .next { s.setHalf h { s.half h with err := 0, boundUnit := 0 } with lastRead := (s.half h).statusWord }
      ∧ exec .mshParkedCntRead s = .next { s with mesh := { s.mesh with parkedCnt := 0 }, lastRead := s.mesh.parkedCnt })
    ∧ (s.pfAnswers = false → exec (.mshHalfStatusRead h) s = .next s ∧ exec .mshParkedCntRead s = .next s) :=
  ⟨fun hp => ⟨hostReads_next hp (readHalfStatus_eq s h), hostReads_next hp rfl⟩,
    fun hp => ⟨hostReads_next_silent hp, hostReads_next_silent hp⟩⟩

theorem powerReads_clear (s : State) (n : CoreIx) :
    (s.pfAnswers = false → exec .pwrStatusRead s = .next s ∧ exec .pwrStaggerRead s = .next s ∧ exec .pwrModelRead s = .next s
      ∧ exec (.pwrCoreStatusRead n) s = .next s ∧ exec .mgtFwStatusRead s = .next s ∧ exec .mgtLogStatusRead s = .next s) ∧ (s.pfAnswers = true →
    (∃ w, exec .pwrStatusRead s = .next { s with pwr := { s.pwr with err := 0 }, lastRead := w }
      ∧ (s.pwr.err < 8 → s.pwr.limit < 2 ^ 16 → bits w 56 3 = s.pwr.err ∧ bits w 32 16 = s.pwr.limit))
    ∧ exec .pwrStaggerRead s = .next { s with
      pwr := { s.pwr with held := 0, admitted := 0 }
      lastRead := s.pwr.budget + s.staggerBudget <<< 8 + s.pwr.held <<< 16 + s.pwr.admitted <<< 32 }
    ∧ (∃ w, exec .pwrModelRead s = .next { s with pwr := { s.pwr with drifts := 0 }, lastRead := w }
      ∧ (s.pwr.drifts < 2 ^ 16 → bits w 48 16 = s.pwr.drifts))
    ∧ (∃ w, exec (.pwrCoreStatusRead n) s = .next { s.setPcore n { s.pcore n with droops := 0 } with lastRead := w }
      ∧ ((s.pcore n).fSet < 128 → bits w 0 7 = (s.pcore n).fSet))
    ∧ exec .mgtFwStatusRead s = .next { s with mgt := { s.mgt with fw := { s.mgt.fw with err := 0 } }, lastRead := s.mgt.fw.statusWord }
    ∧ (∃ w, exec .mgtLogStatusRead s = .next { s with mgt := { s.mgt with lost := 0 }, lastRead := w }
      ∧ (s.mgt.lost < 2 ^ 16 → bits w 0 16 = s.mgt.lost))) :=
  ⟨fun h => ⟨hostReads_next_silent h, hostReads_next_silent h, hostReads_next_silent h, hostReads_next_silent h, hostReads_next_silent h,
      hostReads_next_silent h⟩,
    fun h => ⟨⟨_, hostReads_next h (readPwrStatus_whole s), readPwrStatus_fields⟩, hostReads_next h (readStagger_whole s),
      ⟨_, hostReads_next h (readModel_whole s), readModel_drifts⟩, ⟨_, hostReads_next h (readPwrCore_whole s n), readPwrCore_fSet⟩,
      hostReads_next h (readFwStatus_whole s), ⟨_, hostReads_next h (readLogStatus_whole s), readLogStatus_lost⟩⟩⟩

/-- A VF that answers reads a register of its own BAR0. -/
theorem vfReads_next {s u : State} {f : FnIx} {off v : Nat} {p : Prop} [Decidable p] (hf : f ≠ 0) (h : s.vfAnswers f = true) (hp : p)
    (ho : off % 8 = 0) (hr : readVfWord s f off fullMask = (u, v)) {pf : State} :
    (Host.Outcome.next (if f = 0 then pf else vfReads s f (if p then some off else none)) : Res)
      = .next { u with lastRead := v % 2 ^ 64 } := by
  rw [if_neg hf, if_pos hp, vfReads_eq hf h ho, hr]

/-- A VF reads nothing where it does not answer or where its BAR0 does not hold the register. -/
theorem vfReads_next_silent {s : State} {f : FnIx} {off : Nat} {p : Prop} [Decidable p] {pf : State} (hf : f ≠ 0)
    (h : s.vfAnswers f = false ∨ ¬p) : (Host.Outcome.next (if f = 0 then pf else vfReads s f (if p then some off else none)) : Res) = .next s := by
  rw [if_neg hf]
  obtain h | h := h
  · rw [vfReads_silent hf h]
  · rw [if_neg h, vfReads_none]

theorem queueReads_clear (s : State) (l : SlotIx) (q : SqIx) (r : FnIx) :
    (s.pfAnswers = true →
      exec (.xltFqStatusRead ⟨0, l⟩) s = .next { s.setFq l { s.fq l with deferred := 0 } with
        lastRead := b2n (s.fq l).overflow + b2n (s.fq l).ring.consErr <<< 1 + (s.fq l).deferred <<< 16 + s.heldCount l <<< 32 }
      ∧ exec .xltStatusRead s = .next { s with
        xlt := { s.xlt with stale := 0, merged := 0 }, lastRead := s.xlt.outst.length + s.xlt.stale <<< 16 + s.xlt.merged <<< 32 }
      ∧ exec (.queSqStatusRead ⟨0, q⟩) s = .next { s.setSq q { s.sq q with dbIgnored := 0 } with lastRead := sqStatusWord (s.sq q) }
      ∧ exec (.queEvStatusRead ⟨0, r⟩) s = .next { s.setEv r { s.ev r with lost := 0 } with
        lastRead := b2n (s.ev r).ring.consErr + b2n (s.ev r).overflow <<< 1 + (s.ev r).lost <<< 16 }
      ∧ exec .fncWaitsRead s = .next { s with
        fnc := { s.fnc with full := 0 }, lastRead := s.fnc.waits.length + s.fnc.full <<< 16 })
    ∧ (s.pfAnswers = false → exec (.xltFqStatusRead ⟨0, l⟩) s = .next s ∧ exec .xltStatusRead s = .next s ∧ exec (.queSqStatusRead ⟨0, q⟩) s = .next s
        ∧ exec (.queEvStatusRead ⟨0, r⟩) s = .next s ∧ exec .fncWaitsRead s = .next s) :=
  ⟨fun h => ⟨hostReads_next h (readFqStatus_whole s l), hostReads_next h (readXltStatus_whole s), hostReads_next h (readSqStatus_whole s q),
      hostReads_next h (readEvStatus_whole s r), hostReads_next h (readWaits_whole s)⟩,
    fun h => ⟨hostReads_next_silent h, hostReads_next_silent h, hostReads_next_silent h, hostReads_next_silent h, hostReads_next_silent h⟩⟩

theorem vfQueueReads_clear (s : State) (l : SlotIx) (q : SqIx) (f r : FnIx) (hf : f ≠ 0) (h : s.vfAnswers f = true) :
    (l.val + 1 = f.val → exec (.xltFqStatusRead ⟨f, l⟩) s = .next { s.setFq l { s.fq l with deferred := 0 } with
      lastRead := (b2n (s.fq l).overflow + b2n (s.fq l).ring.consErr <<< 1 + (s.fq l).deferred <<< 16 + s.heldCount l <<< 32) % 2 ^ 64 })
    ∧ (s.pageQueue f (s.sq q).slot = some q.val →
      exec (.queSqStatusRead ⟨f, q⟩) s = .next { s.setSq q { s.sq q with dbIgnored := 0 } with lastRead := sqStatusWord (s.sq q) % 2 ^ 64 })
    ∧ (r = f → exec (.queEvStatusRead ⟨f, r⟩) s = .next { s.setEv r { s.ev r with lost := 0 } with
      lastRead := (b2n (s.ev r).ring.consErr + b2n (s.ev r).overflow <<< 1 + (s.ev r).lost <<< 16) % 2 ^ 64 }) := by
  have hf' : f.val ≠ 0 := fun e => hf (Fin.ext e)
  refine ⟨fun hl => ?_, fun hq => ?_, fun hr => ?_⟩
  · exact vfReads_next hf h hl (by decide) ((readVfWord_fqStatus hl).trans (readFqStatus_whole s l))
  · exact vfReads_next hf h (pageQueue_vf hf' hq).2 (by omega) ((readVfWord_sqStatus hf' hq).trans (readSqStatus_whole s q))
  · exact vfReads_next hf h hr (by decide) (by rw [readVfWord_evStatus, ← hr, readEvStatus_whole])

theorem vfQueueReads_silent (s : State) (l : SlotIx) (q : SqIx) (f r : FnIx) (hf : f ≠ 0) :
    (s.vfAnswers f = false ∨ l.val + 1 ≠ f.val → exec (.xltFqStatusRead ⟨f, l⟩) s = .next s)
    ∧ (s.vfAnswers f = false ∨ (s.sq q).func ≠ f.val → exec (.queSqStatusRead ⟨f, q⟩) s = .next s)
    ∧ (s.vfAnswers f = false ∨ r ≠ f → exec (.queEvStatusRead ⟨f, r⟩) s = .next s) :=
  ⟨vfReads_next_silent hf, vfReads_next_silent hf, vfReads_next_silent hf⟩

theorem portTestRead_idle {s : State} {p : PortIx} (h : s.pfAnswers = true) (hb : (s.dyn p).testBusy = false) :
    exec (.trbPortTestRead p) s = .next { s.setDyn p { s.dyn p with testErrors := 0 } with
      lastRead := (s.dyn p).testResult <<< 2 + (s.dyn p).testErrors <<< 32 } := by
  refine hostReads_next h ?_
  rw [readPortTest_whole, lookAtTest_idle hb, hb]
  simp [b2n]

theorem portTestRead_busy {s : State} {p : PortIx} (h : s.pfAnswers = true) (hb : (s.dyn p).testBusy = true) :
    ∃ u e, exec (.trbPortTestRead p) s = .next u ∧ (e = (s.dyn p).testErrors ∨ ∃ n, e = satAdd 32 (s.dyn p).testErrors n)
      ∧ u.lastRead = 2 + (s.dyn p).testResult <<< 2 + e <<< 32 ∧ (u.dyn p).testErrors = 0 ∧ (u.dyn p).testBusy = true
      ∧ u.port p = s.port p ∧ u.mem = s.mem ∧ u.cores = s.cores := by
  obtain ⟨herr, hbusy, hres, hport, hmem, hcores⟩ := lookAtTest_busy hb
  have hdyn (x : PortDyn) (v : Nat) : ({ (lookAtTest s p).setDyn p x with lastRead := v } : State).dyn p = x :=
    State.dyn_setDyn_same _ _ _
  refine ⟨_, _, hostReads_next h (readPortTest_whole s p), herr, ?_, ?_, ?_, hport, hmem, hcores⟩
  · simp [hbusy, hres, b2n]
  · rw [hdyn]
  · rw [hdyn]; exact hbusy

theorem latValRead_clears (s : State) (l : SlotIx) (f : FnIx) :
    (s.pfAnswers = true → exec (.lktLatValRead ⟨0, l⟩) s = .next { s.setSlot l { s.slot l with
        lat := SMap.set zeroD (s.slot l).lat (s.slot l).latSelKey 0 } with lastRead := SMap.get zeroD (s.slot l).lat (s.slot l).latSelKey })
    ∧ (f ≠ 0 → s.vfAnswers f = true → l.val + 1 = f.val → exec (.lktLatValRead ⟨f, l⟩) s = .next { s.setSlot l { s.slot l with
        lat := SMap.set zeroD (s.slot l).lat (s.slot l).latSelKey 0 } with
          lastRead := SMap.get zeroD (s.slot l).lat (s.slot l).latSelKey % 2 ^ 64 })
    ∧ (f ≠ 0 → s.vfAnswers f = false ∨ l.val + 1 ≠ f.val → exec (.lktLatValRead ⟨f, l⟩) s = .next s) :=
  ⟨fun h => hostReads_next h (readLatVal_whole s l),
    fun hf h hl => vfReads_next hf h hl (by decide) ((readVfWord_latVal hl).trans (readLatVal_whole s l)),
    fun hf => vfReads_next_silent hf⟩

/-- Settles O55: each row is a read of a whole register, which clears every field of access RC in it. -/
theorem countersClear : Obligations.CountersClear := by
  refine ⟨memoryReads_clear, meshReads_clear, powerReads_clear, ?_, ?_⟩
  · intro s l q f r fq sq ev fw sw ew hfq hsq hev hfw hsw hew
    rw [hfq, hsq, hev, hfw, hsw, hew]
    obtain ⟨hpf, hsilent⟩ := queueReads_clear s l q r
    exact ⟨hpf, hsilent, vfQueueReads_clear s l q f r, vfQueueReads_silent s l q f r⟩
  · intro s i l f p key v lat hkey hv hlat
    rw [hlat, hv, hkey]
    obtain ⟨hpf, hvf, hsilent⟩ := latValRead_clears s l f
    refine ⟨fun h => ⟨hostReads_next h (readSetStatus_whole s i), hpf h, hostReads_next h (readPortFec_whole s p),
        hostReads_next h (readPortLink_whole s p), hostReads_next h (readPortDrop_whole s p), portTestRead_idle h, portTestRead_busy h⟩,
      fun h => ⟨hostReads_next_silent h, hostReads_next_silent h, hostReads_next_silent h, hostReads_next_silent h, hostReads_next_silent h,
        hostReads_next_silent h⟩,
      fun hf => ⟨hvf hf, hsilent hf⟩⟩

end Sys2Proof.Machine
end

section
/-! Frames: operations on queues, packets, faults, grants and Lockets that leave the memory block as it is. -/

namespace Sys2Proof.Machine

/-! ### Operations that leave the memory block alone -/

theorem Posted.mem {s u : State} (h : Posted s u) : u.mem = s.mem := by obtain ⟨_, _, _, _, _, _, _, _, _, _, rfl⟩ := h; rfl

@[simp] theorem State.takeFree_mem (s : State) : s.takeFree.2.mem = s.mem := rfl
@[simp] theorem State.fresh_mem (s : State) : s.fresh.2.mem = s.mem := rfl
@[simp] theorem State.updSlot_mem (s : State) (l : Nat) (f : Slot → Slot) : (s.updSlot l f).mem = s.mem := rfl
@[simp] theorem State.updDyn_mem (s : State) (p : Nat) (f : PortDyn → PortDyn) : (s.updDyn p f).mem = s.mem := rfl
@[simp] theorem State.updSq_mem (s : State) (q : Nat) (f : Sq → Sq) : (s.updSq q f).mem = s.mem := rfl
@[simp] theorem State.updFq_mem (s : State) (l : Nat) (f : FqRing → FqRing) : (s.updFq l f).mem = s.mem := rfl
@[simp] theorem State.updDesc_mem (s : State) (q idx : Nat) (f : Desc → Desc) : (s.updDesc q idx f).mem = s.mem := rfl
@[simp] theorem State.setTagKeys_mem (s : State) (t : Nat) (x : TagKeys) : (s.setTagKeys t x).mem = s.mem := rfl
@[simp] theorem State.setHomeRec_mem (s : State) (b : Nat) (x : HomeRec) : (s.setHomeRec b x).mem = s.mem := rfl
@[simp] theorem State.setWalk_mem (s : State) (e : Nat) (w : Option Walk) : (s.setWalk e w).mem = s.mem := rfl
@[simp] theorem State.setPend_mem (s : State) (e : Nat) (v : Option Nat) : (s.setPend e v).mem = s.mem := by
  unfold State.setPend; split <;> rfl
@[simp] theorem setOut_mem (s : State) (l : List OutEnt) : (setOut s l).mem = s.mem := rfl
@[simp] theorem hostSend_mem (s : State) (m : HostOut) : (hostSend s m).mem = s.mem := rfl
@[simp] theorem raise_mem (s : State) (i : Nat) : (raise s i).mem = s.mem := by unfold raise; split <;> rfl
@[simp] theorem charge_mem (s : State) (ctx l : Nat) (f : Acct → Acct) : (charge s ctx l f).mem = s.mem := (charge_posted s ctx l f).mem
@[simp] theorem countSeam_mem (s : State) (ctx l n : Nat) : (countSeam s ctx l n).mem = s.mem := charge_mem _ _ _ _
@[simp] theorem countDram_mem (s : State) (ctx l n : Nat) : (countDram s ctx l n).mem = s.mem := charge_mem _ _ _ _
@[simp] theorem countTrb_mem (s : State) (ctx l n : Nat) : (countTrb s ctx l n).mem = s.mem := charge_mem _ _ _ _
@[simp] theorem grantPair_mem (s : State) (pair unit dir n : Nat) : (grantPair s pair unit dir n).mem = s.mem := by
  unfold grantPair
  dsimp only
  repeat' split
  all_goals rfl
@[simp] theorem noteGrant_mem (s : State) (l f set unit dir n : Nat) : (noteGrant s l f set unit dir n).mem = s.mem := grantPair_mem _ _ _ _ _
@[simp] theorem notePcie_mem (s : State) (l f ctx dir n : Nat) : (notePcie s l f ctx dir n).mem = s.mem := (notePcie_posted _ _ _ _ _ _).mem
@[simp] theorem crossSeam_mem (s : State) (l f ctx a b n : Nat) : (crossSeam s l f ctx a b n).mem = s.mem := by
  unfold crossSeam; split <;> simp
@[simp] theorem Req.cross_mem (r : Req) (s : State) (a b n : Nat) : (r.cross s a b n).mem = s.mem := crossSeam_mem _ _ _ _ _ _ _
@[simp] theorem emit_mem (s : State) (f : Nat) (r : Ring) (irq : Bool) (x : Record) (facet : Nat) : (emit s f r irq x facet).mem = s.mem :=
  (emit_posted _ _ _ _ _ _).mem
@[simp] theorem putEv_mem (s : State) (f : Nat) (x : Record) : (putEv s f x).mem = s.mem := (putEv_posted _ _ _).mem
@[simp] theorem postEvent_mem (s : State) (x : Record) : (postEvent s x).mem = s.mem := (postEvent_posted _ _).mem
@[simp] theorem noteOwn_mem (s : State) (l : Labels) (c n : Nat) (ok : Bool) : (noteOwn s l c n ok).mem = s.mem := by
  unfold noteOwn; dsimp only; split <;> simp
@[simp] theorem chanAnswers_mem (s : State) (c st : Nat) : (chanAnswers s c st).1.mem = s.mem := by
  unfold chanAnswers; dsimp only; split <;> rfl
@[simp] theorem poisonEvent_mem (s : State) (c sec : Nat) (w : Cause) : (poisonEvent s c sec w).mem = s.mem := postEvent_mem _ _

/-! Faults -/

@[simp] theorem postFault_mem (s : State) (entry : Nat) : (postFault s entry).mem = s.mem := by
  unfold postFault
  split
  · rfl
  · simp only [emit_mem]; split <;> rfl
@[simp] theorem holdFault_mem (s : State) (o : OutEnt) : (holdFault s o).mem = s.mem := by
  unfold holdFault; dsimp only; split <;> simp
@[simp] theorem raiseFault_mem (s : State) (f : FaultRec) : (raiseFault s f).1.mem = s.mem := by
  unfold raiseFault
  dsimp only
  repeat' split
  all_goals simp

/-! Packets -/

@[simp] theorem sendFlit_mem (s : State) (p vc : Nat) (f : Flit) : (sendFlit s p vc f).mem = s.mem := rfl
@[simp] theorem countExpired_mem (s : State) (p : Nat) : (countExpired s p).mem = s.mem := by
  unfold countExpired countEdge; dsimp only; split <;> simp
@[simp] theorem txFlit_mem (s : State) (p wait k i : Nat) (q : Queued) : (txFlit s p wait k i q).mem = s.mem := by
  unfold txFlit; dsimp only; rw [apply_ite State.mem]; simp
@[simp] theorem txPump_mem (s : State) (p wait fuel : Nat) : (txPump s p wait fuel).mem = s.mem := by
  induction fuel generalizing s with
  | zero => rfl
  | succ fuel ih =>
    unfold txPump
    split
    · rfl
    · dsimp only [State.takeFree]
      split
      · rfl
      · split
        · rfl
        · rw [ih, txFlit_mem]; rfl
@[simp] theorem enqueue_mem (s : State) (p vc budget resid pair : Nat) (bytes : List (BitVec 8)) :
    (enqueue s p vc budget resid pair bytes).mem = s.mem := by simp [enqueue]
theorem protect_mem {s t : State} {p : Nat} {k k1 : Packet} (h : protect s p k = some (t, k1)) : t.mem = s.mem := by
  unfold protect at h
  split at h
  · cases h
  · dsimp only at h
    split at h
    · cases h
    · cases h; rfl
theorem sendPacket_mem {s t : State} {p wait : Nat} {k : Packet} (h : sendPacket s p wait k = some t) : t.mem = s.mem := by
  unfold sendPacket at h
  split at h
  · cases h
  · next hp => cases h; simpa using protect_mem hp
@[simp] theorem sendPacket_getD_mem (s : State) (p wait : Nat) (k : Packet) : ((sendPacket s p wait k).getD s).mem = s.mem := by
  cases h : sendPacket s p wait k with
  | none => rfl
  | some t => exact sendPacket_mem h
@[simp] theorem sendResponse_mem (s : State) (wait : Nat) (k : Packet) : (sendResponse s wait k).mem = s.mem := by
  unfold sendResponse
  repeat' split
  all_goals simp
@[simp] theorem track_mem (s : State) (p : Nat) (t : Tracked) : (track s p t).mem = s.mem := by simp [track]
@[simp] theorem sendRequest_mem (s : State) (k : Packet) (why : Purpose) : (sendRequest s k why).1.mem = s.mem := by
  unfold sendRequest
  dsimp only
  repeat' split
  all_goals simp
@[simp] theorem sendAway_mem (s : State) (w : Sender) (kind : ReqKind) (dpa len : Nat) (data : List (BitVec 8)) :
    (sendAway s w kind dpa len data).1.mem = s.mem := by
  unfold sendAway
  dsimp only
  split
  · rfl
  · split
    all_goals
      next h => simpa using (congrArg (·.1.mem) h).symm
@[simp] theorem answerRemote_mem (s : State) (reqid mod budget ctx tag facet status : Nat) (data : Option (List (BitVec 8))) :
    (answerRemote s reqid mod budget ctx tag facet status data).mem = s.mem := sendResponse_mem _ _ _
@[simp] theorem countAborted_mem (s : State) (r : Req) (status : Nat) : (countAborted s r status).mem = s.mem := by
  unfold countAborted; split <;> rfl
@[simp] theorem bar4Answer_mem (s : State) (bid pos status : Nat) (data : List (BitVec 8)) : (bar4Answer s bid pos status data).mem = s.mem := by
  unfold bar4Answer
  dsimp only
  repeat' split
  all_goals rfl

/-! Queues -/

@[simp] theorem freeSlots_mem (s : State) (q n : Nat) : (freeSlots s q n).mem = s.mem := rfl
@[simp] theorem drainQueue_mem (s : State) (q : Nat) : (drainQueue s q).mem = s.mem := rfl
@[simp] theorem completeDesc_mem (s : State) (q idx : Nat) : (completeDesc s q idx).mem = s.mem := by
  unfold completeDesc
  split
  · rfl
  · simp only [drainQueue_mem]; split <;> simp
@[simp] theorem sendTagged_mem (s : State) (tag dst : Nat) (payload : List (BitVec 8)) (why : Purpose) :
    (sendTagged s tag dst payload why).1.mem = s.mem := sendRequest_mem _ _ _
@[simp] theorem sendControl_mem (s : State) (l dst : Nat) (payload : List (BitVec 8)) (why : Purpose) :
    (sendControl s l dst payload why).1.mem = s.mem := sendTagged_mem _ _ _ _ _
@[simp] theorem signalAway_mem (s : State) (q : Nat) (d : Desc) : (signalAway s q d).mem = s.mem := by
  unfold signalAway
  dsimp only
  split
  all_goals
    next h => simpa using (congrArg (·.1.mem) h).symm

/-! Lockets -/

@[simp] theorem sendTeardown_mem (s : State) (l m sub step tag : Nat) : (sendTeardown s l m sub step tag).mem = s.mem := by
  simp [sendTeardown]
@[simp] theorem updTeardown_mem (s : State) (l : Nat) (f : Teardown → Teardown) : (updTeardown s l f).mem = s.mem :=
  State.updSlot_mem _ _ _
@[simp] theorem retireKey_mem (s : State) (tag : Nat) : (retireKey s tag).mem = s.mem := by simp [retireKey]
@[simp] theorem emptySlot_mem (s : State) (l : Nat) : (emptySlot s l).mem = s.mem := rfl
@[simp] theorem answerStop_mem (s : State) (l : Nat) (t : Teardown) : (answerStop s l t).mem = s.mem := by
  unfold answerStop; split <;> rfl
@[simp] theorem teardownDone_mem (s : State) (l tag qp members missing reqs : Nat) :
    (teardownDone s l tag qp members missing reqs).mem = s.mem := by simp [teardownDone]
@[simp] theorem stepDone_mem (s : State) (l step : Nat) : (stepDone s l step).mem = s.mem := by
  unfold stepDone
  repeat' split
  all_goals simp
theorem forAll_mem {α : Type} (f : State → α → State) (hf : ∀ t x, (f t x).mem = t.mem) (l : List α) (s : State) :
    (s.forAll l f).mem = s.mem := by
  induction l generalizing s with
  | nil => rfl
  | cons x l ih => exact (ih _).trans (hf s x)
@[simp] theorem freeBlocksOf_mem (s : State) (l : Nat) : (freeBlocksOf s l).mem = s.mem := by
  unfold freeBlocksOf
  split
  · dsimp only
    exact forAll_mem _ (fun _ _ => State.setHomeRec_mem _ _ _) _ _
  · rfl

end Sys2Proof.Machine
end

section
/-! What the memory block says of tests and of retired channels (`Mem.standing`), and that no move, job, descriptor, teardown, scrub or role
that ends changes it. -/

namespace Sys2Proof.Machine

/-! ### What the memory block says of tests and of retired channels -/

/-- What a channel says of a test that runs on it and of its retirement. -/
def Chan.standing (h : Chan) : Bool × Bool × Bool := (h.bist, h.retired, h.state == 5)

/-- What the memory block says of tests and retirement: MEM_BIST_FAIL, the channels that a test has still to come to, and every channel. -/
def Mem.standing (m : Mem) : BitVec 128 × Nat × (Nat → Bool × Bool × Bool) :=
  (m.bistFail, m.bistLeft, fun c => (SMap.get chanD m.chans c).standing)

/-- Requests, answers, jobs and moves have no part in it. -/
@[simp] theorem Mem.standing_mk (m : Mem) (inflight held : List Req) (answers : List Answer) (jobs : List Job) (moves : List Move)
    (sel : BitVec 128) (err : Bool) :
    Mem.standing { m with inflight := inflight, held := held, answers := answers, jobs := jobs, moves := moves, bistSel := sel, bistErr := err }
      = m.standing := rfl

theorem ite_standing {c : Prop} [Decidable c] {s t u : State} (ht : t.mem.standing = s.mem.standing) (hu : u.mem.standing = s.mem.standing) :
    (if c then t else u).mem.standing = s.mem.standing := by
  split
  · exact ht
  · exact hu

theorem chan_standing {s t : State} (h : t.mem.standing = s.mem.standing) (c : Nat) : (t.chan c).standing = (s.chan c).standing :=
  congrFun (congrArg (·.2.2) h) c

@[simp] theorem setChan_standing {s : State} {c : Nat} {x : Chan} (h : x.standing = (s.chan c).standing) :
    (s.setChan c x).mem.standing = s.mem.standing := by
  refine Prod.ext rfl (Prod.ext rfl (funext fun k => ?_))
  change ((s.setChan c x).chan k).standing = (s.chan k).standing
  rw [State.chan_setChan]
  split
  · next e => rw [e, h]
  · rfl

@[simp] theorem updChan_standing {s : State} {c : Nat} {f : Chan → Chan} (h : (f (s.chan c)).standing = (s.chan c).standing) :
    (s.updChan c f).mem.standing = s.mem.standing := setChan_standing h

/-- Steps that each leave it alone, as long as those before them have, leave it alone together. -/
theorem forAll_standing_of {α : Type} {f : State → α → State} {l : List α} {s : State}
    (hf : ∀ t, t.mem.standing = s.mem.standing → ∀ x ∈ l, (f t x).mem.standing = t.mem.standing) :
    (s.forAll l f).mem.standing = s.mem.standing := by
  have run : ∀ k : List α, (∀ x ∈ k, x ∈ l) → ∀ t : State, t.mem.standing = s.mem.standing → (t.forAll k f).mem.standing = s.mem.standing := by
    intro k
    induction k with
    | nil => exact fun _ _ ht => ht
    | cons x k ih => exact fun hk t ht => ih (fun y hy => hk y (.tail _ hy)) _ ((hf t ht x (hk x (.head _))).trans ht)
  exact run l (fun _ h => h) s rfl

@[simp] theorem forAll_standing {α : Type} {f : State → α → State} {l : List α} {s : State}
    (hf : ∀ t x, (f t x).mem.standing = t.mem.standing) : (s.forAll l f).mem.standing = s.mem.standing :=
  forAll_standing_of fun t _ x _ => hf t x

/-! Sectors -/

theorem Chan.inject_standing (ch : Chan) (rd first : Bool) : (ch.inject rd first).1.standing = ch.standing := by
  unfold Chan.inject; split <;> rfl

theorem readSector_standing (c : Nat) (x : Xmit) (ch : Chan) (sec i : Nat) : (readSector c x ch sec i).1.standing = ch.standing := by
  refine Eq.trans ?_ (Chan.inject_standing ch true (i == 0))
  unfold readSector
  dsimp only
  repeat' split
  all_goals rfl

theorem readSector_ne_failed (c : Nat) (x : Xmit) (ch : Chan) (sec i : Nat) : (readSector c x ch sec i).2.1 ≠ .failed := by
  unfold readSector
  dsimp only
  repeat' split
  all_goals simp

theorem settleXfer_standing {s : State} {c sec : Nat} {ch : Chan} {e : Xfer} {data : List (BitVec 8)} {w : Cause}
    (h : ch.standing = (s.chan c).standing) (he : e ≠ .failed) : (settleXfer s c sec ch e data w).1.mem.standing = s.mem.standing := by
  have counted (t : State) : (t.updChan c (fun x => x.countPoison sec w.wr)).mem.standing = t.mem.standing := updChan_standing rfl
  cases e with
  | failed => exact absurd rfl he
  | ok => exact setChan_standing h
  | mark => simp only [settleXfer, raise_mem]; split <;> simp [counted, h]
  | bond => simp only [settleXfer, raise_mem, poisonEvent_mem]; split <;> simp [counted, h]

@[simp] theorem homeRead_standing (s : State) (c sec i : Nat) (x : Xmit) (w : Cause) :
    (homeRead s c sec i x w).1.mem.standing = s.mem.standing := by
  unfold homeRead
  split
  · simp
  · exact settleXfer_standing (readSector_standing _ _ _ _ _) (readSector_ne_failed _ _ _ _ _)

@[simp] theorem markFence_standing (s : State) (c sec : Nat) (b : Bool) : (markFence s c sec b).mem.standing = s.mem.standing :=
  forAll_standing fun _ _ => updChan_standing rfl

/-! Requests and jobs -/

@[simp] theorem updJob_standing (s : State) (jid : Nat) (f : Job → Job) : (s.updJob jid f).mem.standing = s.mem.standing := rfl

@[simp] theorem launchReq_standing (s : State) (w : Sender) (kind : ReqKind) (place : Place) (dpa len : Nat) (data : List (BitVec 8))
    (set epoch : Nat) : (launchReq s w kind place dpa len data set epoch).mem.standing = s.mem.standing := by
  unfold launchReq
  exact ite_standing rfl rfl

@[simp] theorem releaseHeld_standing (s : State) : (releaseHeld s).mem.standing = s.mem.standing := by
  have go : ∀ (l still : List Req) (t : State), (releaseHeld.go t l still).mem.standing = t.mem.standing := by
    intro l
    induction l with
    | nil => exact fun _ _ => rfl
    | cons r l ih =>
      intro still t
      unfold releaseHeld.go
      dsimp only
      split <;> exact ih _ _
  unfold releaseHeld
  split
  · rfl
  · exact go _ _ _

@[simp] theorem sendLocal_standing (s : State) (w : Sender) (kind : ReqKind) (dpa len : Nat) (data : List (BitVec 8)) :
    (sendLocal s w kind dpa len data).1.mem.standing = s.mem.standing := by
  unfold sendLocal
  repeat' split
  all_goals simp

@[simp] theorem sendReq_standing (s : State) (w : Sender) (kind : ReqKind) (dpa len : Nat) (data : List (BitVec 8)) :
    (sendReq s w kind dpa len data).1.mem.standing = s.mem.standing := by
  unfold sendReq; split <;> simp

@[simp] theorem jobFail_standing (s : State) (jid st : Nat) : (jobFail s jid st).mem.standing = s.mem.standing := by
  unfold jobFail
  split
  · dsimp only; split <;> simp
  · rfl

@[simp] theorem jobFault_standing (s : State) (j : Job) (kind access va pos : Nat) (e : Option RangeEnt) :
    (jobFault s j kind access va pos e).mem.standing = s.mem.standing := by
  unfold jobFault
  dsimp only
  rw [raise_mem]
  exact ite_standing (by simp) (by simp)

theorem jobWalk_standing {s t : State} {j : Job} {access va : Nat} (h : jobWalk s j access va = some t) :
    t.mem.standing = s.mem.standing := by
  unfold jobWalk at h
  split at h
  · cases h
  · cases h; rfl

/-- Where a send succeeds or is refused, the state after it stands as the one before. -/
theorem sendReq_next {s t : State} {w : Sender} {kind : ReqKind} {dpa len : Nat} {data : List (BitVec 8)} {o : Option Nat}
    (h : sendReq s w kind dpa len data = (t, o)) : t.mem.standing = s.mem.standing := by
  rw [← sendReq_standing s w kind dpa len data, h]

theorem jobWriteOne_standing {s t : State} {j : Job} {p : Nat × List (BitVec 8) × Bool × Stop} (h : jobWriteOne s j p = some t) :
    t.mem.standing = s.mem.standing := by
  obtain ⟨off, data, poison, stop⟩ := p
  unfold jobWriteOne at h
  dsimp only at h
  split at h
  · split at h
    · cases h
    · split at h
      · cases h; simp
      · cases h; simp
  · split at h
    · exact jobWalk_standing h
    · cases h; simp
    · cases h; simp
    · split at h
      · cases h; simp
      · split at h
        · cases h
        · split at h
          · next hs => cases h; simpa using sendReq_next hs
          · next hs => cases h; simpa using sendReq_next hs

theorem jobReadOne_standing {s t : State} {j : Job} (h : jobReadOne s j = some t) : t.mem.standing = s.mem.standing := by
  unfold jobReadOne at h
  dsimp only at h
  split at h
  · split at h
    · cases h
    · cases h; simp
  · split at h
    · exact jobWalk_standing h
    · cases h; simp
    · cases h; simp
    · split at h
      · cases h
      · split at h
        · next hs => cases h; simpa using sendReq_next hs
        · next hs => cases h; simpa using sendReq_next hs

theorem jobStep_standing {s t : State} {j : Job} (h : jobStep s j = some t) : t.mem.standing = s.mem.standing := by
  unfold jobStep at h
  split at h
  · exact jobWriteOne_standing h
  · split at h
    · exact jobReadOne_standing h
    · split at h
      · cases h; rfl
      · cases h

@[simp] theorem jobPump_standing (s : State) (ce fuel : Nat) : (jobPump s ce fuel).mem.standing = s.mem.standing := by
  induction fuel generalizing s with
  | zero => rfl
  | succ fuel ih =>
    unfold jobPump
    split
    · next t h =>
      obtain ⟨j, -, hj⟩ := Option.bind_eq_some_iff.1 h
      rw [ih, jobStep_standing hj]
    · rfl

@[simp] theorem jobPumpEngine_standing (s : State) (ce : Nat) : (jobPumpEngine s ce).mem.standing = s.mem.standing := jobPump_standing _ _ _

@[simp] theorem jobAnswer_standing (s : State) (jid off : Nat) (stop : Stop) (rd : Bool) (status : Nat) (data : List (BitVec 8)) :
    (jobAnswer s jid off stop rd status data).mem.standing = s.mem.standing := by
  have failed : (if status = stOK then s else jobFail s jid status).mem.standing = s.mem.standing := ite_standing rfl (jobFail_standing _ _ _)
  unfold jobAnswer
  extract_lets s0 s1
  have h1 : s1.mem.standing = s.mem.standing := ite_standing failed failed
  split
  · rw [jobPumpEngine_standing, h1]
  · exact h1

@[simp] theorem answer_standing (s : State) (r : Req) (status : Nat) (data : List (BitVec 8)) (unit : Option Nat) (stop : Stop) :
    (answer s r status data unit stop).mem.standing = s.mem.standing := by
  unfold answer
  dsimp only
  rw [releaseHeld_standing]
  repeat' split
  all_goals simp

/-! Descriptors -/

theorem sendControl_next {s t : State} {l dst : Nat} {payload : List (BitVec 8)} {why : Purpose} {o : SendResult}
    (h : sendControl s l dst payload why = (t, o)) : t.mem = s.mem := by
  rw [← sendControl_mem s l dst payload why, h]

@[simp] theorem finishDesc_standing (s : State) (q idx status : Nat) (det : BitVec 128) :
    (finishDesc s q idx status det).mem.standing = s.mem.standing := by
  unfold finishDesc
  split
  · rfl
  · dsimp only
    split
    · simp
    · split
      · split
        · split <;> simp
        · simp
      · split
        · simp
        · split
          · next h => simp [sendControl_next h]
          · next h => simp [sendControl_next h]

@[simp] theorem readRecord_standing (s : State) (l : Labels) (i : Nat) (x : Xmit) : (readRecord s l i x).1.mem.standing = s.mem.standing := by
  unfold readRecord
  dsimp only
  split <;> simp

@[simp] theorem registerWait_standing (s : State) (l : Labels) (i gen value : Nat) (who : WaitFor) (x : Xmit) :
    (registerWait s l i gen value who x).1.mem.standing = s.mem.standing := by
  unfold registerWait
  dsimp only
  split
  · rfl
  · have read := readRecord_standing s l i x
    split
    · next h => rw [h] at read; exact read
    · next h =>
      rw [h] at read
      repeat' split
      all_goals exact read

@[simp] theorem waitOutcome_standing (s : State) (q idx out : Nat) : (waitOutcome s q idx out).mem.standing = s.mem.standing := by
  unfold waitOutcome; split <;> simp

@[simp] theorem startWait_standing (s : State) (q : Nat) (d : Desc) (x : Xmit) : (startWait s q d x).mem.standing = s.mem.standing := by
  unfold startWait
  split
  · simp
  · split
    · simp
    · split
      · next h => simp [sendControl_next h]
      · next h => simp [sendControl_next h]

@[simp] theorem refuseDesc_standing (s : State) (q idx st : Nat) : (refuseDesc s q idx st).mem.standing = s.mem.standing := by
  simp [refuseDesc]

@[simp] theorem askFences_standing (s : State) (q idx l : Nat) (hs : List Nat) : (askFences s q idx l hs).mem.standing = s.mem.standing := by
  induction hs generalizing s with
  | nil => rfl
  | cons h hs ih =>
    unfold askFences
    split
    · next e => simp [ih, sendControl_next e]
    · next e => simp [sendControl_next e]

@[simp] theorem advanceQueue_standing (s : State) (q fuel : Nat) : (advanceQueue s q fuel).mem.standing = s.mem.standing := by
  induction fuel generalizing s with
  | zero => rfl
  | succ fuel ih =>
    unfold advanceQueue
    dsimp only
    repeat' split
    all_goals simp [ih]

@[simp] theorem settle_standing (s : State) (q : Nat) : (settle s q).mem.standing = s.mem.standing := advanceQueue_standing _ _ _
@[simp] theorem endDesc_standing (s : State) (q idx status : Nat) (det : BitVec 128) :
    (endDesc s q idx status det).mem.standing = s.mem.standing := by simp [endDesc]

@[simp] theorem destroyFence_standing (s : State) (i : Nat) : (destroyFence s i).mem.standing = s.mem.standing := by
  unfold destroyFence; dsimp only; split <;> simp

/-! Swaps, teardown and what waits for a scrub -/

@[simp] theorem abandonSwap_standing (s : State) (i status : Nat) (us : Option Nat) :
    (abandonSwap s i status us).mem.standing = s.mem.standing := by
  unfold abandonSwap
  extract_lets s0 lasted x ds _ s1 s2 s3
  have h0 : s0.mem.standing = s.mem.standing := ite_standing rfl rfl
  have h2 : s2.mem.standing = s1.mem.standing := forAll_standing fun _ _ => updChan_standing rfl
  split
  · exact h0
  · split
    · exact h0
    · rw [endDesc_standing, State.setSetting_mem, h2]
      exact h0

@[simp] theorem failMoves_standing (s : State) (c : Nat) : (failMoves s c).mem.standing = s.mem.standing :=
  forAll_standing fun t i => abandonSwap_standing t i stCHFAIL none

@[simp] theorem dropRanges_standing (s : State) (p : RangeEnt → Bool) : (dropRanges s p).mem.standing = s.mem.standing := by
  unfold dropRanges
  extract_lets keep s1
  exact (forAll_standing fun _ _ => rfl : s1.mem.standing = s.mem.standing)

@[simp] theorem clearLocketQueues_standing (s : State) (l : Nat) : (clearLocketQueues s l).mem.standing = s.mem.standing := by
  unfold clearLocketQueues
  extract_lets ctxs s1 s2 s3 s4 s5 _ _ s6
  have h6 : s6.mem = s5.mem := State.setEv_mem _ _ _
  rw [State.updFq_mem, h6]
  calc s5.mem.standing
    _ = s4.mem.standing := forAll_standing fun _ _ => rfl
    _ = s3.mem.standing := forAll_standing fun t q => by rw [freeSlots_mem, State.setSq_mem]
    _ = s2.mem.standing := forAll_standing fun _ _ => rfl
    _ = s1.mem.standing := dropRanges_standing _ _
    _ = s.mem.standing := forAll_standing destroyFence_standing

@[simp] theorem expelReqs_standing (s : State) (p : Req → Bool) (st : Nat) : (expelReqs s p st).mem.standing = s.mem.standing := by
  simp [expelReqs]

/-- Scrubs of channels that are not in STATE 5 leave it as it is, since no other step retires one meanwhile. -/
theorem startScrubs_standing {s : State} {l : List Nat} (initiator : Nat) (h : ∀ c ∈ l, (s.chan c).state ≠ 5) :
    (s.forAll l (fun s c => startScrub s c initiator)).mem.standing = s.mem.standing := by
  refine forAll_standing_of fun t ht c hc => updChan_standing ?_
  have hst : ((t.chan c).state == 5) = ((s.chan c).state == 5) := congrArg (·.2.2) (chan_standing ht c)
  simp [Chan.standing, hst, h c hc]

@[simp] theorem releaseLocket_standing (s : State) (l : Nat) : (releaseLocket s l).mem.standing = s.mem.standing := by
  unfold releaseLocket
  extract_lets x sets s0 _ s1 left s2 cs s3 s4
  have h2 : s2.mem.standing = s.mem.standing := calc s2.mem.standing
    _ = s1.mem.standing := by simp [s2]
    _ = s.mem.standing := (forAll_standing fun _ _ => rfl : s0.mem.standing = s.mem.standing)
  have h3 : s3.mem.standing = s2.mem.standing := forAll_standing fun _ _ => updChan_standing rfl
  have h4 : s4.mem.standing = s3.mem.standing := by
    refine startScrubs_standing 1 fun c hc h5 => ?_
    have hst : ((s3.chan c).state == 5) = ((s2.chan c).state == 5) := congrArg (·.2.2) (chan_standing h3 c)
    have h1 : (s2.chan c).state = 1 := by simpa using (List.mem_filter.1 hc).2
    simp [h5, h1] at hst
  simp [h4, h3, h2]

@[simp] theorem finishTeardown_standing (s : State) (l : Nat) : (finishTeardown s l).mem.standing = s.mem.standing := by
  unfold finishTeardown
  split
  · rfl
  · dsimp only
    split <;> simp

@[simp] theorem advanceTeardown_standing (s : State) (l fuel : Nat) : (advanceTeardown s l fuel).mem.standing = s.mem.standing := by
  induction fuel generalizing s with
  | zero => rfl
  | succ fuel ih =>
    unfold advanceTeardown
    split
    · rfl
    · split
      · rfl
      · extract_lets send clear sent5 freed5 released7
        have sent (t : State) (step : Nat) : (send t step).mem.standing = t.mem.standing := forAll_standing (by simp)
        have cleared (t : State) (step : Nat) : (clear t step).mem = t.mem := updTeardown_mem _ _ _
        split
        · have freed : freed5.mem.standing = s.mem.standing := by simp [freed5, sent5, sent, cleared]
          split
          · simp [ih, freed]
          · exact freed
        · split
          · have released : released7.mem.standing = s.mem.standing := by simp [released7, sent, cleared]
            split
            · split
              · simp [ih, released]
              · exact released
            · exact released
          · split
            · simp [sent]
            · rfl

@[simp] theorem teardownScrubbed_standing (s : State) (c : Nat) : (teardownScrubbed s c).mem.standing = s.mem.standing := by
  unfold teardownScrubbed
  split
  · rfl
  · dsimp only
    split
    · split <;> simp
    · simp

@[simp] theorem roleDone_standing (s : State) (q idx : Nat) : (roleDone s q idx).mem.standing = s.mem.standing := by
  have joins (h : Chan) : Chan.standing { h with state := if h.state = 0 then 1 else h.state, clean := false } = h.standing := by
    simp only [Chan.standing]
    split
    · next h0 => simp [h0]
    · rfl
  unfold roleDone
  split
  · extract_lets cs _ s1 s2
    rw [endDesc_standing]
    exact (forAll_standing fun t c => updChan_standing (joins _) : s2.mem.standing = s1.mem.standing)
  · split
    · extract_lets _ s1 s2
      rw [endDesc_standing]
      exact (forAll_standing fun _ _ => rfl : s2.mem.standing = s1.mem.standing)
    · rfl

@[simp] theorem scrubbedFor_standing (s : State) (c : Nat) : (scrubbedFor s c).mem.standing = s.mem.standing := by
  refine forAll_standing fun t h => ?_
  dsimp only
  split
  · split
    · split <;> simp
    · simp
  · simp

@[simp] theorem dropScrub_standing (s : State) (c : Nat) : (dropScrub s c).mem.standing = s.mem.standing := by simp [dropScrub]

/-- A channel that is retired is retired for good in what follows: moves, teardowns, scrubs and roles that it ends leave it so. -/
theorem retire_standing {s : State} {c reason : Nat} (hc : c < 128) (h : (s.chan c).retired = false) :
    (retire s (chanUnit c) reason).mem.standing
      = (s.updChan c (fun h => { h with retired := true, state := 5, initiator := none })).mem.standing := by
  have hu : chanUnit c - 0x100 = c := Nat.add_sub_cancel_left _ _
  have h1 : ¬chanUnit c < 192 := by unfold chanUnit; omega
  have h2 : 0x100 ≤ chanUnit c ∧ chanUnit c < 0x180 := by unfold chanUnit; omega
  unfold retire
  dsimp only
  rw [if_neg h1, if_pos h2, hu, if_neg (by simp [h])]
  split <;> simp

end Sys2Proof.Machine
end

section
/-! Self-test and memory BIST (R13, R604, R605): the end of a channel's scrub and of its test, and O54. -/

namespace Sys2Proof.Machine

/-! ### Reports and the scrubs that a teardown waits for -/

theorem Posted.sqs {s u : State} (h : Posted s u) : u.que.sqs = s.que.sqs := by obtain ⟨_, _, _, _, _, _, _, _, _, _, rfl⟩ := h; rfl

/-- The teardown of every slot. -/
def State.teardowns (s : State) (l : Nat) : Option Teardown := (s.slot l).teardown

@[simp] theorem updSlot_teardowns {s : State} {l : Nat} {f : Slot → Slot} (h : (f (s.slot l)).teardown = (s.slot l).teardown) :
    (s.updSlot l f).teardowns = s.teardowns := by
  funext k
  simp only [State.teardowns, State.updSlot_eq, State.slot_setSlot]
  split
  · next e => rw [e, h]
  · rfl

@[simp] theorem charge_teardowns (s : State) (ctx l : Nat) (f : Acct → Acct) : (charge s ctx l f).teardowns = s.teardowns := by
  have locket (t : State) : (chargeLocket t l f).teardowns = t.teardowns := by
    unfold chargeLocket
    split
    · exact updSlot_teardowns rfl
    · rfl
  unfold charge
  dsimp only
  rw [locket]
  split <;> rfl

@[simp] theorem noteGrant_teardowns (s : State) (l f set unit dir n : Nat) : (noteGrant s l f set unit dir n).teardowns = s.teardowns := by
  unfold noteGrant grantPair
  dsimp only
  split
  · split
    · exact updSlot_teardowns rfl
    · rfl
  · rfl

@[simp] theorem emit_teardowns (s : State) (f : Nat) (r : Ring) (irq : Bool) (x : Record) (facet : Nat) :
    (emit s f r irq x facet).teardowns = s.teardowns := by
  have noted : (notePcie s x.locket facet x.ctx 0 32).teardowns = s.teardowns := by
    rw [notePcie, noteGrant_teardowns, countPcie]
    split <;> simp
  have msi (t : State) (v : Nat) : (sendMsi t f v).teardowns = t.teardowns := by
    unfold sendMsi
    repeat' split
    all_goals rfl
  unfold emit
  dsimp only
  split
  · rw [msi]; exact noted
  · exact noted

@[simp] theorem putEv_teardowns (s : State) (f : Nat) (x : Record) : (putEv s f x).teardowns = s.teardowns := by
  have emitted : (emitEv s f x).teardowns = s.teardowns := emit_teardowns _ _ _ _ _ _
  unfold putEv
  split
  · split <;> rfl
  · split
    · exact emitted
    · rfl

@[simp] theorem postEvent_teardowns (s : State) (x : Record) : (postEvent s x).teardowns = s.teardowns := by
  have event (t : State) (m : PlatformMsg) : (platformEvent t m).teardowns = t.teardowns := by unfold platformEvent; split <;> rfl
  have logged (t : State) (c : Prop) [Decidable c] (sev : Nat) : (if c then logEntry t 0 sev 0 0 0 (some x) else t).teardowns = t.teardowns := by
    split <;> rfl
  unfold postEvent
  dsimp only
  rw [apply_ite State.teardowns, event, ite_self, logged, apply_ite State.teardowns, putEv_teardowns, ite_self, apply_ite State.teardowns]
  simp

/-! ### A channel whose scrub or test has ended -/

theorem teardownScrubbed_none {s : State} {c : Nat} (h : ∀ l t, (s.slot l).teardown = some t → t.scrubs.contains c = false) :
    teardownScrubbed s c = s := by
  unfold teardownScrubbed
  split
  · rfl
  · next l hl =>
    have hl := List.find?_some hl
    split at hl
    · next t ht => rw [h l t ht] at hl; cases hl
    · cases hl

theorem scrubbedFor_none {s : State} {c : Nat} (h : ∀ e ∈ s.que.sqs, ∀ d ∈ e.2.descs, d.scrubs.contains c = false) :
    scrubbedFor s c = s := by
  have hits : s.que.sqs.flatMap (fun e => (e.2.descs.filter (fun d => d.scrubs.contains c)).map (fun d => (e.1, d.idx))) = [] := by
    refine List.flatMap_eq_nil_iff.2 fun e he => ?_
    rw [List.filter_eq_nil_iff.2 fun d hd => by simp only [h e he d hd, Bool.false_eq_true, not_false_eq_true]]
    rfl
  unfold scrubbedFor
  rw [hits]
  rfl

/-- The scrub of a channel that nobody waits for ends with its event; the memory is that of the channel scrubbed clean. -/
theorem endScrub_mem {s : State} {c us k : Nat} (hi : (s.chan c).initiator = some k) (hs : (s.chan c).state = 2) (hb : (s.chan c).bist = false)
    (hq : ∀ e ∈ s.que.sqs, ∀ d ∈ e.2.descs, d.scrubs.contains c = false)
    (ht : ∀ l t, (s.slot l).teardown = some t → t.scrubs.contains c = false) :
    (endScrub s c us).mem = (s.setChan c { (s.chan c).scrubbedClean with state := 0, initiator := none, clean := true }).mem := by
  unfold endScrub
  dsimp only
  rw [hi]
  dsimp only
  rw [if_pos (by simp [hs, hb])]
  generalize hu : postEvent _ _ = u
  have raised (t : State) (i : Nat) : (raise t i).que = t.que ∧ (raise t i).teardowns = t.teardowns := by unfold raise; split <;> exact ⟨rfl, rfl⟩
  have hsq : u.que.sqs = s.que.sqs := by rw [← hu, (postEvent_posted _ _).sqs, (raised _ _).1]; rfl
  have htd : u.teardowns = s.teardowns := by rw [← hu, postEvent_teardowns, (raised _ _).2]; rfl
  rw [teardownScrubbed_none (fun l t h => ht l t ((congrFun htd l).symm.trans h)), scrubbedFor_none (hsq ▸ hq), ← hu, postEvent_mem, raise_mem]

/-! ### Self-test and memory BIST (R13, R604, R605) -/

theorem selftestGo_runs {s : State} (hf : s.allFree = true) (hc : ∀ e, e ∈ s.fnc.ctxs → e.2.state ≠ 1) :
    selftestGo s = { s with test := { s.test with busy := true } } := by
  have none : s.fnc.ctxs.any (fun e => e.2.state == 1) = false := by simpa using hc
  simp only [selftestGo, hf, none, Bool.not_true, Bool.or_self, Bool.false_eq_true, if_false]
  split
  · next hb => rw [← hb]
  · rfl

theorem selftestGo_refused {s : State} (h : s.allFree = false ∨ ∃ e, e ∈ s.fnc.ctxs ∧ e.2.state = 1) :
    selftestGo s = { s with test := { s.test with err := true } } := by
  have bad : (!s.allFree || s.fnc.ctxs.any (fun e => e.2.state == 1)) = true := by
    obtain hf | ⟨e, he, h1⟩ := h
    · simp [hf]
    · exact Bool.or_eq_true_iff.2 (.inr (List.any_eq_true.2 ⟨e, he, beq_iff_eq.2 h1⟩))
  unfold selftestGo
  rw [if_pos bad]

theorem selftestComplete_ignored {s : State} {mf df : Bool} {unit : BitVec 16} (h : s.test.busy = false ∨ unitNamed unit.toNat = false) :
    execSelftestComplete mf df unit s = .next s := by
  have off : (s.test.busy && unitNamed unit.toNat) = false := by obtain h | h := h <;> simp [h]
  simp [execSelftestComplete, off]

/-- A test that completes shows what failed; a failure names its unit and is the newest entry of the log, KIND 6. -/
theorem selftestComplete_shows {s : State} (mf df : Bool) {unit : BitVec 16} (hb : s.test.busy = true) (hu : unitNamed unit.toNat = true) :
    ∃ u, execSelftestComplete mf df unit s = .next u ∧ u.test.busy = false ∧ u.test.meshFail = mf ∧ u.test.dbusFail = df
      ∧ (mf = true ∨ df = true → u.test.failUnit = unit.toNat ∧ ∃ e, u.mgt.buffer.getLast? = some e ∧ e.kind = 6)
      ∧ u.cores = s.cores ∧ u.mem = s.mem := by
  refine ⟨_, rfl, ?_⟩
  simp only [hb, hu, Bool.and_self, if_true]
  by_cases bad : (mf || df) = true
  · rw [if_pos bad]
    exact ⟨rfl, rfl, rfl, fun _ => ⟨if_pos bad, _, List.getLast?_concat, rfl⟩, rfl, rfl⟩
  · rw [if_neg bad]
    exact ⟨rfl, rfl, rfl, fun h => absurd (Bool.or_eq_true_iff.2 h) bad, rfl, rfl⟩

/-- Updates of several channels change the channels alone. -/
theorem forAll_updChan_rest (g : Chan → Chan) (l : List Nat) (s : State) :
    ∃ chans, s.forAll l (fun s c => s.updChan c g) = { s with mem := { s.mem with chans := chans } } := by
  induction l generalizing s with
  | nil => exact ⟨_, rfl⟩
  | cons c l ih =>
    obtain ⟨chans, h⟩ := ih (s.updChan c g)
    exact ⟨chans, h⟩

/-- An update that does the same when it is done twice reaches every channel of the list, and no other. -/
theorem forAll_updChan_chan {g : Chan → Chan} (hg : ∀ h, g (g h) = g h) (l : List Nat) (s : State) (i : Nat) :
    (s.forAll l (fun s c => s.updChan c g)).chan i = if i ∈ l then g (s.chan i) else s.chan i := by
  induction l generalizing s with
  | nil => rfl
  | cons c l ih =>
    have step : (s.updChan c g).chan i = if i = c then g (s.chan i) else s.chan i := by
      rw [State.updChan_eq, State.chan_setChan]
      split
      · next e => rw [e]
      · rfl
    refine (ih _).trans ?_
    rw [step]
    by_cases hc : i = c <;> by_cases hl : i ∈ l <;> simp [hc, hl, hg]

/-- A channel whose test begins. -/
def Chan.beginBist (h : Chan) : Chan := { h.undefine with state := 2, bist := true, clean := false }

/-- Whether a memory test may have a channel (R605). -/
def State.bistFree (s : State) (c : Nat) : Bool := (s.chan c).state == 0 && !(s.chan c).retired && !(s.inPool && s.pool.chans.contains c)

theorem memBistGo_refused {s : State} (h : (bitList s.mem.bistSel.toNat 128).all s.bistFree = false) :
    memBistGo s = { s with mem := { s.mem with bistErr := true } } := by
  have h : (!(bitList s.mem.bistSel.toNat 128).all s.bistFree) = true := by rw [h]; rfl
  exact if_pos h

theorem memBistGo_accepted {s : State} (h : (bitList s.mem.bistSel.toNat 128).all s.bistFree = true) :
    (memBistGo s).mem.bistLeft = s.mem.bistLeft + (bitList s.mem.bistSel.toNat 128).length
      ∧ (∀ i, (memBistGo s).chan i = if i ∈ bitList s.mem.bistSel.toNat 128 then (s.chan i).beginBist else s.chan i)
      ∧ (memBistGo s).cores = s.cores := by
  have h : ¬(!(bitList s.mem.bistSel.toNat 128).all s.bistFree) = true := by rw [h]; decide
  have eq : memBistGo s = (fun t : State => { t with mem := { t.mem with bistLeft := t.mem.bistLeft + (bitList s.mem.bistSel.toNat 128).length } })
      (s.forAll (bitList s.mem.bistSel.toNat 128) (fun s c => s.updChan c Chan.beginBist)) := if_neg h
  rw [eq]
  refine ⟨?_, forAll_updChan_chan (g := Chan.beginBist) (fun _ => rfl) _ s, ?_⟩
  · obtain ⟨_, hr⟩ := forAll_updChan_rest Chan.beginBist (bitList s.mem.bistSel.toNat 128) s
    simp [hr]
  · obtain ⟨_, hr⟩ := forAll_updChan_rest Chan.beginBist (bitList s.mem.bistSel.toNat 128) s
    simp [hr]

/-- The state in which a channel that has passed its test is scrubbed. -/
def bistPassed (s : State) (c : Nat) : State :=
  { s.setChan c { s.chan c with bist := false, initiator := some 3 } with
    mem := { (s.setChan c { s.chan c with bist := false, initiator := some 3 }).mem with bistLeft := s.mem.bistLeft - 1 } }

theorem bistDone_ignored {s : State} {c : ChIx} (h : (s.chan c).bist = false) (passed : Bool) (us : BitVec 32) :
    execMemBistChannelDone c passed us s = .next s := by
  simp [execMemBistChannelDone, h]

theorem bistDone_passed {s : State} {c : ChIx} (h : (s.chan c).bist = true) (us : BitVec 32) :
    execMemBistChannelDone c true us s = .next (endScrub (bistPassed s c) c us.toNat) := congrArg Host.Outcome.next (if_pos h)

/-- A channel that has passed, and that nobody else waits for, is free, CLEAN and zero. -/
theorem bistPassed_chan {s : State} {c us : Nat} (hs : (s.chan c).state = 2)
    (hq : ∀ e, e ∈ s.que.sqs → ∀ d, d ∈ e.2.descs → d.scrubs.contains c = false)
    (ht : ∀ l t, (s.slot l).teardown = some t → t.scrubs.contains c = false) :
    (endScrub (bistPassed s c) c us).chan c
      = { (s.chan c).scrubbedClean with bist := false, state := 0, initiator := none, clean := true } := by
  have hc : (bistPassed s c).chan c = { s.chan c with bist := false, initiator := some 3 } := State.chan_setChan_same _ _ _
  have hm := endScrub_mem (s := bistPassed s c) (us := us) (k := 3) (by rw [hc]) (by rw [hc]; exact hs) (by rw [hc]) hq ht
  rw [State.chan, hm, hc]
  exact State.chan_setChan_same _ _ _

/-- The state in which a channel that has failed its test is retired. -/
def bistFailed (s : State) (c : Nat) : State :=
  { s.setChan c { s.chan c with bist := false, initiator := none } with
    mem := { (s.setChan c { s.chan c with bist := false, initiator := none }).mem with
      bistLeft := s.mem.bistLeft - 1, bistFail := s.mem.bistFail ||| BitVec.ofNat 128 (1 <<< c) } }

theorem bistDone_failed {s : State} {c : ChIx} (h : (s.chan c).bist = true) (us : BitVec 32) :
    execMemBistChannelDone c false us s = .next (retire (bistFailed s c) (chanUnit c) 3) := congrArg Host.Outcome.next (if_pos h)

/-- A channel that has failed is retired, and MEM_BIST_FAIL shows it. -/
theorem bistFailed_retires {s : State} {c : Nat} (hc : c < 128) (hr : (s.chan c).retired = false) :
    ((retire (bistFailed s c) (chanUnit c) 3).chan c).standing = (false, true, true)
      ∧ (retire (bistFailed s c) (chanUnit c) 3).mem.bistFail = s.mem.bistFail ||| BitVec.ofNat 128 (1 <<< c)
      ∧ (retire (bistFailed s c) (chanUnit c) 3).mem.bistLeft = s.mem.bistLeft - 1 := by
  have hf : (bistFailed s c).chan c = { s.chan c with bist := false, initiator := none } := State.chan_setChan_same _ _ _
  have kept := retire_standing (reason := 3) hc (show ((bistFailed s c).chan c).retired = false by rw [hf]; exact hr)
  refine ⟨?_, congrArg (·.1) kept, congrArg (·.2.1) kept⟩
  rw [chan_standing kept c, State.chan_updChan_same, hf]
  rfl

theorem getLsbD_or_bit (v : BitVec 128) {c : Nat} (hc : c < 128) : (v ||| BitVec.ofNat 128 (1 <<< c)).getLsbD c = true := by
  rw [BitVec.getLsbD_or, BitVec.getLsbD_ofNat, Nat.one_shiftLeft, Nat.testBit_two_pow_self]
  simp [hc]

/-- Settles O54. A channel that fails its test stays retired through all that its retirement ends (`retire_standing`): no move, teardown, scrub or
role that goes on then touches what `Mem.standing` names. -/
theorem selfTestsRun : Obligations.SelfTestsRun := by
  intro s mf df unit c us
  refine ⟨fun h => ⟨fun hf hc => ?_, fun hb => ?_⟩, fun h => ?_, selftestComplete_ignored, selftestComplete_shows mf df, fun h ok hok => ?_,
    fun h => ⟨bistDone_ignored h _ us, bistDone_ignored h _ us⟩, fun h => bistDone_passed h us, fun h hs hq ht => ?_, fun h hr => ?_⟩
  · exact congrArg Host.Outcome.next ((if_pos h).trans (selftestGo_runs hf hc))
  · exact congrArg Host.Outcome.next ((if_pos h).trans (selftestGo_refused hb))
  · have off : ¬s.pfAnswers = true := by rw [h]; decide
    exact ⟨congrArg Host.Outcome.next (if_neg off), congrArg Host.Outcome.next (if_neg off)⟩
  · obtain rfl : ok = s.bistFree := funext hok
    refine ⟨fun bad => congrArg Host.Outcome.next ((if_pos h).trans (memBistGo_refused bad)),
      fun good => ⟨_, congrArg Host.Outcome.next (if_pos h), ?_⟩⟩
    obtain ⟨hleft, hchan, hcores⟩ := memBistGo_accepted good
    refine ⟨hleft, fun i hi => ?_, fun i hi => by rw [hchan, if_neg hi], hcores⟩
    rw [hchan, if_pos hi]
    exact ⟨rfl, rfl, rfl, rfl⟩
  · refine ⟨_, bistDone_passed h us, ?_⟩
    rw [bistPassed_chan hs hq ht]
    exact ⟨rfl, rfl, rfl, rfl, rfl⟩
  · obtain ⟨hst, hfail, hleft⟩ := bistFailed_retires c.isLt hr
    obtain ⟨hbist, hret, hstate⟩ : _ ∧ _ ∧ _ := by simpa [Chan.standing] using hst
    exact ⟨_, bistDone_failed h us, hbist, hret, hstate, hfail ▸ getLsbD_or_bit _ c.isLt, hleft⟩

end Sys2Proof.Machine
end

section
/-! Packets that arrive: the steps of R486 in their order, and what is forwarded (R47, R475, R477, R478, R481, R486); O29, which says both. -/

namespace Sys2Proof.Machine

/-! ### Steps 1 to 4 of R486 -/

/-- The slot under which a packet's tag is opened: the module's own for tag 0 (R429, R486). -/
def State.openSlot (s : State) (tag : Nat) : Option Nat := if tag = 0 then some noLocket else s.slotOfTag tag

theorem openSlot_isSome {s : State} {tag : Nat} (h : tag = 0 ∨ s.slotOfTag tag ≠ none) : ∃ l, s.openSlot tag = some l := by
  unfold State.openSlot
  split
  · exact ⟨_, rfl⟩
  · next h0 => exact Option.ne_none_iff_exists'.1 (h.resolve_left h0)

theorem openSlot_none {s : State} {tag : Nat} (h0 : tag ≠ 0) (h : s.slotOfTag tag = none) : s.openSlot tag = none := by
  rw [State.openSlot, if_neg h0, h]

section
variable {s : State} {a : Arrived} {resid : Nat}

theorem openPacket_retired (h : s.trb.retired.contains a.pkt.tag = true) :
    openPacket s a resid = .done (countAuth (consumePacket s a) a.port) := if_pos h

/-- Where the tag is not retired, its slot decides (step 2 of R486). -/
theorem openPacket_slot (h : s.trb.retired.contains a.pkt.tag = false) : openPacket s a resid =
    match s.openSlot a.pkt.tag with
    | none => .done (denyPacket (consumePacket s a) (a.spent resid).pkt 0 stDENIED)
    | some l =>
      match unprotect s a.pkt with
      | none => .done (countAuth (consumePacket s a) a.port)
      | some payload =>
        if a.pkt.budget ≤ a.hold + resid then .done (countExpired (consumePacket s a) a.port)
        else .ok (countTrb (noteGrant (consumePacket s a) l a.pkt.facet 64 (portUnit a.port) 1 a.pkt.bytes.length)
          (if a.pkt.isRequest then noCtx else a.pkt.ctx) l a.pkt.bytes.length) l payload := by
  refine (if_neg (by rw [h]; exact Bool.false_ne_true)).trans ?_
  rfl

theorem openPacket_noSlot (h : s.trb.retired.contains a.pkt.tag = false) (hl : s.openSlot a.pkt.tag = none) :
    openPacket s a resid = .done (denyPacket (consumePacket s a) (a.spent resid).pkt 0 stDENIED) := by
  rw [openPacket_slot h, hl]

theorem openPacket_unverified {l : Nat} (h : s.trb.retired.contains a.pkt.tag = false) (hl : s.openSlot a.pkt.tag = some l)
    (hu : unprotect s a.pkt = none) : openPacket s a resid = .done (countAuth (consumePacket s a) a.port) := by
  rw [openPacket_slot h, hl, hu]

theorem openPacket_expired {l : Nat} {payload : List (BitVec 8)} (h : s.trb.retired.contains a.pkt.tag = false)
    (hl : s.openSlot a.pkt.tag = some l) (hu : unprotect s a.pkt = some payload) (hb : a.pkt.budget ≤ a.hold + resid) :
    openPacket s a resid = .done (countExpired (consumePacket s a) a.port) := by
  rw [openPacket_slot h, hl, hu]
  exact if_pos hb

theorem openPacket_passes {l : Nat} {payload : List (BitVec 8)} (h : s.trb.retired.contains a.pkt.tag = false)
    (hl : s.openSlot a.pkt.tag = some l) (hu : unprotect s a.pkt = some payload) (hb : a.hold + resid < a.pkt.budget) :
    openPacket s a resid = .ok (countTrb (noteGrant (consumePacket s a) l a.pkt.facet 64 (portUnit a.port) 1 a.pkt.bytes.length)
      (if a.pkt.isRequest then noCtx else a.pkt.ctx) l a.pkt.bytes.length) l payload := by
  rw [openPacket_slot h, hl, hu]
  exact if_neg (Nat.not_le.2 hb)

end

section
variable {s u : State} {a : Arrived} {pid resid l : Nat} {kinds : List Nat} {payload : List (BitVec 8)}
  {f : State → Arrived → Nat → List (BitVec 8) → State}

theorem handlePacket_absent (h : s.arrivedFor pid kinds = none) : handlePacket s pid resid kinds f = s := by
  rw [handlePacket, h]

theorem handlePacket_done (h : s.arrivedFor pid kinds = some a) (ho : openPacket s a resid = .done u) :
    handlePacket s pid resid kinds f = u := by
  rw [handlePacket, h]
  dsimp only
  rw [ho]

theorem handlePacket_ok (h : s.arrivedFor pid kinds = some a) (ho : openPacket s a resid = .ok u l payload) :
    handlePacket s pid resid kinds f = f u (a.spent resid) l payload := by
  rw [handlePacket, h]
  dsimp only
  rw [ho]

/-- R486: a packet for this module is dropped, denied or given to its kind. -/
theorem handlePacket_opens (h : s.arrivedFor pid kinds = some a) :
    (s.trb.retired.contains a.pkt.tag = true → handlePacket s pid resid kinds f = countAuth (consumePacket s a) a.port)
    ∧ (s.trb.retired.contains a.pkt.tag = false → a.pkt.tag = 0 ∨ s.slotOfTag a.pkt.tag ≠ none → unprotect s a.pkt = none →
        handlePacket s pid resid kinds f = countAuth (consumePacket s a) a.port)
    ∧ (s.trb.retired.contains a.pkt.tag = false → a.pkt.tag ≠ 0 → s.slotOfTag a.pkt.tag = none →
        handlePacket s pid resid kinds f = denyPacket (consumePacket s a) (a.spent resid).pkt 0 stDENIED)
    ∧ (∀ payload l, s.trb.retired.contains a.pkt.tag = false → s.openSlot a.pkt.tag = some l → unprotect s a.pkt = some payload →
        (a.pkt.budget ≤ a.hold + resid → handlePacket s pid resid kinds f = countExpired (consumePacket s a) a.port)
        ∧ (a.hold + resid < a.pkt.budget → handlePacket s pid resid kinds f
            = f (countTrb (noteGrant (consumePacket s a) l a.pkt.facet 64 (portUnit a.port) 1 a.pkt.bytes.length)
                (if a.pkt.isRequest then noCtx else a.pkt.ctx) l a.pkt.bytes.length) (a.spent resid) l payload)) := by
  refine ⟨fun hr => handlePacket_done h (openPacket_retired hr), fun hr hs hu => ?_,
    fun hr h0 hs => handlePacket_done h (openPacket_noSlot hr (openSlot_none h0 hs)),
    fun payload l hr hl hu => ⟨fun hb => handlePacket_done h (openPacket_expired hr hl hu hb),
      fun hb => handlePacket_ok h (openPacket_passes hr hl hu hb)⟩⟩
  obtain ⟨l, hl⟩ := openSlot_isSome hs
  exact handlePacket_done h (openPacket_unverified hr hl hu)

end

/-! ### Packets of no kind (R475) -/

/-- The kinds of R475. -/
def knownKinds : List Nat := [0x01, 0x02, 0x03, 0x08, 0x09, 0x10, 0x11, 0x20, 0x21]

section
variable {s : State} {a : Arrived} {pid resid : Nat}

theorem arrivedFor_otherKind {kinds : List Nat} (ha : s.trb.arrived.find? (fun a => a.pid == pid) = some a)
    (hk : kinds.contains a.pkt.pkind = false) : s.arrivedFor pid kinds = none := by
  unfold State.arrivedFor
  rw [ha]
  simp only [hk, Bool.and_false, Bool.false_and, Bool.false_eq_true, if_false]

theorem badpkt_absent (h : s.trb.arrived.find? (fun a => a.pid == pid) = none) : exec (.badpkt pid resid) s = .next s := by
  show execBadpkt pid resid s = _
  rw [execBadpkt, h]

theorem badpkt_elsewhere (ha : s.trb.arrived.find? (fun a => a.pid == pid) = some a) (hd : a.pkt.dst ≠ s.trb.idModule) :
    exec (.badpkt pid resid) s = .next s := by
  show execBadpkt pid resid s = _
  rw [execBadpkt, ha]
  exact congrArg _ (if_pos hd)

theorem badpkt_unknown (ha : s.trb.arrived.find? (fun a => a.pid == pid) = some a) (hd : a.pkt.dst = s.trb.idModule)
    (hk : knownKinds.contains a.pkt.pkind = false) :
    exec (.badpkt pid resid) s = .next (handlePacket s pid resid [a.pkt.pkind] (fun t b _ _ => countBadpkt t b.port)) := by
  have unknown : (!knownKinds.contains a.pkt.pkind) = true := by rw [hk]; rfl
  show execBadpkt pid resid s = _
  rw [execBadpkt, ha]
  exact congrArg _ ((if_neg (not_not_intro hd)).trans (if_pos unknown))

/-- A packet of a known kind but CONTROL is left to the command of its kind. -/
theorem badpkt_known (ha : s.trb.arrived.find? (fun a => a.pid == pid) = some a) (hk : knownKinds.contains a.pkt.pkind = true)
    (hc : a.pkt.pkind ≠ 0x10) : exec (.badpkt pid resid) s = .next s := by
  by_cases hd : a.pkt.dst = s.trb.idModule
  · have known : ¬(!knownKinds.contains a.pkt.pkind) = true := by rw [hk]; exact Bool.false_ne_true
    have other : s.arrivedFor pid [0x10] = none := arrivedFor_otherKind ha (by simpa using hc)
    show execBadpkt pid resid s = _
    rw [execBadpkt, ha]
    refine congrArg _ ((if_neg (not_not_intro hd)).trans ((if_neg known).trans ?_))
    rw [handleControl, other]
  · exact badpkt_elsewhere ha hd

end

/-! ### Packets for another module (R47, R477, R478, R481) -/

/-- Whether an arrived packet has one of its port and channel before it. -/
def State.behind (s : State) (a : Arrived) (pid : Nat) : Bool :=
  (s.trb.arrived.takeWhile (fun x => x.pid != pid)).any (fun x => x.port == a.port && x.vc == a.vc)

section
variable {s : State} {a : Arrived} {pid resid : Nat}

theorem transitForward_absent (h : s.trb.arrived.find? (fun a => a.pid == pid) = none) : exec (.transitForward pid resid) s = .next s := by
  show execTransitForward pid resid s = _
  rw [execTransitForward, h]

theorem transitForward_stays (ha : s.trb.arrived.find? (fun a => a.pid == pid) = some a)
    (h : a.pkt.dst = s.trb.idModule ∨ (!s.behind a pid) = false) : exec (.transitForward pid resid) s = .next s := by
  have off : ¬(a.pkt.dst != s.trb.idModule && !s.behind a pid) = true := by
    obtain h | h := h <;> simp [h]
  show execTransitForward pid resid s = _
  rw [execTransitForward, ha]
  exact congrArg _ (if_neg off)

theorem transitForward_forwards (ha : s.trb.arrived.find? (fun a => a.pid == pid) = some a) (hd : a.pkt.dst ≠ s.trb.idModule)
    (hf : (!s.behind a pid) = true) : exec (.transitForward pid resid) s = .next (forwardPacket s a resid) := by
  have on : (a.pkt.dst != s.trb.idModule && !s.behind a pid) = true := by rw [hf, Bool.and_true]; exact bne_iff_ne.2 hd
  show execTransitForward pid resid s = _
  rw [execTransitForward, ha]
  exact congrArg _ (if_pos on)

/-- Whether a packet's destination is held against it: requests and control packets alone (R478). -/
def State.heldBack (s : State) (k : Packet) : Bool := s.trb.hold.contains k.dst && (classVc k.pkind == 0 || classVc k.pkind == 4)

theorem forwardPacket_held (h : s.heldBack a.pkt = true) : forwardPacket s a resid = countDiscard (consumePacket s a) a.port :=
  if_pos ((Bool.and_comm _ _).trans h)

/-- Where its destination is not held, its route decides. -/
theorem forwardPacket_route (h : s.heldBack a.pkt = false) : forwardPacket s a resid =
    match (consumePacket s a).egress a.pkt.dst with
    | none => denyPacket (consumePacket s a) (a.spent resid).pkt 0 stNOROUTE
    | some p =>
      let l := (consumePacket s a).locketOfTag a.pkt.tag
      let n := a.pkt.bytes.length
      let u := crossSeam (noteGrant (consumePacket s a) l a.pkt.facet 64 (portUnit a.port) 1 n) l a.pkt.facet noCtx (portHalf a.port) (portHalf p) n
      if a.pkt.budget ≤ max 1 (a.hold + resid) + ((consumePacket s a).port p).dly then countExpired u p
      else enqueue u p (u.outVc p a.pkt.pkind (some (a.vc, a.port))) a.pkt.budget (a.hold + resid)
        (u.pairOf l a.pkt.facet 64 (portUnit p) 0) a.pkt.bytes := by
  have free : ¬((classVc a.pkt.pkind == 0 || classVc a.pkt.pkind == 4) && s.trb.hold.contains a.pkt.dst) = true := by
    rw [Bool.and_comm]; exact fun e => Bool.false_ne_true (h.symm.trans e)
  refine (if_neg free).trans ?_
  rfl

theorem forwardPacket_noRoute (h : s.heldBack a.pkt = false) (hq : (consumePacket s a).egress a.pkt.dst = none) :
    forwardPacket s a resid = denyPacket (consumePacket s a) (a.spent resid).pkt 0 stNOROUTE := by
  rw [forwardPacket_route h, hq]

theorem forwardPacket_expired {q l n : Nat} {u : State} (h : s.heldBack a.pkt = false) (hq : (consumePacket s a).egress a.pkt.dst = some q)
    (hl : l = (consumePacket s a).locketOfTag a.pkt.tag) (hn : n = a.pkt.bytes.length)
    (hu : u = crossSeam (noteGrant (consumePacket s a) l a.pkt.facet 64 (portUnit a.port) 1 n) l a.pkt.facet noCtx (portHalf a.port) (portHalf q) n)
    (hb : a.pkt.budget ≤ max 1 (a.hold + resid) + ((consumePacket s a).port q).dly) : forwardPacket s a resid = countExpired u q := by
  subst hl hn hu
  rw [forwardPacket_route h, hq]
  exact if_pos hb

theorem forwardPacket_queued {q l n : Nat} {u : State} (h : s.heldBack a.pkt = false) (hq : (consumePacket s a).egress a.pkt.dst = some q)
    (hl : l = (consumePacket s a).locketOfTag a.pkt.tag) (hn : n = a.pkt.bytes.length)
    (hu : u = crossSeam (noteGrant (consumePacket s a) l a.pkt.facet 64 (portUnit a.port) 1 n) l a.pkt.facet noCtx (portHalf a.port) (portHalf q) n)
    (hb : max 1 (a.hold + resid) + ((consumePacket s a).port q).dly < a.pkt.budget) :
    forwardPacket s a resid = enqueue u q (u.outVc q a.pkt.pkind (some (a.vc, a.port))) a.pkt.budget (a.hold + resid)
      (u.pairOf l a.pkt.facet 64 (portUnit q) 0) a.pkt.bytes := by
  subst hl hn hu
  rw [forwardPacket_route h, hq]
  exact if_neg (Nat.not_le.2 hb)

end

/-- Settles O29: a packet for this module by the steps of R486 (`handlePacket_opens`), one of no kind by `badpkt_unknown`, one for another module by
its hold, its route and its budget (`forwardPacket_route`). -/
theorem packetsAreOpened : Obligations.PacketsAreOpened := by
  intro s a pid resid kinds f
  refine ⟨handlePacket_absent, handlePacket_opens, fun r ha hr => ?_, fun first ha hfirst => ?_,
    fun h => ⟨transitForward_absent h, badpkt_absent h⟩⟩
  · obtain rfl : r = knownKinds := hr
    exact ⟨badpkt_unknown ha, badpkt_elsewhere ha, badpkt_known ha⟩
  · obtain rfl : first = !s.behind a pid := hfirst
    refine ⟨transitForward_stays ha, fun hd hf held hheld => ?_⟩
    obtain rfl : held = s.heldBack a.pkt := hheld
    rw [transitForward_forwards ha hd hf]
    exact ⟨fun h => congrArg _ (forwardPacket_held h), fun h hq => congrArg _ (forwardPacket_noRoute h hq),
      fun q l n u h hq hl hn hu => ⟨fun hb => congrArg _ (forwardPacket_expired h hq hl hn hu hb),
        fun hb => congrArg _ (forwardPacket_queued h hq hl hn hu hb)⟩⟩

end Sys2Proof.Machine
end

section
/-! Accesses to a core's window, sector by sector (R207, R213, R223 to R225); O10, which says what a window answers. -/

namespace Sys2Proof.Machine

/-! ### Runs of bytes, sector by sector -/

theorem Cells.readN_add (m : Cells) (a x y : Nat) : m.readN a (x + y) = m.readN a x ++ m.readN (a + x) y := by
  induction x generalizing a with
  | zero => simp [Cells.readN]
  | succ x ih =>
    rw [Nat.succ_add, Cells.readN, ih, Nat.add_right_comm a 1 x]
    rfl

theorem Cells.writeN_append (m : Cells) (a : Nat) (l l' : List (BitVec 8)) :
    m.writeN a (l ++ l') = (m.writeN a l).writeN (a + l.length) l' := by
  induction l generalizing m a with
  | nil => rfl
  | cons b l ih =>
    rw [List.length_cons, Nat.add_comm l.length 1, ← Nat.add_assoc]
    exact ih _ _

/-- How many bytes of a run of `len` bytes from `off` lie before its sector at place `i`. -/
def bytesBefore (off len i : Nat) : Nat := min len (64 * i - off % 64)

/-- The sectors of a run follow each other without a gap. -/
theorem sectorSpan_follows {off len i : Nat} (h : i < (sectorsOf off len).length) :
    (off / 64 + i) * 64 + (sectorSpan off len i).1 = off + bytesBefore off len i
      ∧ 64 * i - (if i = 0 then 0 else off % 64) = bytesBefore off len i
      ∧ bytesBefore off len (i + 1) = bytesBefore off len i + (sectorSpan off len i).2 := by
  rw [sectorsOf, List.length_map, upto, List.length_range] at h
  unfold sectorSpan bytesBefore
  dsimp only
  split <;> omega

theorem bytesBefore_all (off len : Nat) : bytesBefore off len (sectorsOf off len).length = len := by
  rw [sectorsOf, List.length_map, upto, List.length_range, bytesBefore]
  omega

/-- What is read of a run up to a place. -/
theorem flatMap_readN_sectors (m : Cells) {off len k : Nat} (h : k ≤ (sectorsOf off len).length) :
    (List.range k).flatMap (fun i => m.readN ((off / 64 + i) * 64 + (sectorSpan off len i).1) (sectorSpan off len i).2)
      = m.readN off (bytesBefore off len k) := by
  induction k with
  | zero => simp [bytesBefore, Cells.readN]
  | succ k ih =>
    obtain ⟨at', -, next⟩ := sectorSpan_follows h
    rw [List.range_succ, List.flatMap_append, ih (Nat.le_of_succ_le h), next, Cells.readN_add, ← at']
    simp

/-! ### One sector at a window (R225) -/

/-- The tile-memory place of the bytes of a request in its sector at place `i`. -/
def Req.lineAt (r : Req) (off i : Nat) : Nat := (off / 64 + i) * 64 + (sectorSpan off r.len i).1

/-- Tile memory after the sector at place `i` has been performed. -/
def Req.lineTm (r : Req) (off : Nat) (tm : Cells) (i : Nat) : Cells :=
  match r.kind with
  | .write false => tm.writeN (r.lineAt off i) (r.piece off i)
  | _ => tm

/-- What the sector at place `i` returns. -/
def Req.lineData (r : Req) (off : Nat) (tm : Cells) (i : Nat) : List (BitVec 8) :=
  match r.kind with
  | .read => tm.readN (r.lineAt off i) (sectorSpan off r.len i).2
  | _ => []

/-- The status of every sector of a request (R207, R223). -/
def Req.lineStatus (r : Req) : Nat :=
  match r.kind with
  | .read => stOK
  | .write false => stOK
  | .write true => stPOISON
  | _ => stDENIED

/-- `v` is `s` with tile memory `tm` in core `n`, as far as cores and channels go. -/
structure TmSet (n : Nat) (s v : State) (tm : Cells) : Prop where
  tm : (v.core n).tm = tm
  arch : (v.core n).arch = (s.core n).arch
  others : ∀ m, m ≠ n → v.core m = s.core m
  chans : v.mem.chans = s.mem.chans

theorem TmSet.of_same {n : Nat} {s v : State} (hc : v.cores = s.cores) (hm : v.mem = s.mem) : TmSet n s v (s.core n).tm := by
  have core (m : Nat) : v.core m = s.core m := congrArg (SMap.get coreD · m) hc
  exact ⟨congrArg Core.tm (core n), congrArg Core.arch (core n), fun m _ => core m, congrArg Mem.chans hm⟩

theorem TmSet.trans {n : Nat} {s u v : State} {tm tm' : Cells} (h : TmSet n s u tm) (k : TmSet n u v tm') : TmSet n s v tm' :=
  ⟨k.tm, k.arch.trans h.arch, fun m hm => (k.others m hm).trans (h.others m hm), k.chans.trans h.chans⟩

theorem TmSet.of_updCore {n : Nat} {s : State} {f : Core → Core} {tm : Cells} (ht : (f (s.core n)).tm = tm)
    (ha : (f (s.core n)).arch = (s.core n).arch) : TmSet n s (s.updCore n f) tm := by
  have core : (s.updCore n f).core n = f (s.core n) := State.core_updCore_same _ _ _
  exact ⟨core ▸ ht, core ▸ ha, fun m hm => State.core_updCore_other _ _ _ _ hm, rfl⟩

theorem performLine_outcome (n off : Nat) (s : State) (r : Req) (i : Nat) :
    (performLine n off s r i).2 = { status := r.lineStatus, data := r.lineData off (s.core n).tm i } := by
  unfold performLine Req.lineStatus Req.lineData
  cases r.kind with
  | write poison => cases poison <;> rfl
  | _ => rfl

theorem performLine_tmSet (n off : Nat) (s : State) (r : Req) (i : Nat) :
    TmSet n s (performLine n off s r i).1 (r.lineTm off (s.core n).tm i) := by
  unfold performLine Req.lineTm
  cases r.kind with
  | write poison =>
    cases poison with
    | true => exact TmSet.of_same rfl rfl
    | false =>
      exact TmSet.of_updCore (f := fun c => { c with tm := c.tm.writeN (r.lineAt off i) (r.piece off i) }) rfl rfl
  | _ => exact TmSet.of_same rfl rfl

theorem Posted.cores {s u : State} (h : Posted s u) : u.cores = s.cores := by obtain ⟨_, _, _, _, _, _, _, _, _, _, rfl⟩ := h; rfl

@[simp] theorem crossSeam_cores (s : State) (l f ctx a b n : Nat) : (crossSeam s l f ctx a b n).cores = s.cores := by
  unfold crossSeam
  split
  · rfl
  · exact (noteGrant_posted _ _ _ _ _ _ _).cores.trans (charge_posted _ _ _ _).cores

theorem enter_tmSet (r : Req) (s : State) (n : Nat) : TmSet n s (r.enter s) (s.core n).tm := by
  unfold Req.enter
  split
  · exact TmSet.of_same (crossSeam_cores _ _ _ _ _ _ _) (Req.cross_mem _ _ _ _ _)
  · exact TmSet.of_same rfl rfl

/-! ### Several sectors (R213) -/

/-- A request after sectors of it have been performed at a window. -/
def Req.afterLines (r : Req) (off : Nat) (tm : Cells) (is : List Nat) : Req :=
  { r with
    parts := r.parts ++ is.map (fun i => (i, r.lineData off tm i))
    bad := r.bad.or (if is.isEmpty || r.lineStatus == stOK then none else some r.lineStatus) }

/-- What a request reads of tile memory does not depend on what it has written, as it does one of the two alone. -/
theorem lineData_lineTm (r : Req) (off : Nat) (tm : Cells) (i : Nat) : r.lineData off (r.lineTm off tm i) = r.lineData off tm := by
  unfold Req.lineData Req.lineTm
  cases r.kind <;> rfl

theorem afterLines_nil (r : Req) (off : Nat) (tm : Cells) : r.afterLines off tm [] = r := by
  simp [Req.afterLines]

theorem afterLines_cons (r : Req) (off : Nat) (tm : Cells) (i : Nat) (is : List Nat) :
    (r.served i { status := r.lineStatus, data := r.lineData off tm i }).afterLines off (r.lineTm off tm i) is = r.afterLines off tm (i :: is) := by
  have same (j : Nat) : (r.served i { status := r.lineStatus, data := r.lineData off tm i }).lineData off (r.lineTm off tm i) j
      = r.lineData off tm j := congrFun (lineData_lineTm r off tm i) j
  have status : (r.served i { status := r.lineStatus, data := r.lineData off tm i }).lineStatus = r.lineStatus := rfl
  unfold Req.afterLines
  simp only [same, status]
  simp only [Req.served, List.map_cons, List.append_assoc, List.cons_append, List.nil_append, List.isEmpty_cons, Bool.false_or]
  cases r.bad <;> by_cases ok : r.lineStatus = stOK <;> simp [ok]

/-- Sectors performed at a window leave the tile memory with what they wrote, and the request as it is then. -/
theorem serveLines (n off : Nat) (is : List Nat) (s : State) (r : Req) :
    ∃ v, (serveSectors s r off (performLine n off) is).1
        = (serveSectors v (r.afterLines off (s.core n).tm is) off (performLine n off) []).1
      ∧ TmSet n s v (is.foldl (r.lineTm off) (s.core n).tm) := by
  induction is generalizing s r with
  | nil => exact ⟨s, by rw [afterLines_nil], TmSet.of_same rfl rfl⟩
  | cons i is ih =>
    have entered := enter_tmSet r s n
    have done := performLine_tmSet n off (r.enter s) r i
    have out := performLine_outcome n off (r.enter s) r i
    rw [entered.tm] at done out
    obtain ⟨v, eq, hv⟩ := ih (performLine n off (r.enter s) r i).1 (r.served i (performLine n off (r.enter s) r i).2)
    rw [done.tm, out] at eq hv
    rw [afterLines_cons] at eq
    refine ⟨v, Eq.trans ?_ eq, (entered.trans done).trans hv⟩
    rw [serveSectors, out]

theorem filter_range_flatMap {α : Type} (d : Nat → List α) (i k : Nat) :
    ((List.range k).filter (· == i)).flatMap d = if i < k then d i else [] := by
  induction k with
  | zero => rfl
  | succ k ih =>
    rw [List.range_succ, List.filter_append, List.flatMap_append, ih]
    obtain h | rfl | h := Nat.lt_trichotomy i k
    · simp [h, Nat.ne_of_gt h, Nat.lt_succ_of_lt h]
    · simp
    · simp [Nat.not_lt_of_gt h, Nat.ne_of_lt h, Nat.not_lt.2 h]

theorem range_flatMap_below {α : Type} (d : Nat → List α) {k n : Nat} (h : k ≤ n) :
    (List.range n).flatMap (fun i => if i < k then d i else []) = (List.range k).flatMap d := by
  induction h with
  | refl =>
    rw [List.flatMap_def, List.flatMap_def]
    exact congrArg List.flatten (List.map_congr_left fun i hi => if_pos (List.mem_range.1 hi))
  | @step n h ih =>
    have last : (if n < k then d n else []) = [] := if_neg (Nat.not_lt.2 h)
    rw [Nat.succ_eq_add_one, List.range_succ, List.flatMap_append, ih, List.flatMap_singleton, last, List.append_nil]

/-- Places of a request, each with what it returned, give the result in their order. -/
theorem result_of_places {r : Req} {k : Nat} {d : Nat → List (BitVec 8)} (hk : k ≤ 5) (h : r.parts = (List.range k).map (fun i => (i, d i))) :
    r.result = (List.range k).flatMap d := by
  have one (i : Nat) : (r.parts.filter (fun p => p.1 == i)).flatMap (fun p => p.2) = if i < k then d i else [] := by
    rw [h, List.filter_map, List.flatMap_map]
    exact filter_range_flatMap d i k
  unfold Req.result upto
  simp only [one]
  exact range_flatMap_below d hk

/-! ### A whole access -/

theorem places_eq (r : Req) (off : Nat) : r.places off = List.range (sectorsOf off r.len).length := rfl

theorem reach_src {r r1 : Req} {k : Nat} (h : r.reach k = some r1) : ∃ src, r1 = { r with src := src } := by
  unfold Req.reach at h
  split at h
  · split at h
    · exact ⟨_, (Option.some.inj h).symm⟩
    · split at h
      · cases h
      · exact ⟨_, (Option.some.inj h).symm⟩
  · exact ⟨_, (Option.some.inj h).symm⟩

/-- All the bytes of a request that has not begun. -/
theorem lineData_all (r : Req) (off : Nat) (tm : Cells) :
    (r.places off).flatMap (r.lineData off tm) = if r.kind = .read then tm.readN off r.len else [] := by
  split
  · next hk =>
    have read (i : Nat) : r.lineData off tm i = tm.readN (r.lineAt off i) (sectorSpan off r.len i).2 := by rw [Req.lineData, hk]
    rw [funext read]
    exact (flatMap_readN_sectors tm (Nat.le_refl _)).trans (by rw [bytesBefore_all])
  · next hk =>
    have none (i : Nat) : r.lineData off tm i = [] := by
      unfold Req.lineData
      split
      · next h => exact absurd h hk
      · rfl
    simp [none]

theorem piece_eq {r : Req} {off i : Nat} (h : i < (sectorsOf off r.len).length) :
    r.piece off i = (r.data.drop (bytesBefore off r.len i)).take (sectorSpan off r.len i).2 := by
  rw [Req.piece, (sectorSpan_follows h).2.1]

/-- Tile memory with the sectors of a write up to a place. -/
theorem lineTm_upTo {r : Req} {off k : Nat} (tm : Cells) (hk : r.kind = .write false) (hd : r.data.length = r.len)
    (h : k ≤ (sectorsOf off r.len).length) :
    (List.range k).foldl (r.lineTm off) tm = tm.writeN off (r.data.take (bytesBefore off r.len k)) := by
  induction k with
  | zero => simp [bytesBefore, Cells.writeN]
  | succ k ih =>
    obtain ⟨at', -, next⟩ := sectorSpan_follows h
    have len : (r.data.take (bytesBefore off r.len k)).length = bytesBefore off r.len k := by
      rw [List.length_take, hd]; exact Nat.min_eq_left (Nat.min_le_left _ _)
    rw [List.range_succ, List.foldl_append, ih (Nat.le_of_succ_le h), next, List.take_add, Cells.writeN_append, len, ← at', ← piece_eq h]
    simp only [List.foldl_cons, List.foldl_nil, Req.lineTm, hk, Req.lineAt]

theorem lineTm_all {r : Req} {off : Nat} (tm : Cells) (hk : r.kind = .write false) (hd : r.data.length = r.len) :
    (r.places off).foldl (r.lineTm off) tm = tm.writeN off r.data := by
  rw [places_eq, lineTm_upTo tm hk hd (Nat.le_refl _), bytesBefore_all, ← hd, List.take_length]

theorem lineTm_kept {r : Req} {off : Nat} (tm : Cells) (hk : r.kind ≠ .write false) (is : List Nat) : is.foldl (r.lineTm off) tm = tm := by
  have keep (m : Cells) (i : Nat) : r.lineTm off m i = m := by
    unfold Req.lineTm
    split
    · next h => exact absurd h hk
    · rfl
  induction is with
  | nil => rfl
  | cons i is ih => rw [List.foldl_cons, keep, ih]

/-- A request that has not begun, performed whole at a window, is answered with its status and with what it reads. -/
theorem serveLines_whole {n off : Nat} {s : State} {r : Req} (hp : r.parts = []) (hb : r.bad = none) (h0 : 0 < r.len) (h256 : r.len ≤ 256) :
    ∃ v r', (serveSectors s r off (performLine n off) (r.places off)).1
        = concludeReq v r' r.lineStatus (if r.kind = .read then (s.core n).tm.readN off r.len else []) none
      ∧ r'.rid = r.rid ∧ r'.src = r.src ∧ TmSet n s v ((r.places off).foldl (r.lineTm off) (s.core n).tm) := by
  obtain ⟨v, eq, hv⟩ := serveLines n off (r.places off) s r
  have some : 0 < (sectorsOf off r.len).length ∧ (sectorsOf off r.len).length ≤ 5 := by
    rw [sectorsOf, List.length_map, upto, List.length_range]; omega
  generalize hr : r.afterLines off (s.core n).tm (r.places off) = r' at eq
  have parts : r'.parts = (r.places off).map (fun i => (i, r.lineData off (s.core n).tm i)) := by rw [← hr, Req.afterLines, hp]; rfl
  have whole : r'.whole off = true := by
    have len : r'.places off = r.places off := by rw [← hr]; rfl
    rw [Req.whole, len, parts]
    simp
  have result : r'.result = if r.kind = .read then (s.core n).tm.readN off r.len else [] :=
    (result_of_places some.2 parts).trans (lineData_all r off _)
  have bad : r'.bad.getD stOK = r.lineStatus := by
    have ne : (r.places off).isEmpty = false := by
      rw [places_eq, List.isEmpty_eq_false_iff, Ne, List.range_eq_nil]
      exact Nat.ne_of_gt some.1
    rw [← hr, Req.afterLines, hb, ne]
    by_cases ok : r.lineStatus = stOK <;> simp [ok]
  refine ⟨v, r', eq.trans ?_, by rw [← hr]; rfl, by rw [← hr]; rfl, hv⟩
  rw [serveSectors, whole, bad, result]
  rfl

/-! ### What a window answers -/

section
variable {s : State} {rid : Nat} {r : Req} {n off : Nat}

theorem windowAccess_eq (part : BitVec 4) (hf : s.flying rid = some r) (hp : r.place = .window n off) : exec (.windowAccess ⟨rid, part⟩) s
    = .next (match s.windowError r n off with
      | some st => refuseReq s r st n
      | none =>
        if (s.toServe r off part).isEmpty then s
        else
          match r.reach s.takeFree.1 with
          | none => expireReq s.takeFree.2 r
          | some r1 => (serveSectors s.takeFree.2 r1 off (performLine n off) (s.toServe r off part)).1) := by
  show execWindowAccess ⟨rid, part⟩ s = _
  rw [execWindowAccess, hf]
  dsimp only
  rw [hp] <;> rfl

theorem windowAccess_refused {st : Nat} (part : BitVec 4) (hf : s.flying rid = some r) (hp : r.place = .window n off)
    (he : s.windowError r n off = some st) : exec (.windowAccess ⟨rid, part⟩) s = .next (refuseReq s r st n) := by
  rw [windowAccess_eq part hf hp, he]

theorem windowAccess_idle {part : BitVec 4} (hf : s.flying rid = some r) (hp : r.place = .window n off)
    (he : s.windowError r n off = none) (hi : s.toServe r off part = []) : exec (.windowAccess ⟨rid, part⟩) s = .next s := by
  rw [windowAccess_eq part hf hp, he, hi]
  rfl

theorem windowAccess_late {part : BitVec 4} (hf : s.flying rid = some r) (hp : r.place = .window n off)
    (he : s.windowError r n off = none) (hi : s.toServe r off part ≠ []) (hr : r.reach s.takeFree.1 = none) :
    exec (.windowAccess ⟨rid, part⟩) s = .next (expireReq s.takeFree.2 r) := by
  rw [windowAccess_eq part hf hp, he]
  dsimp only
  rw [if_neg (mt List.isEmpty_iff.1 hi), hr]

theorem windowAccess_served {part : BitVec 4} {r1 : Req} (hf : s.flying rid = some r) (hp : r.place = .window n off)
    (he : s.windowError r n off = none) (hi : s.toServe r off part ≠ []) (hr : r.reach s.takeFree.1 = some r1) :
    exec (.windowAccess ⟨rid, part⟩) s = .next (serveSectors s.takeFree.2 r1 off (performLine n off) (s.toServe r off part)).1 := by
  rw [windowAccess_eq part hf hp, he]
  dsimp only
  rw [if_neg (mt List.isEmpty_iff.1 hi), hr]

theorem windowAccessTimeout_blocked (hf : s.flying rid = some r) (hw : s.wholeFree r = false) :
    exec (.windowAccessTimeout rid) s = .next s := by
  have next : s.nextReq rid = none := by rw [State.nextReq, hf]; exact if_neg (by rw [hw]; exact Bool.false_ne_true)
  show execWindowAccessTimeout rid s = _
  rw [execWindowAccessTimeout, next]

theorem windowAccessTimeout_eq (hf : s.flying rid = some r) (hp : r.place = .window n off) (hw : s.wholeFree r = true) :
    exec (.windowAccessTimeout rid) s = .next (if (s.windowError r n off).isSome then s else refuseReq s r stTMBUSY n) := by
  have next : s.nextReq rid = some r := by rw [State.nextReq, hf]; exact if_pos hw
  show execWindowAccessTimeout rid s = _
  rw [execWindowAccessTimeout, next]
  dsimp only
  rw [hp]

/-- The bank's time-out is for a request that its window would take (R224). -/
theorem windowAccessTimeout_error (hf : s.flying rid = some r) (hp : r.place = .window n off) (he : s.windowError r n off ≠ none) :
    exec (.windowAccessTimeout rid) s = .next s := by
  cases hw : s.wholeFree r with
  | false => exact windowAccessTimeout_blocked hf hw
  | true => rw [windowAccessTimeout_eq hf hp hw, if_pos (Option.isSome_iff_ne_none.2 he)]

theorem windowAccessTimeout_busy (hf : s.flying rid = some r) (hp : r.place = .window n off) (he : s.windowError r n off = none)
    (hw : s.wholeFree r = true) : exec (.windowAccessTimeout rid) s = .next (concludeReq (r.enter s) r stTMBUSY [] none) := by
  rw [windowAccessTimeout_eq hf hp hw, he]
  exact congrArg Host.Outcome.next (if_pos hw)

theorem windowCommands_elsewhere (part : BitVec 4) (h : ∀ r n off, s.flying rid = some r → r.place ≠ .window n off) :
    exec (.windowAccess ⟨rid, part⟩) s = .next s ∧ exec (.windowAccessTimeout rid) s = .next s := by
  constructor
  · show execWindowAccess ⟨rid, part⟩ s = _
    unfold execWindowAccess
    split
    · rfl
    · next r hr =>
      split
      · next n off hp => exact absurd hp (h r n off hr)
      · rfl
  · cases hf : s.flying rid with
    | none =>
      have next : s.nextReq rid = none := by rw [State.nextReq, hf]
      show execWindowAccessTimeout rid s = _
      rw [execWindowAccessTimeout, next]
    | some r =>
      cases hw : s.wholeFree r with
      | false => exact windowAccessTimeout_blocked hf hw
      | true =>
        have next : s.nextReq rid = some r := by rw [State.nextReq, hf]; exact if_pos hw
        show execWindowAccessTimeout rid s = _
        rw [execWindowAccessTimeout, next]
        dsimp only
        split
        · next n off hp => exact absurd hp (h r n off hf)
        · rfl

/-- A command that names every sector of a request that has its turn performs them all. -/
theorem toServe_whole {part : BitVec 4} (hp : r.place = .window n off) (hparts : r.parts = []) (hw : s.wholeFree r = true)
    (hn : ∀ i, i ∈ r.places off → part.getLsbD i = true) : s.toServe r off part = r.places off := by
  have lines : upto r.lines = r.places off := by rw [places_eq, sectorsOf, List.length_map, upto, upto, List.length_range, Req.lines, hp]
  rw [State.wholeFree, lines, List.all_eq_true] at hw
  refine List.filter_eq_self.2 fun i hi => ?_
  rw [hn i hi, hw i hi, hparts]
  rfl

/-- A command that performs a request whole answers it with its status `status` and data `data`, and leaves tile memory `tm`. -/
theorem windowAccess_whole {part : BitVec 4} {r1 : Req} {status : Nat} {data : List (BitVec 8)} {tm : Cells} (hf : s.flying rid = some r)
    (hp : r.place = .window n off) (he : s.windowError r n off = none) (hi : s.toServe r off part ≠ []) (hr : r.reach s.takeFree.1 = some r1)
    (hparts : r.parts = []) (hb : r.bad = none) (h0 : 0 < r.len) (h256 : r.len ≤ 256) (hw : s.wholeFree r = true)
    (hn : ∀ i, i ∈ r.places off → part.getLsbD i = true) (hs : r.lineStatus = status)
    (hd : (if r.kind = .read then (s.core n).tm.readN off r.len else []) = data) (ht : (r.places off).foldl (r.lineTm off) (s.core n).tm = tm) :
    ∃ v r', exec (.windowAccess ⟨rid, part⟩) s = .next (concludeReq v r' status data none) ∧ r'.rid = r.rid ∧ r'.src = r1.src
      ∧ (v.core n).tm = tm ∧ (v.core n).arch = (s.core n).arch ∧ (∀ m, m ≠ n → v.core m = s.core m) ∧ v.mem.chans = s.mem.chans := by
  subst hs hd ht
  have served := windowAccess_served hf hp he hi hr
  obtain ⟨src, rfl⟩ := reach_src hr
  rw [toServe_whole hp hparts hw hn] at served
  obtain ⟨v, r', eq, hrid, hsrc, hv⟩ :=
    serveLines_whole (n := n) (off := off) (s := s.takeFree.2) (r := { r with src := src }) hparts hb h0 h256
  exact ⟨v, r', served.trans (congrArg Host.Outcome.next eq), hrid, hsrc, hv.tm, hv.arch, hv.others, hv.chans⟩

end

/-- Settles O10: a window refuses, waits or performs sectors by `windowAccess_eq`; a whole access (`windowAccess_whole`) is the sectors one after
another, which follow each other without a gap (`sectorSpan_follows`). -/
theorem windowsReachTileMemory : Obligations.WindowsReachTileMemory := by
  intro s rid ch bank part
  refine ⟨rfl, fun r n off hf hp => ⟨fun st he => ⟨fun hw => ?_, fun hw => ?_, ?_⟩, fun he k s1 hk => ?_⟩, windowCommands_elsewhere part⟩
  · rw [windowAccess_refused part hf hp he, refuseReq, if_pos hw]
  · rw [windowAccess_refused part hf hp he, refuseReq, hw]
    rfl
  · exact windowAccessTimeout_error hf hp (by rw [he]; exact Option.some_ne_none st)
  · obtain ⟨rfl, rfl⟩ : s.takeFree.1 = k ∧ s.takeFree.2 = s1 := ⟨congrArg Prod.fst hk, congrArg Prod.snd hk⟩
    refine ⟨windowAccessTimeout_busy hf hp he, windowAccessTimeout_blocked hf, windowAccess_idle hf hp he, windowAccess_late hf hp he,
      fun hi r1 hr => ⟨windowAccess_served hf hp he hi hr, fun hparts hb h0 h256 hw hn => ?_⟩⟩
    have whole {status : Nat} {data : List (BitVec 8)} {tm : Cells} := windowAccess_whole (status := status) (data := data) (tm := tm)
      hf hp he hi hr hparts hb h0 h256 hw hn
    refine ⟨fun hk => whole ?_ (if_pos hk) (lineTm_kept _ (by rw [hk]; nofun) _),
      fun hk hd => whole ?_ (if_neg (by rw [hk]; nofun)) (lineTm_all _ hk hd),
      fun hk => whole ?_ (if_neg (by rw [hk]; nofun)) (lineTm_kept _ (by rw [hk]; nofun) _)⟩
    all_goals rw [Req.lineStatus, hk]

end Sys2Proof.Machine
end

section
/-! Answers that come back to cores and copy engines (R86, R138, R219, R310, R332, R333); O11, which says what each of them takes. -/

namespace Sys2Proof.Machine

/-! ### Tasks and the core they are on -/

theorem task?_updTask {f : Task → Task} (hf : ∀ t, (f t).tid = t.tid) (s : State) (tid k : Nat) :
    (s.updTask tid f).task? k = (s.task? k).map (fun t => if t.tid == tid then f t else t) := by
  have same : ((fun t : Task => t.tid == k) ∘ fun t => if t.tid == tid then f t else t) = fun t => t.tid == k := by
    funext t
    dsimp only [Function.comp_apply]
    split
    · rw [hf]
    · rfl
  unfold State.task? State.updTask mapWhere
  dsimp only
  rw [List.find?_map, same]

theorem onCore_updTask {f : Task → Task} (hf : ∀ t, (f t).tid = t.tid) (hc : ∀ t, (f t).core = t.core) (s : State) (tid k : Nat) :
    (s.updTask tid f).onCore k = s.onCore k := by
  have place (t : Task) : (if t.tid == tid then f t else t).core = t.core := by
    split
    · exact hc t
    · rfl
  unfold State.onCore
  rw [task?_updTask hf]
  cases s.task? k with
  | none => rfl
  | some t =>
    dsimp only [Option.map_some]
    rw [place]
    rfl

theorem onCore_updCore {s : State} {n : Nat} {f : Core → Core} (hf : (f (s.core n)).task = (s.core n).task) (k : Nat) :
    (s.updCore n f).onCore k = s.onCore k := by
  have task (m : Nat) : ((s.updCore n f).core m).task = (s.core m).task := by
    by_cases h : m = n
    · rw [h, State.core_updCore_same, hf]
    · rw [State.core_updCore_other _ _ _ _ h]
  have find : (s.updCore n f).task? k = s.task? k := rfl
  unfold State.onCore
  rw [find]
  cases s.task? k with
  | none => rfl
  | some t =>
    dsimp only
    rw [task]

theorem onCore_updOp (s : State) (tid seq : Nat) (f : StreamOp → StreamOp) (k : Nat) : (updOp s tid seq f).onCore k = s.onCore k :=
  onCore_updTask (f := fun t => { t with ops := mapWhere (fun o => o.seq == seq) f t.ops }) (fun _ => rfl) (fun _ => rfl) s tid k

theorem onCore_sweep (s : State) (tid k : Nat) : (s.updTask tid Task.sweep).onCore k = s.onCore k :=
  onCore_updTask (f := Task.sweep) (fun _ => rfl) (fun _ => rfl) s tid k

theorem taskSetG_onCore {s : State} {tid n : Nat} (h : s.onCore tid = some n) (hp : (s.core n).phase ≠ 3) (r : Nat) (v : BitVec 64) :
    taskSetG s tid r v = s.updCore n (fun c => { c with arch := c.arch.setG r v }) := by
  rw [taskSetG, h]
  exact if_neg hp

/-! ### An answer to a piece of a stream operation (R86, R138) -/

/-- What a piece of an operation leaves of core `c` when its data comes. -/
def StreamOp.deliverTo (o : StreamOp) (row off : Nat) (data : List (BitVec 8)) (c : Core) : Core :=
  if o.op = 0x18 then { c with tm := c.tm.writeN (o.pieceTm row off) data }
  else if o.returns then { c with arch := c.arch.setG o.dst (returned o data) }
  else c

section
variable {s : State} {tid seq row off n : Nat} {t : Task} {o : StreamOp} {data : List (BitVec 8)}

/-- The state with the piece no longer out. -/
def pieceIn (s : State) (tid seq row off : Nat) : State := updOp s tid seq (fun o => { o with out := o.out.filter (· != (row, off)) })

theorem deliver_error {status : Nat} (ht : s.task? tid = some t) (ho : t.ops.find? (fun o => o.seq == seq) = some o)
    (hc : o.out.contains (row, off) = true) (hst : status ≠ stOK) : deliver s tid seq row off status data
      = streamError ((pieceIn s tid seq row off).updTask tid Task.sweep) tid status o (o.pieceVa row off) := by
  have out : ¬(!o.out.contains (row, off)) = true := by rw [hc]; exact Bool.false_ne_true
  rw [deliver, ht]
  dsimp only
  rw [ho]
  exact (if_neg out).trans (if_pos hst)

/-- The state with the data of a piece where its operation wants it. -/
def takeData (s : State) (tid row off : Nat) (o : StreamOp) (data : List (BitVec 8)) : State :=
  if o.op = 0x18 then
    match s.onCore tid with
    | some n => s.updCore n (fun c => { c with tm := c.tm.writeN (o.pieceTm row off) data })
    | none => s
  else if o.returns then taskSetG s tid o.dst (returned o data)
  else s

theorem takeData_onCore (hn : s.onCore tid = some n) (hp : (s.core n).phase ≠ 3) :
    takeData s tid row off o data = s.updCore n (o.deliverTo row off data)
      ∨ takeData s tid row off o data = s ∧ ∀ c, o.deliverTo row off data c = c := by
  unfold takeData StreamOp.deliverTo
  by_cases hdma : o.op = 0x18
  · left
    simp only [if_pos hdma, hn]
  · by_cases hret : o.returns = true
    · left
      simp only [if_neg hdma, if_pos hret]
      exact taskSetG_onCore hn hp _ _
    · exact .inr ⟨(if_neg hdma).trans (if_neg hret), fun _ => (if_neg hdma).trans (if_neg hret)⟩

theorem deliverTo_task (o : StreamOp) (row off : Nat) (data : List (BitVec 8)) (c : Core) : (o.deliverTo row off data c).task = c.task := by
  unfold StreamOp.deliverTo
  split
  · rfl
  · split <;> rfl

theorem deliverTo_arch (o : StreamOp) (row off : Nat) (data : List (BitVec 8)) (c : Core) : (o.deliverTo row off data c).arch
    = if o.op ≠ 0x18 ∧ o.returns = true then c.arch.setG o.dst (returned o data) else c.arch := by
  unfold StreamOp.deliverTo
  by_cases hdma : o.op = 0x18 <;> by_cases hret : o.returns = true <;> simp [hdma, hret]

theorem deliverTo_tm (o : StreamOp) (row off : Nat) (data : List (BitVec 8)) (c : Core) : (o.deliverTo row off data c).tm
    = if o.op = 0x18 then c.tm.writeN (o.pieceTm row off) data else c.tm := by
  unfold StreamOp.deliverTo
  by_cases hdma : o.op = 0x18 <;> by_cases hret : o.returns = true <;> simp [hdma, hret]

/-- Data for a task on its core changes that core as the operation says, and nothing else of cores, channels, queues and tasks. -/
theorem takeData_changes (hn : s.onCore tid = some n) (hp : (s.core n).phase ≠ 3) :
    (takeData s tid row off o data).onCore tid = some n
      ∧ (takeData s tid row off o data).core n = o.deliverTo row off data (s.core n)
      ∧ (∀ m, m ≠ n → (takeData s tid row off o data).core m = s.core m)
      ∧ (takeData s tid row off o data).tasks = s.tasks ∧ (takeData s tid row off o data).mem = s.mem
      ∧ (takeData s tid row off o data).que = s.que := by
  obtain h | ⟨h, same⟩ := takeData_onCore (row := row) (off := off) (o := o) (data := data) hn hp
  · rw [h]
    exact ⟨(onCore_updCore (deliverTo_task _ _ _ _ _) tid).trans hn, State.core_updCore_same _ _ _,
      fun m hm => State.core_updCore_other _ _ _ _ hm, rfl, rfl, rfl⟩
  · rw [h, same]
    exact ⟨hn, rfl, fun _ _ => rfl, rfl, rfl, rfl⟩

theorem deliver_data (ht : s.task? tid = some t) (ho : t.ops.find? (fun o => o.seq == seq) = some o) (hc : o.out.contains (row, off) = true)
    (hn : (takeData (pieceIn s tid seq row off) tid row off o data).onCore tid = some n) : deliver s tid seq row off stOK data
      = pumpCore ((takeData (pieceIn s tid seq row off) tid row off o data).updTask tid Task.sweep) n := by
  have out : ¬(!o.out.contains (row, off)) = true := by rw [hc]; exact Bool.false_ne_true
  have swept := (onCore_sweep (takeData (pieceIn s tid seq row off) tid row off o data) tid tid).trans hn
  rw [deliver, ht]
  dsimp only
  rw [ho]
  refine (if_neg out).trans ((if_neg (not_not_intro rfl)).trans ?_)
  show (match ((takeData (pieceIn s tid seq row off) tid row off o data).updTask tid Task.sweep).onCore tid with
    | some n => pumpCore ((takeData (pieceIn s tid seq row off) tid row off o data).updTask tid Task.sweep) n
    | none => _) = _
  rw [swept]

end

/-! ### The answer that is next on its way (R39, R86) -/

theorem takeAnswer_dropped {s : State} {r : Req} (h : r.dropped = true) (status : Nat) (data : List (BitVec 8)) :
    takeAnswer s r status data = s := by
  rw [takeAnswer, h]
  cases r.src <;> rfl

theorem takeAnswer_op {s : State} {r : Req} {tid seq row off : Nat} (hd : r.dropped = false) (hs : r.src = .op tid seq row off)
    (status : Nat) (data : List (BitVec 8)) : takeAnswer s r status data = deliver s tid seq row off status data := by
  rw [takeAnswer, hd, hs]

/-- The state without the answers to a request. -/
def dropAnswer (s : State) (rid : Nat) : State := { s with mem := { s.mem with answers := s.mem.answers.filter (fun b => b.req.rid != rid) } }

section
variable {s : State} {rid : Nat} {a : Answer}

theorem streamResponse_early (ha : s.mem.answers.find? (fun a => a.req.rid == rid) = some a) (hn : s.nextAnswer a = false) :
    exec (.streamResponse rid) s = .next s := by
  show Host.Outcome.next (streamResponse s rid) = _
  rw [streamResponse, ha]
  exact congrArg Host.Outcome.next (if_neg (by rw [hn]; exact Bool.false_ne_true))

theorem streamResponse_taken (ha : s.mem.answers.find? (fun a => a.req.rid == rid) = some a) (hn : s.nextAnswer a = true) :
    exec (.streamResponse rid) s = .next (takeAnswer (dropAnswer s rid) a.req a.status a.data) := by
  show Host.Outcome.next (streamResponse s rid) = _
  rw [streamResponse, ha]
  exact congrArg Host.Outcome.next (if_pos hn)

theorem streamResponse_mmio {r : Req} {off : Nat} (ha : s.mem.answers.find? (fun a => a.req.rid == rid) = none) (hr : s.nextReq rid = some r)
    (hp : r.place = .mmio off) : exec (.streamResponse rid) s = .next (takeAnswer
      (settleEndings (releaseHeld (performMmio (takeReq s rid) r off).1)) r stOK (performMmio (takeReq s rid) r off).2) := by
  show Host.Outcome.next (streamResponse s rid) = _
  rw [streamResponse, ha]
  dsimp only
  rw [hr]
  dsimp only
  rw [hp]

end

/-! ### Copy jobs (R219, R332, R333) -/

theorem raise_pend {i : Nat} (s : State) (h : intAssigned i = true) : ((raise s i).intSrc i).pend = true := by
  unfold raise
  rw [if_pos h, State.intSrc_setIntSrc_same]

theorem raise_rest (s : State) (i : Nat) : (raise s i).cores = s.cores ∧ (raise s i).tasks = s.tasks ∧ (raise s i).que = s.que := by
  unfold raise
  split <;> exact ⟨rfl, rfl, rfl⟩

section
variable {s : State} {jid : Nat} {j : Job}

theorem hostReadCompletion_refused {rid : Nat} {data : List (BitVec 8)} (hj : s.mem.jobs.find? (fun j => j.fetchId == rid + 1) = some j) :
    exec (.hostReadCompletion rid false data) s
      = .next (jobPumpEngine ((jobFail s j.jid stHOSTERR).updJob j.jid (fun j => { j with fetchId := 0 })) j.ce) := by
  show Host.Outcome.next (hostReadCompletion s rid false data) = _
  rw [hostReadCompletion, hj]
  rfl

/-- A job with the data that it has read of host memory. -/
def Job.fetched (data : List (BitVec 8)) (x : Job) : Job :=
  if x.code then { x with fetchId := 0, got := patch x.got x.pos data }
  else { x with
    fetchId := 0
    ready := x.ready ++ (upto (data.length / 64)).map (fun i => (x.pos + 64 * i, (data.drop (64 * i)).take 64, false, pcieStop)) }

theorem hostReadCompletion_data {rid : Nat} {data : List (BitVec 8)} (hj : s.mem.jobs.find? (fun j => j.fetchId == rid + 1) = some j)
    (hd : data.length = j.pieceLen) : exec (.hostReadCompletion rid true data) s
      = .next (jobPumpEngine ((notePcie s j.locket j.facet j.ctx 1 data.length).updJob j.jid (Job.fetched data)) j.ce) := by
  show Host.Outcome.next (hostReadCompletion s rid true data) = _
  rw [hostReadCompletion, hj]
  exact congrArg Host.Outcome.next (if_neg (not_not_intro hd))

theorem hostReadCompletion_badLength {rid : Nat} {data : List (BitVec 8)} (hj : s.mem.jobs.find? (fun j => j.fetchId == rid + 1) = some j)
    (hd : data.length ≠ j.pieceLen) : exec (.hostReadCompletion rid true data) s = .next s := by
  show Host.Outcome.next (hostReadCompletion s rid true data) = _
  rw [hostReadCompletion, hj]
  exact congrArg Host.Outcome.next (if_pos hd)

theorem hostReadCompletion_nobody {rid : Nat} (hj : s.mem.jobs.find? (fun j => j.fetchId == rid + 1) = none) (ok : Bool) (data : List (BitVec 8)) :
    exec (.hostReadCompletion rid ok data) s = .next s := by
  show Host.Outcome.next (hostReadCompletion s rid ok data) = _
  rw [hostReadCompletion, hj]

/-- The state without a job that has ended, its engine's source pending and no walk of it left. -/
def freeJob (s : State) (j : Job) : State :=
  let s1 := raise (s.dropJob j.jid) (0x170 + j.ce)
  if (s1.walk (192 + j.ce)).any (fun w => w.who == .job j.jid) then s1.setWalk (192 + j.ce) none else s1

theorem freeJob_eq (s : State) (j : Job) : ∃ walks, freeJob s j
    = { raise (s.dropJob j.jid) (0x170 + j.ce) with xlt := { (raise (s.dropJob j.jid) (0x170 + j.ce)).xlt with walks := walks } } := by
  unfold freeJob
  dsimp only
  split
  · exact ⟨_, rfl⟩
  · exact ⟨_, rfl⟩

theorem freeJob_frees (hce : j.ce < 4) : ((freeJob s j).intSrc (0x170 + j.ce)).pend = true := by
  obtain ⟨walks, eq⟩ := freeJob_eq s j
  have assigned : intAssigned (0x170 + j.ce) = true := by
    simp only [intAssigned, Bool.or_eq_true, Bool.and_eq_true, decide_eq_true_eq]; omega
  rw [eq]
  exact raise_pend _ assigned

theorem freeJob_rest (s : State) (j : Job) : (freeJob s j).mem = (s.dropJob j.jid).mem
    ∧ (freeJob s j).cores = s.cores ∧ (freeJob s j).tasks = s.tasks ∧ (freeJob s j).que = s.que := by
  obtain ⟨walks, eq⟩ := freeJob_eq s j
  rw [eq]
  exact ⟨raise_mem _ _, raise_rest _ _⟩

theorem freeJob_job? (s : State) (j : Job) (i : Nat) : (freeJob s j).job? i = if i = j.jid then none else s.job? i := by
  obtain ⟨hmem, -⟩ := freeJob_rest s j
  rw [State.job?, hmem, State.dropJob, List.find?_filter]
  split
  · next h => exact List.find?_eq_none.2 (by simp [h])
  · next h =>
    have same : (fun x : Job => decide ((x.jid != j.jid) = true ∧ (x.jid == i) = true)) = fun x => x.jid == i := by
      funext x
      by_cases hx : x.jid = i <;> simp [hx, h]
    rw [same]
    rfl

theorem job?_jid (h : s.job? jid = some j) : j.jid = jid := by
  have named := List.find?_some (p := fun x : Job => x.jid == jid) h
  exact beq_iff_eq.1 named

theorem copyJobComplete_ends (hj : s.job? jid = some j) (he : j.ended = true) (hc : j.code = false) (hw : s.jobWritesOut jid = false) :
    exec (.copyJobComplete jid) s = .next (jobPumpEngine (endDesc (freeJob s j) j.q j.idx (j.err.getD 0)
      (detail [(16, 8, j.written), (24, 8, j.skipped.getD 0)])) j.ce) := by
  have on : (j.ended && !j.code && !s.jobWritesOut jid) = true := by rw [he, hc, hw]; rfl
  have off : ¬j.code = true := by rw [hc]; exact Bool.false_ne_true
  show execCopyJobComplete jid s = _
  rw [execCopyJobComplete, hj]
  refine congrArg Host.Outcome.next ((if_pos on).trans ?_)
  rw [endJob, hj, ← job?_jid hj]
  exact congrArg (jobPumpEngine · j.ce) (if_neg off)

theorem copyJobComplete_waits (hj : s.job? jid = some j) (h : j.ended = false ∨ j.code = true ∨ s.jobWritesOut jid = true) :
    exec (.copyJobComplete jid) s = .next s := by
  have off : ¬(j.ended && !j.code && !s.jobWritesOut jid) = true := by obtain h | h | h := h <;> simp [h]
  show execCopyJobComplete jid s = _
  rw [execCopyJobComplete, hj]
  exact congrArg Host.Outcome.next (if_neg off)

theorem copyJobComplete_absent (hj : s.job? jid = none) : exec (.copyJobComplete jid) s = .next s := by
  show execCopyJobComplete jid s = _
  rw [execCopyJobComplete, hj]

end

/-- The core takes an answer to a piece of an operation of the task on it (R86, R138). -/
theorem streamResponse_op {s s1 : State} {rid tid seq row off n : Nat} {a : Answer} {t : Task} {o : StreamOp} (hs1 : s1 = dropAnswer s rid)
    (ha : s.mem.answers.find? (fun a => a.req.rid == rid) = some a) (hnext : s.nextAnswer a = true) (hd : a.req.dropped = false)
    (hsrc : a.req.src = .op tid seq row off) (ht : s.task? tid = some t) (ho : t.ops.find? (fun o => o.seq == seq) = some o)
    (hc : o.out.contains (row, off) = true) (hn : s.onCore tid = some n) :
    (a.status = stOK → (s.core n).phase ≠ 3 →
      ∃ v, exec (.streamResponse rid) s = .next (pumpCore v n) ∧ v.tasks = ((pieceIn s1 tid seq row off).updTask tid Task.sweep).tasks
        ∧ (∀ m, m ≠ n → v.core m = s.core m) ∧ v.mem.chans = s.mem.chans ∧ v.que = s.que
        ∧ (v.core n).arch = (if o.op ≠ 0x18 ∧ o.returns = true then (s.core n).arch.setG o.dst (returned o a.data) else (s.core n).arch)
        ∧ (v.core n).tm = (if o.op = 0x18 then (s.core n).tm.writeN (o.pieceTm row off) a.data else (s.core n).tm))
    ∧ (a.status ≠ stOK → exec (.streamResponse rid) s
        = .next (streamError ((pieceIn s1 tid seq row off).updTask tid Task.sweep) tid a.status o (o.pieceVa row off))) := by
  subst hs1
  have taken := (streamResponse_taken ha hnext).trans (congrArg Host.Outcome.next (takeAnswer_op hd hsrc a.status a.data))
  refine ⟨fun hst hp => ?_, fun hst => taken.trans (congrArg _ (deliver_error (s := dropAnswer s rid) ht ho hc hst))⟩
  have here : (pieceIn (dropAnswer s rid) tid seq row off).onCore tid = some n := (onCore_updOp (dropAnswer s rid) tid seq _ tid).trans hn
  obtain ⟨on, core, others, tasks, mem, que⟩ := takeData_changes (row := row) (off := off) (o := o) (data := a.data) here hp
  have chans := congrArg Mem.chans mem
  rw [hst] at taken
  refine ⟨_, taken.trans (congrArg _ (deliver_data (s := dropAnswer s rid) ht ho hc on)), ?_, others, chans, que, ?_, ?_⟩
  · rw [State.updTask, tasks]
    rfl
  · exact (congrArg Core.arch core).trans (deliverTo_arch _ _ _ _ _)
  · exact (congrArg Core.tm core).trans (deliverTo_tm _ _ _ _ _)

/-- Settles O11: an answer to a task by `streamResponse_op`, a register access by `streamResponse_mmio`, a read of host memory by
`hostReadCompletion_data`, the end of a copy job by `copyJobComplete_ends`. -/
theorem enginesTakeAnswers : Obligations.EnginesTakeAnswers := by
  intro s rid
  refine ⟨fun a s1 ha hs1 => ⟨streamResponse_early ha, fun hnext hd => ?_, ?_⟩, fun r off o ha hr hp ho => ?_,
    fun j data hj => ⟨hostReadCompletion_refused hj, hostReadCompletion_data hj, hostReadCompletion_badLength hj⟩,
    fun ok data hj => hostReadCompletion_nobody hj ok data, fun j hj => ⟨fun he hc hw => ?_, copyJobComplete_waits hj⟩, copyJobComplete_absent⟩
  · rw [streamResponse_taken ha hnext, takeAnswer_dropped hd, hs1]
    rfl
  · intro tid seq row off t o n hnext hd hsrc ht ho hc hn s2 hs2
    subst hs2
    exact streamResponse_op hs1 ha hnext hd hsrc ht ho hc hn
  · rw [ho, streamResponse_mmio ha hr hp]
  · obtain ⟨-, hcores, htasks, hque⟩ := freeJob_rest s j
    refine ⟨_, copyJobComplete_ends hj he hc hw, ?_, fun i hi => ?_, freeJob_frees, hcores, htasks, hque⟩
    · rw [freeJob_job?, if_pos (job?_jid hj).symm]
    · rw [freeJob_job?, if_neg (by rw [job?_jid hj]; exact hi)]

end Sys2Proof.Machine
end

section
/-! The end of a park powers the half's cores down, which empties their pending-fault slots (R56, R284, R551); O1, which says too much of the
tasks then. -/

namespace Sys2Proof.Machine

/-- A task that waits for the pending-fault slot of core 0 (R284). -/
def deferredTask : Task :=
  { tid := 1, launcher := .desc 0 0, idx := 0, count := 1, ctx := 0, locket := 0, set := 0, vcore := 0, priv := false, facet := 0, prio := 0
    pf := false, st := .deferred, deferOn := 0 }

/-- The module after power-up with that task, its west half about to end its park, and no fault held. -/
def parkingWithDeferred : State := { State.reset with mesh := { west := { state := 1 } }, tasks := [deferredTask] }

/-- The tasks that a command leaves. -/
def tasksAfter : Res → List Task
  | .next u => u.tasks
  | _ => []

/-- Powering core 0 down empties its slot, so that what was deferred on it may run (`undefer`). -/
theorem parkComplete_runs_deferred : (tasksAfter (exec (.parkComplete 0) parkingWithDeferred)).map (fun t => t.st) = [.runnable] := by
  decide +kernel

/-- Refutes O1: with no fault held the statement has a park that ends leave every task as it was, but a task deferred on a core of the half
becomes runnable, as the core's power-down empties the slot that it waits for (`parkComplete_runs_deferred`). The hypothesis that no task is
deferred on a core of the half is missing. -/
theorem not_meshesAndHalves : ¬Obligations.MeshesAndHalves := by
  intro ⟨_, _, _, parks⟩
  obtain ⟨completes, -⟩ := parks parkingWithDeferred 0
  obtain ⟨u, hexec, hheld, -, -, -, -, -, hkept, -⟩ := completes rfl rfl fun c _ _ => show (0 : Nat) ≠ 2 by decide
  obtain ⟨-, htasks⟩ := hkept rfl rfl
  have stay : tasksAfter (exec (.parkComplete 0) parkingWithDeferred) = [deferredTask] := by
    rw [hexec, hheld rfl]
    exact htasks
  have run := parkComplete_runs_deferred
  rw [stay] at run
  exact absurd run (by decide)

end Sys2Proof.Machine
end

section
/-! Requests of other modules: a packet that opens is served by its kind (R405, R420, R452, R475, R494, R550), and what its home's check says of an
access (R338, R415, R419, R588); O31, which says both. -/

namespace Sys2Proof.Machine

/-- A packet for this module is the first of its number, of its kind. -/
theorem arrivedFor_some {s : State} {b : Arrived} {pid : Nat} {kinds : List Nat} (h : s.arrivedFor pid kinds = some b) :
    s.trb.arrived.find? (fun a => a.pid == pid) = some b ∧ b.pkt.dst = s.trb.idModule ∧ kinds.contains b.pkt.pkind = true := by
  unfold State.arrivedFor at h
  split at h
  · next a ha =>
    split at h
    · next ok =>
      obtain rfl := Option.some.inj h
      simp only [Bool.and_eq_true, beq_iff_eq] at ok
      exact ⟨ha, ok.1⟩
    · cases h
  · cases h

/-! ### CONTROL packets, by their subcode (R452, R475, R550) -/

/-- Whether a CONTROL packet of subcode `c` from Locket `l` is answered with DENIED. -/
def State.controlCloses (s : State) (l c : Nat) : Bool :=
  (decide (1 ≤ c ∧ c ≤ 6) && s.moduleFenced) || (decide (1 ≤ c ∧ c ≤ 4) && s.ingressCloses l)

section
variable {s : State} {l c : Nat}

theorem controlCloses_other (h : c = 0 ∨ 6 < c) : s.controlCloses l c = false := by
  have out : ¬(1 ≤ c ∧ c ≤ 6) ∧ ¬(1 ≤ c ∧ c ≤ 4) := by omega
  rw [State.controlCloses, decide_eq_false out.1, decide_eq_false out.2]
  rfl

/-- The port closes for every Locket of a fenced module. -/
theorem controlCloses_request (h : 1 ≤ c ∧ c ≤ 4) : s.controlCloses l c = s.ingressCloses l := by
  have all : 1 ≤ c ∧ c ≤ 6 := by omega
  rw [State.controlCloses, decide_eq_true h, decide_eq_true all, State.ingressCloses]
  cases s.moduleFenced <;> rfl

theorem controlCloses_teardown (h : c = 5 ∨ c = 6) : s.controlCloses l c = s.moduleFenced := by
  have on : (1 ≤ c ∧ c ≤ 6) ∧ ¬(1 ≤ c ∧ c ≤ 4) := by omega
  rw [State.controlCloses, decide_eq_true on.1, decide_eq_false on.2, Bool.false_and, Bool.or_false, Bool.true_and]

end

section
variable {s t : State} {b : Arrived} {pid resid l n : Nat} {payload : List (BitVec 8)} {code : Nat → Bool}
  {f : State → Arrived → Nat → List (BitVec 8) → Option State}

theorem handleControl_absent (h : s.arrivedFor pid [0x10] = none) : handleControl s pid resid code f = s := by
  rw [handleControl, h]

theorem handleControl_done (h : s.arrivedFor pid [0x10] = some b) (ho : openPacket s b resid = .done t) :
    handleControl s pid resid code f = t := by
  rw [handleControl, h]
  dsimp only
  rw [ho]

section
variable (h : s.arrivedFor pid [0x10] = some b) (ho : openPacket s b resid = .ok t l payload)
include h ho

theorem handleControl_ok : handleControl s pid resid code f =
    if !code (subcode payload) then s
    else if s.controlCloses l (subcode payload) then denyPacket t (b.spent resid).pkt (b.spent resid).pkt.tag stDENIED
    else (f t (b.spent resid) l payload).getD s := by
  rw [handleControl, h]
  dsimp only
  rw [ho]
  rfl

/-- A command leaves a packet of another subcode where it is. -/
theorem handleControl_otherCode (hc : subcode payload ≠ n) : handleControl s pid resid (· == n) f = s := by
  rw [handleControl_ok h ho, if_pos (by simpa using hc)]

theorem handleControl_denied (hc : subcode payload = n) (hd : s.controlCloses l n = true) :
    handleControl s pid resid (· == n) f = denyPacket t (b.spent resid).pkt (b.spent resid).pkt.tag stDENIED := by
  rw [handleControl_ok h ho, hc, hd, if_neg (by simp), if_pos rfl]

theorem handleControl_taken (hc : subcode payload = n) (hd : s.controlCloses l n = false) :
    handleControl s pid resid (· == n) f = (f t (b.spent resid) l payload).getD s := by
  rw [handleControl_ok h ho, hc, hd, if_neg (by simp), if_neg Bool.false_ne_true]

theorem controlCommands_leave : (subcode payload ≠ 1 → exec (.fenceQuery pid resid) s = .next s)
    ∧ (subcode payload ≠ 2 → exec (.fenceRelease pid resid) s = .next s) ∧ (subcode payload ≠ 3 → exec (.leaseOperation pid resid) s = .next s)
    ∧ (subcode payload ≠ 4 → exec (.remoteLaunch pid resid) s = .next s) ∧ (subcode payload ≠ 5 → exec (.teardownStep pid resid) s = .next s)
    ∧ (subcode payload ≠ 6 → exec (.teardownReport pid resid) s = .next s) := by
  refine ⟨?_, ?_, ?_, ?_, ?_, ?_⟩ <;> exact fun hc => congrArg Host.Outcome.next (handleControl_otherCode h ho hc)

/-- What is left to BADPKT of CONTROL: a subcode that no command takes (R475). -/
theorem badpkt_control : exec (.badpkt pid resid) s
    = .next (if subcode payload = 0 ∨ 6 < subcode payload then countBadpkt t b.port else s) := by
  obtain ⟨hfind, hdst, hkind⟩ := arrivedFor_some h
  have kind : b.pkt.pkind = 0x10 := by simpa using hkind
  show execBadpkt pid resid s = _
  rw [execBadpkt, hfind]
  dsimp only
  rw [if_neg (not_not_intro hdst), kind, if_neg (by decide), handleControl_ok h ho]
  by_cases none : subcode payload = 0 ∨ 6 < subcode payload
  · have takes : (subcode payload == 0 || decide (6 < subcode payload)) = true := by simpa using none
    rw [controlCloses_other none, takes, if_pos none]
    rfl
  · have leaves : (subcode payload == 0 || decide (6 < subcode payload)) = false := by simpa using none
    rw [leaves, if_neg none]
    rfl

end

theorem controlCommands_absent (h : s.arrivedFor pid [0x10] = none) :
    exec (.fenceQuery pid resid) s = .next s ∧ exec (.fenceRelease pid resid) s = .next s ∧ exec (.leaseOperation pid resid) s = .next s
    ∧ exec (.remoteLaunch pid resid) s = .next s ∧ exec (.teardownStep pid resid) s = .next s ∧ exec (.teardownReport pid resid) s = .next s := by
  refine ⟨?_, ?_, ?_, ?_, ?_, ?_⟩ <;> exact congrArg Host.Outcome.next (handleControl_absent h)

theorem controlCommands_done (h : s.arrivedFor pid [0x10] = some b) (ho : openPacket s b resid = .done t) :
    exec (.fenceQuery pid resid) s = .next t ∧ exec (.fenceRelease pid resid) s = .next t ∧ exec (.leaseOperation pid resid) s = .next t
    ∧ exec (.remoteLaunch pid resid) s = .next t ∧ exec (.teardownStep pid resid) s = .next t ∧ exec (.teardownReport pid resid) s = .next t := by
  refine ⟨?_, ?_, ?_, ?_, ?_, ?_⟩ <;> exact congrArg Host.Outcome.next (handleControl_done h ho)

end

/-! ### Accesses: what an ATOMIC's payload spells, and what the home's check says -/

/-- An arithmetic atomic of 4 or 8 bytes is spelled by its opcode and its operand. -/
theorem atomOf_arith {size st : Nat} {payload : List (BitVec 8)} (hlen : 16 ≤ payload.length) (hst : st ≠ 0x28)
    (hlo : 0x20 ≤ leNat (payload.take 1)) (hhi : leNat (payload.take 1) < 0x28) (hsize : size = 2 ∨ size = 3) :
    atomOf (sizeBytes size) st payload = some (.atom (leNat (payload.take 1)) (sizeBytes size)
      (BitVec.ofNat 64 (leNat ((payload.drop 8).take (sizeBytes size)))) 0) := by
  have bytes : 4 ≤ sizeBytes size ∧ sizeBytes size ≤ 8 := by obtain rfl | rfl := hsize <;> decide
  exact (if_neg (Nat.not_lt.2 hlen)).trans ((if_neg hst).trans (if_pos ⟨hlo, hhi, bytes⟩))

section
variable {t : State} {k : Packet} {l off : Nat}

theorem remoteAccess_denied {a : Arrived} {kind : ReqKind} {len st : Nat} {data : List (BitVec 8)}
    (h : t.remoteCheck a.pkt l kind.isFence = some st) : remoteAccess t a l kind len data = denyPacket t a.pkt a.pkt.tag st := by
  rw [remoteAccess, h]

section
variable (hp : localPlace (dpaLocal k.addr) = .dram off) (hm : dpaModule k.addr = t.trb.idModule) (hc : t.ingressCloses l = false)
include hp hm hc

/-- In the pool region the home's record decides (R415, R419). -/
theorem remoteCheck_pool (hs : t.pool.state = 2) (ho : off < t.pool.chans.length * slotBytes) : t.remoteCheck k l =
    if off / blockBytes < t.pool.recordBlocks then some stDENIED
    else if !k.lease then some stDENIED
    else if (t.homeRec (off / blockBytes)).state = 2 && (t.homeRec (off / blockBytes)).owner == k.src
      && (t.homeRec (off / blockBytes)).gen == k.gen && (t.homeRec (off / blockBytes)).locket == l then none
    else some stOWNLOST := by
  have pool : (decide (t.pool.state = 2) && decide (off < slotBytes * t.pool.chans.length)) = true := by
    rw [decide_eq_true hs, decide_eq_true (Nat.mul_comm _ _ ▸ ho)]; rfl
  rw [State.remoteCheck, hc, if_neg Bool.false_ne_true, if_neg (not_not_intro hm), hp]
  exact if_pos pool

/-- Elsewhere the Locket of the Setting that covers the place does, but for a signal of a PF queue (R338, R588). -/
theorem remoteCheck_dram {m : Mapped} {fence : Bool} (h2 : t.pool.state ≠ 2) (h3 : t.pool.state ≠ 3) (hl : k.lease = false)
    (hmap : t.mapDram off = some m) (hset : m.set < 64) : t.remoteCheck k l fence =
    if (t.setting m.set).active.locket = l ∨ (fence = true ∧ l = noLocket ∧ t.tdiClosed (t.setting m.set).active.locket = false) then none
    else some stDENIED := by
  rw [State.remoteCheck, hc, if_neg Bool.false_ne_true, if_neg (not_not_intro hm), hp]
  dsimp only
  rw [decide_eq_false h2, decide_eq_false h3, Bool.false_and, if_neg Bool.false_ne_true, if_neg Bool.false_ne_true, hl,
    if_neg Bool.false_ne_true, hmap]
  dsimp only
  rw [decide_eq_true hset]
  simp [and_assoc]

end

end

/-! ### What each kind of request comes to -/

section
variable {s t : State} {b a : Arrived} {pid resid l : Nat} {payload : List (BitVec 8)} (spent : a = b.spent resid)
  (ho : openPacket s b resid = .ok t l payload)
include spent ho

theorem read_served (h : s.arrivedFor pid [0x01] = some b) :
    exec (.read pid resid) s = .next (remoteAccess t a l .read (sizeBytes a.pkt.size) []) := by
  subst spent
  exact congrArg Host.Outcome.next (handlePacket_ok h ho)

theorem write_served (h : s.arrivedFor pid [0x02] = some b) : exec (.write pid resid) s =
    .next (if payload.length < sizeBytes a.pkt.size then countBadpkt t a.port
      else remoteAccess t a l (.write a.pkt.poison) (sizeBytes a.pkt.size) (payload.take (sizeBytes a.pkt.size))) := by
  subst spent
  exact congrArg Host.Outcome.next (handlePacket_ok h ho)

theorem atomic_served (h : s.arrivedFor pid [0x03] = some b) : exec (.atomic pid resid) s =
    .next (match atomOf (sizeBytes a.pkt.size) a.pkt.status payload with
      | some (.atom op size x y) => remoteAccess t a l (.atom op size x y) size []
      | some kind => remoteAccess t a l kind 8 []
      | none => countBadpkt t a.port) := by
  subst spent
  exact congrArg Host.Outcome.next (handlePacket_ok h ho)

theorem echo_served (h : s.arrivedFor pid [0x20] = some b) : exec (.echo pid resid) s =
    .next (if t.moduleFenced then denyPacket t a.pkt 0 stDENIED
      else sendResponse t 1 {
        pkind := 0x21, dst := a.pkt.src, src := t.trb.idModule, budget := a.pkt.budget, reqid := a.pkt.reqid
        payload := payload.take 16 ++ leBytes 2 t.trb.idModule ++ leBytes 14 a.port }) := by
  subst spent
  exact congrArg Host.Outcome.next (handlePacket_ok h ho)

/-- An atomic reaches its home as what its payload spells. -/
theorem atomic_spelled {op n : Nat} {x y : BitVec 64} (h : s.arrivedFor pid [0x03] = some b)
    (ha : atomOf (sizeBytes a.pkt.size) a.pkt.status payload = some (.atom op n x y)) :
    exec (.atomic pid resid) s = .next (remoteAccess t a l (.atom op n x y) n []) := by
  rw [atomic_served spent ho h, ha]

/-- A fence operation reaches its home with the 8 bytes of its value. -/
theorem atomic_fence {kind : ReqKind} (h : s.arrivedFor pid [0x03] = some b)
    (ha : atomOf (sizeBytes a.pkt.size) a.pkt.status payload = some kind) (hk : ∀ op n x y, kind ≠ .atom op n x y) :
    exec (.atomic pid resid) s = .next (remoteAccess t a l kind 8 []) := by
  rw [atomic_served spent ho h, ha]
  cases kind with
  | atom op n x y => exact absurd rfl (hk op n x y)
  | _ => rfl

section
variable (h : s.arrivedFor pid [0x10] = some b)
include h

theorem requests_denied (hd : s.ingressCloses l = true) {d : Res} (eq : d = .next (denyPacket t a.pkt a.pkt.tag stDENIED)) :
    (subcode payload = 1 → exec (.fenceQuery pid resid) s = d) ∧ (subcode payload = 2 → exec (.fenceRelease pid resid) s = d)
    ∧ (subcode payload = 3 → exec (.leaseOperation pid resid) s = d) ∧ (subcode payload = 4 → exec (.remoteLaunch pid resid) s = d) := by
  have closed {c : Nat} (hc : 1 ≤ c ∧ c ≤ 4) : s.controlCloses l c = true := (controlCloses_request hc).trans hd
  subst spent eq
  refine ⟨?_, ?_, ?_, ?_⟩ <;> exact fun hc => congrArg Host.Outcome.next (handleControl_denied h ho hc (closed (by decide)))

theorem requests_taken (hd : s.ingressCloses l = false) :
    (subcode payload = 1 → exec (.fenceQuery pid resid) s = .next ((answerQuery t a.pkt l payload).getD s))
    ∧ (subcode payload = 2 → exec (.fenceRelease pid resid) s = .next (takeRelease t a.pkt payload))
    ∧ (subcode payload = 3 → exec (.leaseOperation pid resid) s = .next (answerLease t a.pkt l payload))
    ∧ (subcode payload = 4 → exec (.remoteLaunch pid resid) s = .next (takeLaunch t a l payload)) := by
  have opened {c : Nat} (hc : 1 ≤ c ∧ c ≤ 4) : s.controlCloses l c = false := (controlCloses_request hc).trans hd
  subst spent
  refine ⟨?_, ?_, ?_, ?_⟩ <;> exact fun hc => congrArg Host.Outcome.next (handleControl_taken h ho hc (opened (by decide)))

theorem teardown_denied (hd : s.moduleFenced = true) {d : Res} (eq : d = .next (denyPacket t a.pkt a.pkt.tag stDENIED)) :
    (subcode payload = 5 → exec (.teardownStep pid resid) s = d) ∧ (subcode payload = 6 → exec (.teardownReport pid resid) s = d) := by
  have closed {c : Nat} (hc : c = 5 ∨ c = 6) : s.controlCloses l c = true := (controlCloses_teardown hc).trans hd
  subst spent eq
  exact ⟨fun hc => congrArg Host.Outcome.next (handleControl_denied h ho hc (closed (.inl rfl))),
    fun hc => congrArg Host.Outcome.next (handleControl_denied h ho hc (closed (.inr rfl)))⟩

theorem teardownStep_taken (hd : s.moduleFenced = false) (hc : subcode payload = 5) : exec (.teardownStep pid resid) s =
    .next (match teardownOf t payload with
      | some (k, step) => memberStep (controlAnswer t a.pkt (leBytes 1 5)) k a.pkt.src step
      | none => controlAnswer t a.pkt (leBytes 1 5)) := by
  subst spent
  exact congrArg Host.Outcome.next (handleControl_taken h ho hc ((controlCloses_teardown (.inl rfl)).trans hd))

theorem teardownReport_taken (hd : s.moduleFenced = false) (hc : subcode payload = 6) : exec (.teardownReport pid resid) s =
    .next (match teardownOf t payload with
      | some (k, step) => teardownReported (controlAnswer t a.pkt (leBytes 1 6)) k a.pkt.src step
      | none => controlAnswer t a.pkt (leBytes 1 6)) := by
  subst spent
  exact congrArg Host.Outcome.next (handleControl_taken h ho hc ((controlCloses_teardown (.inr rfl)).trans hd))

end

end

/-- Settles O31: each kind of request by what its command comes to (`read_served` to `teardownReport_taken`), and the check of an access by where
its address lies (`remoteCheck_pool`, `remoteCheck_dram`). -/
theorem requestsAreServed : Obligations.RequestsAreServed := by
  intro s t b a pid resid l payload spent
  refine ⟨fun ha ho => ⟨fun hk => ?read, fun hk => ?write, fun hk => ?atomic, fun hk => ?echo, fun hk => ?control⟩,
    fun _ _ _ _ => remoteAccess_denied, fun off r hp hm hc hs hoff hr => ?pool, fun off m fence o hp hm hc h2 h3 hl hmap hset ho => ?dram,
    ?absent, fun ha ho => ?dropped⟩
  case read => exact read_served spent ho (hk ▸ ha)
  case write =>
    rw [write_served spent ho (hk ▸ ha)]
    exact ⟨fun long => congrArg _ (if_neg (Nat.not_lt.2 long)), fun short => congrArg _ (if_pos short)⟩
  case atomic =>
    have ha : s.arrivedFor pid [0x03] = some b := hk ▸ ha
    refine ⟨fun none => ?_, fun op n x y => atomic_spelled spent ho ha, fun k => atomic_fence spent ho ha,
      fun hlen hst hlo hhi hsize => atomic_spelled spent ho ha (atomOf_arith hlen hst hlo hhi hsize)⟩
    rw [atomic_served spent ho ha, none]
  case echo =>
    rw [echo_served spent ho (hk ▸ ha)]
    exact ⟨fun fenced => congrArg _ (if_pos fenced), fun free => congrArg _ (if_neg (by rw [free]; exact Bool.false_ne_true))⟩
  case control =>
    have ha : s.arrivedFor pid [0x10] = some b := hk ▸ ha
    obtain ⟨leave1, leave2, leave3, leave4, leave5, leave6⟩ := controlCommands_leave ha ho
    have port : a.port = b.port := by rw [spent]; rfl
    rw [badpkt_control ha ho, port]
    refine ⟨fun out => congrArg _ (if_pos out), fun h0 h6 => congrArg _ (if_neg (by omega)), leave1, leave2, leave3, leave4, leave5, leave6,
      fun hd d => requests_denied spent ho ha hd, requests_taken spent ho ha, fun hd d => teardown_denied spent ho ha hd,
      fun hd => ⟨fun hc v hv => ?_, fun hc v hv => ?_⟩⟩
    · rw [teardownStep_taken spent ho ha hd hc, hv]
      exact ⟨fun k step h => by rw [h], fun h => by rw [h]⟩
    · rw [teardownReport_taken spent ho ha hd hc, hv]
      exact ⟨fun k step h => by rw [h], fun h => by rw [h]⟩
  case pool =>
    rw [remoteCheck_pool hp hm hc hs hoff, ← hr]
    refine ⟨fun denied => ?_, fun block lease => ⟨fun h2 howner hgen hlocket => ?_, fun lost => ?_⟩⟩
    · obtain block | lease := denied
      · exact if_pos block
      · simp [lease]
    · rw [if_neg (Nat.not_lt.2 block), lease, h2, howner, hgen, hlocket]
      simp
    · rw [if_neg (Nat.not_lt.2 block), lease, if_neg (by decide), if_neg (by simp only [Bool.and_eq_true, decide_eq_true_eq, beq_iff_eq]; omega)]
  case dram =>
    rw [ho]
    exact remoteCheck_dram hp hm hc h2 h3 hl hmap hset
  case absent =>
    exact ⟨fun h => congrArg _ (handlePacket_absent h), fun h => congrArg _ (handlePacket_absent h), fun h => congrArg _ (handlePacket_absent h),
      fun h => congrArg _ (handlePacket_absent h), controlCommands_absent⟩
  case dropped =>
    exact ⟨fun hk => congrArg _ (handlePacket_done (hk ▸ ha) ho), fun hk => congrArg _ (handlePacket_done (hk ▸ ha) ho),
      fun hk => congrArg _ (handlePacket_done (hk ▸ ha) ho), fun hk => congrArg _ (handlePacket_done (hk ▸ ha) ho),
      fun hk => controlCommands_done (hk ▸ ha) ho⟩

end Sys2Proof.Machine
end

section
/-! Fence signals and errors at their home (R216, R364, R367, R370, R373); O9, which says what they make of a record and how they are answered. -/

namespace Sys2Proof.Machine

/-! ### What a signal or an error makes of a record (R367, R373) -/

section
variable {r : FenceRec} {v : BitVec 64} {h code ctx : Nat}

theorem fenceApply_raises (hs : r.state ≠ 2) (hv : r.v ≤ v.toNat) (ht : v.toNat ≠ terminal) :
    fenceApply (.signal v h) r = ({ r with v := v.toNat, state := 1 }, 0, false) :=
  (if_neg hs).trans (if_neg fun low => low.elim (Nat.not_lt.2 hv) ht)

theorem fenceApply_regresses (hs : r.state ≠ 2) (hv : v.toNat < r.v ∨ v.toNat = terminal) :
    fenceApply (.signal v h) r = ({ r with regress := true }, 1, true) :=
  (if_neg hs).trans (if_pos hv)

theorem fenceApply_errored (hs : r.state = 2) : fenceApply (.signal v h) r = (r, 2, false) := if_pos hs

theorem fenceApply_error (hs : r.state ≠ 2) :
    fenceApply (.error h code ctx) r = ({ r with v := terminal, state := 2, err := code, errCtx := ctx }, 0, false) := if_neg hs

end

/-! ### The command at the home -/

section
variable {s : State} {r : Req} {rid c off : Nat} {x : Xmit}

theorem fenceSignal_eq (hn : s.nextReq rid = some r) (hp : r.place = .chan c off) (hf : r.kind.isFence = true) :
    exec (.fenceSignal rid x) s = .next (fenceRequest s r c off x) := by
  show execFenceSignal rid x s = _
  rw [execFenceSignal, hn]
  dsimp only
  rw [hp]
  exact congrArg Host.Outcome.next (if_pos hf)

theorem fenceRequest_expired (hr : r.reach s.takeFree.1 = none) : fenceRequest s r c off x = expireReq s.takeFree.2 r := by
  rw [fenceRequest]
  dsimp only
  rw [hr]

theorem fenceRequest_reaches {r1 : Req} (hr : r.reach s.takeFree.1 = some r1) : fenceRequest s r c off x = serveFence s.takeFree.2 r1 c off x := by
  rw [fenceRequest]
  dsimp only
  rw [hr]

/-- A request that waits for another, or that is no fence operation of a channel, is left where it is. -/
theorem fenceSignal_elsewhere (h : ∀ r c off, s.nextReq rid = some r → r.place = .chan c off → r.kind.isFence = false) :
    exec (.fenceSignal rid x) s = .next s := by
  show execFenceSignal rid x s = _
  rw [execFenceSignal]
  refine congrArg Host.Outcome.next ?_
  split
  · rfl
  · next r hr =>
    split
    · next c off hp => rw [h r c off hr hp, if_neg Bool.false_ne_true]
    · rfl

/-- The state in which a performed fence operation is answered: it has been granted, and its answer crosses the module (R446). -/
def fenceReturns (o : State × FenceDone) (r : Req) (c : Nat) : State :=
  let s1 := noteChannel o.1 r c 8 (o.2.status == stOK)
  r.cross (noteDrained s1 r) r.dest.half (s1.backHalf r) (if o.2.status = stOK then r.bytesBack else 0)

/-- What whoever sent a fence operation learns of it (R36, R237). -/
def fenceTold (u : State) (r : Req) (c : Nat) (o : FenceDone) : State :=
  match r.src with
  | .desc q idx => settle (if r.dropped then u else descSignalled u q idx) q
  | _ => answer u r o.status (leBytes 8 o.afsig) (parkedUnit o.status (chanUnit c))

/-- A performed fence operation is told to its sender, then the waits that it satisfies are released. -/
theorem serveFence_eq {o : State × FenceDone} (ho : o = performFence (r.enter (takeReq s r.rid)) r c off x) : serveFence s r c off x =
    o.2.failed.foldl channelFailed (settleEndings (wakeFence (releaseHeld (fenceTold (fenceReturns o r c) r c o.2)) o.2)) := by
  subst ho
  rfl

section
variable {u : State} {o : FenceDone}

theorem fenceTold_desc {q idx : Nat} (hs : r.src = .desc q idx) (hd : r.dropped = false) :
    fenceTold u r c o = settle (descSignalled u q idx) q := by
  rw [fenceTold, hs, hd]
  rfl

theorem fenceTold_dropped {q idx : Nat} (hs : r.src = .desc q idx) (hd : r.dropped = true) : fenceTold u r c o = settle u q := by
  rw [fenceTold, hs, hd]
  rfl

theorem fenceTold_other (hs : ∀ q idx, r.src ≠ .desc q idx) :
    fenceTold u r c o = answer u r o.status (leBytes 8 o.afsig) (parkedUnit o.status (chanUnit c)) := by
  unfold fenceTold
  split
  · next q idx h => exact absurd h (hs q idx)
  · rfl

end

end

/-- Settles O9: the record by `fenceApply`, the command by `fenceSignal_eq` and `serveFence_eq`, and the answer by who sent the request
(`fenceTold`). -/
theorem signalsRaiseFences : Obligations.SignalsRaiseFences := by
  refine ⟨fun v h r => ⟨fenceApply_raises, fenceApply_regresses, fenceApply_errored, fun code ctx => fenceApply_error⟩,
    fun s rid x => ⟨fun r c off k s0 hn hp hf hk => ?_, fenceSignal_elsewhere⟩⟩
  obtain ⟨rfl, rfl⟩ : s.takeFree.1 = k ∧ s.takeFree.2 = s0 := ⟨congrArg Prod.fst hk, congrArg Prod.snd hk⟩
  rw [fenceSignal_eq hn hp hf]
  refine ⟨fun hr => congrArg _ (fenceRequest_expired hr), fun r1 o s2 hr ho hs2 u hu => ?_⟩
  obtain rfl : s2 = fenceReturns o r1 c := hs2
  rw [fenceRequest_reaches hr, serveFence_eq ho]
  obtain ⟨q, idx, hs, hd, rfl⟩ | ⟨hs, rfl⟩ | ⟨q, idx, hs, hd, rfl⟩ := hu
  · rw [fenceTold_desc hs hd]
  · rw [fenceTold_other hs]
  · rw [fenceTold_dropped hs hd]

end Sys2Proof.Machine
end

section
/-! Sectors at their home over a good bond (R206, R207, R220, R397, R629): what is written reads back, and what a write leaves alone; and the end of
a scrub (R220, R221, R434, R528). -/

namespace Sys2Proof.Machine

/-! ### Sets of sector numbers -/

theorem mem_setIns {k j : Nat} {l : List Nat} : j ∈ setIns k l ↔ j = k ∨ j ∈ l := by
  induction l with
  | nil => exact List.mem_singleton.trans (or_iff_left List.not_mem_nil).symm
  | cons a l ih =>
    unfold setIns
    split
    · exact List.mem_cons
    · split
      · next h => rw [h, List.mem_cons, or_self_left]
      · rw [List.mem_cons, ih, List.mem_cons, or_left_comm]

theorem contains_setIns (k j : Nat) (l : List Nat) : (setIns k l).contains j = (j == k || l.contains j) := by
  rw [Bool.eq_iff_iff]
  simp [mem_setIns]

theorem contains_setDel (k j : Nat) (l : List Nat) : (setDel k l).contains j = (j != k && l.contains j) := by
  rw [Bool.eq_iff_iff]
  simp [setDel, and_comm]

/-! ### The sectors of a channel after a store (R206, R207, R629) -/

/-- Bytes outside a run that is written read as before. -/
theorem Cells.readN_writeN_outside (bs : List (BitVec 8)) (m : Cells) (a x n : Nat) (h : x + n ≤ a ∨ a + bs.length ≤ x) :
    (m.writeN a bs).readN x n = m.readN x n := by
  induction n generalizing x with
  | zero => rfl
  | succ n ih => rw [Cells.readN, Cells.readN, ih (x + 1) (by omega), Cells.read_writeN_outside bs m a x (by omega)]

theorem Cells.readN_length (m : Cells) (a n : Nat) : (m.readN a n).length = n := by
  induction n generalizing a with
  | zero => rfl
  | succ n ih => rw [Cells.readN, List.length_cons, ih]

theorem Cells.readN_nil (a n : Nat) : Cells.readN [] a n = List.replicate n 0 := by
  induction n generalizing a with
  | zero => rfl
  | succ n ih => rw [Cells.readN, ih]; rfl

theorem Chan.sector_length (ch : Chan) (c sec : Nat) : (ch.sector c sec).length = 64 := by
  unfold Chan.sector
  split
  · exact Cells.readN_length _ _ _
  · rw [List.length_map, upto, List.length_range]

theorem Chan.marked_of_defined {ch : Chan} {c sec : Nat} (h : ch.defined sec = true) : ch.marked c sec = ch.marks.contains sec := by
  rw [Chan.marked, h]
  simp

section
variable {ch : Chan} {c sec : Nat} {bytes : List (BitVec 8)}

theorem Chan.defined_store (k : Nat) : (ch.store sec bytes false).defined k = (k == sec || ch.defined k) := by
  unfold Chan.store Chan.defined
  cases ch.scrubbed
  · exact contains_setIns _ _ _
  · simp

theorem Chan.marks_store (k : Nat) : (ch.store sec bytes false).marks.contains k = (k != sec && ch.marks.contains k) := contains_setDel _ _ _

theorem Chan.sector_store_same (h : bytes.length = 64) : (ch.store sec bytes false).sector c sec = bytes := by
  rw [Chan.sector, Chan.defined_store, beq_self_eq_true, Bool.true_or, if_pos rfl]
  have read := Cells.readN_writeN bytes ch.mem (64 * sec)
  rw [h] at read
  exact read

theorem Chan.sector_store_other {k : Nat} (h : bytes.length = 64) (hk : k ≠ sec) : (ch.store sec bytes false).sector c k = ch.sector c k := by
  have mem : (ch.store sec bytes false).mem.readN (64 * k) 64 = ch.mem.readN (64 * k) 64 := Cells.readN_writeN_outside _ _ _ _ _ (by omega)
  rw [Chan.sector, Chan.sector, Chan.defined_store, beq_eq_false_iff_ne.2 hk, Bool.false_or, mem]

theorem Chan.marked_store_other {k : Nat} (hk : k ≠ sec) : (ch.store sec bytes false).marked c k = ch.marked c k := by
  rw [Chan.marked, Chan.marked, Chan.defined_store, Chan.marks_store, beq_eq_false_iff_ne.2 hk, bne_iff_ne.2 hk, Bool.false_or, Bool.true_and]

end

/-- `ch` holds `bytes` in sector `sec`, with no mark, and is as `ch0` in its state and its other sectors; no error is injected. -/
structure Chan.Holds (ch ch0 : Chan) (c sec : Nat) (bytes : List (BitVec 8)) : Prop where
  state : ch.state = ch0.state
  inj : ch.inj = 0
  defined : ch.defined sec = true
  sector : ch.sector c sec = bytes
  marks : ch.marks.contains sec = false
  others : ∀ k, k ≠ sec → ch.sector c k = ch0.sector c k ∧ ch.marked c k = ch0.marked c k

theorem Chan.holds_store {ch : Chan} {c sec : Nat} {bytes : List (BitVec 8)} (hi : ch.inj = 0) (hb : bytes.length = 64) :
    (ch.store sec bytes false).Holds ch c sec bytes where
  state := rfl
  inj := hi
  defined := by rw [Chan.defined_store, beq_self_eq_true, Bool.true_or]
  sector := Chan.sector_store_same hb
  marks := by rw [Chan.marks_store, bne_self_eq_false, Bool.false_and]
  others := fun k hk => ⟨Chan.sector_store_other hb hk, Chan.marked_store_other hk⟩

theorem Chan.Holds.trans {a b ch0 : Chan} {c sec : Nat} {bytes : List (BitVec 8)} (h : a.Holds b c sec bytes) (hs : b.state = ch0.state)
    (ho : ∀ k, k ≠ sec → b.sector c k = ch0.sector c k ∧ b.marked c k = ch0.marked c k) : a.Holds ch0 c sec bytes :=
  { h with
    state := h.state.trans hs
    others := fun k hk => ⟨(h.others k hk).1.trans (ho k hk).1, (h.others k hk).2.trans (ho k hk).2⟩ }

/-! ### A transfer over a good bond (R202, R203, R206) -/

section
variable {x : Xmit} {ch : Chan}

theorem Chan.inject_none {reading first : Bool} (hi : ch.inj = 0) : ch.inject reading first = (ch, 0) := by
  rw [Chan.inject, hi]
  cases first <;> rfl

theorem bondSend_good (data : List (BitVec 8)) (sec : Nat) (toController : Bool) : bondSend data sec toController 5 0 [] = (0, some data) := rfl

theorem nth_nil {α : Type} (i : Nat) (d : α) : nth ([] : List α) i d = d := rfl

theorem readSector_good (c sec i : Nat) (hi : ch.inj = 0) (hx : x.rdErrs = []) : readSector c x ch sec i =
    (ch.resent 0, if ch.marked c sec then (.mark, []) else (.ok, ch.sector c sec)) := by
  rw [readSector, Chan.inject_none hi, hx]
  dsimp only
  rw [nth_nil, bondSend_good]
  dsimp only
  change (if ch.marked c sec = true then _ else _) = _
  split <;> rfl

theorem writeSector_good (sec i : Nat) (bytes : List (BitVec 8)) (poison : Bool) (hi : ch.inj = 0) (hx : x.wrErrs = []) :
    writeSector x ch sec i bytes poison = ((ch.resent 0).store sec bytes poison, .ok) := by
  rw [writeSector, Chan.inject_none hi, hx]
  rfl

/-- A channel fails over a write only when the poison command has failed five times (R205). -/
theorem writeSector_ne_failed (sec i : Nat) (bytes : List (BitVec 8)) (poison : Bool) (hx : x.poisonFails = []) :
    (writeSector x ch sec i bytes poison).2 ≠ .failed := by
  rw [writeSector, hx]
  dsimp only
  split
  · simp
  · rw [nth_nil, if_neg (by decide)]
    simp

end

/-! ### What stands beside the channels -/

/-- What of a state the service of a request leaves alone beside the memory block. -/
def State.beside (s : State) : SMap Core × List Task × List Ending × Pool × (Nat → Half) × PwrDyn :=
  (s.cores, s.tasks, s.que.ending, s.pool, s.half, s.pdyn)

theorem Posted.beside {s u : State} (h : Posted s u) : u.beside = s.beside := by obtain ⟨_, _, _, _, _, _, _, _, _, _, rfl⟩ := h; rfl

@[simp] theorem takeFree_beside (s : State) : s.takeFree.2.beside = s.beside := rfl
@[simp] theorem ageCredits_beside (s : State) (unit dir ns : Nat) : (ageCredits s unit dir ns).beside = s.beside := rfl
@[simp] theorem setChan_beside (s : State) (c : Nat) (x : Chan) : (s.setChan c x).beside = s.beside := rfl
@[simp] theorem updChan_beside (s : State) (c : Nat) (f : Chan → Chan) : (s.updChan c f).beside = s.beside := rfl
@[simp] theorem raise_beside (s : State) (i : Nat) : (raise s i).beside = s.beside := by unfold raise; split <;> rfl
@[simp] theorem poisonEvent_beside (s : State) (c sec : Nat) (w : Cause) : (poisonEvent s c sec w).beside = s.beside :=
  (postEvent_posted _ _).beside
@[simp] theorem crossSeam_beside (s : State) (l f ctx a b n : Nat) : (crossSeam s l f ctx a b n).beside = s.beside := by
  unfold crossSeam
  split
  · rfl
  · exact (noteGrant_posted _ _ _ _ _ _ _).beside.trans (charge_posted _ _ _ _).beside
@[simp] theorem cross_beside (r : Req) (s : State) (a b n : Nat) : (r.cross s a b n).beside = s.beside := crossSeam_beside _ _ _ _ _ _ _
@[simp] theorem enter_beside (r : Req) (s : State) : (r.enter s).beside = s.beside := by
  unfold Req.enter
  split
  · exact cross_beside _ _ _ _ _
  · rfl
@[simp] theorem enter_mem (r : Req) (s : State) : (r.enter s).mem = s.mem := by
  unfold Req.enter
  split
  · exact Req.cross_mem _ _ _ _ _
  · rfl
@[simp] theorem noteChannel_mem (s : State) (r : Req) (c n : Nat) (ok : Bool) : (noteChannel s r c n ok).mem = s.mem := by
  unfold noteChannel
  dsimp only
  split
  · exact (countDram_mem _ _ _ _).trans (noteGrant_mem _ _ _ _ _ _ _)
  · exact noteGrant_mem _ _ _ _ _ _ _
@[simp] theorem noteChannel_beside (s : State) (r : Req) (c n : Nat) (ok : Bool) : (noteChannel s r c n ok).beside = s.beside := by
  have granted := (noteGrant_posted s r.locket r.facet 64 (chanUnit c) 0 n).beside
  unfold noteChannel
  dsimp only
  split
  · exact (charge_posted _ _ _ _).beside.trans granted
  · exact granted
@[simp] theorem noteDrained_mem (s : State) (r : Req) : (noteDrained s r).mem = s.mem := by
  unfold noteDrained
  dsimp only
  repeat' split
  all_goals rfl
@[simp] theorem noteDrained_beside (s : State) (r : Req) : (noteDrained s r).beside = s.beside := by
  unfold noteDrained
  dsimp only
  repeat' split
  all_goals rfl
@[simp] theorem countAborted_beside (s : State) (r : Req) (status : Nat) : (countAborted s r status).beside = s.beside := by
  unfold countAborted
  split <;> rfl

theorem chan_of_mem {s u : State} (h : u.mem = s.mem) (c : Nat) : u.chan c = s.chan c := congrArg (fun m : Mem => SMap.get chanD m.chans c) h

/-- What of the memory block is on its way: requests, answers and moves. -/
def State.traffic (s : State) : List Req × List Req × List Answer × List Move := (s.mem.inflight, s.mem.held, s.mem.answers, s.mem.moves)

theorem traffic_of_mem {s u : State} (h : u.mem = s.mem) : u.traffic = s.traffic :=
  congrArg (fun m : Mem => (m.inflight, m.held, m.answers, m.moves)) h

theorem chan_updChan (s : State) (c d : Nat) (f : Chan → Chan) : (s.updChan c f).chan d = if d = c then f (s.chan c) else s.chan d :=
  State.chan_setChan _ _ _ _

/-- The error of a channel comes of what stands beside and of the channel's state. -/
theorem chanError_congr {s u : State} {c : Nat} {accepted : Bool} (hb : u.beside = s.beside) (hs : (u.chan c).state = (s.chan c).state) :
    u.chanError c accepted = s.chanError c accepted := by
  have half : u.half = s.half := congrArg (·.2.2.2.2.1) hb
  have pdyn : u.pdyn = s.pdyn := congrArg (·.2.2.2.2.2) hb
  rw [State.chanError, State.chanError, State.halfClosed, State.halfClosed, half, pdyn, hs]

/-- A channel in service is so for requests accepted before, too (R56). -/
theorem chanError_accepted {s : State} {c : Nat} {accepted : Bool} (h : s.chanError c = none) : s.chanError c accepted = none := by
  have closed : s.halfClosed (chanHalf c) = false := by
    rw [State.chanError] at h
    cases hc : s.halfClosed (chanHalf c) with
    | false => rfl
    | true => rw [hc, if_pos rfl] at h; cases h
  have same : s.halfClosed (chanHalf c) accepted = s.halfClosed (chanHalf c) := by
    rw [closed]
    simp only [State.halfClosed, Bool.or_eq_false_iff, decide_eq_false_iff_not] at closed ⊢
    exact ⟨fun on => closed.1 ⟨on.1, by simp⟩, closed.2⟩
  rw [← h, State.chanError, State.chanError, same]

/-! ### The outcome of a transfer (R204, R206, R231) -/

/-- The channel after its transfer has been settled. -/
def Chan.settled (ch : Chan) (sec : Nat) (e : Xfer) (w : Cause) : Chan :=
  match e with
  | .ok => ch
  | .failed => { ch with state := 4 }
  | .mark => if w.counted then ch else ch.countPoison sec w.wr
  | .bond => if w.counted then ch else ch.countPoison sec w.wr

section
variable (s : State) (c sec : Nat) (ch : Chan) (e : Xfer) (data : List (BitVec 8)) (w : Cause)

@[simp] theorem settleXfer_beside : (settleXfer s c sec ch e data w).1.beside = s.beside := by
  have counted (b : Bool) : (if b then s.setChan c ch else (s.setChan c ch).updChan c (fun x => x.countPoison sec w.wr)).beside = s.beside := by
    cases b <;> rfl
  cases e with
  | ok => rfl
  | mark => exact (raise_beside _ _).trans (counted _)
  | bond => exact (raise_beside _ _).trans ((poisonEvent_beside _ _ _ _).trans (counted _))
  | failed => exact (raise_beside _ _).trans (postEvent_posted _ _).beside

theorem settleXfer_chan (d : Nat) : (settleXfer s c sec ch e data w).1.chan d = if d = c then ch.settled sec e w else s.chan d := by
  have counted : (if w.counted then s.setChan c ch else (s.setChan c ch).updChan c (fun x => x.countPoison sec w.wr)).chan d
      = if d = c then (if w.counted then ch else ch.countPoison sec w.wr) else s.chan d := by
    split
    · exact State.chan_setChan _ _ _ _
    · rw [chan_updChan, State.chan_setChan_same, State.chan_setChan]
      split <;> rfl
  cases e with
  | ok => exact State.chan_setChan _ _ _ _
  | mark => exact (chan_of_mem (raise_mem _ _) d).trans counted
  | bond => exact (chan_of_mem ((raise_mem _ _).trans (poisonEvent_mem _ _ _ _)) d).trans counted
  | failed =>
    refine (chan_of_mem ((raise_mem _ _).trans (postEvent_mem _ _)) d).trans ?_
    rw [State.chan_setChan, State.chan_setChan_same, State.chan_setChan]
    split <;> rfl

theorem settleXfer_traffic : (settleXfer s c sec ch e data w).1.traffic = s.traffic := by
  have counted (b : Bool) : (if b then s.setChan c ch else (s.setChan c ch).updChan c (fun x => x.countPoison sec w.wr)).traffic = s.traffic := by
    cases b <;> rfl
  cases e with
  | ok => rfl
  | mark => exact (traffic_of_mem (raise_mem _ _)).trans (counted _)
  | bond => exact (traffic_of_mem ((raise_mem _ _).trans (poisonEvent_mem _ _ _ _))).trans (counted _)
  | failed => exact (traffic_of_mem ((raise_mem _ _).trans (postEvent_mem _ _))).trans rfl

theorem settleXfer_ok : settleXfer s c sec ch .ok data w = (s.setChan c ch, { status := stOK, data := data }) := rfl

theorem settleXfer_failed (h : e ≠ .failed) : (settleXfer s c sec ch e data w).2.failed = [] := by
  cases e with
  | failed => exact absurd rfl h
  | _ => rfl

end

/-! ### A write on its way to the mirrors of its channel (R397) -/

section
variable {s : State} {c sec i : Nat} {bytes : List (BitVec 8)} {w : Cause}

/-- `v` is `s` with `bytes` in sector `sec` of channel `c`, as far as channels other than those of `ds` go. -/
structure State.Stored (v s : State) (c sec : Nat) (bytes : List (BitVec 8)) (ds : List Nat) : Prop where
  beside : v.beside = s.beside
  holds : (v.chan c).Holds (s.chan c) c sec bytes
  others : ∀ d, d ≠ c → d ∉ ds → v.chan d = s.chan d

/-- A channel that is its own mirror is written once more with what it holds; another one is written over its own bond. -/
theorem forwardTo_stored {v : State} {ds : List Nat} {d : Nat} (hb : bytes.length = 64) (hv : v.Stored s c sec bytes ds) (hd : d ∈ ds) :
    (forwardTo c sec i {} w (v, []) d).1.Stored s c sec bytes ds ∧ (forwardTo c sec i {} w (v, []) d).2 = [] := by
  obtain ⟨hbeside, hholds, hothers⟩ := hv
  have sent : forwardTo c sec i {} w (v, []) d =
      let o := writeSector {} (v.chan d) sec i bytes false
      let e := settleXfer v d sec o.1 o.2 [] { w with counted := false }
      (e.1, e.2.failed) := by
    rw [forwardTo]
    dsimp only
    rw [if_pos hholds.defined, hholds.sector, hholds.marks]
    rfl
  rw [sent]
  dsimp only
  refine ⟨⟨(settleXfer_beside _ _ _ _ _ _ _).trans hbeside, ?_, fun k hk hks => ?_⟩,
    settleXfer_failed _ _ _ _ _ _ _ (writeSector_ne_failed _ _ _ _ rfl)⟩
  · rw [settleXfer_chan]
    split
    · next h =>
      subst h
      rw [writeSector_good _ _ _ _ hholds.inj rfl]
      exact (Chan.holds_store (ch := (v.chan c).resent 0) hholds.inj hb).trans hholds.state hholds.others
    · exact hholds
  · rw [settleXfer_chan, if_neg fun h : k = d => hks (h ▸ hd)]
    exact hothers k hk hks

theorem forward_stored {v : State} (hb : bytes.length = 64) (hv : v.Stored s c sec bytes (v.mirrors c)) :
    (forward v c sec i {} w).1.Stored s c sec bytes (v.mirrors c) ∧ (forward v c sec i {} w).2 = [] := by
  have run : ∀ ks : List Nat, (∀ d ∈ ks, d ∈ v.mirrors c) → ∀ r : State × List Nat, r.1.Stored s c sec bytes (v.mirrors c) → r.2 = [] →
      (ks.foldl (forwardTo c sec i {} w) r).1.Stored s c sec bytes (v.mirrors c) ∧ (ks.foldl (forwardTo c sec i {} w) r).2 = [] := by
    intro ks
    induction ks with
    | nil => exact fun _ r hr hf => ⟨hr, hf⟩
    | cons d ks ih =>
      rintro hks ⟨u, f⟩ hr rfl
      obtain ⟨stored, kept⟩ := forwardTo_stored (i := i) (w := w) hb hr (hks d (.head _))
      exact ih (fun k hk => hks k (.tail _ hk)) _ stored kept
  exact run _ (fun _ h => h) (v, []) hv rfl

theorem homeWrite_good {x : Xmit} {poison : Bool} (he : s.chanError c w.accepted = none) (hf : (s.chan c).fences.contains sec = false)
    (hi : (s.chan c).inj = 0) (hx : x.wrErrs = []) : homeWrite s c sec i bytes poison x w =
    settleWrite s c sec i ((((s.chan c).correct x).resent 0).store sec bytes poison) .ok [] x w := by
  rw [homeWrite, he]
  dsimp only
  rw [hf, if_neg Bool.false_ne_true, writeSector_good _ _ _ _ (show ((s.chan c).correct x).inj = 0 from hi) hx]

theorem Chan.marked_correct (ch : Chan) (x : Xmit) (c sec : Nat) : (ch.correct x).marked c sec = ch.marked c sec := rfl
theorem Chan.sector_correct (ch : Chan) (x : Xmit) (c sec : Nat) : (ch.correct x).sector c sec = ch.sector c sec := rfl

theorem homeRead_good {x : Xmit} (he : s.chanError c w.accepted = none) (hi : (s.chan c).inj = 0) (hx : x.rdErrs = []) :
    homeRead s c sec i x w =
      settleXfer s c sec (((s.chan c).correct x).resent 0) (if (s.chan c).marked c sec then .mark else .ok)
        (if (s.chan c).marked c sec then [] else (s.chan c).sector c sec) w := by
  rw [homeRead, he]
  dsimp only
  rw [readSector_good _ _ _ (show ((s.chan c).correct x).inj = 0 from hi) hx, Chan.marked_correct, Chan.sector_correct]
  split <;> rfl

/-- A whole sector written over a good bond reads back, and nothing but the mirrors of its channel has changed beside it. -/
theorem homeWrite_readsBack {w' : Cause} (hb : bytes.length = 64) (he : s.chanError c = none) (hf : (s.chan c).fences.contains sec = false)
    (hi : (s.chan c).inj = 0) : ∃ u, homeWrite s c sec i bytes false {} w = (u, { status := stOK })
      ∧ (homeRead u c sec i {} w').2 = { status := stOK, data := bytes }
      ∧ (∀ k, k ≠ sec → (u.chan c).sector c k = (s.chan c).sector c k ∧ (u.chan c).marked c k = (s.chan c).marked c k)
      ∧ (∀ d, d ≠ c → (∀ m, m ∈ s.mem.moves → m.src = c → m.done = true → m.dst ≠ d) → u.chan d = s.chan d) ∧ u.cores = s.cores := by
  generalize hch : (((s.chan c).correct {}).resent 0).store sec bytes false = ch
  have holds : ch.Holds (s.chan c) c sec bytes := hch ▸ (Chan.holds_store (ch := ((s.chan c).correct {}).resent 0) hi hb).trans rfl fun _ _ => ⟨rfl, rfl⟩
  have written : (s.setChan c ch).Stored s c sec bytes ((s.setChan c ch).mirrors c) :=
    ⟨rfl, (State.chan_setChan_same _ _ _).symm ▸ holds, fun d hd _ => State.chan_setChan_other _ _ _ _ hd⟩
  obtain ⟨⟨hbeside, hholds, hothers⟩, hfailed⟩ := forward_stored (i := i) (w := w) hb written
  refine ⟨(forward (s.setChan c ch) c sec i {} w).1, ?_, ?_, hholds.others, fun d hd hm => hothers d hd fun mirror => ?_, congrArg (·.1) hbeside⟩
  · rw [homeWrite_good (chanError_accepted he) hf hi rfl, hch]
    exact Prod.ext rfl (congrArg (fun l => ({ status := stOK, failed := l } : HomeOutcome)) hfailed)
  · have marked := (Chan.marked_of_defined (c := c) hholds.defined).trans hholds.marks
    rw [homeRead_good ((chanError_congr hbeside hholds.state).trans (chanError_accepted he)) hholds.inj rfl, marked, hholds.sector]
    rfl
  · obtain ⟨m, hmem, rfl⟩ := List.mem_map.1 mirror
    obtain ⟨hmoves, hruns⟩ := List.mem_filter.1 hmem
    simp only [Bool.and_eq_true, beq_iff_eq] at hruns
    exact hm m hmoves hruns.1.1.1 hruns.1.1.2 rfl

end

/-! ### The end of a scrub (R220, R221, R434, R528) -/

/-- The channel's sectors are zero, and SCRUB_DONE is posted. -/
def scrubEnded (s : State) (c us k : Nat) : State :=
  postEvent (raise (s.setChan c { (s.chan c).scrubbedClean with state := 0, initiator := none, clean := true }) (0x0C0 + c))
    { type := 0x0233, source := chanUnit c, object := c, detail := detail [(16, 4, us), (20, 1, k)] }

section
variable {s : State} {c us k : Nat}

theorem endScrub_eq (hs : (s.chan c).state = 2) (hb : (s.chan c).bist = false) (hi : (s.chan c).initiator = some k) :
    endScrub s c us = scrubbedFor (teardownScrubbed (scrubEnded s c us k) c) c := by
  unfold endScrub
  dsimp only
  rw [hi]
  dsimp only
  rw [if_pos (by simp [hs, hb])]
  rfl

theorem endScrub_ignored (h : (s.chan c).state ≠ 2 ∨ (s.chan c).bist = true ∨ (s.chan c).initiator = none) : endScrub s c us = s := by
  unfold endScrub
  dsimp only
  split
  · rfl
  · next k hi =>
    refine if_neg fun on => ?_
    simp only [Bool.and_eq_true, decide_eq_true_eq, Bool.not_eq_true'] at on
    obtain h | h | h := h
    · exact h on.1
    · exact Bool.false_ne_true (on.2.symm.trans h)
    · exact Option.some_ne_none k (hi.symm.trans h)

theorem scrubEnded_chan (d : Nat) : (scrubEnded s c us k).chan d =
    if d = c then { (s.chan c).scrubbedClean with state := 0, initiator := none, clean := true } else s.chan d :=
  (chan_of_mem ((postEvent_mem _ _).trans (raise_mem _ _)) d).trans (State.chan_setChan _ _ _ _)

theorem scrubEnded_beside : (scrubEnded s c us k).beside = s.beside := (postEvent_posted _ _).beside.trans (raise_beside _ _)

theorem Posted.intSrc {s u : State} (h : Posted s u) (i : Nat) : u.intSrc i = s.intSrc i := by
  obtain ⟨_, _, _, _, _, _, _, _, _, _, rfl⟩ := h; rfl

theorem scrubEnded_pend (hc : c < 128) : ((scrubEnded s c us k).intSrc (0x0C0 + c)).pend = true := by
  rw [scrubEnded, (postEvent_posted _ _).intSrc]
  refine raise_pend _ ?_
  have low : 0x0C0 + c < 0x158 := by omega
  simp [intAssigned, low]

/-- Nobody waits for the channel's scrub: no descriptor and no teardown. -/
theorem scrubEnded_alone (hq : ∀ e, e ∈ s.que.sqs → ∀ d, d ∈ e.2.descs → d.scrubs.contains c = false)
    (ht : ∀ l t, (s.slot l).teardown = some t → t.scrubs.contains c = false) :
    scrubbedFor (teardownScrubbed (scrubEnded s c us k) c) c = scrubEnded s c us k := by
  have raised (t : State) (i : Nat) : (raise t i).teardowns = t.teardowns := by unfold raise; split <;> rfl
  have queues : (scrubEnded s c us k).que.sqs = s.que.sqs := by rw [scrubEnded, (postEvent_posted _ _).sqs, (raise_rest _ _).2.2]; rfl
  have slots : (scrubEnded s c us k).teardowns = s.teardowns := by rw [scrubEnded, postEvent_teardowns, raised]; rfl
  rw [teardownScrubbed_none fun l t h => ht l t ((congrFun slots l).symm.trans h), scrubbedFor_none (queues ▸ hq)]

theorem scrubbedClean_sector {ch : Chan} {st : Nat} (sec : Nat) :
    ({ ch.scrubbedClean with state := st, initiator := none, clean := true } : Chan).sector c sec = List.replicate 64 0 :=
  (if_pos rfl).trans (Cells.readN_nil _ _)

end

end Sys2Proof.Machine
end

section
/-! A channel's service of a request (R36, R205, R212, R213, R221, R231, R438), and of a task's request of one sector; O8, which says it, what reads
back and how a scrub ends. -/

namespace Sys2Proof.Machine

/-! ### A channel performs a request (R36, R212, R213, R438) -/

section
variable {s : State} {rid : Nat} {r : Req} {c off : Nat} {part : BitVec 4} {x : Xmit}

theorem channelRequest_exec (hf : s.flying rid = some r) (hp : r.place = .chan c off) (hk : r.kind.isFence = false) :
    exec (.channelRequest ⟨rid, part⟩ x) s = .next (channelRequest s r c off part x) := by
  show execChannelRequest ⟨rid, part⟩ x s = _
  rw [execChannelRequest, hf]
  dsimp only
  rw [hp]
  exact congrArg Host.Outcome.next (if_neg (by rw [hk]; exact Bool.false_ne_true))

theorem channelRequest_elsewhere (h : ∀ r c off, s.flying rid = some r → r.place = .chan c off → r.kind.isFence = true) :
    exec (.channelRequest ⟨rid, part⟩ x) s = .next s := by
  show execChannelRequest ⟨rid, part⟩ x s = _
  rw [execChannelRequest]
  refine congrArg Host.Outcome.next ?_
  split
  · rfl
  · next r hr =>
    split
    · next c off hp => exact if_pos (h r c off hr hp)
    · rfl

theorem channelRequest_refused {st : Nat} (he : s.chanError c r.accepted = some st) :
    channelRequest s r c off part x = refuseReq s r st (chanUnit c) := by
  rw [channelRequest, he]

theorem refuseReq_turn {st unit : Nat} (hw : s.wholeFree r = true) : refuseReq s r st unit =
    concludeReq (r.enter (if st = stPARKED then countParked s unit else s)) r st [] (parkedUnit st unit) := if_pos hw

theorem refuseReq_waits {st unit : Nat} (hw : s.wholeFree r = false) : refuseReq s r st unit = s :=
  if_neg (by rw [hw]; exact Bool.false_ne_true)

/-- The state in which the arbiter of channel `c` picks a pair (R438). -/
def State.arbitrated (s : State) (c : Nat) : State := ageCredits s.takeFree.2 (chanUnit c) 0 (Config.arbiterNs s.takeFree.1)

/-- Whether it picks the pair of a request. -/
def State.picks (s : State) (r : Req) (c : Nat) : Bool := (s.arbitrated c).servesPair r c (decide (1024 ≤ Config.waitSeen s.takeFree.1))

theorem channelRequest_open (he : s.chanError c r.accepted = none) : channelRequest s r c off part x =
    if (s.toServe r off part).isEmpty || !s.picks r c then s
    else
      match r.reach s.takeFree.1 with
      | none => poolProgress (expireReq (s.arbitrated c) r)
      | some r1 =>
        let o := serveSectors ((s.arbitrated c).updChan c (fun ch => ch.correct x)) r1 off (performSector c off { x with corrected := 0 })
          (s.toServe r off part)
        poolProgress (o.2.foldl channelFailed o.1) := by
  rw [channelRequest, he]
  rfl

section
variable (he : s.chanError c r.accepted = none)
include he

theorem channelRequest_waits (h : s.toServe r off part = [] ∨ s.picks r c = false) : channelRequest s r c off part x = s := by
  rw [channelRequest_open he]
  refine if_pos ?_
  obtain h | h := h <;> simp [h]

variable (hi : s.toServe r off part ≠ []) (ha : s.picks r c = true)
include hi ha

theorem channelRequest_expired (hr : r.reach s.takeFree.1 = none) :
    channelRequest s r c off part x = poolProgress (expireReq (s.arbitrated c) r) := by
  rw [channelRequest_open he, if_neg (by simp [hi, ha]), hr]

theorem channelRequest_served {r1 : Req} {o : State × List Nat} (hr : r.reach s.takeFree.1 = some r1)
    (ho : o = serveSectors ((s.arbitrated c).updChan c (fun ch => ch.correct x)) r1 off (performSector c off { x with corrected := 0 })
      (s.toServe r off part)) : channelRequest s r c off part x = poolProgress (o.2.foldl channelFailed o.1) := by
  rw [channelRequest_open he, if_neg (by simp [hi, ha]), hr, ho]

end

end

/-! ### A task's request of one whole sector (R36, R206, R213, R231) -/

/-- A task's request of one whole sector of channel `c`, from byte `off`, that has not begun. -/
structure Req.OfSector (r : Req) (off : Nat) : Prop where
  src : ∃ tid seq row p, r.src = .op tid seq row p
  dropped : r.dropped = false
  aligned : off % 64 = 0
  len : r.len = 64
  parts : r.parts = []
  bad : r.bad = none

/-- Nothing waits for a request to be performed. -/
structure State.NoneWaits (s : State) : Prop where
  held : s.mem.held = []
  ending : s.que.ending = []
  revoking : s.pool.revoking = none
  role : s.pool.state ≠ 3
  moves : s.mem.moves = []

/-- `u` is `s` with the request answered to the core that sent it, and with channel `c` as `ch`. -/
structure State.AnsweredAs (u s : State) (r : Req) (status : Nat) (data : List (BitVec 8)) (c : Nat) (ch : Chan) : Prop where
  answer : ∃ a, u.mem.answers = s.mem.answers ++ [a] ∧ a.req.rid = r.rid ∧ a.req.src = r.src ∧ a.status = status ∧ a.data = data
  inflight : u.mem.inflight = s.mem.inflight.filter (fun y => y.rid != r.rid)
  beside : u.beside = s.beside
  chan : u.chan c = ch
  others : ∀ d, d ≠ c → u.chan d = s.chan d

theorem releaseHeld_none {s : State} (h : s.mem.held = []) : releaseHeld s = s := if_pos (by rw [h]; rfl)

theorem settleEndings_none {s : State} (h : s.que.ending = []) : settleEndings s = s := by
  rw [settleEndings, h]
  rfl

theorem poolProgress_idle {s : State} (hr : s.pool.revoking = none) (hs : s.pool.state ≠ 3) : poolProgress s = s := by
  rw [poolProgress, hr]
  exact if_neg hs

/-- An answer waits to be delivered to its core. -/
def State.withAnswer (s : State) (a : Answer) : State := { s with mem := { s.mem with answers := s.mem.answers ++ [a] } }

/-- The end of a task's request is its answer alone. -/
theorem concludeReq_task {s : State} {r : Req} {tid seq row p : Nat} (hs : r.src = .op tid seq row p) (hd : r.dropped = false)
    (hh : s.mem.held = []) (he : s.que.ending = []) (status : Nat) (data : List (BitVec 8)) (unit : Option Nat) :
    ∃ a, a.req = r ∧ a.status = status ∧ a.data = data ∧ (concludeReq s r status data unit).beside = s.beside
      ∧ (concludeReq s r status data unit).mem =
        { s.mem with inflight := s.mem.inflight.filter (fun y => y.rid != r.rid), answers := s.mem.answers ++ [a] } := by
  rw [concludeReq]
  dsimp only
  generalize hv : noteDrained _ r = v
  have vmem : v.mem = (takeReq s r.rid).mem := by rw [← hv, noteDrained_mem, Req.cross_mem]
  have vbeside : v.beside = s.beside := by rw [← hv, noteDrained_beside, cross_beside]; rfl
  generalize ha : ({ req := r, status := status, data := data, unit := unit, from' := r.dest } : Answer) = a
  have told : answer v r status data unit = releaseHeld ((countAborted v r status).withAnswer a) := by
    rw [answer, hd, hs, ← ha]
    rfl
  have mem : (countAborted v r status).mem = (takeReq s r.rid).mem := (countAborted_mem v r status).trans vmem
  have beside : (countAborted v r status).beside = s.beside := (countAborted_beside v r status).trans vbeside
  have held : ((countAborted v r status).withAnswer a).mem.held = [] := (congrArg Mem.held mem).trans hh
  have ending : ((countAborted v r status).withAnswer a).que.ending = [] := (congrArg (·.2.2.1) beside).trans he
  rw [told, releaseHeld_none held, settleEndings_none ending]
  refine ⟨a, by rw [← ha], by rw [← ha], by rw [← ha], beside, ?_⟩
  rw [State.withAnswer, mem]
  rfl

section
variable {s : State} {r : Req} {c off : Nat} {x : Xmit}

theorem Req.OfSector.places (hr : r.OfSector off) : r.places off = [0] := by
  rw [places_eq, sectorsOf, List.length_map, upto, List.length_range, hr.len, hr.aligned]
  rfl

theorem Req.OfSector.toServe {part : BitVec 4} (hr : r.OfSector off) (h : s.toServe r off part ≠ []) : s.toServe r off part = [0] := by
  have named : (r.places off).filter (fun i => part.getLsbD i && !r.parts.any (fun p => p.1 == i) && s.lineFree r i) ≠ [] := h
  rw [State.toServe]
  rw [hr.places] at named ⊢
  exact List.filter_eq_self.2 fun i hi => Classical.byContradiction fun hn => named (List.filter_eq_nil_iff.2 fun j hj => by
    rw [List.mem_singleton.1 hi] at hn
    rwa [List.mem_singleton.1 hj])

theorem Req.OfSector.span (hr : r.OfSector off) : sectorSpan off r.len 0 = (0, 64) := by
  rw [sectorSpan, hr.len, hr.aligned]
  rfl

theorem Req.OfSector.cause (hr : r.OfSector off) : r.cause.counted = false := by
  rw [Req.cause, hr.bad]
  rfl

/-- The sector performed, the request is answered with what came of it. -/
theorem Req.OfSector.serve {v : State} {f : State → Req → Nat → State × HomeOutcome} {o : State × HomeOutcome} (hr : r.OfSector off)
    (ho : o = f (r.enter v) r 0) : ∃ r' : Req, r'.rid = r.rid ∧ r'.src = r.src ∧ r'.dropped = r.dropped
      ∧ serveSectors v r off f [0] = (concludeReq o.1 r' o.2.status o.2.data none, o.2.failed) := by
  refine ⟨r.served 0 o.2, rfl, rfl, rfl, ?_⟩
  have places : (r.served 0 o.2).places off = [0] := hr.places
  have parts : (r.served 0 o.2).parts = [(0, o.2.data)] := by rw [Req.served, hr.parts]; rfl
  have whole : (r.served 0 o.2).whole off = true := by rw [Req.whole, places, parts]; rfl
  have status : (r.served 0 o.2).bad.getD stOK = o.2.status := by
    rw [Req.served, hr.bad]
    by_cases ok : o.2.status = stOK <;> simp [ok]
  have data : (r.served 0 o.2).result = o.2.data :=
    (result_of_places (k := 1) (d := fun _ => o.2.data) (by decide) parts).trans (List.append_nil _)
  rw [serveSectors, ← ho, serveSectors, if_pos whole, status, data, List.append_nil]

/-- A sector performed without a channel's failing answers the task. -/
theorem answers_task {part : BitVec 4} {ch : Chan} {o : State × HomeOutcome} (hr : r.OfSector off) (hs : s.NoneWaits)
    (he : s.chanError c r.accepted = none) (hi : s.toServe r off part ≠ []) (ha : s.picks r c = true)
    (ho : o = performSector c off { x with corrected := 0 } (r.enter ((s.arbitrated c).updChan c (fun ch => ch.correct x))) r 0)
    (hbeside : o.1.beside = s.beside) (htraffic : o.1.traffic = s.traffic) (hfailed : o.2.failed = [])
    (hchan : ∀ d, o.1.chan d = if d = c then ch else s.chan d) :
    ∃ u, channelRequest s r c off part x = u ∧ u.AnsweredAs s r o.2.status o.2.data c ch := by
  obtain ⟨tid, seq, row, p, hsrc⟩ := hr.src
  obtain ⟨r', hrid, hsrc', hdropped, served⟩ := hr.serve ho
  have reach : r.reach s.takeFree.1 = some r := by rw [Req.reach, hsrc]
  have held : o.1.mem.held = [] := (congrArg (·.2.1) htraffic).trans hs.held
  have ending : o.1.que.ending = [] := (congrArg (·.2.2.1) hbeside).trans hs.ending
  obtain ⟨a, hreq, hstatus, hdata, cbeside, cmem⟩ := concludeReq_task (hsrc'.trans hsrc) (hdropped.trans hr.dropped) held ending
    o.2.status o.2.data none
  have pool : (concludeReq o.1 r' o.2.status o.2.data none).pool = s.pool := congrArg (·.2.2.2.1) (cbeside.trans hbeside)
  have eq : channelRequest s r c off part x = concludeReq o.1 r' o.2.status o.2.data none := by
    rw [channelRequest_served he hi ha reach rfl, hr.toServe hi, served, hfailed]
    exact poolProgress_idle (pool ▸ hs.revoking) (pool ▸ hs.role)
  have chan (d : Nat) : (concludeReq o.1 r' o.2.status o.2.data none).chan d = if d = c then ch else s.chan d := by
    rw [← hchan d, State.chan, cmem]
    rfl
  refine ⟨_, eq, ⟨a, ?_, by rw [hreq, hrid], by rw [hreq, hsrc'], hstatus, hdata⟩, ?_, cbeside.trans hbeside, by rw [chan, if_pos rfl],
    fun d hd => by rw [chan, if_neg hd]⟩
  · rw [cmem, show o.1.mem.answers = s.mem.answers from congrArg (·.2.2.1) htraffic]
  · rw [cmem, hrid, show o.1.mem.inflight = s.mem.inflight from congrArg (·.1) htraffic]

/-! What a sector comes to -/

theorem Chan.correct_again (ch : Chan) : (ch.correct x).correct { x with corrected := 0 } = ch.correct x := by
  have same (n : Nat) : satAdd 32 (satAdd 32 n x.corrected) 0 = satAdd 32 n x.corrected := by
    unfold satAdd
    repeat' split
    all_goals omega
  rw [Chan.correct, Chan.correct]
  exact congrArg (fun n => ({ ch with corr := n } : Chan)) (same ch.corr)

theorem Req.OfSector.piece (hr : r.OfSector off) (hd : r.data.length = 64) : r.piece off 0 = r.data := by
  rw [Req.piece, hr.span]
  exact List.take_of_length_le (Nat.le_of_eq hd)

theorem performSector_read {v : State} (hr : r.OfSector off) (hk : r.kind = .read) : performSector c off x v r 0 =
    let o := homeRead v c (off / 64) 0 x r.cause
    (noteChannel o.1 r c 64 (o.2.status == stOK), { o.2 with data := o.2.data.take 64 }) := by
  rw [performSector, hr.span, hk]
  rfl

theorem performSector_write {v : State} (hr : r.OfSector off) (hk : r.kind = .write false) (hd : r.data.length = 64) :
    performSector c off x v r 0 =
      let o := homeWrite v c (off / 64) 0 r.data false x r.cause
      (noteChannel o.1 r c 64 (o.2.status == stOK), o.2) := by
  rw [performSector, hr.span, hk, hr.piece hd]
  dsimp only
  rw [homeStore, if_pos hd]
  rfl

/-- The state in which the sectors of a request come to its channel. -/
def State.reached (s : State) (r : Req) (c : Nat) (x : Xmit) : State := r.enter ((s.arbitrated c).updChan c (fun ch => ch.correct x))

theorem reached_beside : (s.reached r c x).beside = s.beside := enter_beside _ _

theorem reached_traffic : (s.reached r c x).traffic = s.traffic := (traffic_of_mem (enter_mem _ _)).trans rfl

theorem reached_chan (d : Nat) : (s.reached r c x).chan d = if d = c then (s.chan c).correct x else s.chan d :=
  (chan_of_mem (enter_mem _ _) d).trans (chan_updChan _ _ _ _)

theorem reached_chan_same : (s.reached r c x).chan c = (s.chan c).correct x := (reached_chan c).trans (if_pos rfl)

theorem reached_chanError (he : s.chanError c r.accepted = none) : (s.reached r c x).chanError c r.cause.accepted = none := by
  refine (chanError_congr reached_beside ?_).trans he
  rw [reached_chan, if_pos rfl]
  rfl

section
variable {part : BitVec 4} (hr : r.OfSector off) (hs : s.NoneWaits) (he : s.chanError c r.accepted = none) (hi : s.toServe r off part ≠ [])
  (ha : s.picks r c = true)
include hr hs he hi ha

/-- A transfer that is settled without the channel's failing answers the task. -/
theorem answers_settled {ch : Chan} {e : Xfer} {data : List (BitVec 8)} {status : Nat} (hne : e ≠ .failed)
    (hp : performSector c off { x with corrected := 0 } (s.reached r c x) r 0 =
      let o := settleXfer (s.reached r c x) c (off / 64) ch e data r.cause
      (noteChannel o.1 r c 64 (o.2.status == stOK), o.2))
    (hst : (settleXfer (s.reached r c x) c (off / 64) ch e data r.cause).2.status = status) :
    ∃ u, channelRequest s r c off part x = u
      ∧ u.AnsweredAs s r status (settleXfer (s.reached r c x) c (off / 64) ch e data r.cause).2.data c (ch.settled (off / 64) e r.cause) := by
  subst hst
  have served := answers_task (x := x) (ch := ch.settled (off / 64) e r.cause) hr hs he hi ha hp.symm
  refine served ((noteChannel_beside _ _ _ _ _).trans ((settleXfer_beside _ _ _ _ _ _ _).trans reached_beside))
    ((traffic_of_mem (noteChannel_mem _ _ _ _ _)).trans ((settleXfer_traffic _ _ _ _ _ _ _).trans reached_traffic))
    (settleXfer_failed _ _ _ _ _ _ _ hne) fun d => ?_
  refine (chan_of_mem (noteChannel_mem _ _ _ _ _) d).trans ((settleXfer_chan _ _ _ _ _ _ _ d).trans ?_)
  split
  · rfl
  · next h => rw [reached_chan, if_neg h]

section
variable (hinj : (s.chan c).inj = 0)
include hinj

theorem task_reads (hk : r.kind = .read) (hx : x.rdErrs = []) :
    ∃ u, channelRequest s r c off part x = u ∧
      if (s.chan c).marked c (off / 64) then
        u.AnsweredAs s r stPOISON [] c ((((s.chan c).correct x).resent 0).countPoison (off / 64) false)
      else u.AnsweredAs s r stOK ((s.chan c).sector c (off / 64)) c (((s.chan c).correct x).resent 0) := by
  have read := homeRead_good (i := 0) (sec := off / 64) (x := { x with corrected := 0 }) (reached_chanError (x := x) he)
    (reached_chan_same ▸ hinj) hx
  rw [reached_chan_same, Chan.correct_again, Chan.marked_correct, Chan.sector_correct] at read
  have performed := performSector_read (c := c) (x := { x with corrected := 0 }) (v := s.reached r c x) hr hk
  rw [read] at performed
  cases hm : (s.chan c).marked c (off / 64) with
  | true =>
    rw [hm] at performed
    obtain ⟨u, eq, answered⟩ := answers_settled hr hs he hi ha (e := .mark) (by decide) performed rfl
    have counted : (((s.chan c).correct x).resent 0).settled (off / 64) .mark r.cause
        = (((s.chan c).correct x).resent 0).countPoison (off / 64) false := by
      rw [Chan.settled, hr.cause, Req.cause, hk]
      rfl
    exact ⟨u, eq, counted ▸ answered⟩
  | false =>
    have whole : ((s.chan c).sector c (off / 64)).take 64 = (s.chan c).sector c (off / 64) :=
      List.take_of_length_le (Nat.le_of_eq (Chan.sector_length _ _ _))
    rw [hm, if_neg Bool.false_ne_true, if_neg Bool.false_ne_true, settleXfer_ok] at performed
    dsimp only at performed
    rw [whole] at performed
    exact answers_settled hr hs he hi ha (e := .ok) (by decide) performed rfl

theorem task_writes (hk : r.kind = .write false) (hd : r.data.length = 64) (hx : x.wrErrs = [])
    (hf : (s.chan c).fences.contains (off / 64) = false) :
    ∃ u, channelRequest s r c off part x = u
      ∧ u.AnsweredAs s r stOK [] c ((((s.chan c).correct x).resent 0).store (off / 64) r.data false) := by
  have write := homeWrite_good (i := 0) (sec := off / 64) (bytes := r.data) (poison := false) (x := { x with corrected := 0 })
    (reached_chanError (x := x) he) (reached_chan_same ▸ hf) (reached_chan_same ▸ hinj) hx
  rw [reached_chan_same, Chan.correct_again] at write
  have performed := performSector_write (c := c) (x := { x with corrected := 0 }) (v := s.reached r c x) hr hk hd
  rw [write] at performed
  refine answers_settled hr hs he hi ha (e := .ok) (by decide) (performed.trans ?_) rfl
  have alone (v : State) (hv : v.traffic = s.traffic) (sec i : Nat) (y : Xmit) (w : Cause) : forward v c sec i y w = (v, []) := by
    have moves : v.mem.moves = [] := (congrArg (·.2.2.2) hv).trans hs.moves
    rw [forward, State.mirrors, moves]
    rfl
  rw [settleWrite, alone _ ((settleXfer_traffic _ _ _ _ _ _ _).trans reached_traffic)]
  rfl

end

theorem task_denied (hk : r.kind = .write false) (hd : r.data.length = 64) (hf : (s.chan c).fences.contains (off / 64) = true) :
    ∃ u, channelRequest s r c off part x = u ∧ u.AnsweredAs s r stDENIED [] c ((s.chan c).correct x) := by
  have write : homeWrite (s.reached r c x) c (off / 64) 0 r.data false { x with corrected := 0 } r.cause
      = (s.reached r c x, { status := stDENIED }) := by
    rw [homeWrite, reached_chanError he]
    exact if_pos (reached_chan_same ▸ hf)
  have performed := performSector_write (c := c) (x := { x with corrected := 0 }) (v := s.reached r c x) hr hk hd
  rw [write] at performed
  refine answers_task (x := x) hr hs he hi ha performed.symm ((noteChannel_beside _ _ _ _ _).trans reached_beside)
    ((traffic_of_mem (noteChannel_mem _ _ _ _ _)).trans reached_traffic) rfl fun d => ?_
  exact (chan_of_mem (noteChannel_mem _ _ _ _ _) d).trans (reached_chan d)

end

end

/-- Settles O8: a written sector by `homeWrite_readsBack`, a request by `channelRequest_open`, one of a task by what its sector comes to (`task_reads`,
`task_writes`, `task_denied`), and the end of a scrub by `endScrub_eq`. -/
theorem dramAnswersWhatItHolds : Obligations.DramAnswersWhatItHolds := by
  refine ⟨fun s c sec i w w' bytes hb he hf hi => homeWrite_readsBack hb he hf hi,
    fun s rid part x => ⟨fun r c off hf hp hk => ⟨fun st he => ⟨fun hw => ?turn, fun hw => ?blocked⟩, fun he k s' s1 is hfree his hs1 => ?served⟩,
      channelRequest_elsewhere⟩, fun s c us => ⟨fun k hs hb hi w hw => ?scrub, fun h => congrArg _ (endScrub_ignored h)⟩⟩
  case turn => rw [channelRequest_exec hf hp hk, channelRequest_refused he, refuseReq_turn hw]
  case blocked => rw [channelRequest_exec hf hp hk, channelRequest_refused he, refuseReq_waits hw]
  case served =>
    obtain ⟨rfl, rfl⟩ : s.takeFree.1 = k ∧ s.takeFree.2 = s' := ⟨congrArg Prod.fst hfree, congrArg Prod.snd hfree⟩
    obtain rfl : s1 = s.arbitrated c := hs1
    subst his
    rw [channelRequest_exec hf hp hk]
    refine ⟨fun h => congrArg _ (channelRequest_waits he h), fun hne ha => ⟨fun hr => congrArg _ (channelRequest_expired he hne ha hr),
      fun r1 o hr ho => congrArg _ (channelRequest_served he hne ha hr ho), ?_⟩⟩
    intro tid seq row p hsrc hd hoff hlen hparts hbad hinj hrd hwr hheld hend hrev hrole hmoves answered
    have sector : r.OfSector off := ⟨⟨tid, seq, row, p, hsrc⟩, hd, hoff, hlen, hparts, hbad⟩
    have idle : s.NoneWaits := ⟨hheld, hend, hrev, hrole, hmoves⟩
    have rid_eq : r.rid = rid := by simpa using List.find?_some hf
    have told {status : Nat} {data : List (BitVec 8)} {ch : Chan}
        (h : ∃ u, channelRequest s r c off part x = u ∧ u.AnsweredAs s r status data c ch) :
        ∃ u, answered status data u ∧ u.chan c = ch := by
      obtain ⟨u, eq, ⟨a, hanswers, hrid, hsrc, hstatus, hdata⟩, hinflight, hbeside, hchan, hothers⟩ := h
      exact ⟨u, ⟨congrArg _ eq, ⟨a, hanswers, hrid.trans rid_eq, hsrc, hstatus, hdata⟩, rid_eq ▸ hinflight, congrArg (·.1) hbeside,
        congrArg (·.2.1) hbeside, hothers⟩, hchan⟩
    have reads (hk : r.kind = .read) := task_reads sector idle he hne ha hinj hk hrd
    refine ⟨fun hk hm => told ?_, fun hk hm => told ?_, fun hk hdata hfence => told (task_writes sector idle he hne ha hinj hk hdata hwr hfence),
      fun hk hdata hfence => told (task_denied sector idle he hne ha hk hdata hfence)⟩
    · obtain ⟨u, eq, h⟩ := reads hk
      rw [hm, if_neg Bool.false_ne_true] at h
      exact ⟨u, eq, h⟩
    · obtain ⟨u, eq, h⟩ := reads hk
      rw [hm, if_pos rfl] at h
      exact ⟨u, eq, h⟩
  case scrub =>
    obtain rfl : w = scrubEnded s c us.toNat k := hw
    have eq : exec (.scrubComplete c us) s = .next (scrubbedFor (teardownScrubbed (scrubEnded s c us.toNat k) c) c) :=
      congrArg _ (endScrub_eq hs hb hi)
    have chan : (scrubEnded s c us.toNat k).chan c = { (s.chan c).scrubbedClean with state := 0, initiator := none, clean := true } := by
      rw [scrubEnded_chan, if_pos rfl]
    refine ⟨eq, fun sec => ?_, by rw [chan], by rw [chan], scrubEnded_pend c.isLt, fun d hd => by rw [scrubEnded_chan, if_neg hd],
      congrArg (·.1) scrubEnded_beside, congrArg (·.2.1) scrubEnded_beside, fun hq ht => eq.trans (congrArg _ (scrubEnded_alone hq ht))⟩
    rw [chan]
    exact ⟨scrubbedClean_sector sec, rfl⟩

end Sys2Proof.Machine
end

section
/-! Range invalidation and fault resolution (R289 to R292, R296, R297): what a queue that is brought as far as it comes leaves alone, what
dropping ranges leaves in the buffers and caches, and O16, which says how RANGE_INVAL and FAULT_RESOLVE begin and end. -/

namespace Sys2Proof.Machine

/-! ### What a queue leaves alone on its way -/

/-- What RANGE_INVAL works on: the cores with their near range buffers, the tasks, the far caches and walks, and the invalidations that run. -/
def State.rangeView (s : State) : SMap Core × List Task × Xlt × List Inval := (s.cores, s.tasks, s.xlt, s.fnc.invals)

theorem Posted.rangeView {s u : State} (h : Posted s u) : u.rangeView = s.rangeView := by
  obtain ⟨_, _, _, _, _, _, _, _, _, _, rfl⟩ := h
  rfl

theorem core_of_cores {s u : State} (h : u.cores = s.cores) (n : Nat) : u.core n = s.core n := by
  rw [State.core, State.core, h]

theorem ite_rangeView {c : Prop} [Decidable c] {s t u : State} (ht : t.rangeView = s.rangeView) (hu : u.rangeView = s.rangeView) :
    (if c then t else u).rangeView = s.rangeView := by
  split
  · exact ht
  · exact hu

/-- Steps that each leave a part of the state alone leave it alone together. -/
theorem forAll_const {α β : Type} (g : State → β) {f : State → α → State} (hf : ∀ t x, g (f t x) = g t) (l : List α) (s : State) :
    g (s.forAll l f) = g s := by
  induction l generalizing s with
  | nil => rfl
  | cons x l ih => exact (ih _).trans (hf s x)

@[simp] theorem fresh_rangeView (s : State) : s.fresh.2.rangeView = s.rangeView := rfl
@[simp] theorem updDesc_rangeView (s : State) (q idx : Nat) (f : Desc → Desc) : (s.updDesc q idx f).rangeView = s.rangeView := rfl
@[simp] theorem setDyn_rangeView (s : State) (p : Nat) (d : PortDyn) : (s.setDyn p d).rangeView = s.rangeView := rfl
@[simp] theorem updDyn_rangeView (s : State) (p : Nat) (f : PortDyn → PortDyn) : (s.updDyn p f).rangeView = s.rangeView := rfl
@[simp] theorem setCq_rangeView (s : State) (i : Nat) (x : CqRing) : (s.setCq i x).rangeView = s.rangeView := rfl
@[simp] theorem updSq_rangeView (s : State) (q : Nat) (f : Sq → Sq) : (s.updSq q f).rangeView = s.rangeView := rfl
@[simp] theorem freeSlots_rangeView (s : State) (q n : Nat) : (freeSlots s q n).rangeView = s.rangeView := rfl
@[simp] theorem drainQueue_rangeView (s : State) (q : Nat) : (drainQueue s q).rangeView = s.rangeView := rfl
@[simp] theorem raise_rangeView (s : State) (i : Nat) : (raise s i).rangeView = s.rangeView := by
  unfold raise
  split <;> rfl
@[simp] theorem emit_rangeView (s : State) (f : Nat) (r : Ring) (irq : Bool) (x : Record) (facet : Nat) :
    (emit s f r irq x facet).rangeView = s.rangeView := (emit_posted _ _ _ _ _ _).rangeView
@[simp] theorem postEvent_rangeView (s : State) (x : Record) : (postEvent s x).rangeView = s.rangeView := (postEvent_posted _ _).rangeView
@[simp] theorem crossSeam_rangeView (s : State) (l f ctx a b n : Nat) : (crossSeam s l f ctx a b n).rangeView = s.rangeView := by
  unfold crossSeam
  split
  · rfl
  · exact (noteGrant_posted _ _ _ _ _ _ _).rangeView.trans (charge_posted _ _ _ _).rangeView
@[simp] theorem noteOwn_rangeView (s : State) (l : Labels) (c n : Nat) (ok : Bool) : (noteOwn s l c n ok).rangeView = s.rangeView := by
  have granted : (noteGrant (crossSeam s l.locket l.facet l.ctx l.half (chanHalf c) n) l.locket l.facet 64 (chanUnit c) 0 n).rangeView
      = s.rangeView := (noteGrant_posted _ _ _ _ _ _ _).rangeView.trans (crossSeam_rangeView _ _ _ _ _ _ _)
  unfold noteOwn
  dsimp only
  split
  · exact (charge_posted _ _ _ _).rangeView.trans granted
  · exact granted

/-! Packets -/

@[simp] theorem grantPair_rangeView (s : State) (pair unit dir n : Nat) : (grantPair s pair unit dir n).rangeView = s.rangeView := by
  unfold grantPair
  dsimp only
  repeat' split
  all_goals rfl
@[simp] theorem countExpired_rangeView (s : State) (p : Nat) : (countExpired s p).rangeView = s.rangeView := by
  unfold countExpired countEdge
  dsimp only
  split
  · simp
  · rfl
@[simp] theorem txFlit_rangeView (s : State) (p wait k i : Nat) (q : Queued) : (txFlit s p wait k i q).rangeView = s.rangeView := by
  unfold txFlit
  exact ite_rangeView (countExpired_rangeView _ _) (grantPair_rangeView _ _ _ _ _)
@[simp] theorem txPump_rangeView (s : State) (p wait fuel : Nat) : (txPump s p wait fuel).rangeView = s.rangeView := by
  induction fuel generalizing s with
  | zero => rfl
  | succ fuel ih =>
    unfold txPump
    split
    · rfl
    · dsimp only
      split
      · rfl
      · split
        · rfl
        · rw [ih, txFlit_rangeView]
          rfl
@[simp] theorem enqueue_rangeView (s : State) (p vc budget resid pair : Nat) (bytes : List (BitVec 8)) :
    (enqueue s p vc budget resid pair bytes).rangeView = s.rangeView := by simp [enqueue]
theorem protect_rangeView {s t : State} {p : Nat} {k k1 : Packet} (h : protect s p k = some (t, k1)) : t.rangeView = s.rangeView := by
  unfold protect at h
  split at h
  · cases h
  · dsimp only at h
    split at h <;> cases h
    rfl
@[simp] theorem sendPacket_getD_rangeView (s : State) (p wait : Nat) (k : Packet) :
    ((sendPacket s p wait k).getD s).rangeView = s.rangeView := by
  unfold sendPacket
  split
  · rfl
  · next hp => exact (enqueue_rangeView _ _ _ _ _ _ _).trans ((charge_posted _ _ _ _).rangeView.trans (protect_rangeView hp))
@[simp] theorem track_rangeView (s : State) (p : Nat) (t : Tracked) : (track s p t).rangeView = s.rangeView := by simp [track]
@[simp] theorem sendRequest_rangeView (s : State) (k : Packet) (why : Purpose) : (sendRequest s k why).1.rangeView = s.rangeView := by
  unfold sendRequest
  dsimp only
  repeat' split
  all_goals simp
theorem sendControl_rangeView {s t : State} {l dst : Nat} {payload : List (BitVec 8)} {why : Purpose} {o : SendResult}
    (h : sendControl s l dst payload why = (t, o)) : t.rangeView = s.rangeView := by
  have sent : (sendControl s l dst payload why).1.rangeView = s.rangeView := sendRequest_rangeView _ _ _
  rwa [h] at sent
@[simp] theorem sendAway_rangeView (s : State) (w : Sender) (kind : ReqKind) (dpa len : Nat) (data : List (BitVec 8)) :
    (sendAway s w kind dpa len data).1.rangeView = s.rangeView := by
  unfold sendAway
  dsimp only
  split
  · rfl
  · split
    all_goals
      next h =>
        refine (congrArg (·.1.rangeView) h).symm.trans ((sendRequest_rangeView _ _ _).trans ?_)
        exact crossSeam_rangeView _ _ _ _ _ _ _

/-! Fence records and completions -/

@[simp] theorem settleXfer_rangeView (s : State) (c sec : Nat) (ch : Chan) (e : Xfer) (data : List (BitVec 8)) (w : Cause) :
    (settleXfer s c sec ch e data w).1.rangeView = s.rangeView := by
  have counted (b : Bool) :
      (if b then s.setChan c ch else (s.setChan c ch).updChan c (fun x => x.countPoison sec w.wr)).rangeView = s.rangeView := by
    cases b <;> rfl
  cases e with
  | ok => rfl
  | mark => exact (raise_rangeView _ _).trans (counted _)
  | bond => exact (raise_rangeView _ _).trans ((postEvent_rangeView _ _).trans (counted _))
  | failed => exact (raise_rangeView _ _).trans (postEvent_rangeView _ _)
@[simp] theorem homeRead_rangeView (s : State) (c sec i : Nat) (x : Xmit) (w : Cause) : (homeRead s c sec i x w).1.rangeView = s.rangeView := by
  unfold homeRead
  split
  · unfold chanAnswers
    dsimp only
    split <;> rfl
  · exact settleXfer_rangeView _ _ _ _ _ _ _
@[simp] theorem launchReq_rangeView (s : State) (w : Sender) (kind : ReqKind) (place : Place) (dpa len : Nat) (data : List (BitVec 8))
    (set epoch : Nat) : (launchReq s w kind place dpa len data set epoch).rangeView = s.rangeView := by
  unfold launchReq
  exact ite_rangeView rfl rfl
@[simp] theorem completeDesc_rangeView (s : State) (q idx : Nat) : (completeDesc s q idx).rangeView = s.rangeView := by
  unfold completeDesc
  split
  · rfl
  · dsimp only
    split <;> simp
@[simp] theorem signalAway_rangeView (s : State) (q : Nat) (d : Desc) : (signalAway s q d).rangeView = s.rangeView := by
  unfold signalAway
  dsimp only
  split
  all_goals
    next h => simpa using (congrArg (·.1.rangeView) h).symm
@[simp] theorem finishDesc_rangeView (s : State) (q idx status : Nat) (det : BitVec 128) :
    (finishDesc s q idx status det).rangeView = s.rangeView := by
  unfold finishDesc
  split
  · rfl
  · dsimp only
    split
    · simp
    · split
      · split
        · split <;> simp
        · simp
      · split
        · simp
        · split
          · next h => simp [sendControl_rangeView h]
          · next h => simp [sendControl_rangeView h]
@[simp] theorem readRecord_rangeView (s : State) (l : Labels) (i : Nat) (x : Xmit) : (readRecord s l i x).1.rangeView = s.rangeView := by
  unfold readRecord
  dsimp only
  split <;> simp
@[simp] theorem registerWait_rangeView (s : State) (l : Labels) (i gen value : Nat) (who : WaitFor) (x : Xmit) :
    (registerWait s l i gen value who x).1.rangeView = s.rangeView := by
  have read := readRecord_rangeView s l i x
  unfold registerWait
  dsimp only
  split
  · rfl
  · split
    all_goals
      next h =>
        rw [h] at read
        repeat' split
        all_goals exact read

/-! The queue -/

@[simp] theorem waitOutcome_rangeView (s : State) (q idx out : Nat) : (waitOutcome s q idx out).rangeView = s.rangeView := by
  unfold waitOutcome
  split <;> simp
@[simp] theorem startWait_rangeView (s : State) (q : Nat) (d : Desc) (x : Xmit) : (startWait s q d x).rangeView = s.rangeView := by
  unfold startWait
  split
  · rfl
  · split
    · simp
    · split
      all_goals
        next h => simp [sendControl_rangeView h]
@[simp] theorem refuseDesc_rangeView (s : State) (q idx st : Nat) : (refuseDesc s q idx st).rangeView = s.rangeView := by
  simp [refuseDesc]
@[simp] theorem askFences_rangeView (s : State) (q idx l : Nat) (hs : List Nat) : (askFences s q idx l hs).rangeView = s.rangeView := by
  induction hs generalizing s with
  | nil => rfl
  | cons h hs ih =>
    unfold askFences
    split
    all_goals
      next e => simp [ih, sendControl_rangeView e]
theorem advanceQueue_rangeView (s : State) (q fuel : Nat) : (advanceQueue s q fuel).rangeView = s.rangeView := by
  induction fuel generalizing s with
  | zero => rfl
  | succ fuel ih =>
    unfold advanceQueue
    dsimp only
    repeat' split
    all_goals simp [ih]
theorem settle_rangeView (s : State) (q : Nat) : (settle s q).rangeView = s.rangeView := advanceQueue_rangeView _ _ _

/-! ### Ranges that are dropped (R290, R297) -/

/-- A near buffer without the ranges that `p` picks. -/
def Core.dropNear (p : RangeEnt → Bool) (c : Core) : Core := { c with near := c.near.filter (fun e => !p e) }

theorem Core.dropNear_twice (p : RangeEnt → Bool) (c : Core) : (c.dropNear p).dropNear p = c.dropNear p := by
  simp [Core.dropNear]

theorem core_of_not_mem {s : State} {n : Nat} (h : n ∉ s.cores.map (fun e => e.1)) : s.core n = coreD n := by
  have absent : ∀ m : SMap Core, n ∉ m.map (fun e => e.1) → SMap.get coreD m n = coreD n := by
    intro m
    induction m with
    | nil => exact fun _ => rfl
    | cons e m ih =>
      intro hm
      rw [List.map_cons, List.mem_cons, not_or] at hm
      rw [SMap.get, if_neg (Ne.symm hm.1)]
      exact ih hm.2
  exact absent _ h

theorem forAll_dropNear (p : RangeEnt → Bool) (l : List Nat) (s : State) (n : Nat) :
    (s.forAll l (fun s n => s.updCore n (Core.dropNear p))).core n = if n ∈ l then (s.core n).dropNear p else s.core n := by
  induction l generalizing s with
  | nil => rfl
  | cons k l ih =>
    rw [State.forAll, ih]
    by_cases hk : n = k
    · subst hk
      simp [Core.dropNear_twice]
    · simp [State.core_updCore_other _ _ _ _ hk, hk]

/-- Every core's near buffer loses the ranges; one that holds nothing in the table of cores has an empty buffer. -/
theorem dropRanges_core (s : State) (p : RangeEnt → Bool) (n : Nat) : (dropRanges s p).core n = (s.core n).dropNear p := by
  have dropped : (dropRanges s p).core n = if n ∈ s.cores.map (fun e => e.1) then (s.core n).dropNear p else s.core n :=
    forAll_dropNear p _ s n
  rw [dropped]
  split
  · rfl
  · next h =>
    rw [core_of_not_mem h]
    rfl

/-- Beside the cores, dropping ranges changes the far caches and what copy jobs have translated. -/
theorem dropRanges_rest (s : State) (p : RangeEnt → Bool) : (dropRanges s p).tasks = s.tasks ∧ (dropRanges s p).fnc = s.fnc
    ∧ (dropRanges s p).xlt = { s.xlt with farWest := s.xlt.farWest.filter (fun e => !p e), farEast := s.xlt.farEast.filter (fun e => !p e) } := by
  have same {β : Type} (g : State → β) := forAll_const g (f := fun s n => s.updCore n (Core.dropNear p))
  refine ⟨same (·.tasks) (fun _ _ => rfl) _ _, same (·.fnc) (fun _ _ => rfl) _ _, ?_⟩
  exact congrArg (fun x : Xlt => { x with
    farWest := x.farWest.filter (fun e => !p e), farEast := x.farEast.filter (fun e => !p e) }) (same (·.xlt) (fun _ _ => rfl) _ _)

/-! ### RANGE_INVAL (R296, R297) -/

/-- The ranges that a RANGE_INVAL drops: those of its context, all of them or the ones that its run meets. -/
def Desc.dropsRange (d : Desc) (e : RangeEnt) : Bool := e.ctx == d.context && (bit (d.f 34 1) 0 || e.overlaps (d.f 40 5) (d.f 45 3))

theorem kept_of_mem_filter {d : Desc} {l : List RangeEnt} {e : RangeEnt} (h : e ∈ l.filter (fun e => !d.dropsRange e))
    (hc : e.ctx = d.context) : bit (d.f 34 1) 0 = false ∧ e.overlaps (d.f 40 5) (d.f 45 3) = false := by
  have kept := (List.mem_filter.1 h).2
  simpa [Desc.dropsRange, hc] using kept

/-- A RANGE_INVAL drops its ranges and joins the invalidations that run; then its queue goes on. -/
theorem beginInval_eq (s : State) (q : Nat) (d : Desc) : ∃ v x, beginInval s q d = settle v q ∧ x.q = q ∧ x.idx = d.idx ∧ x.ctx = d.context
    ∧ (∀ n, v.core n = (s.core n).dropNear d.dropsRange) ∧ v.tasks = s.tasks ∧ v.fnc.invals = s.fnc.invals ++ [x]
    ∧ v.xlt.farWest = s.xlt.farWest.filter (fun e => !d.dropsRange e) ∧ v.xlt.farEast = s.xlt.farEast.filter (fun e => !d.dropsRange e) := by
  obtain ⟨htasks, hfnc, hxlt⟩ := dropRanges_rest (beginDesc s q d.idx) d.dropsRange
  have same {β : Type} (g : State → β) := forAll_const g (f := fun s e => s.setWalk e ((s.walk e).map (fun w => { w with stale := true })))
  refine ⟨_, { q := q, idx := d.idx, ctx := d.context, reqs := ?_, walks := ?_, ops := ?_ }, rfl, rfl, rfl, rfl, ?cores,
    (same (·.tasks) (fun _ _ => rfl) _ _).trans htasks, ?invals,
    (same (·.xlt.farWest) (fun _ _ => rfl) _ _).trans (congrArg (·.farWest) hxlt),
    (same (·.xlt.farEast) (fun _ _ => rfl) _ _).trans (congrArg (·.farEast) hxlt)⟩
  case invals => exact congrArg (fun f : Fnc => f.invals ++ _) ((same (·.fnc) (fun _ _ => rfl) _ _).trans hfnc)
  case cores => exact fun n => (core_of_cores (same (·.cores) (fun _ _ => rfl) _ _) n).trans (dropRanges_core _ _ _)

section
variable {s : State} {q : SqIx} {idx : BitVec 32}

theorem rangeInvalComplete_running {x : Inval} (h : s.fnc.invals.find? (fun x => x.q == q.val && x.idx == idx.toNat) = some x) :
    exec (.rangeInvalComplete q idx) s = .next (if s.invalDone x then
      endDesc { s with fnc := { s.fnc with invals := s.fnc.invals.filter (fun y => !(y.q == x.q && y.idx == x.idx)) } } q x.idx stOK 0
      else s) := by
  change execRangeInvalComplete q idx s = _
  rw [execRangeInvalComplete, h]
theorem rangeInvalComplete_unknown (h : s.fnc.invals.find? (fun x => x.q == q.val && x.idx == idx.toNat) = none) :
    exec (.rangeInvalComplete q idx) s = .next s := by
  change execRangeInvalComplete q idx s = _
  rw [execRangeInvalComplete, h]

end

/-! ### Descriptors that are ready -/

theorem withReady_some {s : State} {q op : Nat} {f : Desc → State} {d : Desc} (h : s.ready q op = some d) : withReady s q op f = f d := by
  rw [withReady, h]
theorem withReady_none {s : State} {q op : Nat} {f : Desc → State} (h : s.ready q op = none) : withReady s q op f = s := by
  rw [withReady, h]

/-! ### FAULT_RESOLVE (R289 to R292) -/

theorem resolveFault_stale {s : State} {q : Nat} {d : Desc} {action : Nat} (h : s.faultNamed q (d.f 32 4) = none) :
    resolveFault s q d action = endDesc { s with xlt := { s.xlt with stale := satAdd 16 s.xlt.stale 1 } } q d.idx stSTALE 0 := by
  rw [resolveFault, h]

theorem resolveFault_outstanding {s : State} {q : Nat} {d : Desc} {action : Nat} {o : OutEnt} (h : s.faultNamed q (d.f 32 4) = some o) :
    resolveFault s q d action = endDesc (jobPumpAll
      ((if action = 0 then
          dropRanges (endEntries s (fun x => x.entry == o.entry)) (fun e => e.ctx == o.fault.ctx && e.overlaps (vaGranule o.fault.va) 0)
        else endEntries s (fun x => x.entry == o.entry)).forAll o.waiters
        (fun s w => if action = 0 then retryWaiter s w else errorWaiter s w))) q d.idx stOK 0 := by
  rw [resolveFault, h]

section
variable {s : State} {q : SqIx} {d : Desc}

theorem faultResolveRetry_ready (h : s.ready q 0x19 = some d) :
    exec (.faultResolveRetry q) s = .next (if bits (d.f 36 1) 0 2 = 0 then resolveFault s q d 0 else s) :=
  congrArg Host.Outcome.next (withReady_some h)
theorem faultResolveError_ready (h : s.ready q 0x19 = some d) :
    exec (.faultResolveError q) s = .next (if bits (d.f 36 1) 0 2 = 1 then resolveFault s q d 1 else s) :=
  congrArg Host.Outcome.next (withReady_some h)

/-- A FAULT_RESOLVE whose action is the command's does what its action says. -/
theorem faultResolve_ready {act : Nat} {go : Res} (h : s.ready q 0x19 = some d) (hact : act = bits (d.f 36 1) 0 2)
    (hgo : (act = 0 ∧ go = exec (.faultResolveRetry q) s) ∨ (act = 1 ∧ go = exec (.faultResolveError q) s)) :
    go = .next (resolveFault s q d act) := by
  obtain ⟨rfl, rfl⟩ | ⟨rfl, rfl⟩ := hgo
  · rw [faultResolveRetry_ready h, if_pos hact.symm]
  · rw [faultResolveError_ready h, if_pos hact.symm]

end

/-- Settles O16: a RANGE_INVAL begins as `beginInval_eq` says and its queue goes on without touching what it did (`settle_rangeView`); the rest
follows the branches of the commands. -/
theorem faultsAreResolved : Obligations.FaultsAreResolved := by
  refine fun s q idx => ⟨fun d hd => ?begins, fun h => congrArg _ (withReady_none h), fun x hx => ⟨fun hdone => ?waits, fun hdone => ?ends⟩,
    rangeInvalComplete_unknown, fun d act hd hact => ⟨fun go hgo => ⟨fun h => ?stale, fun o h => ?resolved⟩, fun h => ?notRetry, fun h => ?notError⟩,
    fun h => ⟨congrArg _ (withReady_none h), congrArg _ (withReady_none h)⟩⟩
  case begins =>
    obtain ⟨v, x, eq, hq, hidx, hctx, hcore, htasks, hinvals, hwest, heast⟩ := beginInval_eq s q d
    have kept := settle_rangeView v q
    have core (n : Nat) : ((settle v q).core n) = (s.core n).dropNear d.dropsRange := (core_of_cores (congrArg (·.1) kept) n).trans (hcore n)
    simp only [State.rangeView, Prod.mk.injEq] at kept
    obtain ⟨-, ktasks, kxlt, kinvals⟩ := kept
    refine ⟨settle v q, congrArg Host.Outcome.next ((withReady_some hd).trans eq), fun n e he => ?_, fun e he => ?_,
      ⟨x, ?_, hq, hidx, hctx⟩, fun n => ?_, ktasks.trans htasks⟩
    · rw [core n] at he
      exact kept_of_mem_filter he
    · rw [kxlt, hwest, heast] at he
      exact he.elim kept_of_mem_filter kept_of_mem_filter
    · rw [kinvals, hinvals]
      exact List.mem_append_right _ (.head _)
    · rw [core n]
      exact ⟨rfl, rfl⟩
  case waits => rw [rangeInvalComplete_running hx, if_neg (by rw [hdone]; decide)]
  case ends => rw [rangeInvalComplete_running hx, if_pos hdone]
  case stale => rw [faultResolve_ready hd hact hgo, resolveFault_stale h]
  case resolved => rw [faultResolve_ready hd hact hgo, resolveFault_outstanding h]
  case notRetry => rw [faultResolveRetry_ready hd, if_neg (hact ▸ h)]
  case notError => rw [faultResolveError_ready hd, if_neg (hact ▸ h)]

end Sys2Proof.Machine
end

section
/-! What stands apart from queues, packets, requests and reports (`State.apart`): no operation on them, no sector's transfer and no record's write
changes it; and no queue that goes on, no wait that is released and no fence that is errored changes the table of fences. -/

namespace Sys2Proof.Machine

/-! ### What queues, packets, records and reports leave alone -/

/-- What stands apart from queues, packets, requests, the sectors of DRAM, and what is reported or counted: every other part of the state. -/
def State.apart (s : State) : State :=
  { s with mesh := {}, mem := {}, que := {}, lkt := {}, trb := {}, int := {}, mgt := {}, mgt2 := {}, freeCtr := 0, nextId := 0
           fnc := { s.fnc with ctxs := [] } }

theorem Posted.apart {s u : State} (h : Posted s u) : u.apart = s.apart := by
  obtain ⟨_, _, _, _, _, _, _, _, _, _, rfl⟩ := h
  rfl

theorem fences_of_apart {s u : State} (h : u.apart = s.apart) : u.fnc.fences = s.fnc.fences := congrArg (·.fnc.fences) h

theorem fence_of_fences {s u : State} (h : u.fnc.fences = s.fnc.fences) (k : Nat) : u.fence k = s.fence k :=
  congrArg (fun m => SMap.get fenceD m k) h

theorem ite_apart {c : Prop} [Decidable c] {s t u : State} (ht : t.apart = s.apart) (hu : u.apart = s.apart) :
    (if c then t else u).apart = s.apart := by
  split
  · exact ht
  · exact hu

@[simp] theorem fresh_apart (s : State) : s.fresh.2.apart = s.apart := rfl
@[simp] theorem updDesc_apart (s : State) (q idx : Nat) (f : Desc → Desc) : (s.updDesc q idx f).apart = s.apart := rfl
@[simp] theorem setChan_apart (s : State) (c : Nat) (x : Chan) : (s.setChan c x).apart = s.apart := rfl
@[simp] theorem updChan_apart (s : State) (c : Nat) (f : Chan → Chan) : (s.updChan c f).apart = s.apart := rfl
@[simp] theorem updDyn_apart (s : State) (p : Nat) (f : PortDyn → PortDyn) : (s.updDyn p f).apart = s.apart := rfl
@[simp] theorem setDyn_apart (s : State) (p : Nat) (d : PortDyn) : (s.setDyn p d).apart = s.apart := rfl
@[simp] theorem setCq_apart (s : State) (i : Nat) (x : CqRing) : (s.setCq i x).apart = s.apart := rfl
@[simp] theorem drainQueue_apart (s : State) (q : Nat) : (drainQueue s q).apart = s.apart := rfl
@[simp] theorem raise_apart (s : State) (i : Nat) : (raise s i).apart = s.apart := ite_apart rfl rfl
@[simp] theorem emit_apart (s : State) (f : Nat) (r : Ring) (irq : Bool) (x : Record) (facet : Nat) :
    (emit s f r irq x facet).apart = s.apart := (emit_posted _ _ _ _ _ _).apart
@[simp] theorem postEvent_apart (s : State) (x : Record) : (postEvent s x).apart = s.apart := (postEvent_posted _ _).apart
@[simp] theorem crossSeam_apart (s : State) (l f ctx a b n : Nat) : (crossSeam s l f ctx a b n).apart = s.apart :=
  ite_apart rfl ((noteGrant_posted _ _ _ _ _ _ _).apart.trans (charge_posted _ _ _ _).apart)
@[simp] theorem noteOwn_apart (s : State) (l : Labels) (c n : Nat) (ok : Bool) : (noteOwn s l c n ok).apart = s.apart := by
  have granted : (noteGrant (crossSeam s l.locket l.facet l.ctx l.half (chanHalf c) n) l.locket l.facet 64 (chanUnit c) 0 n).apart
      = s.apart := (noteGrant_posted _ _ _ _ _ _ _).apart.trans (crossSeam_apart _ _ _ _ _ _ _)
  exact ite_apart ((charge_posted _ _ _ _).apart.trans granted) granted
@[simp] theorem regressEvent_apart (s : State) (r : Req) (old : FenceRec) : (regressEvent s r old).apart = s.apart := postEvent_apart _ _

/-! Sectors at their home -/

@[simp] theorem chanAnswers_apart (s : State) (c st : Nat) : (chanAnswers s c st).1.apart = s.apart := ite_apart rfl rfl
@[simp] theorem settleXfer_apart (s : State) (c sec : Nat) (ch : Chan) (e : Xfer) (data : List (BitVec 8)) (w : Cause) :
    (settleXfer s c sec ch e data w).1.apart = s.apart := by
  have counted : (if w.counted then s.setChan c ch else (s.setChan c ch).updChan c (fun x => x.countPoison sec w.wr)).apart = s.apart :=
    ite_apart rfl rfl
  cases e with
  | ok => rfl
  | mark => exact (raise_apart _ _).trans counted
  | bond => exact (raise_apart _ _).trans ((postEvent_apart _ _).trans counted)
  | failed => exact (raise_apart _ _).trans (postEvent_apart _ _)
@[simp] theorem homeRead_apart (s : State) (c sec i : Nat) (x : Xmit) (w : Cause) : (homeRead s c sec i x w).1.apart = s.apart := by
  unfold homeRead
  split
  · exact chanAnswers_apart _ _ _
  · exact settleXfer_apart _ _ _ _ _ _ _
theorem forwardTo_apart (c sec i : Nat) (x : Xmit) (w : Cause) (r : State × List Nat) (d : Nat) :
    (forwardTo c sec i x w r d).1.apart = r.1.apart := by
  unfold forwardTo
  dsimp only
  split
  · exact settleXfer_apart _ _ _ _ _ _ _
  · rfl
@[simp] theorem forward_apart (s : State) (c sec i : Nat) (x : Xmit) (w : Cause) : (forward s c sec i x w).1.apart = s.apart := by
  have run (l : List Nat) (r : State × List Nat) : (l.foldl (forwardTo c sec i x w) r).1.apart = r.1.apart := by
    induction l generalizing r with
    | nil => rfl
    | cons d l ih => exact (ih _).trans (forwardTo_apart _ _ _ _ _ _ _)
  exact run _ _
@[simp] theorem settleWrite_apart (s : State) (c sec i : Nat) (ch : Chan) (e : Xfer) (ret : List (BitVec 8)) (x : Xmit) (w : Cause) :
    (settleWrite s c sec i ch e ret x w).1.apart = s.apart := (forward_apart _ _ _ _ _ _).trans (settleXfer_apart _ _ _ _ _ _ _)
@[simp] theorem modifySector_apart (s : State) (c sec i : Nat)
    (fn : List (BitVec 8) → Option (List (BitVec 8)) × List (BitVec 8)) (x : Xmit) (w : Cause) :
    (modifySector s c sec i fn x w).1.apart = s.apart := by
  unfold modifySector
  dsimp only
  repeat' split
  all_goals simp

/-- A channel with the fence mark of a sector set or cleared. -/
def Chan.markFor (sec : Nat) (b : Bool) (h : Chan) : Chan := { h with fences := setPut b sec h.fences }

theorem markFence_eq (s : State) (c sec : Nat) (b : Bool) :
    markFence s c sec b = s.forAll (c :: s.mirrors c) (fun s c => s.updChan c (Chan.markFor sec b)) := rfl

@[simp] theorem markFence_apart (s : State) (c sec : Nat) (b : Bool) : (markFence s c sec b).apart = s.apart :=
  (congrArg State.apart (markFence_eq s c sec b)).trans (forAll_const State.apart (fun t d => updChan_apart t d (Chan.markFor sec b)) _ _)
@[simp] theorem performFence_apart (s : State) (r : Req) (c off : Nat) (x : Xmit) : (performFence s r c off x).1.apart = s.apart := by
  unfold performFence
  dsimp only
  repeat' split
  all_goals simp
@[simp] theorem readRecord_apart (s : State) (l : Labels) (i : Nat) (x : Xmit) : (readRecord s l i x).1.apart = s.apart := by
  unfold readRecord
  dsimp only
  split <;> simp
@[simp] theorem writeRecord_apart (s : State) (c off : Nat) (r : FenceRec) (x : Xmit) (w : Cause) :
    (writeRecord s c off r x w).1.apart = s.apart := by
  unfold writeRecord
  split <;> simp

/-! Packets -/

@[simp] theorem grantPair_apart (s : State) (pair unit dir n : Nat) : (grantPair s pair unit dir n).apart = s.apart := by
  unfold grantPair
  dsimp only
  repeat' split
  all_goals rfl
@[simp] theorem countExpired_apart (s : State) (p : Nat) : (countExpired s p).apart = s.apart := by
  unfold countExpired countEdge
  exact ite_apart (raise_apart _ _) rfl
@[simp] theorem txFlit_apart (s : State) (p wait k i : Nat) (q : Queued) : (txFlit s p wait k i q).apart = s.apart :=
  ite_apart (countExpired_apart _ _) (grantPair_apart _ _ _ _ _)
@[simp] theorem txPump_apart (s : State) (p wait fuel : Nat) : (txPump s p wait fuel).apart = s.apart := by
  induction fuel generalizing s with
  | zero => rfl
  | succ fuel ih =>
    unfold txPump
    split
    · rfl
    · dsimp only
      split
      · rfl
      · split
        · rfl
        · exact (ih _).trans (txFlit_apart _ _ _ _ _ _)
@[simp] theorem enqueue_apart (s : State) (p vc budget resid pair : Nat) (bytes : List (BitVec 8)) :
    (enqueue s p vc budget resid pair bytes).apart = s.apart := by simp [enqueue]
theorem protect_apart {s t : State} {p : Nat} {k k1 : Packet} (h : protect s p k = some (t, k1)) : t.apart = s.apart := by
  unfold protect at h
  split at h
  · cases h
  · dsimp only at h
    split at h <;> cases h
    rfl
@[simp] theorem sendPacket_getD_apart (s : State) (p wait : Nat) (k : Packet) : ((sendPacket s p wait k).getD s).apart = s.apart := by
  unfold sendPacket
  split
  · rfl
  · next hp => exact (enqueue_apart _ _ _ _ _ _ _).trans ((charge_posted _ _ _ _).apart.trans (protect_apart hp))
@[simp] theorem track_apart (s : State) (p : Nat) (t : Tracked) : (track s p t).apart = s.apart := by simp [track]
@[simp] theorem sendRequest_apart (s : State) (k : Packet) (why : Purpose) : (sendRequest s k why).1.apart = s.apart := by
  unfold sendRequest
  dsimp only
  repeat' split
  all_goals simp
@[simp] theorem sendTagged_apart (s : State) (tag dst : Nat) (payload : List (BitVec 8)) (why : Purpose) :
    (sendTagged s tag dst payload why).1.apart = s.apart := sendRequest_apart _ _ _
theorem sendControl_apart {s t : State} {l dst : Nat} {payload : List (BitVec 8)} {why : Purpose} {o : SendResult}
    (h : sendControl s l dst payload why = (t, o)) : t.apart = s.apart :=
  (congrArg (·.1.apart) h).symm.trans (sendTagged_apart _ _ _ _ _)
@[simp] theorem sendAway_apart (s : State) (w : Sender) (kind : ReqKind) (dpa len : Nat) (data : List (BitVec 8)) :
    (sendAway s w kind dpa len data).1.apart = s.apart := by
  unfold sendAway
  dsimp only
  split
  · rfl
  · split
    all_goals
      next h => exact (congrArg (·.1.apart) h).symm.trans ((sendRequest_apart _ _ _).trans (crossSeam_apart _ _ _ _ _ _ _))

/-! Descriptors -/

@[simp] theorem launchReq_apart (s : State) (w : Sender) (kind : ReqKind) (place : Place) (dpa len : Nat) (data : List (BitVec 8))
    (set epoch : Nat) : (launchReq s w kind place dpa len data set epoch).apart = s.apart := ite_apart rfl rfl
@[simp] theorem completeDesc_apart (s : State) (q idx : Nat) : (completeDesc s q idx).apart = s.apart := by
  unfold completeDesc
  split
  · rfl
  · exact ite_apart rfl (emit_apart _ _ _ _ _ _)
@[simp] theorem signalAway_apart (s : State) (q : Nat) (d : Desc) : (signalAway s q d).apart = s.apart := by
  unfold signalAway
  dsimp only
  split
  all_goals
    next h => simpa using (congrArg (·.1.apart) h).symm
@[simp] theorem finishDesc_apart (s : State) (q idx status : Nat) (det : BitVec 128) : (finishDesc s q idx status det).apart = s.apart := by
  unfold finishDesc
  split
  · rfl
  · refine ite_apart (completeDesc_apart _ _ _) (ite_apart (ite_apart ?own (completeDesc_apart _ _ _)) (ite_apart (signalAway_apart _ _ _) ?asked))
    case own =>
      split
      · exact launchReq_apart _ _ _ _ _ _ _ _ _
      · exact completeDesc_apart _ _ _
    case asked =>
      split
      all_goals
        next h => simp [sendControl_apart h]
@[simp] theorem waitOutcome_apart (s : State) (q idx out : Nat) : (waitOutcome s q idx out).apart = s.apart := by
  unfold waitOutcome
  split <;> simp
@[simp] theorem refuseDesc_apart (s : State) (q idx st : Nat) : (refuseDesc s q idx st).apart = s.apart := finishDesc_apart _ _ _ _ _
@[simp] theorem askFences_apart (s : State) (q idx l : Nat) (hs : List Nat) : (askFences s q idx l hs).apart = s.apart := by
  induction hs generalizing s with
  | nil => rfl
  | cons h hs ih =>
    unfold askFences
    split
    all_goals
      next e => simp [ih, sendControl_apart e]

/-! ### Waits -/

/-- A registration adds to the waits alone, or counts that it found no place (R369, R371). -/
@[simp] theorem registerWait_fences (s : State) (l : Labels) (i gen value : Nat) (who : WaitFor) (x : Xmit) :
    (registerWait s l i gen value who x).1.fnc.fences = s.fnc.fences := by
  have read := fences_of_apart (readRecord_apart s l i x)
  unfold registerWait
  dsimp only
  split
  · rfl
  · split
    all_goals
      next h =>
        rw [h] at read
        repeat' split
        all_goals exact read
@[simp] theorem startWait_fences (s : State) (q : Nat) (d : Desc) (x : Xmit) : (startWait s q d x).fnc.fences = s.fnc.fences := by
  unfold startWait
  split
  · rfl
  · split
    · exact (fences_of_apart (waitOutcome_apart _ _ _ _)).trans (registerWait_fences _ _ _ _ _ _ _)
    · split
      · next h => exact fences_of_apart ((updDesc_apart _ _ _ _).trans (sendControl_apart h))
      · next h => exact fences_of_apart ((finishDesc_apart _ _ _ _ _).trans (sendControl_apart h))

@[simp] theorem advanceQueue_fences (s : State) (q fuel : Nat) : (advanceQueue s q fuel).fnc.fences = s.fnc.fences := by
  have refused (t : State) (idx st : Nat) := fences_of_apart (refuseDesc_apart t q idx st)
  have asked (t : State) (idx l : Nat) (hs : List Nat) := fences_of_apart (askFences_apart t q idx l hs)
  have updated (t : State) (idx : Nat) (f : Desc → Desc) := fences_of_apart (updDesc_apart t q idx f)
  induction fuel generalizing s with
  | zero => rfl
  | succ fuel ih =>
    unfold advanceQueue
    dsimp only
    repeat' split
    all_goals simp [ih, refused, asked, updated]

/-- A queue that goes on makes and ends no fence. -/
theorem settle_fences (s : State) (q : Nat) : (settle s q).fnc.fences = s.fnc.fences := advanceQueue_fences _ _ _

theorem releaseWaits_fences (s : State) (i v : Nat) (errored : Bool) : (releaseWaits s i v errored).fnc.fences = s.fnc.fences := by
  unfold releaseWaits
  refine forAll_const (·.fnc.fences) (fun t w => ?_) _ _
  have raised := fences_of_apart (raise_apart t 0x1A0)
  dsimp only
  split
  · exact (settle_fences _ _).trans ((fences_of_apart (waitOutcome_apart _ _ _ _)).trans raised)
  · exact (fences_of_apart (sendTagged_apart _ _ _ _ _)).trans raised

theorem errorFence_fences (s : State) (i code ctx : Nat) : (errorFence s i code ctx).fnc.fences = s.fnc.fences := by
  unfold errorFence
  dsimp only
  split
  · exact releaseWaits_fences _ _ _ _
  · exact (releaseWaits_fences _ _ _ _).trans (fences_of_apart (performFence_apart _ _ _ _ _))

end Sys2Proof.Machine
end

section
/-! Fences made, destroyed and polled (R364 to R366, R369, R371, R379, R399); O23, which says what each command comes to. -/

namespace Sys2Proof.Machine

/-! ### Fences that are destroyed (R366) -/

section
variable {s : State} {i k : Nat}

theorem destroyFence_fence : (destroyFence s i).fence k = if k = i then { s.fence i with valid := false } else s.fence k := by
  refine Eq.trans ?_ (State.fence_setFence s i _ k)
  unfold destroyFence
  dsimp only
  split
  · rfl
  · exact fence_of_fences (fences_of_apart (markFence_apart _ _ _ _)) k

theorem fenceDestroy_eq {i : FenceIx} (hp : s.pfAnswers = true) (hc : s.fnc.cmd = none) :
    exec (.fenceDestroy i) s = .next (destroyWith s i) := by
  change execFenceDestroy i s = _
  rw [execFenceDestroy, hp, if_pos rfl, destroyCommand, hc]
  rfl

theorem fenceDestroy_ignored {i : FenceIx} (h : s.pfAnswers = false ∨ s.fnc.cmd ≠ none) : exec (.fenceDestroy i) s = .next s := by
  change execFenceDestroy i s = _
  rw [execFenceDestroy, destroyCommand]
  obtain h | h := h
  · rw [h, if_neg Bool.false_ne_true]
  · rw [Option.isSome_iff_ne_none.2 h, if_pos rfl, ite_self]

@[simp] theorem fenceResult_fence (r k : Nat) : (fenceResult s r).fence k = s.fence k := rfl

theorem destroyWith_invalid (hv : (s.fence i).valid = false) : destroyWith s i = fenceResult s 1 := by
  rw [destroyWith, hv]
  rfl

theorem destroyWith_held (hv : (s.fence i).valid = true) (hh : s.heldAt (s.fence i).recOff = true) :
    destroyWith s i = holdFence s (.destroy i) := by
  rw [destroyWith, hv, hh]
  rfl

theorem destroyWith_free (hv : (s.fence i).valid = true) (hh : s.heldAt (s.fence i).recOff = false) :
    destroyWith s i = fenceResult (destroyFence (errorFence s i stABORTED noCtx) i) 0 := by
  rw [destroyWith, hv, hh]
  rfl

/-- What a destroy leaves of the table: the entry is as it was but no longer valid. -/
theorem destroyed_fence (code ctx : Nat) : (destroyFence (errorFence s i code ctx) i).fence k =
    if k = i then { s.fence i with valid := false } else s.fence k := by
  rw [destroyFence_fence, fence_of_fences (errorFence_fences s i code ctx) i, fence_of_fences (errorFence_fences s i code ctx) k]

end

/-! ### The mark of a fence's sector (R364) -/

theorem Chan.fences_markFor (h : Chan) (sec : Nat) : (h.markFor sec true).fences.contains sec = true :=
  (contains_setIns sec sec h.fences).trans (by rw [beq_self_eq_true, Bool.true_or])

theorem markFence_marks (s : State) (c sec : Nat) : ((markFence s c sec true).chan c).fences.contains sec = true := by
  have step (t : State) (d : Nat) (h : c = d ∨ (t.chan c).fences.contains sec = true) :
      ((t.updChan d (Chan.markFor sec true)).chan c).fences.contains sec = true := by
    rw [chan_updChan]
    split
    · exact Chan.fences_markFor _ _
    · next hd => exact h.resolve_left hd
  have kept (l : List Nat) (t : State) (h : (t.chan c).fences.contains sec = true) :
      ((t.forAll l (fun s c => s.updChan c (Chan.markFor sec true))).chan c).fences.contains sec = true := by
    induction l generalizing t with
    | nil => exact h
    | cons d l ih => exact ih _ (step t d (.inr h))
  rw [markFence_eq]
  exact kept (s.mirrors c) _ (step s c (.inl rfl))

/-! ### The record of a new fence (R362, R365) -/

theorem forward_unmirrored {s : State} {c sec i : Nat} {x : Xmit} {w : Cause} (h : s.mem.moves = []) : forward s c sec i x w = (s, []) := by
  rw [forward, State.mirrors, h]
  rfl

/-- Over a good bond, at a channel in service that has no mirror, the record is written and no channel fails. -/
theorem writeRecord_good {s : State} {c off : Nat} {r : FenceRec} {w : Cause} (he : s.chanError c = none) (hi : (s.chan c).inj = 0)
    (hm : (s.chan c).marked c (off / 64) = false) (hmoves : s.mem.moves = []) : (writeRecord s c off r {} w).2 = { status := stOK } := by
  have read := readSector_good (ch := (s.chan c).correct {}) (x := {}) c (off / 64) 0 hi rfl
  rw [Chan.marked_correct, hm, if_neg Bool.false_ne_true] at read
  rw [writeRecord, he]
  dsimp only
  rw [modifySector, read]
  dsimp only
  rw [writeSector_good _ _ _ _ (show (((s.chan c).correct {}).resent 0).inj = 0 from hi) rfl, settleWrite, settleXfer_ok]
  dsimp only
  rw [forward_unmirrored (s := s.setChan c _) hmoves]
  rfl

/-! ### Fences that are made (R365) -/

/-- The record of a new fence. -/
def newRecord (s : State) (i : Nat) (a : FenceArg) : FenceRec :=
  { v := a.init.toNat, state := 0, regress := false, err := 0, index := i, gen := (s.fence i).gen % 63 + 1, errCtx := noCtx }

/-- The entry of a new fence. -/
def newFence (s : State) (i : Nat) (a : FenceArg) (m : Mapped) : Fence :=
  { valid := true, gen := (s.fence i).gen % 63 + 1, locket := a.locket, sigValid := a.sigValid, sigCtx := a.sigCtx, recOff := a.recOff
    home := (m.c, m.off / 64) }

/-- The write of a new fence's record. -/
def writeNew (s : State) (i : Nat) (a : FenceArg) (m : Mapped) (x : Xmit) : State × HomeOutcome :=
  writeRecord s m.c m.off (newRecord s i a) x { dpa := s.ownDpa a.recOff, access := 2, wr := true }

/-- A create command has made entry `i`: RESULT 0 and the handle of its fence. -/
def answerCreate (s : State) (i : Nat) : State := { s with fnc := { s.fnc with result := 0, handle := s.handleOf i } }

/-- The sector of a record that has been written is marked, and the entry made. -/
def placeFence (s : State) (i : Nat) (f : Fence) (m : Mapped) : State :=
  noteOwn ((markFence s m.c (m.off / 64) true).setFence i f) (fenceLabels noLocket 0) m.c 16 true

/-- The module after a create whose record has been written. -/
def madeFence (s : State) (i : Nat) (a : FenceArg) (m : Mapped) (x : Xmit) : State :=
  answerCreate (placeFence (writeNew s i a m x).1 i (newFence s i a m) m) i

@[simp] theorem answerCreate_result (s : State) (i : Nat) : (answerCreate s i).fnc.result = 0 := rfl
@[simp] theorem answerCreate_handle (s : State) (i : Nat) : (answerCreate s i).fnc.handle = (answerCreate s i).handleOf i := rfl
@[simp] theorem answerCreate_waits (s : State) (i : Nat) : (answerCreate s i).fnc.waits = s.fnc.waits := rfl
@[simp] theorem answerCreate_cores (s : State) (i : Nat) : (answerCreate s i).cores = s.cores := rfl
@[simp] theorem answerCreate_tasks (s : State) (i : Nat) : (answerCreate s i).tasks = s.tasks := rfl
@[simp] theorem answerCreate_fence (s : State) (i k : Nat) : (answerCreate s i).fence k = s.fence k := rfl
@[simp] theorem answerCreate_chan (s : State) (i c : Nat) : (answerCreate s i).chan c = s.chan c := rfl

section
variable {s : State} {i : Nat} {a : FenceArg} {m : Mapped} {x : Xmit} {f : Fence}

theorem writeNew_apart : (writeNew s i a m x).1.apart = s.apart := writeRecord_apart _ _ _ _ _ _

theorem makeFence_failed (h : (writeNew s i a m x).2.status ≠ stOK) :
    makeFence s i a m x = fenceResult ((writeNew s i a m x).2.failed.foldl channelFailed (writeNew s i a m x).1) 6 := if_pos h

theorem makeFence_written (h : (writeNew s i a m x).2.status = stOK) :
    makeFence s i a m x = (writeNew s i a m x).2.failed.foldl channelFailed (madeFence s i a m x) := if_neg (not_not_intro h)

theorem placeFence_fence (k : Nat) : (placeFence s i f m).fence k = if k = i then f else s.fence k := by
  rw [placeFence, fence_of_fences (fences_of_apart (noteOwn_apart _ _ _ _ _)), State.fence_setFence,
    fence_of_fences (fences_of_apart (markFence_apart _ _ _ _))]

theorem placeFence_marks : ((placeFence s i f m).chan m.c).fences.contains (m.off / 64) = true := by
  rw [placeFence, chan_of_mem (noteOwn_mem _ _ _ _ _)]
  exact markFence_marks s m.c (m.off / 64)

/-- Beside the table of fences and the sector's mark, what a command works on is as it was. -/
theorem placeFence_rest : (placeFence s i f m).fnc.waits = s.fnc.waits ∧ (placeFence s i f m).cores = s.cores
    ∧ (placeFence s i f m).tasks = s.tasks := by
  have noted := noteOwn_apart ((markFence s m.c (m.off / 64) true).setFence i f) (fenceLabels noLocket 0) m.c 16 true
  have marked := markFence_apart s m.c (m.off / 64) true
  exact ⟨(congrArg (·.fnc.waits) noted).trans (congrArg (·.fnc.waits) marked), (congrArg (·.cores) noted).trans (congrArg (·.cores) marked),
    (congrArg (·.tasks) noted).trans (congrArg (·.tasks) marked)⟩

theorem madeFence_fence (k : Nat) : (madeFence s i a m x).fence k = if k = i then newFence s i a m else s.fence k := by
  rw [madeFence, answerCreate_fence, placeFence_fence, fence_of_fences (fences_of_apart writeNew_apart)]

theorem madeFence_marks : ((madeFence s i a m x).chan m.c).fences.contains (m.off / 64) = true := by
  rw [madeFence, answerCreate_chan, placeFence_marks]

theorem madeFence_rest : (madeFence s i a m x).fnc.waits = s.fnc.waits ∧ (madeFence s i a m x).cores = s.cores
    ∧ (madeFence s i a m x).tasks = s.tasks := by
  have wrote := writeNew_apart (s := s) (i := i) (a := a) (m := m) (x := x)
  rw [madeFence, answerCreate_waits, answerCreate_cores, answerCreate_tasks]
  obtain ⟨hwaits, hcores, htasks⟩ := placeFence_rest (s := (writeNew s i a m x).1) (i := i) (f := newFence s i a m) (m := m)
  exact ⟨hwaits.trans (congrArg (·.fnc.waits) wrote), hcores.trans (congrArg (·.cores) wrote), htasks.trans (congrArg (·.tasks) wrote)⟩

end

/-! ### The create command (R365, R379, R399) -/

section
variable {s : State} {i : Nat} {a : FenceArg} {x : Xmit}

theorem fenceCreate_eq {i : FenceIx} (hp : s.pfAnswers = true) (hc : s.fnc.cmd = none) :
    exec (.fenceCreate i x) s = .next (createWith s i s.fnc.arg x) := by
  change execFenceCreate i x s = _
  rw [execFenceCreate, hp, if_pos rfl, createFence, hc]
  rfl

theorem fenceCreate_ignored {i : FenceIx} (h : s.pfAnswers = false ∨ s.fnc.cmd ≠ none) : exec (.fenceCreate i x) s = .next s := by
  change execFenceCreate i x s = _
  rw [execFenceCreate, createFence]
  obtain h | h := h
  · rw [h, if_neg Bool.false_ne_true]
  · rw [Option.isSome_iff_ne_none.2 h, if_pos rfl, ite_self]

theorem createWith_refused (h : createResult s i a ≠ 0) : createWith s i a x = fenceResult s (createResult s i a) := if_pos h

theorem createWith_held (h : createResult s i a = 0) (hh : s.heldAt a.recOff = true) :
    createWith s i a x = holdFence s (.create i a x) := (if_neg (not_not_intro h)).trans (if_pos hh)

theorem createWith_makes {m : Mapped} (h : createResult s i a = 0) (hh : s.heldAt a.recOff = false) (hm : s.mapDram a.recOff = some m) :
    createWith s i a x = makeFence s i a m x := by
  rw [createWith, if_neg (not_not_intro h), hh, if_neg Bool.false_ne_true, hm]

/-- A create that passes every condition names a mapped record. -/
theorem mapDram_of_createResult (h : createResult s i a = 0) : s.mapDram a.recOff ≠ none := by
  intro unmapped
  rw [createResult, unmapped] at h
  change (if _ then 1 else if _ then 2 else if (!false || _) = true then 3 else _) = 0 at h
  rw [Bool.not_false, Bool.true_or, if_pos rfl] at h
  split at h
  · cases h
  · split at h <;> cases h

end

/-! ### The poll of a wait (R369, R371) -/

section
variable {s t : State} {q i gen value : Nat} {d : Desc} {x : Xmit} {l : Labels} {who : WaitFor} {c : FenceRec}

theorem fencePoll_idle {q : SqIx} (h : (s.sq q).next = none) : exec (.fencePoll q x) s = .next s := by
  change execFencePoll q x s = _
  rw [execFencePoll, pollFence, h]

theorem fencePoll_waits {q : SqIx} (hn : (s.sq q).next = some d) (h : d.phase ≠ .polling ∨ s.waitHeld q d = true) :
    exec (.fencePoll q x) s = .next s := by
  change execFencePoll q x s = _
  rw [execFencePoll, pollFence, hn]
  exact congrArg _ (if_pos (by simpa using h))

theorem fencePoll_polls {q : SqIx} (hn : (s.sq q).next = some d) (hp : d.phase = .polling) (hh : s.waitHeld q d = false) :
    exec (.fencePoll q x) s = .next (settle (startWait s q d x) q) := by
  change execFencePoll q x s = _
  rw [execFencePoll, pollFence, hn]
  exact congrArg _ (if_neg (by simp [hp, hh]))

/-- A wait on a fence of this module comes to what its registration does. -/
theorem startWait_registers {r : State × Nat} (hw : d.hasWait = true) (hm : handleModule d.waitFence = s.trb.idModule)
    (hr : registerWait s (fenceLabels (s.sq q).locket d.facet) (handleIndex d.waitFence) (handleGen d.waitFence) d.waitValue (.desc q d.idx) x = r) :
    startWait s q d x = waitOutcome r.1 q d.idx r.2 := by
  rw [startWait, hw, if_neg (by decide), if_pos hm, hr]

theorem registerWait_unread (hv : (s.fence i).valid = true) (hg : (s.fence i).gen = gen) (hr : readRecord s l i x = (t, none)) :
    registerWait s l i gen value who x = (t, 4) := by
  simp [registerWait, hv, hg, hr]

theorem registerWait_errored (hv : (s.fence i).valid = true) (hg : (s.fence i).gen = gen) (hr : readRecord s l i x = (t, some c))
    (hc : c.state = 2) : registerWait s l i gen value who x = (t, 3) := by
  simp [registerWait, hv, hg, hr, hc]

theorem registerWait_satisfied (hv : (s.fence i).valid = true) (hg : (s.fence i).gen = gen) (hr : readRecord s l i x = (t, some c))
    (hc : c.state ≠ 2) (hle : value ≤ c.v) : registerWait s l i gen value who x = (t, 2) := by
  simp [registerWait, hv, hg, hr, hc, hle]

theorem registerWait_registers (hv : (s.fence i).valid = true) (hg : (s.fence i).gen = gen) (hr : readRecord s l i x = (t, some c))
    (hc : c.state ≠ 2) (hlt : c.v < value) (hroom : t.fnc.waits.length < 4096) : registerWait s l i gen value who x =
    ({ t with fnc := { t.fnc with waits := t.fnc.waits ++ [{ index := i, value := BitVec.ofNat 64 value, who := who }] } }, 0) := by
  simp [registerWait, hv, hg, hr, hc, Nat.not_le.2 hlt, Nat.not_le.2 hroom]

end

/-- Settles O23: the commands by `createWith`'s and `destroyWith`'s cases, what a create makes by `madeFence`, what a destroy leaves by
`destroyed_fence`, and the poll by what its registration finds. -/
theorem fencesAreMade : Obligations.FencesAreMade := by
  rintro s i q x a rfl
  refine ⟨fun hp hc => ⟨fun h => ?refused, fun h hh => ?held, mapDram_of_createResult, ?made, fun hv => ?unmade,
    fun hv hh => ?waits, fun hv hh => ?destroyed⟩,
    fun h => ⟨fenceCreate_ignored h, fenceDestroy_ignored h⟩, fencePoll_idle, fun d => fencePoll_waits, ?polls⟩
  case refused => rw [fenceCreate_eq hp hc, createWith_refused h]; rfl
  case held => rw [fenceCreate_eq hp hc, createWith_held h hh]; rfl
  case unmade => rw [fenceDestroy_eq hp hc, destroyWith_invalid hv]; rfl
  case waits => rw [fenceDestroy_eq hp hc, destroyWith_held hv hh]; rfl
  case destroyed =>
    have left (k : Nat) : (fenceResult (destroyFence (errorFence s i stABORTED noCtx) i) 0).fence k =
        if k = i.val then { s.fence i with valid := false } else s.fence k := by rw [fenceResult_fence, destroyed_fence]
    have entry := (left i).trans (if_pos rfl)
    refine ⟨_, (fenceDestroy_eq hp hc).trans (congrArg _ (destroyWith_free hv hh)), rfl, ?_, ?_, fun k hk => (left k).trans (if_neg hk), rfl⟩
    all_goals rw [entry]
  case made =>
    rintro m e o y h hh hm rfl rfl rfl
    have made (x : Xmit) : exec (.fenceCreate i x) s = .next (makeFence s i s.fnc.arg m x) :=
      (fenceCreate_eq hp hc).trans (congrArg _ (createWith_makes h hh hm))
    have entry (x : Xmit) : (madeFence s i s.fnc.arg m x).fence i = newFence s i s.fnc.arg m := (madeFence_fence _).trans (if_pos rfl)
    have others (x : Xmit) (k : Nat) (hk : k ≠ i.val) : (madeFence s i s.fnc.arg m x).fence k = s.fence k := (madeFence_fence k).trans (if_neg hk)
    refine ⟨fun hs => ⟨(made x).trans (congrArg _ (makeFence_failed hs)), fence_of_fences (fences_of_apart writeNew_apart) i⟩,
      fun hs => ?_, fun _ he hi hmark _ hmoves => ?_⟩
    · exact ⟨_, (made x).trans (congrArg _ (makeFence_written hs)), answerCreate_result _ _, answerCreate_handle _ _, entry x, others x,
        madeFence_marks, madeFence_rest⟩
    · have good : (writeNew s i s.fnc.arg m {}).2 = { status := stOK } := writeRecord_good he hi hmark hmoves
      have written := makeFence_written (congrArg HomeOutcome.status good)
      rw [good] at written
      exact ⟨_, (made {}).trans (congrArg _ written), answerCreate_result _ _, answerCreate_handle _ _, entry {}, others {}, madeFence_marks⟩
  case polls =>
    rintro d f r hn hp hh rfl rfl
    have polls := fencePoll_polls (x := x) hn hp hh
    refine ⟨polls, fun hw hm hv hg => ?_⟩
    have comes {o : State × Nat} (ho : registerWait s (fenceLabels (s.sq q).locket d.facet) (handleIndex d.waitFence) (handleGen d.waitFence)
        d.waitValue (.desc q d.idx) x = o) : exec (.fencePoll q x) s = .next (settle (waitOutcome o.1 q d.idx o.2) q) := by
      rw [polls, startWait_registers hw hm ho]
    refine ⟨fun hr => comes (registerWait_unread hv hg (Prod.ext rfl hr)), fun c hr => ?_⟩
    have read : readRecord s (fenceLabels (s.sq q).locket d.facet) (handleIndex d.waitFence) x = (_, some c) := Prod.ext rfl hr
    exact ⟨fun hc => comes (registerWait_errored hv hg read hc), fun hc hle => comes (registerWait_satisfied hv hg read hc hle),
      fun hc hlt hroom => comes (registerWait_registers hv hg read hc hlt hroom)⟩

end Sys2Proof.Machine
end

section
/-! SET_SWAP of a Setting (R381 to R410): how it begins, and what step 4 and the start of its moves make of the Setting. -/

namespace Sys2Proof.Machine

/-! ### Step 6 of a swap (R396, R401) -/

/-- Taking a task off its core leaves the Settings and the memory block alone. -/
theorem moveTask_rest (s : State) (t : Task) : (moveTask s t).sets = s.sets ∧ (moveTask s t).mem = s.mem := by
  have walk (u : State) (w : Option Walk) : (u.setWalk t.core w).sets = u.sets ∧ (u.setWalk t.core w).mem = u.mem := ⟨rfl, rfl⟩
  unfold moveTask
  split
  · exact walk _ none
  · exact ⟨rfl, rfl⟩

theorem forAll_moveTask_rest (ts : List Task) (s : State) : (s.forAll ts moveTask).sets = s.sets ∧ (s.forAll ts moveTask).mem = s.mem :=
  ⟨forAll_const (·.sets) (fun u t => (moveTask_rest u t).1) ts s, forAll_const (·.mem) (fun u t => (moveTask_rest u t).2) ts s⟩

theorem setting_of_sets {s u : State} (h : u.sets = s.sets) (k : Nat) : u.setting k = s.setting k := congrArg (fun m => SMap.get settingD m k) h

section
variable (s : State) (i : Nat) (w : Swap)

/-- A Setting whose copies are exchanged (step 4). -/
def Setting.exchanged (x : Setting) : Setting := { x with active := x.shadow, shadow := x.active, epoch := (x.epoch + 1) % 4, phase := 3 }

/-- Step 4: the copies of Setting `i` are exchanged. -/
def exchangeCopies : State := s.setSetting i (s.setting i).exchanged

/-- Steps 4 to 6: the swap `w` takes note of the tasks that begin their switch-out. -/
def switchOver : State := ((exchangeCopies s i).forAll ((exchangeCopies s i).movedTasks i) moveTask).updSetting i
  (fun x => { x with swap := some { w with stepFour := true, tasks := ((exchangeCopies s i).movedTasks i).length } })

variable {s i w}

theorem activateSwap_eq (h : (s.setting i).swap = some w) : activateSwap s i =
    endDesc (switchOver s i w) w.q w.idx stOK (swapDetail 0 (((s.setting i).epoch + 1) % 4) 0xFFFF w.us) := by
  unfold activateSwap
  dsimp only
  split
  · next absent => cases h.symm.trans absent
  · next running =>
    cases h.symm.trans running
    rfl

theorem switchOver_setting (k : Nat) : (switchOver s i w).setting k = if k = i then { (s.setting i).exchanged with
    swap := some { w with stepFour := true, tasks := ((exchangeCopies s i).movedTasks i).length } } else s.setting k := by
  have kept (k : Nat) := setting_of_sets (forAll_moveTask_rest ((exchangeCopies s i).movedTasks i) (exchangeCopies s i)).1 k
  rw [switchOver, State.updSetting, State.setting_setSetting, kept, kept, exchangeCopies, State.setting_setSetting_same,
    State.setting_setSetting]
  split <;> rfl

theorem switchOver_mem : (switchOver s i w).mem = s.mem := (forAll_moveTask_rest _ _).2

end

/-! ### Step 2: the moves start (R397, R398, R400) -/

/-- The moves of a swap of Setting `i`, over the four copy engines. -/
def Setting.moveJobs (x : Setting) (i facet : Nat) : List Move :=
  (x.shadow.moves.zipIdx).map (fun k =>
    { set := i, index := k.1, src := x.active.ch k.1, dst := x.shadow.ch k.1, facet := facet, ce := k.2 % 4 })

section
variable {s : State} {i facet : Nat}

theorem startMoves_none (h : (s.setting i).shadow.moves = []) : startMoves s i facet = activateSwap s i := by
  rw [startMoves, h]
  rfl

theorem moveJobs_noneDown (h : ∀ k ∈ (s.setting i).shadow.moves,
      s.chanDown ((s.setting i).active.ch k) = false ∧ s.chanDown ((s.setting i).shadow.ch k) = false) :
    ((s.setting i).moveJobs i facet).any (fun m => s.chanDown m.src || s.chanDown m.dst) = false := by
  rw [List.any_eq_false]
  intro m hm
  obtain ⟨k, hk, rfl⟩ := List.mem_map.1 hm
  obtain ⟨src, dst⟩ := h k.1 (List.fst_mem_of_mem_zipIdx hk)
  dsimp only
  rw [src, dst]
  decide

theorem startMoves_some (hm : (s.setting i).shadow.moves ≠ []) (h : ∀ k ∈ (s.setting i).shadow.moves,
      s.chanDown ((s.setting i).active.ch k) = false ∧ s.chanDown ((s.setting i).shadow.ch k) = false) :
    startMoves s i facet = ({ s with mem := { s.mem with moves := s.mem.moves ++ (s.setting i).moveJobs i facet } } : State).updSetting i
      (fun x => { x with
        phase := 1, swap := x.swap.map (fun (w : Swap) => { w with moves := ((s.setting i).moveJobs i facet).length }) }) := by
  have some_job : ((s.setting i).moveJobs i facet).isEmpty = false := by
    rw [List.isEmpty_eq_false_iff]
    exact fun e => hm (by simpa [Setting.moveJobs] using e)
  have noneDown := moveJobs_noneDown (facet := facet) h
  unfold startMoves
  change (if ((s.setting i).moveJobs i facet).isEmpty = true then _ else
    if ((s.setting i).moveJobs i facet).any (fun m => s.chanDown m.src || s.chanDown m.dst) = true then _ else _) = _
  rw [some_job, noneDown]
  rfl

end

/-! ### How a SET_SWAP begins (R393, R394, R413, R455, R558) -/

section
variable {s : State} {q : Nat} {d : Desc}

theorem beginSwap_fenced (h : (s.settingLocket 0x20 d.setting).any s.fenced = true) :
    beginSwap s q d = endDesc s q d.idx stSETTING (swapDetail 0 (s.setting d.setting).epoch 0xFFFF 0) := if_pos h

/-- A swap that would bind a core or a channel of a module in the pool role (R413). -/
def SetCopy.bindsHere (n : SetCopy) (s : State) : Prop :=
  n.valid = true ∧ (n.rgnValid = true ∨ ∃ v, v < n.ncore ∧ n.coreModule v = s.trb.idModule)

theorem beginSwap_busy (hf : (s.settingLocket 0x20 d.setting).any s.fenced = false) (h : (s.setting d.setting).shLock = true
      ∨ (s.setting d.setting).phase ≠ 0 ∨ (s.inPool = true ∧ (s.setting d.setting).shadow.bindsHere s)) :
    beginSwap s q d = endDesc s q d.idx stBUSY (swapDetail 0 (s.setting d.setting).epoch 0xFFFF 0) := by
  unfold beginSwap
  refine (if_neg (by rw [hf]; decide)).trans (if_pos ?_)
  obtain h | h | ⟨hp, hv, hb⟩ := h
  · simp [h]
  · simp [h]
  · have mine : (s.setting d.setting).shadow.rgnValid = true ∨ ((upto (s.setting d.setting).shadow.ncore).filter
        (fun v => (s.setting d.setting).shadow.coreModule v == s.trb.idModule)) ≠ [] := by
      refine hb.imp_right fun ⟨v, hlt, hm⟩ => List.ne_nil_of_mem (List.mem_filter.2 ⟨List.mem_range.2 hlt, beq_iff_eq.2 hm⟩)
    rw [hp, hv]
    simp only [Bool.or_eq_true, Bool.and_eq_true, Bool.not_eq_true', List.isEmpty_eq_false_iff, true_and]
    exact .inr (.inl mine)

/-- Neither the Setting nor the module stands in the way of the swap (R393, R413, R455, R558). -/
structure SwapOpen (s : State) (i : Nat) : Prop where
  fenced : (s.settingLocket 0x20 i).any s.fenced = false
  shLock : (s.setting i).shLock = false
  phase : (s.setting i).phase = 0
  inPool : s.inPool = false
  resetting : ∀ n, (s.core n).resetting = false

/-- A Setting whose swap `w` has been accepted: its shadow copy is locked. -/
def Setting.locked (x : Setting) (w : Swap) : Setting := { x with shLock := true, swap := some w }

/-- The swap of a descriptor. -/
def Desc.newSwap (d : Desc) (s : State) (q : Nat) : Swap := { q := q, idx := d.idx, qp := (s.sq q).qp }

/-- The swap has been accepted. -/
def swapBegun (s : State) (q : Nat) (d : Desc) : State := s.setSetting d.setting ((s.setting d.setting).locked (d.newSwap s q))

theorem beginSwap_failed {f : CheckFail} (h : SwapOpen s d.setting) (hc : swapChecks s d.setting (s.setting d.setting).shadow = some f) :
    beginSwap s q d = endDesc s q d.idx f.status (swapDetail f.check (s.setting d.setting).epoch f.entry 0) := by
  unfold beginSwap
  refine (if_neg (by rw [h.fenced]; decide)).trans ((if_neg (by simp [h.shLock, h.phase, h.inPool, h.resetting])).trans ?_)
  rw [hc]

theorem beginSwap_passes (h : SwapOpen s d.setting) (hc : swapChecks s d.setting (s.setting d.setting).shadow = none) :
    beginSwap s q d = startMoves (swapBegun s q d) d.setting d.facet := by
  unfold beginSwap
  refine (if_neg (by rw [h.fenced]; decide)).trans ((if_neg (by simp [h.shLock, h.phase, h.inPool, h.resetting])).trans ?_)
  rw [hc]
  rfl

theorem swapBegun_setting (k : Nat) : (swapBegun s q d).setting k = if k = d.setting then
    (s.setting d.setting).locked (d.newSwap s q) else s.setting k := State.setting_setSetting _ _ _ _

theorem swapBegun_setting_same : (swapBegun s q d).setting d.setting = (s.setting d.setting).locked (d.newSwap s q) :=
  State.setting_setSetting_same _ _ _

/-- A swap with nothing to move goes over to its shadow copy at once. -/
theorem beginSwap_switches (h : SwapOpen s d.setting) (hc : swapChecks s d.setting (s.setting d.setting).shadow = none)
    (hm : (s.setting d.setting).shadow.moves = []) : ∃ v w,
    beginSwap s q d = endDesc v q d.idx stOK (swapDetail 0 (((s.setting d.setting).epoch + 1) % 4) 0xFFFF 0)
    ∧ v.setting d.setting = { (s.setting d.setting).exchanged with shLock := true, swap := some w }
    ∧ (∀ k, k ≠ d.setting → v.setting k = s.setting k) ∧ v.mem = s.mem := by
  have begun := swapBegun_setting_same (s := s) (q := q) (d := d)
  have starts : beginSwap s q d = activateSwap (swapBegun s q d) d.setting :=
    (beginSwap_passes h hc).trans (startMoves_none (by rw [begun]; exact hm))
  have switched := switchOver_setting (s := swapBegun s q d) (i := d.setting) (w := d.newSwap s q) d.setting
  rw [if_pos rfl, begun] at switched
  rw [starts, activateSwap_eq (congrArg Setting.swap begun), begun]
  refine ⟨_, _, rfl, switched, fun k hk => ?_, switchOver_mem⟩
  rw [switchOver_setting, if_neg hk, swapBegun_setting, if_neg hk]

/-- A swap whose sources and destinations have not failed starts its moves. -/
theorem beginSwap_moves (h : SwapOpen s d.setting) (hc : swapChecks s d.setting (s.setting d.setting).shadow = none)
    (hm : (s.setting d.setting).shadow.moves ≠ []) (hd : ∀ k ∈ (s.setting d.setting).shadow.moves,
      s.chanDown ((s.setting d.setting).active.ch k) = false ∧ s.chanDown ((s.setting d.setting).shadow.ch k) = false) : ∃ w,
    (beginSwap s q d).setting d.setting = { s.setting d.setting with phase := 1, shLock := true, swap := some w }
    ∧ (∀ k, k ≠ d.setting → (beginSwap s q d).setting k = s.setting k)
    ∧ (beginSwap s q d).mem = { s.mem with moves := s.mem.moves ++ (s.setting d.setting).moveJobs d.setting d.facet }
    ∧ (beginSwap s q d).cores = s.cores ∧ (beginSwap s q d).tasks = s.tasks := by
  have begun := swapBegun_setting_same (s := s) (q := q) (d := d)
  rw [beginSwap_passes h hc, startMoves_some (by rw [begun]; exact hm) (by rw [begun]; exact hd)]
  refine ⟨{ d.newSwap s q with moves := ((s.setting d.setting).moveJobs d.setting d.facet).length },
    (State.setting_setSetting_same _ _ _).trans ?_, fun k hk => (State.setting_setSetting_other _ _ _ _ hk).trans ?_, ?_, rfl, rfl⟩
  · rw [begun]
    change ({ (swapBegun s q d).setting d.setting with phase := 1, swap := ((swapBegun s q d).setting d.setting).swap.map _ } : Setting) = _
    rw [begun]
    rfl
  · exact (swapBegun_setting k).trans (if_neg hk)
  · rw [begun]
    rfl

end

end Sys2Proof.Machine
end

section
/-! Move jobs (R364, R397, R398, R400): a sector that arrives at its destination, and what a whole move makes of its two channels. -/

namespace Sys2Proof.Machine

/-! ### A sector at the destination of a move -/

/-- A channel without what a transfer over its bond can use up or count: INJ, re-sends and POISON. Its contents, marks and state stand. -/
def Chan.uncounted (h : Chan) : Chan := { h with inj := 0, injRd := false, retry := 0, poison := 0, last := 0, lastWr := false }

/-- A sector that arrives over a good bond; one whose bytes nothing has defined (`plain`) arrives so, unless it is marked. -/
def Chan.arrived (h : Chan) (sec : Nat) (bytes : List (BitVec 8)) (bad plain : Bool) : Chan :=
  let t := (h.resent 0).store sec bytes bad
  if plain && !bad then { t with written := setDel sec t.written } else t

section
variable {h : Chan} {c sec : Nat} {bytes : List (BitVec 8)} {bad plain : Bool}

theorem Chan.arrived_kept : (h.arrived sec bytes bad plain).state = h.state ∧ (h.arrived sec bytes bad plain).inj = h.inj
    ∧ (h.arrived sec bytes bad plain).fences = h.fences := by
  unfold Chan.arrived
  split <;> exact ⟨rfl, rfl, rfl⟩

theorem Chan.marks_arrived : (h.arrived sec bytes bad plain).marks = setPut bad sec h.marks := by
  unfold Chan.arrived
  split <;> rfl

theorem Chan.mem_arrived : (h.arrived sec bytes bad plain).mem = h.mem.writeN (64 * sec) bytes := by
  unfold Chan.arrived
  split <;> rfl

theorem contains_setPut_other {k : Nat} (b : Bool) (l : List Nat) (hk : k ≠ sec) : (setPut b sec l).contains k = l.contains k := by
  cases b
  · exact (contains_setDel sec k l).trans (by rw [bne_iff_ne.2 hk, Bool.true_and])
  · exact (contains_setIns sec k l).trans (by rw [beq_eq_false_iff_ne.2 hk, Bool.false_or])

theorem Chan.defined_arrived_other {k : Nat} (hk : k ≠ sec) : (h.arrived sec bytes bad plain).defined k = h.defined k := by
  have stored : ((h.resent 0).store sec bytes bad).defined k = h.defined k :=
    (Chan.defined_store (ch := h.resent 0) (bytes := bytes) k).trans (by rw [beq_eq_false_iff_ne.2 hk, Bool.false_or]; rfl)
  unfold Chan.arrived
  dsimp only
  split
  · refine Eq.trans ?_ stored
    unfold Chan.defined
    dsimp only
    rw [contains_setDel, bne_iff_ne.2 hk, Bool.true_and]
  · exact stored

theorem Chan.defined_arrived_same : (h.arrived sec bytes bad false).defined sec = true :=
  (Chan.defined_store (ch := h.resent 0) (bytes := bytes) sec).trans (by rw [beq_self_eq_true, Bool.true_or])

theorem Chan.sector_of_defined (hd : h.defined sec = true) : h.sector c sec = h.mem.readN (64 * sec) 64 := if_pos hd

end

/-- In sector `k`, channel `b` holds defined bytes: those that channel `a`, of number `c`, holds there, or `a`'s mark. -/
structure Chan.HoldsAs (b a : Chan) (c k : Nat) : Prop where
  defined : b.defined k = true
  marks : b.marks.contains k = a.marks.contains k
  sector : a.marks.contains k = false → b.mem.readN (64 * k) 64 = a.sector c k

/-- What a channel holds reads there as at its source. -/
theorem Chan.HoldsAs.reads {a b : Chan} {c k : Nat} (h : b.HoldsAs a c k) (ha : a.defined k = true) (d : Nat) : b.defined k = true
    ∧ b.marked d k = a.marked c k ∧ (a.marked c k = false → b.sector d k = a.sector c k) := by
  rw [Chan.marked_of_defined ha, Chan.marked_of_defined h.defined, Chan.sector_of_defined h.defined]
  exact ⟨h.defined, h.marks, h.sector⟩

/-- What a channel holds does not turn on what `Chan.uncounted` leaves out. -/
theorem Chan.contents_of_uncounted {a b : Chan} (h : a.uncounted = b.uncounted) (c k : Nat) :
    a.defined k = b.defined k ∧ a.marked c k = b.marked c k ∧ a.sector c k = b.sector c k := by
  have defined : a.uncounted.defined k = b.uncounted.defined k := by rw [h]
  have marked : a.uncounted.marked c k = b.uncounted.marked c k := by rw [h]
  have sector : a.uncounted.sector c k = b.uncounted.sector c k := by rw [h]
  exact ⟨defined, marked, sector⟩

/-- A sector that arrives as its source holds it keeps the whole destination as the source is. -/
theorem Chan.arrived_holdsAs {a b : Chan} {c sec : Nat} (h : ∀ k, a.defined k = true → b.HoldsAs a c k) {k : Nat} (hk : a.defined k = true) :
    (b.arrived sec (if a.marked c sec then List.replicate 64 0 else a.sector c sec) (a.marked c sec) (!a.defined sec)).HoldsAs a c k := by
  have len : (if a.marked c sec then List.replicate 64 0 else a.sector c sec).length = 64 := by
    split
    · exact List.length_replicate
    · exact Chan.sector_length _ _ _
  obtain ⟨defined, marks, sector⟩ := h k hk
  by_cases e : k = sec
  · subst e
    have marked := Chan.marked_of_defined (c := c) hk
    refine ⟨by rw [hk]; exact Chan.defined_arrived_same, ?_, fun clear => ?_⟩
    · rw [Chan.marks_arrived, marked]
      cases hm : a.marks.contains k
      · exact (contains_setDel k k b.marks).trans (by rw [bne_self_eq_false, Bool.false_and])
      · exact (contains_setIns k k b.marks).trans (by rw [beq_self_eq_true, Bool.true_or])
    · rw [marked, clear, if_neg Bool.false_ne_true] at len ⊢
      rw [Chan.mem_arrived, ← len, Cells.readN_writeN]
  · refine ⟨(Chan.defined_arrived_other e).trans defined, ?_, fun clear => ?_⟩
    · rw [Chan.marks_arrived, contains_setPut_other _ _ e, marks]
    · rw [Chan.mem_arrived, Cells.readN_writeN_outside _ _ _ _ _ (by omega), sector clear]

/-! ### One sector of a move (R202 to R208, R397, R631) -/

/-- What the bonds do with the sector that a move job names. -/
def moveXmit (x : MoveSector) : Xmit :=
  { rdErrs := [x.rdErrs, x.rdErrs], wrErrs := [x.wrErrs, x.wrErrs], poisonFails := [x.poisonFails, x.poisonFails] }

theorem nth_pair {α : Type} (a d : α) (n : Nat) : nth [a, a] (min n 1) d = a := by
  obtain h | h : min n 1 = 0 ∨ min n 1 = 1 := by omega
  · rw [h]; rfl
  · rw [h]; rfl

/-- A move's read of a sector of channel `c` over its bond. -/
def moveRead (c : Nat) (h : Chan) (x : MoveSector) : Chan × Xfer × List (BitVec 8) := readSector c (moveXmit x) h x.sec (min x.sec 1)

/-- The bytes that a move writes after its read: zeros for a sector that did not come, or came marked. -/
def movedBytes (e : Xfer) (data : List (BitVec 8)) : List (BitVec 8) := if e != .ok then List.replicate 64 0 else data

section
variable {m : Move} {x : MoveSector} {s : State} {c : Nat} {h : Chan}

theorem writeSector_move (hi : h.inj = 0) (hx : x.wrErrs = []) (bytes : List (BitVec 8)) (bad : Bool) :
    writeSector (moveXmit x) h x.sec (min x.sec 1) bytes bad = ((h.resent 0).store x.sec bytes bad, .ok) := by
  have errs : nth (moveXmit x).wrErrs (min x.sec 1) [] = [] := (nth_pair _ _ _).trans hx
  rw [writeSector, Chan.inject_none hi, errs]
  rfl

theorem moveRead_good (hi : h.inj = 0) (hx : x.rdErrs = []) :
    moveRead c h x = (h.resent 0, if h.marked c x.sec then (.mark, []) else (.ok, h.sector c x.sec)) := by
  have errs : nth (moveXmit x).rdErrs (min x.sec 1) [] = [] := (nth_pair _ _ _).trans hx
  rw [moveRead, readSector, Chan.inject_none hi, errs]
  dsimp only
  rw [bondSend_good]
  dsimp only
  change (if h.marked c x.sec = true then _ else _) = _
  split <;> rfl

theorem moveRead_uncounted : (moveRead c h x).1.uncounted = h.uncounted := by
  have injected : (h.inject true (min x.sec 1 == 0)).1.uncounted = h.uncounted := by
    unfold Chan.inject
    split <;> rfl
  unfold moveRead readSector
  dsimp only
  split
  · exact injected
  · split <;> exact injected

theorem settled_uncounted {sec : Nat} {e : Xfer} {w : Cause} (he : e ≠ .failed) : (h.settled sec e w).uncounted = h.uncounted := by
  cases e with
  | ok => rfl
  | failed => exact absurd rfl he
  | mark => unfold Chan.settled; dsimp only; split <;> rfl
  | bond => unfold Chan.settled; dsimp only; split <;> rfl

/-- The state after a move's read of a sector has been settled. -/
def moveSource (m : Move) (s : State) (x : MoveSector) : State :=
  let r := moveRead m.src (s.chan m.src) x
  (settleXfer s m.src x.sec r.1 r.2.1 r.2.2 (s.moveCause m x.sec false)).1

/-- The destination after a sector of a move has come. -/
def moveLanded (m : Move) (s : State) (x : MoveSector) : Chan :=
  let r := moveRead m.src (s.chan m.src) x
  (s.chan m.dst).arrived x.sec (movedBytes r.2.1 r.2.2) (r.2.1 != .ok) (!(s.chan m.src).defined x.sec)

/-- The end of a move's write of a sector, with what came of it over the destination's bond; `skip` for one whose bytes nothing has defined. -/
def moveWrites (m : Move) (u : State) (x : MoveSector) (o : Chan × Xfer) (skip : Bool) (w : Cause) : State × HomeOutcome :=
  settleXfer u m.dst x.sec (if skip && o.2 == .ok then { o.1 with written := setDel x.sec o.1.written } else o.1) o.2 [] w

theorem moveSector_eq (fs : List Nat) : ∃ w, moveSector m (s, fs) x =
    let r := moveRead m.src (s.chan m.src) x
    let u := moveSource m s x
    let b := moveWrites m u x (writeSector (moveXmit x) (u.chan m.dst) x.sec (min x.sec 1) (movedBytes r.2.1 r.2.2) (r.2.1 != .ok))
      (!(s.chan m.src).defined x.sec && !(r.2.1 != .ok)) w
    (b.1, fs ++ b.2.failed) := ⟨_, rfl⟩

/-- Over a good bond of the destination, whatever that of the source did, the sector lands and no channel fails. -/
theorem moveSector_good (fs : List Nat) (hne : m.src ≠ m.dst) (hi : (s.chan m.dst).inj = 0) (hx : x.wrErrs = []) :
    moveSector m (s, fs) x = ((moveSource m s x).setChan m.dst (moveLanded m s x), fs) := by
  have dst : (moveSource m s x).chan m.dst = s.chan m.dst := (settleXfer_chan _ _ _ _ _ _ _ _).trans (if_neg hne.symm)
  obtain ⟨w, eq⟩ := moveSector_eq (m := m) (s := s) (x := x) fs
  rw [eq]
  dsimp only
  rw [dst, writeSector_move hi hx, moveWrites, settleXfer_ok, List.append_nil, beq_self_eq_true, Bool.and_true]
  rfl

theorem moveSource_chan (d : Nat) : ∃ h, (moveSource m s x).chan d = (if d = m.src then h else s.chan d)
    ∧ h.uncounted = (s.chan m.src).uncounted :=
  ⟨_, settleXfer_chan _ _ _ _ _ _ _ _, (settled_uncounted (readSector_ne_failed _ _ _ _ _)).trans moveRead_uncounted⟩

theorem moveSource_rest : (moveSource m s x).beside = s.beside ∧ (moveSource m s x).traffic = s.traffic :=
  ⟨settleXfer_beside _ _ _ _ _ _ _, settleXfer_traffic _ _ _ _ _ _ _⟩

end

/-! ### A whole move -/

/-- `v` is `s` after transfers of sectors of move `m`, as far as they leave `s` alone. -/
structure State.MovedFrom (v s : State) (m : Move) : Prop where
  beside : v.beside = s.beside
  traffic : v.traffic = s.traffic
  src : (v.chan m.src).uncounted = (s.chan m.src).uncounted
  dstState : (v.chan m.dst).state = (s.chan m.dst).state
  dstInj : (v.chan m.dst).inj = (s.chan m.dst).inj
  dstFences : (v.chan m.dst).fences = (s.chan m.dst).fences
  others : ∀ c, c ≠ m.dst → c ≠ m.src → v.chan c = s.chan c

section
variable {m : Move} {s v : State}

theorem State.MovedFrom.refl (s : State) (m : Move) : s.MovedFrom s m := ⟨rfl, rfl, rfl, rfl, rfl, rfl, fun _ _ _ => rfl⟩

theorem State.MovedFrom.sector {x : MoveSector} (h : v.MovedFrom s m) (hne : m.src ≠ m.dst) :
    ((moveSource m v x).setChan m.dst (moveLanded m v x)).MovedFrom s m := by
  obtain ⟨beside, traffic⟩ := moveSource_rest (m := m) (s := v) (x := x)
  obtain ⟨state, inj, fences⟩ := Chan.arrived_kept (h := v.chan m.dst) (sec := x.sec)
    (bytes := movedBytes (moveRead m.src (v.chan m.src) x).2.1 (moveRead m.src (v.chan m.src) x).2.2)
    (bad := (moveRead m.src (v.chan m.src) x).2.1 != .ok) (plain := !(v.chan m.src).defined x.sec)
  have landed : ((moveSource m v x).setChan m.dst (moveLanded m v x)).chan m.dst = moveLanded m v x := State.chan_setChan_same _ _ _
  refine ⟨beside.trans h.beside, traffic.trans h.traffic, ?_, ?_, ?_, ?_, fun c hd hs => ?_⟩
  · obtain ⟨src, eq, kept⟩ := moveSource_chan (m := m) (s := v) (x := x) m.src
    rw [State.chan_setChan_other _ _ _ _ hne, eq, if_pos rfl, kept, h.src]
  · rw [landed, moveLanded, state, h.dstState]
  · rw [landed, moveLanded, inj, h.dstInj]
  · rw [landed, moveLanded, fences, h.dstFences]
  · obtain ⟨_, eq, -⟩ := moveSource_chan (m := m) (s := v) (x := x) c
    rw [State.chan_setChan_other _ _ _ _ hd, eq, if_neg hs, h.others c hd hs]

/-- What holds of the destination through every sector that lands holds after the move; and no channel fails where no write is disturbed. -/
theorem foldl_moveSector {P : State → Prop} (hne : m.src ≠ m.dst) (hi : (s.chan m.dst).inj = 0) (xs : List MoveSector)
    (hx : ∀ x ∈ xs, x.wrErrs = [])
    (step : ∀ v x, x ∈ xs → v.MovedFrom s m → P v → P ((moveSource m v x).setChan m.dst (moveLanded m v x)))
    (hv : v.MovedFrom s m) (hP : P v) :
    (xs.foldl (moveSector m) (v, [])).1.MovedFrom s m ∧ P (xs.foldl (moveSector m) (v, [])).1 ∧ (xs.foldl (moveSector m) (v, [])).2 = [] := by
  induction xs generalizing v with
  | nil => exact ⟨hv, hP, rfl⟩
  | cons x xs ih =>
    rw [List.foldl_cons, moveSector_good _ hne (hv.dstInj.trans hi) (hx x (.head _))]
    exact ih (fun y hy => hx y (.tail _ hy)) (fun v y hy => step v y (.tail _ hy)) (hv.sector hne) (step v x (.head _) hv hP)

/-! The move begins with the tables of its source -/

/-- The state once the corrections of the source's dies have been counted. -/
def moveCounted (s : State) (m : Move) (corrected : Nat) : State := s.updChan m.src (fun h => { h with corr := satAdd 32 h.corr corrected })

/-- The state once the destination has the contents and marks of the source, before the sectors whose bonds or marks do something. -/
def moveBegun (s : State) (m : Move) (corrected : Nat) : State :=
  let src := (moveCounted s m corrected).chan m.src
  (moveCounted s m corrected).updChan m.dst (fun d => { d with
    mem := src.mem, scrubbed := src.scrubbed, written := src.written, marks := src.marks, fences := src.fences })

theorem copyMove_eq (e : MoveEnd) : copyMove s m e =
    let o := (moveSectors ((moveCounted s m e.corrected).chan m.src) e.sectors).foldl (moveSector m) (moveBegun s m e.corrected, [])
    (noteMove o.1 m, o.2) := rfl

theorem moveCounted_src (n : Nat) : (moveCounted s m n).chan m.src = { s.chan m.src with corr := satAdd 32 (s.chan m.src).corr n } :=
  State.chan_setChan_same _ _ _

theorem moveBegun_src (n : Nat) (hne : m.src ≠ m.dst) :
    (moveBegun s m n).chan m.src = { s.chan m.src with corr := satAdd 32 (s.chan m.src).corr n } :=
  (State.chan_setChan_other _ _ _ _ hne).trans (moveCounted_src n)

theorem moveBegun_dst (n : Nat) (hne : m.src ≠ m.dst) : (moveBegun s m n).chan m.dst = { s.chan m.dst with
    mem := (s.chan m.src).mem, scrubbed := (s.chan m.src).scrubbed, written := (s.chan m.src).written
    marks := (s.chan m.src).marks, fences := (s.chan m.src).fences } := by
  have dst : (moveCounted s m n).chan m.dst = s.chan m.dst := State.chan_setChan_other _ _ _ _ hne.symm
  refine (State.chan_setChan_same _ _ _).trans ?_
  rw [dst, moveCounted_src]

theorem moveBegun_other (n : Nat) {c : Nat} (hd : c ≠ m.dst) (hs : c ≠ m.src) : (moveBegun s m n).chan c = s.chan c :=
  (State.chan_setChan_other _ _ _ _ hd).trans (State.chan_setChan_other _ _ _ _ hs)

theorem noteMove_mem (s : State) (m : Move) : (noteMove s m).mem = s.mem := by simp [noteMove]

theorem noteMove_beside (s : State) (m : Move) : (noteMove s m).beside = s.beside := by
  have grant (u : State) (l c : Nat) : (countDram (noteGrant u l m.facet 64 (chanUnit c) 0 slotBytes) noCtx l slotBytes).beside = u.beside :=
    (charge_posted _ _ _ _).beside.trans (noteGrant_posted _ _ _ _ _ _ _).beside
  exact (grant _ _ _).trans ((crossSeam_beside _ _ _ _ _ _ _).trans (grant _ _ _))

/-- The bonds leave alone the sectors that a move job does not name. -/
theorem moveSectors_quiet {ch : Chan} {x : MoveSector} (hx : x ∈ moveSectors ch []) : x.rdErrs = [] ∧ x.wrErrs = [] := by
  obtain ⟨k, -, rfl⟩ := List.mem_map.1 hx
  exact ⟨rfl, rfl⟩

/-! ### MOVE_JOB_COMPLETE (R397, R398, R400) -/

/-- A move that has ended well: it is done, and its swap notes how long it took. -/
def moveEnded (s : State) (i : Nat) (m : Move) (us : Nat) : State :=
  ({ s with mem := { s.mem with moves := mapWhere (· == m) (fun m => { m with done := true }) s.mem.moves } } : State).updSetting i
    (fun x => { x with swap := x.swap.map (fun (w : Swap) => { w with us := us }) })

section
variable {i : SetIx} {k : Fin 128} {e : MoveEnd}

theorem moveJobComplete_absent (h : s.mem.moves.find? (fun m => m.set == i.val && m.index == k.val && !m.done) = none) :
    exec (.moveJobComplete i k e) s = .next s := by
  change Host.Outcome.next ((endMove s i k e).2.foldl channelFailed (endMove s i k e).1) = _
  rw [endMove, h]
  rfl

theorem moveJobComplete_down (h : s.mem.moves.find? (fun m => m.set == i.val && m.index == k.val && !m.done) = some m)
    (hd : s.chanDown m.src = true ∨ s.chanDown m.dst = true) :
    exec (.moveJobComplete i k e) s = .next (abandonSwap s i stCHFAIL (some e.us.toNat)) := by
  change Host.Outcome.next ((endMove s i k e).2.foldl channelFailed (endMove s i k e).1) = _
  rw [endMove, h]
  dsimp only
  rw [if_pos (Bool.or_eq_true_iff.2 hd)]
  rfl

/-- A move whose destination stays in service under it ends. -/
theorem moveJobComplete_ends {u : State} (h : s.mem.moves.find? (fun m => m.set == i.val && m.index == k.val && !m.done) = some m)
    (hs : s.chanDown m.src = false) (hd : s.chanDown m.dst = false) (hu : copyMove s m e = (u, [])) (hud : u.chanDown m.dst = false) :
    exec (.moveJobComplete i k e) s = .next (if (moveEnded u i m e.us.toNat).mem.moves.any (fun m => m.set == i.val && !m.done)
      then moveEnded u i m e.us.toNat else activateSwap (moveEnded u i m e.us.toNat) i) := by
  change Host.Outcome.next ((endMove s i k e).2.foldl channelFailed (endMove s i k e).1) = _
  rw [endMove, h]
  dsimp only
  rw [hs, hd, hu, if_neg (by decide)]
  dsimp only
  rw [hud, if_neg (by decide)]
  rfl

end

/-- How a move job leaves the state that its bonds left: the destination stands as before beside its contents. -/
structure State.MoveEnds (u s : State) (m : Move) (corrected : Nat) : Prop where
  beside : u.beside = s.beside
  moves : u.mem.moves = s.mem.moves
  src : (u.chan m.src).uncounted = ({ s.chan m.src with corr := satAdd 32 (s.chan m.src).corr corrected } : Chan).uncounted
  dstState : (u.chan m.dst).state = (s.chan m.dst).state
  dstFences : (u.chan m.dst).fences = (s.chan m.src).fences
  others : ∀ c, c ≠ m.dst → c ≠ m.src → u.chan c = s.chan c

theorem State.MoveEnds.source {u : State} {n : Nat} (h : u.MoveEnds s m n) : (u.chan m.src).mem = (s.chan m.src).mem
    ∧ (u.chan m.src).marks = (s.chan m.src).marks ∧ (u.chan m.src).state = (s.chan m.src).state
    ∧ (u.chan m.src).corr = satAdd 32 (s.chan m.src).corr n := by
  have mem := congrArg Chan.mem h.src
  have marks := congrArg Chan.marks h.src
  have state := congrArg Chan.state h.src
  have corr := congrArg Chan.corr h.src
  exact ⟨mem, marks, state, corr⟩

/-- A move job that leaves its destination in service completes, and the swap goes on to step 4 when no move is left. -/
theorem State.MoveEnds.completes {u : State} {n : Nat} {i : SetIx} {k : Fin 128} {e : MoveEnd} (h : u.MoveEnds s m n)
    (hm : s.mem.moves.find? (fun m => m.set == i.val && m.index == k.val && !m.done) = some m)
    (hs : s.chanDown m.src = false) (hd : s.chanDown m.dst = false) (hu : copyMove s m e = (u, [])) :
    exec (.moveJobComplete i k e) s = .next (if (moveEnded u i m e.us.toNat).mem.moves.any (fun m => m.set == i.val && !m.done)
      then moveEnded u i m e.us.toNat else activateSwap (moveEnded u i m e.us.toNat) i) :=
  moveJobComplete_ends hm hs hd hu (by rw [State.chanDown, h.dstState]; exact hd)

theorem copyMove_ends {w : State} (e : MoveEnd) (hne : m.src ≠ m.dst) (hw : w.MovedFrom (moveBegun s m e.corrected) m)
    (hfold : (moveSectors ((moveCounted s m e.corrected).chan m.src) e.sectors).foldl (moveSector m) (moveBegun s m e.corrected, []) = (w, [])) :
    copyMove s m e = (noteMove w m, []) ∧ (noteMove w m).MoveEnds s m e.corrected := by
  have chan (c : Nat) : (noteMove w m).chan c = w.chan c := chan_of_mem (noteMove_mem w m) c
  have moves : (moveBegun s m e.corrected).mem.moves = s.mem.moves := rfl
  refine ⟨(copyMove_eq e).trans (by rw [hfold]), (noteMove_beside w m).trans hw.beside, ?_, ?_, ?_, ?_, fun c hd hs => ?_⟩
  · rw [noteMove_mem, ← moves]
    exact congrArg (·.2.2.2) hw.traffic
  · rw [chan, hw.src, moveBegun_src _ hne]
  · rw [chan, hw.dstState, moveBegun_dst _ hne]
  · rw [chan, hw.dstFences, moveBegun_dst _ hne]
  · rw [chan, hw.others c hd hs, moveBegun_other _ hd hs]

/-! A move whose bonds nothing disturbed -/

/-- The destination holds what `a` holds, and INJ of the source is spent. -/
def State.HoldsMoved (v : State) (m : Move) (a : Chan) : Prop :=
  (v.chan m.src).inj = 0 ∧ ∀ k, a.defined k = true → (v.chan m.dst).HoldsAs a m.src k

theorem settled_inj (h : Chan) (sec : Nat) (e : Xfer) (w : Cause) : (h.settled sec e w).inj = h.inj := by
  cases e with
  | ok => rfl
  | failed => rfl
  | mark => unfold Chan.settled; dsimp only; split <;> rfl
  | bond => unfold Chan.settled; dsimp only; split <;> rfl

theorem moveLanded_quiet {x : MoveSector} (hi : (v.chan m.src).inj = 0) (hx : x.rdErrs = []) : moveLanded m v x =
    (v.chan m.dst).arrived x.sec (if (v.chan m.src).marked m.src x.sec then List.replicate 64 0 else (v.chan m.src).sector m.src x.sec)
      ((v.chan m.src).marked m.src x.sec) (!(v.chan m.src).defined x.sec) := by
  rw [moveLanded, moveRead_good hi hx]
  dsimp only
  split
  · next h => rw [h]; rfl
  · next h => rw [Bool.not_eq_true] at h; rw [h]; rfl

theorem HoldsMoved.sector {a : Chan} {x : MoveSector} (hne : m.src ≠ m.dst) (hx : x.rdErrs = [])
    (ha : (v.chan m.src).uncounted = a.uncounted) (h : v.HoldsMoved m a) :
    ((moveSource m v x).setChan m.dst (moveLanded m v x)).HoldsMoved m a := by
  obtain ⟨inj, holds⟩ := h
  have read := moveRead_good (c := m.src) inj hx
  refine ⟨?_, fun k hk => ?_⟩
  · rw [State.chan_setChan_other _ _ _ _ hne, moveSource, settleXfer_chan, if_pos rfl, settled_inj, read]
    exact inj
  · obtain ⟨defined, marked, sector⟩ := Chan.contents_of_uncounted ha m.src x.sec
    rw [State.chan_setChan_same, moveLanded_quiet inj hx, defined, marked, sector]
    exact Chan.arrived_holdsAs holds hk

/-- What the source holds lies at the destination after a move that nothing disturbed. -/
theorem copyMove_quiet {e : MoveEnd} (hne : m.src ≠ m.dst) (his : (s.chan m.src).inj = 0) (hid : (s.chan m.dst).inj = 0) (he : e.sectors = []) :
    ∃ u, copyMove s m e = (u, []) ∧ u.MoveEnds s m e.corrected
      ∧ ∀ k, (s.chan m.src).defined k = true → (u.chan m.dst).HoldsAs (s.chan m.src) m.src k := by
  have dst := moveBegun_dst (s := s) e.corrected hne
  have src := moveBegun_src (s := s) e.corrected hne
  have begun : (moveBegun s m e.corrected).HoldsMoved m ((moveBegun s m e.corrected).chan m.src) := by
    refine ⟨by rw [src]; exact his, fun k hk => ?_⟩
    rw [src] at hk
    rw [src, dst]
    exact ⟨hk, rfl, fun _ => (Chan.sector_of_defined hk).symm⟩
  have quiet (x : MoveSector) (hx : x ∈ moveSectors ((moveCounted s m e.corrected).chan m.src) e.sectors) :=
    moveSectors_quiet (he ▸ hx)
  obtain ⟨moved, holds, failed⟩ := foldl_moveSector (P := fun v => v.HoldsMoved m ((moveBegun s m e.corrected).chan m.src)) hne
    (by rw [dst]; exact hid) _ (fun x hx => (quiet x hx).2) (fun v x hx hv h => HoldsMoved.sector hne (quiet x hx).1 hv.src h)
    (State.MovedFrom.refl (moveBegun s m e.corrected) m) begun
  obtain ⟨eq, ends⟩ := copyMove_ends e hne moved (Prod.ext rfl failed)
  refine ⟨_, eq, ends, fun k hk => ?_⟩
  obtain ⟨defined, marks, sector⟩ := holds.2 k (by rw [src]; exact hk)
  rw [src] at marks sector
  rw [chan_of_mem (noteMove_mem _ m)]
  exact ⟨defined, marks, sector⟩

/-! A move with one sector that the source's bond failed -/

theorem moveLanded_marks {x : MoveSector} : (moveLanded m v x).marks =
    setPut ((moveRead m.src (v.chan m.src) x).2.1 != .ok) x.sec (v.chan m.dst).marks := Chan.marks_arrived

/-- How a read ends does not turn on how many errors the dies have corrected. -/
theorem moveRead_corr (c n : Nat) (h : Chan) (x : MoveSector) : (moveRead c { h with corr := n } x).2.1 = (moveRead c h x).2.1 := by
  have inject : ({ h with corr := n } : Chan).inject true (min x.sec 1 == 0)
      = ({ (h.inject true (min x.sec 1 == 0)).1 with corr := n }, (h.inject true (min x.sec 1 == 0)).2) := by
    unfold Chan.inject
    dsimp only
    split <;> rfl
  have sector (g : Chan) : ({ g with corr := n } : Chan).sector c x.sec = g.sector c x.sec := rfl
  have marked (g : Chan) (f : Nat) : (({ g with corr := n } : Chan).resent f).marked c x.sec = (g.resent f).marked c x.sec := rfl
  unfold moveRead readSector
  rw [inject]
  dsimp only
  rw [sector]
  split
  · rfl
  · rw [marked]
    split <;> rfl

/-- The sectors of a move job that names one: it comes first, and no other write of the job is disturbed. -/
theorem moveSectors_one (ch : Chan) (x : MoveSector) : ∃ rest, moveSectors ch [x] = x :: rest
    ∧ ∀ y ∈ rest, y.wrErrs = [] ∧ y.sec ≠ x.sec := by
  refine ⟨_, rfl, fun y hy => ?_⟩
  obtain ⟨k, hk, rfl⟩ := List.mem_map.1 hy
  refine ⟨rfl, fun e : k = x.sec => ?_⟩
  subst e
  simp at hk

/-- The sector that the bond failed arrives marked. -/
theorem copyMove_marks {e : MoveEnd} {x : MoveSector} (hne : m.src ≠ m.dst) (hid : (s.chan m.dst).inj = 0) (he : e.sectors = [x])
    (hw : x.wrErrs = []) (hr : (moveRead m.src (s.chan m.src) x).2.1 = .bond) :
    ∃ u, copyMove s m e = (u, []) ∧ u.MoveEnds s m e.corrected ∧ (u.chan m.dst).marks.contains x.sec = true := by
  have dstInj : ((moveBegun s m e.corrected).chan m.dst).inj = 0 := by rw [moveBegun_dst _ hne]; exact hid
  have landed (y : MoveSector) (v : State) : ((moveSource m v y).setChan m.dst (moveLanded m v y)).chan m.dst = moveLanded m v y :=
    State.chan_setChan_same _ _ _
  obtain ⟨rest, list, quiet⟩ := moveSectors_one ((moveCounted s m e.corrected).chan m.src) x
  have first : (moveLanded m (moveBegun s m e.corrected) x).marks.contains x.sec = true := by
    rw [moveLanded_marks, moveBegun_src _ hne, moveRead_corr, hr]
    exact (contains_setIns _ _ _).trans (by rw [beq_self_eq_true, Bool.true_or])
  obtain ⟨moved, marked, failed⟩ := foldl_moveSector (P := fun v => (v.chan m.dst).marks.contains x.sec = true) hne dstInj rest
    (fun y hy => (quiet y hy).1)
    (fun v y hy _ h => by rw [landed, moveLanded_marks, contains_setPut_other _ _ (quiet y hy).2.symm]; exact h)
    ((State.MovedFrom.refl (moveBegun s m e.corrected) m).sector (x := x) hne) (by rw [landed]; exact first)
  obtain ⟨eq, ends⟩ := copyMove_ends e hne moved
    (by rw [he, list, List.foldl_cons, moveSector_good _ hne dstInj hw]; exact Prod.ext rfl failed)
  refine ⟨_, eq, ends, ?_⟩
  rw [chan_of_mem (noteMove_mem _ m)]
  exact marked

end

end Sys2Proof.Machine
end

section
/-! Steps 7 to 10 of a swap (R364, R396, R397, R399, R401, R409); and O17, which says how a Setting swaps, moves, drains and unlocks. -/

namespace Sys2Proof.Machine

/-! ### Step 8: the former epoch has drained -/

/-- The home of a fence's record changes the table of fences alone. -/
theorem rehomeFences_rest (s : State) (a b : Nat) : ∃ fnc, rehomeFences s a b = { s with fnc := fnc } := by
  unfold rehomeFences
  generalize s.fencesWhere (fun f => f.home.1 == a) = l
  induction l generalizing s with
  | nil => exact ⟨_, rfl⟩
  | cons i l ih => exact (ih (s.setFence i { s.fence i with home := (b, (s.fence i).home.2) })).imp fun _ h => h

/-- A source gives its fence marks up. -/
def Chan.unfenced (h : Chan) : Chan := { h with fences := [] }

/-- The sources of the moves give their fence marks up to their destinations. -/
def handFences (s : State) (ms : List Move) : State := s.forAll ms (fun s m => rehomeFences (s.updChan m.src Chan.unfenced) m.src m.dst)

/-- What the end of a swap's drain leaves alone beside the fence marks: moves and requests, the Settings, cores and tasks. -/
def State.swapView (s : State) : List Move × List Req × List Req × SMap Setting × SMap Core × List Task :=
  (s.mem.moves, s.mem.held, s.mem.inflight, s.sets, s.cores, s.tasks)

section
variable {s : State} (ms : List Move)

theorem handFences_mem (u : State) (h : u.mem = s.mem) :
    (handFences u ms).mem = (s.forAll (ms.map (·.src)) (fun s c => s.updChan c Chan.unfenced)).mem := by
  induction ms generalizing u s with
  | nil => exact h
  | cons m ms ih =>
    obtain ⟨fnc, eq⟩ := rehomeFences_rest (u.updChan m.src Chan.unfenced) m.src m.dst
    refine ih (s := s.updChan m.src Chan.unfenced) (rehomeFences (u.updChan m.src Chan.unfenced) m.src m.dst) ?_
    rw [eq]
    simp only [State.updChan, State.setChan, State.chan, h]

theorem handFences_chan (c : Nat) : (handFences s ms).chan c = if c ∈ ms.map (·.src) then (s.chan c).unfenced else s.chan c :=
  (chan_of_mem (handFences_mem ms s rfl) c).trans (forAll_updChan_chan (g := Chan.unfenced) (fun _ => rfl) _ s c)

theorem handFences_rest : (handFences s ms).mem.moves = s.mem.moves ∧ (handFences s ms).mem.held = s.mem.held
    ∧ (handFences s ms).mem.inflight = s.mem.inflight ∧ (handFences s ms).sets = s.sets ∧ (handFences s ms).cores = s.cores
    ∧ (handFences s ms).tasks = s.tasks := by
  have step (u : State) (m : Move) : ∃ chans fnc, rehomeFences (u.updChan m.src Chan.unfenced) m.src m.dst
      = { u with mem := { u.mem with chans := chans }, fnc := fnc } := by
    obtain ⟨fnc, eq⟩ := rehomeFences_rest (u.updChan m.src Chan.unfenced) m.src m.dst
    exact ⟨_, fnc, eq⟩
  have all : (handFences s ms).swapView = s.swapView :=
    forAll_const State.swapView (fun u m => by obtain ⟨_, _, eq⟩ := step u m; rw [eq]; rfl) ms s
  simp only [State.swapView, Prod.mk.injEq] at all
  exact all

end

/-- The state after step 8, before what was held goes on. -/
def drained (s : State) (i : Nat) (w : Swap) : State :=
  let gone := s.mem.moves.filter (fun m => m.set == i)
  (handFences { s with mem := { s.mem with moves := s.mem.moves.filter (fun m => m.set != i) } } gone).setSetting i
    { s.setting i with swap := some { w with mirrorsOff := true } }

section
variable {s : State} {i : SetIx} {w : Swap}

theorem endDrain_none {n : Nat} (h : (s.setting n).swap = none) : endDrain s n = s := by
  unfold endDrain
  dsimp only
  rw [h]

theorem endDrain_drained {n : Nat} (h : (s.setting n).swap = some w) (h4 : w.stepFour = true) (hm : w.mirrorsOff = false) (ho : s.oldOut n = 0) :
    endDrain s n = settleAll (releaseHeld (drained s n w)) := by
  unfold endDrain
  dsimp only
  split
  · next absent => cases h.symm.trans absent
  · next running =>
    cases h.symm.trans running
    exact if_pos (by rw [h4, hm, ho]; rfl)

theorem endDrain_waits {n : Nat} (h : (s.setting n).swap = some w) (hw : w.stepFour = false ∨ w.mirrorsOff = true ∨ s.oldOut n ≠ 0) :
    endDrain s n = s := by
  unfold endDrain
  dsimp only
  split
  · rfl
  · next running =>
    cases h.symm.trans running
    refine if_neg ?_
    obtain h | h | h := hw <;> simp [h]

theorem drained_fences (c : Nat) : ((drained s i w).chan c).mem = (s.chan c).mem ∧ ((drained s i w).chan c).marks = (s.chan c).marks
    ∧ ((drained s i w).chan c).fences = if ∃ m, m ∈ s.mem.moves ∧ m.set = i.val ∧ m.src = c then [] else (s.chan c).fences := by
  have source : c ∈ (s.mem.moves.filter (fun m => m.set == i.val)).map (·.src) ↔ ∃ m, m ∈ s.mem.moves ∧ m.set = i.val ∧ m.src = c := by
    simp only [List.mem_map, List.mem_filter, beq_iff_eq, and_assoc]
  have chan : (drained s i w).chan c = if c ∈ (s.mem.moves.filter (fun m => m.set == i.val)).map (·.src)
      then (s.chan c).unfenced else s.chan c := handFences_chan _ c
  rw [chan]
  by_cases h : ∃ m, m ∈ s.mem.moves ∧ m.set = i.val ∧ m.src = c
  · rw [if_pos (source.2 h), if_pos h]
    exact ⟨rfl, rfl, rfl⟩
  · rw [if_neg (mt source.1 h), if_neg h]
    exact ⟨rfl, rfl, rfl⟩

theorem drained_rest : (drained s i w).mem.moves = s.mem.moves.filter (fun (m : Move) => m.set != i.val)
    ∧ (drained s i w).mem.held = s.mem.held ∧ (drained s i w).mem.inflight = s.mem.inflight
    ∧ (∀ j, j ≠ i.val → (drained s i w).setting j = s.setting j) ∧ (drained s i w).cores = s.cores ∧ (drained s i w).tasks = s.tasks := by
  obtain ⟨moves, held, inflight, sets, cores, tasks⟩ := handFences_rest
    (s := { s with mem := { s.mem with moves := s.mem.moves.filter (fun m => m.set != i.val) } }) (s.mem.moves.filter (fun m => m.set == i.val))
  exact ⟨moves, held, inflight, fun j hj => (State.setting_setSetting_other _ _ _ _ hj).trans (setting_of_sets sets j), cores, tasks⟩

theorem fenceProgress_idle (h : s.fnc.cmd = none) : fenceProgress s = s := by
  unfold fenceProgress
  rw [h]

/-! ### Steps 9 and 10: the shadow copy is unlocked -/

theorem unlockSwap_none {n k : Nat} (h : (s.setting n).swap = none) : unlockSwap s n k = s := by
  unfold unlockSwap
  dsimp only
  rw [h]

/-- A Setting whose swap is over. -/
def Setting.unlocked (x : Setting) : Setting := { x with phase := 0, shLock := false, swap := none }

theorem unlockSwap_waits {n k : Nat} (h : (s.setting n).swap = some w)
    (hw : w.stepFour = false ∨ w.mirrorsOff = false ∨ (s.tasks.any (fun t => t.set == n && s.misplaced t)) = true) : unlockSwap s n k = s := by
  unfold unlockSwap
  dsimp only
  split
  · rfl
  · next running =>
    cases h.symm.trans running
    refine if_neg ?_
    obtain h | h | h := hw
    · simp [h]
    · simp [h]
    · rw [h]
      simp

theorem unlockSwap_unlocks {n k : Nat} (h : (s.setting n).swap = some w) (h4 : w.stepFour = true) (hm : w.mirrorsOff = true)
    (ht : (s.tasks.any (fun t => t.set == n && s.misplaced t)) = false) : unlockSwap s n k =
    swapDone (s.setSetting n (s.setting n).unlocked) (if (s.setting n).active.valid then (s.setting n).active.locket else (s.setting n).shadow.locket)
      w.qp n (s.setting n).epoch w.moves w.tasks w.drained k := by
  unfold unlockSwap
  dsimp only
  split
  · next absent => cases h.symm.trans absent
  · next running =>
    cases h.symm.trans running
    refine (if_pos ?_).trans ?_
    · rw [h4, hm, ht]; rfl
    · rfl

end

/-- An event of a swap reports, and changes no Setting. -/
theorem swapDone_rest (s : State) (locket qp object epoch moves tasks drained us : Nat) :
    let u := swapDone s locket qp object epoch moves tasks drained us
    u.sets = s.sets ∧ u.mem = s.mem ∧ u.cores = s.cores ∧ u.tasks = s.tasks := by
  obtain ⟨_, _, _, _, _, _, _, _, _, _, eq⟩ : Posted s (swapDone s locket qp object epoch moves tasks drained us) := postEvent_posted _ _
  rw [eq]
  exact ⟨rfl, rfl, rfl, rfl⟩

theorem setSwap_ready {s : State} {q : SqIx} {d : Desc} (h : s.ready q 0x20 = some d) (ht : bit (d.f 32 1) 0 = false) :
    exec (.setSwap q) s = .next (settle (beginSwap (beginDesc s q d.idx) q d) q) :=
  congrArg Host.Outcome.next ((withReady_some h).trans (if_neg (by rw [ht]; decide)))

theorem setSwap_other {s : State} {q : SqIx} (h : ∀ d, s.ready q 0x20 = some d → bit (d.f 32 1) 0 = true) : exec (.setSwap q) s = .next s := by
  cases hr : s.ready q 0x20 with
  | none => exact congrArg Host.Outcome.next (withReady_none hr)
  | some d => exact congrArg Host.Outcome.next ((withReady_some hr).trans (if_pos (h d hr)))

/-- Settles O17: a SET_SWAP comes to what `beginSwap` says of it; a move's destination holds what its source holds (`copyMove_quiet`), or the failed
sector marked (`copyMove_marks`); and steps 8 to 10 are those of `endDrain` and `unlockSwap`. -/
theorem settingsSwapAndMove : Obligations.SettingsSwapAndMove := by
  refine ⟨fun s q => ⟨?swap, setSwap_other⟩,
    fun s i k e => ⟨fun m hm => ⟨moveJobComplete_down hm, ?quiet, ?marks⟩, moveJobComplete_absent⟩,
    fun s i us => ⟨fenceProgress_idle, fun w hw => ⟨?drains, fun h => ?drainWaits, ?unlocks, fun h => ?unlockWaits⟩, fun h => ?noSwap⟩⟩
  case swap =>
    rintro d i x hd ht rfl rfl
    rw [setSwap_ready hd ht]
    refine ⟨fun h => ?_, fun hf h => ?_, fun hf hl hp hpool hr => ?_⟩
    · exact congrArg (fun u => Host.Outcome.next (settle u q)) (beginSwap_fenced (s := beginDesc s q d.idx) h)
    · exact congrArg (fun u => Host.Outcome.next (settle u q)) (beginSwap_busy (s := beginDesc s q d.idx) hf h)
    have free : SwapOpen (beginDesc s q d.idx) d.setting := ⟨hf, hl, hp, hpool, hr⟩
    refine ⟨fun f hc => congrArg (fun u => Host.Outcome.next (settle u q)) (beginSwap_failed free hc), fun hc hm => ?_, fun hc hm hdown => ?_⟩
    · obtain ⟨v, w, eq, same, others, mem⟩ := beginSwap_switches (q := q) free hc hm
      refine ⟨_, v, rfl, congrArg (settle · q) eq, ?_, ?_, ?_, ?_, ?_, others, congrArg Mem.chans mem⟩
      all_goals rw [same]
      all_goals rfl
    · obtain ⟨w, same, others, mem, cores, tasks⟩ := beginSwap_moves (q := q) free hc hm hdown
      refine ⟨_, rfl, ?_, ?_, ?_, ?_, ?_, others, by rw [mem]; rfl, by rw [mem]; rfl, cores, tasks⟩
      all_goals rw [same]
      all_goals rfl
  case quiet =>
    intro hs hd hne his hid he
    obtain ⟨u, eq, ends, holds⟩ := copyMove_quiet hne his hid he
    obtain ⟨mem, marks, state, corr⟩ := ends.source
    exact ⟨moveEnded u i m e.us.toNat, ends.completes hm hs hd eq, fun k hk => (holds k hk).reads hk m.dst, ends.dstFences, ends.dstState,
      mem, marks, state, corr, ends.others, congrArg (mapWhere (· == m) fun m => { m with done := true }) ends.moves,
      congrArg (·.1) ends.beside, congrArg (·.2.1) ends.beside⟩
  case marks =>
    intro x hs hd hne hid he hw _ hr
    obtain ⟨u, eq, ends, marked⟩ := copyMove_marks hne hid he hw hr
    obtain ⟨-, marks, -⟩ := ends.source
    exact ⟨moveEnded u i m e.us.toNat, ends.completes hm hs hd eq, marked, marks⟩
  case drains =>
    intro h4 hm ho
    obtain ⟨moves, held, inflight, sets, cores, tasks⟩ := drained_rest (s := s) (i := i) (w := w)
    exact ⟨drained s i w, congrArg (fun u => Host.Outcome.next (fenceProgress u)) (endDrain_drained hw h4 hm ho), moves, held, inflight,
      State.setting_setSetting_same _ _ _, sets, drained_fences, cores, tasks⟩
  case drainWaits => exact congrArg (fun u => Host.Outcome.next (fenceProgress u)) (endDrain_waits hw h)
  case unlocks =>
    intro h4 hm ht
    have rest := swapDone_rest (s.setSetting i (s.setting i).unlocked)
      (if (s.setting i).active.valid then (s.setting i).active.locket else (s.setting i).shadow.locket) w.qp i (s.setting i).epoch w.moves w.tasks
      w.drained us.toNat
    obtain ⟨sets, mem, cores, tasks⟩ := rest
    exact ⟨_, congrArg Host.Outcome.next (unlockSwap_unlocks hw h4 hm ht), rfl,
      (setting_of_sets sets i).trans (State.setting_setSetting_same _ _ _),
      fun j hj => (setting_of_sets sets j).trans (State.setting_setSetting_other _ _ _ _ hj), mem, cores, tasks⟩
  case unlockWaits => exact congrArg Host.Outcome.next (unlockSwap_waits hw h)
  case noSwap => exact ⟨congrArg (fun u => Host.Outcome.next (fenceProgress u)) (endDrain_none h), congrArg Host.Outcome.next (unlockSwap_none h)⟩

end Sys2Proof.Machine
end

section
/-! Lockets are created, exchanged and shown (R410, R432 to R434, R447 to R449, R459); and O18, which says so. -/

namespace Sys2Proof.Machine

/-! ### The exchange of a slot's copies (R410, R434) -/

/-- A channel that a Locket takes: it loses CLEAN and is in service. -/
def Chan.taken (h : Chan) : Chan := { h with clean := false, state := if h.state = 0 then 1 else h.state }

/-- A channel that a Locket gives up. -/
def Chan.given (h : Chan) : Chan := { h with clean := false, state := if h.state = 1 then 0 else h.state }

theorem Chan.taken_twice (h : Chan) : h.taken.taken = h.taken := by
  unfold Chan.taken
  dsimp only
  split <;> simp [*]

section
variable (s : State) (l : Nat)

/-- The channels that an exchange adds to slot `l`. -/
def chansAdded : List Nat := (s.slot l).shadow.chanList.filter (fun c => !((s.slot l).active.valid && (s.slot l).active.chans.getLsbD c))

/-- The channels that an exchange removes from slot `l`. -/
def chansGone : List Nat :=
  if (s.slot l).active.valid then (s.slot l).active.chanList.filter (fun c => !(s.slot l).shadow.chans.getLsbD c) else []

theorem exchangeLocket_eq : exchangeLocket s l =
    ((s.setSlot l { s.slot l with active := (s.slot l).shadow, shadow := (s.slot l).active }).forAll (chansAdded s l)
      (fun s c => s.updChan c Chan.taken)).forAll (chansGone s l) (fun s c => s.updChan c Chan.given) := rfl

theorem exchangeLocket_slot (k : Nat) : (exchangeLocket s l).slot k =
    if k = l then { s.slot l with active := (s.slot l).shadow, shadow := (s.slot l).active } else s.slot k := by
  obtain ⟨added, eq⟩ := forAll_updChan_rest Chan.taken (chansAdded s l)
    (s.setSlot l { s.slot l with active := (s.slot l).shadow, shadow := (s.slot l).active })
  rw [exchangeLocket_eq, eq]
  obtain ⟨gone, eq⟩ := forAll_updChan_rest Chan.given (chansGone s l)
    { s.setSlot l { s.slot l with active := (s.slot l).shadow, shadow := (s.slot l).active } with mem := { s.mem with chans := added } }
  exact (congrArg (fun u : State => u.slot k) eq).trans (State.slot_setSlot _ _ _ _)

/-- A slot that held no Locket takes the channels of its tables, and gives none up. -/
theorem exchangeLocket_chan (h : (s.slot l).active.valid = false) (c : Nat) : (exchangeLocket s l).chan c =
    if c ∈ (s.slot l).shadow.chanList then (s.chan c).taken else s.chan c := by
  have added : chansAdded s l = (s.slot l).shadow.chanList := by
    unfold chansAdded
    rw [h]
    exact List.filter_eq_self.2 fun _ _ => rfl
  have gone : chansGone s l = [] := by rw [chansGone, h]; rfl
  rw [exchangeLocket_eq, gone, added]
  exact forAll_updChan_chan Chan.taken_twice _ _ _

/-! ### LOCKET_CREATE (R432, R433) -/

/-- The key that an installed tag brings changes the key generation of the one slot, and neither a copy nor a channel. -/
theorem installStaged_rest (tag : Nat) : (installStaged s l tag).mem = s.mem
    ∧ ∃ g, ∀ k, (installStaged s l tag).slot k = if k = l then { s.slot l with keygen := g } else s.slot k := by
  unfold installStaged
  dsimp only
  split
  · refine ⟨rfl, (s.slot l).keygen, fun k => ?_⟩
    split
    · next h => rw [h]; rfl
    · rfl
  · next key _ => exact ⟨rfl, key.gen, fun k => State.slot_setSlot _ _ _ _⟩

/-- The slot and the channels of a new Locket, before its key comes. -/
def newLocket : State := resetCredits ((exchangeLocket s l).updSlot l (fun x => { x with
  state := 1, acct := {}, lat := [], invReady := false, invBusy := false, invSeq := 0, invRec := [] })) l

variable {s l}

theorem createLocket_busy (h : (s.slot l).active.valid = true ∨ (s.slot l).shadow.valid = false ∨ (s.slot l).state ≠ 0) :
    createLocket s l = (s, stBUSY) := by
  refine if_pos ?_
  obtain h | h | h := h <;> simp [h]

section
variable (ha : (s.slot l).active.valid = false) (hs : (s.slot l).shadow.valid = true) (hf : (s.slot l).state = 0)
include ha hs hf

theorem createLocket_failed {st : Nat} (hc : locketChecks s l false = some st) : createLocket s l = (s, st) := by
  refine (if_neg (by simp [ha, hs, hf])).trans ?_
  rw [hc]

theorem createLocket_passes (hc : locketChecks s l false = none) :
    createLocket s l = (installStaged (newLocket s l) l ((newLocket s l).slot l).active.tag, stOK) := by
  refine (if_neg (by simp [ha, hs, hf])).trans ?_
  rw [hc]
  rfl

end

theorem newLocket_slot (k : Nat) : (newLocket s l).slot k = if k = l then { s.slot l with
    active := (s.slot l).shadow, shadow := (s.slot l).active, state := 1, acct := {}, lat := [], invReady := false, invBusy := false, invSeq := 0
    invRec := [] } else s.slot k := by
  refine (State.slot_setSlot _ _ _ _).trans ?_
  rw [exchangeLocket_slot, exchangeLocket_slot, if_pos rfl]
  split <;> rfl

theorem newLocket_chan (h : (s.slot l).active.valid = false) (c : Nat) : (newLocket s l).chan c =
    if c ∈ (s.slot l).shadow.chanList then (s.chan c).taken else s.chan c := exchangeLocket_chan s l h c

/-- A slot that is created is ACTIVE with the tables of its shadow copy, and its channels are in service (R432, R434). -/
theorem createLocket_creates (ha : (s.slot l).active.valid = false) (hs : (s.slot l).shadow.valid = true) (hf : (s.slot l).state = 0)
    (hc : locketChecks s l false = none) : ∃ u, createLocket s l = (u, stOK)
      ∧ (u.slot l).active = (s.slot l).shadow ∧ (u.slot l).shadow = (s.slot l).active ∧ (u.slot l).state = 1 ∧ (u.slot l).acct = {}
      ∧ (∀ c, (s.slot l).shadow.chanList.contains c = true → (s.chan c).state = 0 → (u.chan c).state = 1 ∧ (u.chan c).clean = false)
      ∧ (∀ c, (s.slot l).shadow.chanList.contains c = false → u.chan c = s.chan c) ∧ (∀ k, k ≠ l → u.slot k = s.slot k) := by
  obtain ⟨mem, gen, slot⟩ := installStaged_rest (newLocket s l) l ((newLocket s l).slot l).active.tag
  refine ⟨_, createLocket_passes ha hs hf hc, ?_⟩
  generalize installStaged (newLocket s l) l ((newLocket s l).slot l).active.tag = u at mem slot ⊢
  have same := (slot l).trans (if_pos rfl)
  rw [newLocket_slot, if_pos rfl] at same
  have chan (c : Nat) := (chan_of_mem mem c).trans (newLocket_chan ha c)
  refine ⟨by rw [same], by rw [same], by rw [same], by rw [same], fun c hc h0 => ?_, fun c hc => ?_, fun k hk => ?_⟩
  · rw [chan, if_pos (List.contains_iff_mem.1 hc), Chan.taken, h0]
    exact ⟨rfl, rfl⟩
  · rw [chan, if_neg (fun m => by rw [List.contains_iff_mem.2 m] at hc; cases hc)]
  · rw [slot, if_neg hk, newLocket_slot, if_neg hk]

end

section
variable {s : State} {q : SqIx} {l : SlotIx} {d : Desc}

theorem locketCreate_ready (h : s.ready q 0x28 = some d) (hl : d.f 32 1 = l.val) :
    exec (.locketCreate q) s = .next (endDesc (createLocket s l).1 q d.idx (createLocket s l).2 0) :=
  congrArg Host.Outcome.next ((withReady_some h).trans (by rw [hl]))

/-! ### SET_SWAP of TARGET 1 (R410) -/

theorem setSwapLocket_ready (h : s.ready q 0x20 = some d) (ht : bit (d.f 32 1) 0 = true) :
    exec (.setSwapLocket q) s = .next (swapLocket s q d) :=
  congrArg Host.Outcome.next ((withReady_some h).trans (if_pos ht))

theorem setSwapLocket_other (h : ∀ d, s.ready q 0x20 = some d → bit (d.f 32 1) 0 = false) : exec (.setSwapLocket q) s = .next s := by
  cases hr : s.ready q 0x20 with
  | none => exact congrArg Host.Outcome.next (withReady_none hr)
  | some d => exact congrArg Host.Outcome.next ((withReady_some hr).trans (if_neg (by rw [h d hr]; decide)))

theorem swapLocket_busy (hl : d.f 33 1 = l.val) (ha : (s.slot l).active.valid = true)
    (h : (s.slot l).state ≠ 1 ∨ (s.slot l).resetting = true ∨ (s.slot l).teardown ≠ none) :
    swapLocket s q d = endDesc s q d.idx stBUSY (swapDetail 0 0 0xFFFF 0) := by
  refine if_pos ?_
  rw [hl, ha]
  obtain h | h | h := h
  · simp [h]
  · simp [h]
  · simp [Option.isSome_iff_ne_none.2 h]

/-- A slot without a Locket, or one whose Locket is ACTIVE and neither reset nor torn down, is not in the way. -/
theorem swapLocket_free {x : Slot} (h : x.active.valid = false ∨ (x.state = 1 ∧ x.resetting = false ∧ x.teardown = none)) :
    ¬((x.active.valid && (x.state != 1 || x.resetting || x.teardown.isSome)) = true) := by
  obtain h | ⟨a, b, c⟩ := h
  · simp [h]
  · simp [a, b, c]

section
variable (hl : d.f 33 1 = l.val) (h : (s.slot l).active.valid = false
  ∨ ((s.slot l).state = 1 ∧ (s.slot l).resetting = false ∧ (s.slot l).teardown = none))
include hl h

theorem swapLocket_failed {st : Nat} (hc : locketChecks s l true = some st) :
    swapLocket s q d = endDesc s q d.idx st (swapDetail 0 0 0xFFFF 0) := by
  unfold swapLocket
  dsimp only
  rw [hl, if_neg (swapLocket_free h), hc]

theorem swapLocket_passes (hc : locketChecks s l true = none) : swapLocket s q d =
    swapDone (endDesc (exchangeLocket s l) q d.idx stOK (swapDetail 0 0 0xFFFF 0)) l (s.sq q).qp (0x8000 + l.val) 0 0 0 0 0 := by
  unfold swapLocket
  dsimp only
  rw [hl, if_neg (swapLocket_free h), hc]

end

/-! ### The signed inventory (R447 to R449, R459) -/

theorem leBytes_length (n v : Nat) : (leBytes n v).length = n := by
  induction n generalizing v with
  | zero => rfl
  | succ n ih => rw [leBytes, List.length_cons, ih]

theorem flatMap_upto_length {α : Type} {f : Nat → List α} {k : Nat} (h : ∀ i, (f i).length = k) (n : Nat) :
    ((upto n).flatMap f).length = n * k := by
  induction n with
  | zero => exact (Nat.zero_mul k).symm
  | succ n ih =>
    rw [upto, List.range_succ, List.flatMap_append, List.length_append, List.flatMap_singleton, h, Nat.succ_mul]
    exact congrArg (· + k) ih

theorem inventory_length (s : State) (l seq : Nat) : (s.inventory l seq).length = 704 := by
  have floors : ((upto 15).flatMap (fun r => leBytes 2 ((s.slot l).active.floorAt r))).length = 15 * 2 :=
    flatMap_upto_length (fun _ => leBytes_length _ _) 15
  have shares : ((upto 4).flatMap (fun k => (upto 8).flatMap (fun i => leBytes 2 ((s.slot l).active.shareAt k i)))).length = 4 * (8 * 2) :=
    flatMap_upto_length (fun _ => flatMap_upto_length (fun _ => leBytes_length _ _) 8) 4
  have notes : ((upto 64).flatMap (fun i => leBytes 4 (s.settingNote l i))).length = 64 * 4 :=
    flatMap_upto_length (fun _ => leBytes_length _ _) 64
  unfold State.inventory
  simp only [List.length_append, leBytes_length, floors, shares, notes]

theorem inventoryComplete_idle (h : (s.slot l).invBusy = false) : exec (.inventoryComplete l) s = .next s := by
  change execInventoryComplete l s = _
  unfold execInventoryComplete
  dsimp only
  rw [if_neg (by rw [h]; decide)]

theorem inventoryComplete_busy (h : (s.slot l).invBusy = true) : exec (.inventoryComplete l) s = .next (s.setSlot l { s.slot l with
    invBusy := false, invReady := true, invSeq := (s.slot l).invSeq + 1
    invRec := s.inventory l ((s.slot l).invSeq + 1)
      ++ leBytes 64 (identitySign (b2n s.mgt.debugId) (s.inventory l ((s.slot l).invSeq + 1))).toNat }) := by
  change execInventoryComplete l s = _
  unfold execInventoryComplete
  dsimp only
  rw [if_pos h]

end

/-- Settles O18: the cases of `createLocket`, of `swapLocket` and of the two inventory commands, with the slots and channels that the exchange leaves
and the length of the record's body. -/
theorem locketsAreCreatedAndShown : Obligations.LocketsAreCreatedAndShown := by
  refine ⟨fun s q l => ⟨fun d hd hl => ?create, fun h => congrArg _ (withReady_none h), fun d hd ht hl => ?swap, setSwapLocket_other⟩,
    fun s fn l => ⟨fun hr hh => ?go, fun h => ?stays, fun h => ?idle, fun h body hbody => ?shown⟩⟩
  case create =>
    rw [locketCreate_ready hd hl]
    refine ⟨fun h => by rw [createLocket_busy h], fun st ha hs hf hc => by rw [createLocket_failed ha hs hf hc], fun ha hs hf hc => ?_⟩
    obtain ⟨u, eq, active, shadow, state, acct, taken, alone, others⟩ := createLocket_creates ha hs hf hc
    exact ⟨u, by rw [eq], active, shadow, state, acct, taken, alone, others⟩
  case swap =>
    rw [setSwapLocket_ready hd ht]
    refine ⟨fun ha h => congrArg _ (swapLocket_busy hl ha h), fun h => ⟨fun st hc => ?_, fun hc => ⟨?_, ?_, ?_⟩⟩⟩
    · rw [swapLocket_failed hl h hc]
    · rw [swapLocket_passes hl h hc]
    · rw [exchangeLocket_slot, if_pos rfl]
    · rw [exchangeLocket_slot, if_pos rfl]
  case go => exact congrArg Host.Outcome.next ((if_pos hr).trans (if_pos hh))
  case stays =>
    refine congrArg Host.Outcome.next ?_
    obtain h | h := h
    · exact if_neg (by rw [h]; decide)
    · have none_shown : inventoryGo s l = s := if_neg (by rw [h]; decide)
      rw [none_shown, ite_self]
  case idle => exact inventoryComplete_idle h
  case shown =>
    rw [hbody]
    exact ⟨inventory_length _ _ _, inventoryComplete_busy h⟩

end Sys2Proof.Machine
end

section
/-! What a ROLE turns on (`State.roleView`): the cores, the pool and what holds channels out of service, none of which a descriptor that ends or a
queue that goes on changes; and O20, which says how a ROLE to pool and one back to compute begin and end (R411 to R415). -/

namespace Sys2Proof.Machine

/-! ### What a queue leaves of cores, pool and channels -/

/-- A channel's STATE, and all of a channel that has failed or is retired: no access reaches it (R205, R560). -/
def Chan.service (h : Chan) : Nat × Option Chan := (h.state, if h.state = 4 ∨ h.state = 5 then some h else none)

/-- What a ROLE changes: the cores, the pool, and the service of every channel. -/
def State.roleView (s : State) : SMap Core × Pool × (Nat → Nat × Option Chan) := (s.cores, s.pool, fun c => (s.chan c).service)

theorem cores_of_apart {s u : State} (h : u.apart = s.apart) : u.cores = s.cores := congrArg (·.cores) h
theorem pool_of_apart {s u : State} (h : u.apart = s.apart) : u.pool = s.pool := congrArg (·.pool) h

theorem roleView_of {s u : State} (ha : u.apart = s.apart) (hc : ∀ c, (u.chan c).service = (s.chan c).service) : u.roleView = s.roleView :=
  Prod.ext (cores_of_apart ha) (Prod.ext (pool_of_apart ha) (funext hc))

theorem roleView_of_mem {s u : State} (ha : u.apart = s.apart) (hm : u.mem = s.mem) : u.roleView = s.roleView :=
  roleView_of ha fun c => congrArg Chan.service (chan_of_mem hm c)

section
variable {s u : State} (h : u.roleView = s.roleView)
include h

theorem core_of_roleView (n : Nat) : u.core n = s.core n := core_of_cores (congrArg (·.1) h) n
theorem pool_of_roleView : u.pool = s.pool := congrArg (·.2.1) h
theorem state_of_roleView (c : Nat) : (u.chan c).state = (s.chan c).state := congrArg (fun v => (v.2.2 c).1) h

/-- A channel that has failed or is retired is the same channel. -/
theorem chan_of_roleView {c : Nat} (hc : (s.chan c).state = 4 ∨ (s.chan c).state = 5) : u.chan c = s.chan c := by
  have same : (u.chan c).service.2 = (s.chan c).service.2 := congrArg (fun v => (v.2.2 c).2) h
  simpa [Chan.service, state_of_roleView h, hc] using same

end

theorem completeDesc_roleView (s : State) (q idx : Nat) : (completeDesc s q idx).roleView = s.roleView :=
  roleView_of_mem (completeDesc_apart _ _ _) (completeDesc_mem _ _ _)

theorem sendControl_roleView {s t : State} {l dst : Nat} {payload : List (BitVec 8)} {why : Purpose} {o : SendResult}
    (h : sendControl s l dst payload why = (t, o)) : t.roleView = s.roleView := roleView_of_mem (sendControl_apart h) (sendControl_next h)

theorem launchReq_roleView (s : State) (w : Sender) (kind : ReqKind) (place : Place) (dpa len : Nat) (data : List (BitVec 8))
    (set epoch : Nat) : (launchReq s w kind place dpa len data set epoch).roleView = s.roleView := by
  unfold launchReq
  exact (apply_ite State.roleView _ _ _).trans (ite_self _)

theorem finishDesc_roleView (s : State) (q idx status : Nat) (det : BitVec 128) : (finishDesc s q idx status det).roleView = s.roleView := by
  have completes (t : State) (h : t.roleView = s.roleView) : (completeDesc t q idx).roleView = s.roleView := (completeDesc_roleView t q idx).trans h
  unfold finishDesc
  split
  · rfl
  · dsimp only
    split
    · exact completes _ rfl
    · split
      · split
        · split
          · exact launchReq_roleView _ _ _ _ _ _ _ _ _
          · exact completes _ rfl
        · exact completes _ rfl
      · split
        · exact roleView_of_mem (signalAway_apart _ _ _) (signalAway_mem _ _ _)
        · split
          · next h =>
            have sent := sendControl_roleView h
            exact sent
          · next h => exact completes _ (sendControl_roleView h :)

theorem readSector_state (c : Nat) (x : Xmit) (ch : Chan) (sec i : Nat) : (readSector c x ch sec i).1.state = ch.state := by
  have injected : (ch.inject true (i == 0)).1.state = ch.state := by unfold Chan.inject; split <;> rfl
  refine Eq.trans ?_ injected
  unfold readSector
  dsimp only
  repeat' split
  all_goals rfl

theorem settled_state {ch : Chan} {e : Xfer} (sec : Nat) (w : Cause) (he : e ≠ .failed) : (ch.settled sec e w).state = ch.state := by
  cases e with
  | failed => exact absurd rfl he
  | ok => rfl
  | mark | bond => exact (apply_ite Chan.state _ _ _).trans (ite_self _)

theorem service_of_inService {a b : Chan} (h : a.state = b.state) (h4 : b.state ≠ 4) (h5 : b.state ≠ 5) : a.service = b.service := by
  simp [Chan.service, h, h4, h5]

theorem inService_of_chanError {s : State} {c : Nat} {accepted : Bool} (h : s.chanError c accepted = none) :
    (s.chan c).state ≠ 4 ∧ (s.chan c).state ≠ 5 := by
  unfold State.chanError at h
  dsimp only at h
  split at h
  · cases h
  · split at h
    · cases h
    · next ok => simpa using ok

/-- A read over the bond keeps its channel's STATE, and does not come to a channel out of service. -/
theorem homeRead_roleView (s : State) (c sec i : Nat) (x : Xmit) (w : Cause) : (homeRead s c sec i x w).1.roleView = s.roleView := by
  refine roleView_of (homeRead_apart _ _ _ _ _ _) fun d => ?_
  unfold homeRead
  split
  · exact congrArg Chan.service (chan_of_mem (chanAnswers_mem _ _ _) d)
  · next he =>
    obtain ⟨h4, h5⟩ := inService_of_chanError he
    rw [settleXfer_chan]
    split
    · next hd =>
      rw [hd]
      exact service_of_inService ((settled_state _ _ (readSector_ne_failed _ _ _ _ _)).trans (readSector_state _ _ _ _ _)) h4 h5
    · rfl

theorem readRecord_roleView (s : State) (l : Labels) (i : Nat) (x : Xmit) : (readRecord s l i x).1.roleView = s.roleView := by
  unfold readRecord
  dsimp only
  split
  · rfl
  · exact (roleView_of_mem (noteOwn_apart _ _ _ _ _) (noteOwn_mem _ _ _ _ _)).trans (homeRead_roleView _ _ _ _ _ _)

theorem registerWait_roleView (s : State) (l : Labels) (i gen value : Nat) (who : WaitFor) (x : Xmit) :
    (registerWait s l i gen value who x).1.roleView = s.roleView := by
  have read := readRecord_roleView s l i x
  unfold registerWait
  dsimp only
  split
  · rfl
  · split
    all_goals
      next h =>
        rw [h] at read
        repeat' split
        all_goals exact read

theorem waitOutcome_roleView (s : State) (q idx out : Nat) : (waitOutcome s q idx out).roleView = s.roleView := by
  unfold waitOutcome
  split
  case h_4 => exact finishDesc_roleView _ _ _ _ _
  all_goals rfl

theorem startWait_roleView (s : State) (q : Nat) (d : Desc) (x : Xmit) : (startWait s q d x).roleView = s.roleView := by
  unfold startWait
  split
  · rfl
  · split
    · exact (waitOutcome_roleView _ _ _ _).trans (registerWait_roleView _ _ _ _ _ _ _)
    · split
      · next h =>
        have sent := sendControl_roleView h
        exact sent
      · next h => exact (finishDesc_roleView _ _ _ _ _).trans (sendControl_roleView h)

theorem refuseDesc_roleView (s : State) (q idx st : Nat) : (refuseDesc s q idx st).roleView = s.roleView := finishDesc_roleView _ _ _ _ _

theorem askFences_roleView (s : State) (q idx l : Nat) (hs : List Nat) : (askFences s q idx l hs).roleView = s.roleView := by
  induction hs generalizing s with
  | nil => rfl
  | cons h hs ih =>
    unfold askFences
    split
    · next e =>
      have sent := sendControl_roleView e
      exact (ih _).trans sent
    · next e => exact (refuseDesc_roleView _ _ _ _).trans (sendControl_roleView e)

theorem advanceQueue_roleView (s : State) (q fuel : Nat) : (advanceQueue s q fuel).roleView = s.roleView := by
  have updated (t : State) (idx : Nat) (f : Desc → Desc) : (t.updDesc q idx f).roleView = t.roleView := rfl
  induction fuel generalizing s with
  | zero => rfl
  | succ fuel ih =>
    unfold advanceQueue
    dsimp only
    repeat' split
    all_goals simp only [ih, updated, refuseDesc_roleView, askFences_roleView, startWait_roleView]

theorem settle_roleView (s : State) (q : Nat) : (settle s q).roleView = s.roleView := advanceQueue_roleView _ _ _

theorem endDesc_roleView (s : State) (q idx status : Nat) (det : BitVec 128) : (endDesc s q idx status det).roleView = s.roleView :=
  (settle_roleView _ _).trans (finishDesc_roleView _ _ _ _ _)

/-! ### Channels that are scrubbed and cores that are parked -/

/-- A channel whose scrub has started (R220). -/
def Chan.scrubbing (k : Nat) (h : Chan) : Chan := { h with state := 2, initiator := some k }

/-- A parked core (R412). -/
def Core.park (c : Core) : Core := { c with parked := true }

theorem forAll_startScrub_chan (k : Nat) (l : List Nat) (s : State) (c : Nat) :
    (s.forAll l (fun s c => startScrub s c k)).chan c = if c ∈ l then (s.chan c).scrubbing k else s.chan c :=
  forAll_updChan_chan (g := Chan.scrubbing k) (fun _ => rfl) l s c

theorem forAll_startScrub_const {β : Type} (g : State → β) (hg : ∀ t c f, g (State.updChan t c f) = g t) (k : Nat) (l : List Nat) (s : State) :
    g (s.forAll l (fun s c => startScrub s c k)) = g s := forAll_const g (fun _ _ => hg _ _ _) l s

theorem forAll_park_const {β : Type} (g : State → β) (hg : ∀ t n f, g (State.updCore t n f) = g t) (l : List Nat) (s : State) :
    g (s.forAll l (fun s n => s.updCore n Core.park)) = g s := forAll_const g (fun _ _ => hg _ _ _) l s

theorem forAll_park_parked {l : List Nat} (s : State) {n : Nat} (h : n ∈ l ∨ (s.core n).parked = true) :
    ((s.forAll l (fun s n => s.updCore n Core.park)).core n).parked = true := by
  have step (t : State) (m : Nat) (h : n = m ∨ (t.core n).parked = true) : ((t.updCore m Core.park).core n).parked = true := by
    rw [State.updCore_eq, State.core_setCore]
    split
    · rfl
    · next hm => exact h.resolve_left hm
  induction l generalizing s with
  | nil => exact h.resolve_left List.not_mem_nil
  | cons m l ih =>
    refine ih _ ?_
    obtain h | h := h
    · obtain rfl | h := List.mem_cons.1 h
      · exact .inr (step s n (.inl rfl))
      · exact .inl h
    · exact .inr (step s m (.inr h))

theorem mem_goodCores {s : State} {n : Nat} (hn : n < 192) (h : s.coreRetired n = false) : n ∈ s.goodCores :=
  List.mem_filter.2 ⟨List.mem_range.2 hn, by rw [h]; rfl⟩

theorem state_of_not_goodChans {s : State} {c : Nat} (hc : c < 128) (h : c ∉ s.goodChans) : (s.chan c).state = 4 ∨ (s.chan c).state = 5 := by
  refine Decidable.byContradiction fun out => h (List.mem_filter.2 ⟨List.mem_range.2 hc, ?_⟩)
  simpa only [Bool.and_eq_true, bne_iff_ne, not_or] using out

/-! ### ROLE to pool (R411, R412) -/

section
variable {s : State} {q idx : Nat}

/-- The state in which the module enters the pool role with the channels that it has (R412, R415). -/
def roleOpened (s : State) (q idx : Nat) : State := { s with pool := { s.pool with
  state := 1, chans := s.goodChans, role := some (q, idx), recs := [], busy := false, result := 0, record := 0 } }

/-- The state after steps 1 to 3 of R412: the cores are parked, and the channels scrubbed for the descriptor. -/
def roleEntering (s : State) (q idx : Nat) : State :=
  (((roleOpened s q idx).forAll s.goodCores (fun s n => s.updCore n Core.park)).forAll s.goodChans (fun s c => startScrub s c 2)).updDesc q idx
    (fun d => { d with scrubs := s.goodChans })

theorem rolePool_fails {st : Nat} (h : rolePoolCheck s = some st) : rolePool s q idx = endDesc s q idx st 0 := by
  rw [rolePool, h]

theorem rolePool_passes (h : rolePoolCheck s = none) : rolePool s q idx =
    if s.goodChans.isEmpty then roleDone (roleEntering s q idx) q idx else roleEntering s q idx := by
  rw [rolePool, h]
  rfl

theorem roleEntering_pool : (roleEntering s q idx).pool = (roleOpened s q idx).pool :=
  (forAll_startScrub_const State.pool (fun _ _ _ => rfl) 2 _ _).trans (forAll_park_const State.pool (fun _ _ _ => rfl) _ _)

theorem roleEntering_parked {n : Nat} (hn : n < 192) (h : s.coreRetired n = false) : ((roleEntering s q idx).core n).parked = true := by
  have scrubbed : (roleEntering s q idx).core n = ((roleOpened s q idx).forAll s.goodCores (fun s n => s.updCore n Core.park)).core n :=
    forAll_startScrub_const (fun t => t.core n) (fun _ _ _ => rfl) 2 _ _
  rw [scrubbed]
  exact forAll_park_parked _ (.inl (mem_goodCores hn h))

theorem roleEntering_chan (c : Nat) : (roleEntering s q idx).chan c = if c ∈ s.goodChans then (s.chan c).scrubbing 2 else s.chan c := by
  have parked : ((roleOpened s q idx).forAll s.goodCores (fun s n => s.updCore n Core.park)).chan c = s.chan c :=
    forAll_park_const (fun t => t.chan c) (fun _ _ _ => rfl) _ _
  exact (forAll_startScrub_chan 2 s.goodChans _ c).trans (by rw [parked])

/-- A region without a channel forms at once (steps 4 and 5 of R412). -/
theorem roleDone_noChannel (hs : s.pool.state = 1) (hc : s.pool.chans = []) : ∃ p : Pool, p.state = 2 ∧ p.chans = []
    ∧ roleDone s q idx = endDesc { s with pool := p } q idx stOK 0 := by
  refine ⟨{ s.pool with state := 2, role := none, chans := [], genFirst := s.pool.genBase, recs := [] }, rfl, rfl, ?_⟩
  rw [roleDone, if_pos hs, hc]
  rfl

/-- What a ROLE to pool that passes its checks leaves of pool, cores and channels. -/
theorem rolePool_enters (h : rolePoolCheck s = none) : ∃ u : State, (rolePool s q idx).roleView = u.roleView
    ∧ u.pool.state = (if s.goodChans = [] then 2 else 1) ∧ u.pool.chans = s.goodChans
    ∧ (∀ n, n < 192 → s.coreRetired n = false → (u.core n).parked = true)
    ∧ (∀ c, u.chan c = if c ∈ s.goodChans then (s.chan c).scrubbing 2 else s.chan c) := by
  rw [rolePool_passes h]
  by_cases none : s.goodChans = []
  · obtain ⟨p, state, chans, eq⟩ := roleDone_noChannel (s := roleEntering s q idx) (q := q) (idx := idx)
      (congrArg Pool.state roleEntering_pool) ((congrArg Pool.chans roleEntering_pool).trans none)
    rw [if_pos (List.isEmpty_iff.2 none), eq, if_pos none]
    exact ⟨_, endDesc_roleView _ _ _ _ _, state, chans.trans none.symm, fun n => roleEntering_parked, roleEntering_chan⟩
  · rw [if_neg (fun e => none (List.isEmpty_iff.1 e)), if_neg none]
    exact ⟨_, rfl, congrArg Pool.state roleEntering_pool, congrArg Pool.chans roleEntering_pool, fun n => roleEntering_parked, roleEntering_chan⟩

/-! ### ROLE back to compute (R414) -/

/-- The state in which the module has left the region: each of its channels in service is awaited by the ROLE. -/
def roleLeaving (s : State) (q idx : Nat) : State :=
  State.updDesc { s with pool := { s.pool with state := 3, role := some (q, idx), recs := [] } } q idx
    (fun d => { d with scrubs := s.pool.chans.filter (fun c => (s.chan c).state == 1) })

theorem roleCompute_outside (h : s.pool.state ≠ 2) : roleCompute s q idx = endDesc s q idx stARG 0 := if_pos h

theorem roleCompute_taken (hs : s.pool.state = 2) (h : s.pool.recs.any (fun e => e.2.state != 0 && e.2.state != 5) = true) :
    roleCompute s q idx = endDesc s q idx stBUSY 0 := (if_neg (not_not_intro hs)).trans (if_pos h)

theorem roleCompute_leaves (hs : s.pool.state = 2) (h : s.pool.recs.any (fun e => e.2.state != 0 && e.2.state != 5) = false) :
    roleCompute s q idx = if (s.pool.chans.filter (fun c => (s.chan c).state == 1)).isEmpty
      then roleDone (leaveProgress (roleLeaving s q idx)) q idx else leaveProgress (roleLeaving s q idx) :=
  (if_neg (not_not_intro hs)).trans (if_neg (Bool.eq_false_iff.1 h))

theorem leaveProgress_pool : (leaveProgress s).pool = s.pool := by
  unfold leaveProgress
  split
  · exact forAll_startScrub_const State.pool (fun _ _ _ => rfl) 2 _ _
  · rfl

/-- A channel of the region that is in service is scrubbed unless a request is outstanding there. -/
theorem leaveProgress_state (hs : s.pool.state = 3) {c : Nat} (hc : c ∈ s.pool.chans) (h1 : (s.chan c).state = 1) :
    ((leaveProgress s).chan c).state = if s.chanBusy c = true then 1 else 2 := by
  rw [leaveProgress, if_pos hs, forAll_startScrub_chan]
  by_cases busy : s.chanBusy c = true
  · rw [if_neg (by simp [busy]), if_pos busy, h1]
  · rw [if_pos (List.mem_filter.2 ⟨hc, by simp [h1, busy]⟩), if_neg busy]
    rfl

/-- The end of step 4 of R414. -/
theorem roleDone_leaving (hs : s.pool.state = 3) : ∃ v : State, v.pool.state = 0 ∧ roleDone s q idx = endDesc v q idx stOK 0 := by
  refine ⟨_, ?_, (if_neg (by rw [hs]; decide)).trans (if_pos hs)⟩
  refine forAll_const (·.pool.state) ?_ _ _
  exact fun _ _ => rfl

/-- What a ROLE back to compute that is accepted leaves of the pool and of the channels of its region. -/
theorem roleCompute_changes (hs : s.pool.state = 2) (h : s.pool.recs.any (fun e => e.2.state != 0 && e.2.state != 5) = false) :
    ∃ u : State, (roleCompute s q idx).roleView = u.roleView
      ∧ u.pool.state = (if s.pool.chans.any (fun c => (s.chan c).state == 1) then 3 else 0)
      ∧ (∀ c, c ∈ s.pool.chans → (s.chan c).state = 1 → (u.chan c).state = if s.chanBusy c = true then 1 else 2) := by
  have left : (leaveProgress (roleLeaving s q idx)).pool.state = 3 := congrArg Pool.state leaveProgress_pool
  rw [roleCompute_leaves hs h]
  by_cases serves : s.pool.chans.any (fun c => (s.chan c).state == 1) = true
  · obtain ⟨c, hc, h1⟩ := List.any_eq_true.1 serves
    rw [if_neg (fun e => List.not_mem_nil (List.isEmpty_iff.1 e ▸ List.mem_filter.2 ⟨hc, h1⟩)), if_pos serves]
    exact ⟨_, rfl, left, fun c hc h1 => leaveProgress_state (s := roleLeaving s q idx) rfl hc h1⟩
  · obtain ⟨v, hv, eq⟩ := roleDone_leaving (q := q) (idx := idx) left
    have none (c : Nat) (hc : c ∈ s.pool.chans) : ¬(s.chan c).state = 1 := fun h1 => serves (List.any_eq_true.2 ⟨c, hc, beq_iff_eq.2 h1⟩)
    rw [if_pos (List.isEmpty_iff.2 (List.filter_eq_nil_iff.2 fun c hc e => none c hc (beq_iff_eq.1 e))), eq, if_neg serves]
    exact ⟨v, endDesc_roleView _ _ _ _ _, hv, fun c hc h1 => absurd h1 (none c hc)⟩

end

/-! ### The commands -/

section
variable {s : State} {q : SqIx} {d : Desc}

theorem execRolePool_ready (h : s.ready q 0x2A = some d) : exec (.rolePool q) s = .next
    (if bit (d.f 32 1) 0 then settle (rolePool (beginDesc s q d.idx) q d.idx) q else s) := congrArg Host.Outcome.next (withReady_some h)

theorem execRoleCompute_ready (h : s.ready q 0x2A = some d) : exec (.roleCompute q) s = .next
    (if bit (d.f 32 1) 0 then s else settle (roleCompute (beginDesc s q d.idx) q d.idx) q) := congrArg Host.Outcome.next (withReady_some h)

end

/-- Settles O20: the cases of `rolePool` and `roleCompute`, whose queue then goes on without touching what they did (`settle_roleView`). -/
theorem rolesChange : Obligations.RolesChange := by
  refine fun s q => ⟨fun d hd => ?_, fun h => ⟨congrArg _ (withReady_none h), congrArg _ (withReady_none h)⟩⟩
  rw [execRolePool_ready hd, execRoleCompute_ready hd]
  refine ⟨fun hb => ?pool, fun hb => ?compute⟩
  case pool =>
    rw [if_pos hb, if_pos hb]
    refine ⟨fun st h => by rw [rolePool_fails h], fun h => ⟨_, rfl, ?_⟩, rfl⟩
    obtain ⟨u, kept, state, chans, parked, chan⟩ := rolePool_enters (q := q) (idx := d.idx) h
    have view := (settle_roleView _ q).trans kept
    refine ⟨(congrArg Pool.state (pool_of_roleView view)).trans state, (congrArg Pool.chans (pool_of_roleView view)).trans chans,
      fun n hn hr => ?_, fun c hc => ?_, fun c hc hg => ?_⟩
    · rw [core_of_roleView view]
      exact parked n hn hr
    · exact (state_of_roleView view c).trans (congrArg Chan.state ((chan c).trans (if_pos hc)))
    · have same : u.chan c = s.chan c := (chan c).trans (if_neg hg)
      exact (chan_of_roleView view (same ▸ state_of_not_goodChans hc hg)).trans same
  case compute =>
    have hb := Bool.eq_false_iff.1 hb
    rw [if_neg hb, if_neg hb]
    have settled {t u : State} (h : t = u) : Host.Outcome.next (settle t q) = (.next (settle u q) : Res) := by rw [h]
    refine ⟨rfl, fun h => settled (roleCompute_outside h), fun hs h => settled (roleCompute_taken hs h), fun hs h => ⟨_, rfl, ?_⟩⟩
    obtain ⟨u, kept, state, chan⟩ := roleCompute_changes (s := beginDesc s q d.idx) (q := q) (idx := d.idx) hs h
    have view := (settle_roleView _ q).trans kept
    exact ⟨(congrArg Pool.state (pool_of_roleView view)).trans state, fun c hc h1 => (state_of_roleView view c).trans (chan c hc h1)⟩

end Sys2Proof.Machine
end

section
/-! Home records and the commands of a pool module (R415 to R417, R420, R422, R427); and O24, which says what ALLOC, REVOKE, FREE and the end of a
block's clearing make of them. -/

namespace Sys2Proof.Machine

/-! ### Records and their operations (R416, R417, R420) -/

/-- GEN skips 0 and never stays (R417). -/
theorem leaseGen_advances {g : Nat} (h : g < 2 ^ 32) : leaseGen g ≠ 0 ∧ leaseGen g < 2 ^ 32 ∧ leaseGen g ≠ g := by
  unfold leaseGen
  split <;> omega

section
variable (s : State) (b : Nat)

theorem homeRec_setHomeRec (r : HomeRec) (k : Nat) : (s.setHomeRec b r).homeRec k = if k = b then r else s.homeRec k :=
  SMap.get_set (homeD s.pool) s.pool.recs b r k

@[simp] theorem homeRec_setHomeRec_same (r : HomeRec) : (s.setHomeRec b r).homeRec b = r :=
  (homeRec_setHomeRec s b r b).trans (if_pos rfl)

theorem homeRec_setHomeRec_other (r : HomeRec) {k : Nat} (h : k ≠ b) : (s.setHomeRec b r).homeRec k = s.homeRec k :=
  (homeRec_setHomeRec s b r k).trans (if_neg h)

/-- What performing an operation whose condition holds leaves: the new record, at its block. -/
def recordSet (r : HomeRec) : State × Bool × HomeRec := (s.setHomeRec b r, true, r)

/-- An operation whose condition does not hold changes nothing. -/
def recordRefused : State × Bool × HomeRec := (s, false, s.homeRec b)

theorem recordOp_alloc (l : Nat) : recordOp s b (.alloc l) =
    if (s.homeRec b).state = 0 ∧ s.holdsLocket l = true then recordSet s b { s.homeRec b with locket := l, state := 1 } else recordRefused s b := by
  unfold recordOp RecordOp.apply
  by_cases h : (s.homeRec b).state = 0 <;> cases hl : s.holdsLocket l <;> simp [h, hl, recordSet, recordRefused]

theorem recordOp_revoke : recordOp s b .revoke =
    if (s.homeRec b).state = 2 ∨ (s.homeRec b).state = 3 then
      recordSet s b { s.homeRec b with gen := leaseGen (s.homeRec b).gen, state := 1, pend := 0 } else recordRefused s b := by
  unfold recordOp RecordOp.apply
  by_cases h : (s.homeRec b).state = 2 ∨ (s.homeRec b).state = 3 <;> simp [h, recordSet, recordRefused]

theorem recordOp_free : recordOp s b .free =
    if (s.homeRec b).state = 1 ∨ (s.homeRec b).state = 2 ∨ (s.homeRec b).state = 3 then
      recordSet s b { s.homeRec b with gen := leaseGen (s.homeRec b).gen, state := 4, pend := 0 } else recordRefused s b := by
  unfold recordOp RecordOp.apply
  by_cases h : (s.homeRec b).state = 1 ∨ (s.homeRec b).state = 2 ∨ (s.homeRec b).state = 3 <;> simp [h, or_assoc, recordSet, recordRefused]

end

/-! ### A command of the host on a block (R415, R422, R427) -/

section
variable {s : State} {b : Nat} {op : RecordOp}

theorem poolCommand_ignored (h : s.pool.busy = true) : poolCommand s b op = s := if_pos h

/-- The state in which a command runs on, for a block that is cleared or for one whose requests it awaits (R422). -/
def poolRuns (t : State) (clearing revoking : Option Nat) : State :=
  { t with pool := { t.pool with busy := true, clearing := clearing, revoking := revoking } }

theorem poolRuns_homeRec (t : State) (clearing revoking : Option Nat) (k : Nat) : (poolRuns t clearing revoking).homeRec k = t.homeRec k := rfl

/-- What a command that its record allows leaves. -/
def poolPerformed (t : State) (b : Nat) (r : HomeRec) : RecordOp → State
  | .free => poolRuns t (some b) t.pool.revoking
  | .revoke => if t.blockBusy b then poolRuns t t.pool.clearing (some b) else poolResult t 0 r.word
  | _ => poolResult t 0 r.word

theorem poolPerformed_revokeWaits {t : State} {r : HomeRec} (h : t.blockBusy b = true) :
    poolPerformed t b r .revoke = poolRuns t t.pool.clearing (some b) := if_pos h

theorem poolPerformed_revokeEnds {t : State} {r : HomeRec} (h : t.blockBusy b = false) :
    poolPerformed t b r .revoke = poolResult t 0 r.word := if_neg (Bool.eq_false_iff.1 h)

section
variable (hb : s.pool.busy = false)
include hb

theorem poolCommand_noPool (hs : s.pool.state ≠ 2) : poolCommand s b op = poolResult s 3 0 :=
  (if_neg (Bool.eq_false_iff.1 hb)).trans (if_pos hs)

variable (hs : s.pool.state = 2)
include hs

theorem poolCommand_unexported (h : b < s.pool.recordBlocks ∨ s.pool.blocks ≤ b) :
    poolCommand s b op = poolResult s 2 (if b < s.pool.blocks then (s.homeRec b).word else 0) :=
  (if_neg (Bool.eq_false_iff.1 hb)).trans ((if_neg (not_not_intro hs)).trans (if_pos h))

variable (hr : s.pool.recordBlocks ≤ b) (hx : b < s.pool.blocks)
include hr hx

theorem poolCommand_exported {t : State} {ok : Bool} {r : HomeRec} (h : recordOp s b op = (t, ok, r)) :
    poolCommand s b op = if ok = true then poolPerformed t b r op else poolResult t 1 r.word := by
  have exported : ¬(b < s.pool.recordBlocks ∨ s.pool.blocks ≤ b) := by omega
  unfold poolCommand
  rw [hb, if_neg Bool.false_ne_true, if_neg (not_not_intro hs), if_neg exported, h]
  cases ok with
  | false => rfl
  | true => cases op <;> rfl

theorem poolCommand_performs {r : HomeRec} (h : recordOp s b op = recordSet s b r) :
    poolCommand s b op = poolPerformed (s.setHomeRec b r) b r op := poolCommand_exported hb hs hr hx h

theorem poolCommand_refuses (h : recordOp s b op = recordRefused s b) : poolCommand s b op = poolResult s 1 (s.homeRec b).word :=
  poolCommand_exported hb hs hr hx h

end

/-- A REVOKE that waits ends when the last request under the old GEN has been performed (R422). -/
theorem poolProgress_revoked (hr : s.pool.revoking = some b) (hb : s.blockBusy b = false) :
    poolProgress s = poolResult s 0 (s.homeRec b).word := by
  rw [poolProgress, hr]
  exact if_neg (Bool.eq_false_iff.1 hb)

/-! ### The end of a block's clearing (R420, R422) -/

/-- Zeros over a block change channels alone. -/
theorem zeroBlock_const {β : Type} (g : State → β) (hg : ∀ t c f, g (State.updChan t c f) = g t) : g (zeroBlock s b) = g s :=
  forAll_const g (fun _ _ => hg _ _ _) _ _

/-- The state in which a cleared block is FREE, before a teardown that waited for it goes on. -/
def blockFreed (s : State) (b : Nat) : State :=
  let s1 := (zeroBlock s b).setHomeRec b { s.homeRec b with state := 0, owner := 0, locket := 0, pend := 0 }
  let s2 : State := { s1 with pool := { s1.pool with freeCmds := s1.pool.freeCmds.filter (· != b) } }
  if s2.pool.clearing = some b then poolResult s2 0 (s2.homeRec b).word else s2

theorem blockCleared_frees (h4 : (s.homeRec b).state = 4) (hb : s.blockBusy b = false) : blockCleared s b = teardownFreed (blockFreed s b) :=
  if_pos (by simp [h4, hb])

theorem blockCleared_waits (h : (s.homeRec b).state ≠ 4 ∨ s.blockBusy b = true) : blockCleared s b = s :=
  if_neg (by obtain h | h := h <;> simp [h])

theorem zeroBlock_pool : (zeroBlock s b).pool = s.pool := zeroBlock_const State.pool fun _ _ _ => rfl

theorem blockFreed_homeRec (k : Nat) : (blockFreed s b).homeRec k =
    if k = b then { s.homeRec b with state := 0, owner := 0, locket := 0, pend := 0 } else s.homeRec k := by
  have cleared : (zeroBlock s b).homeRec k = s.homeRec k := congrArg (fun p : Pool => SMap.get (homeD p) p.recs k) zeroBlock_pool
  have set := homeRec_setHomeRec (zeroBlock s b) b { s.homeRec b with state := 0, owner := 0, locket := 0, pend := 0 } k
  rw [cleared] at set
  unfold blockFreed
  dsimp only
  split <;> exact set

/-- Outside the pool and the channels nothing changes. -/
theorem blockFreed_rest : (blockFreed s b).cores = s.cores ∧ (blockFreed s b).tasks = s.tasks ∧ (blockFreed s b).que = s.que
    ∧ (blockFreed s b).lkt = s.lkt ∧ (blockFreed s b).mem.chans = (zeroBlock s b).mem.chans := by
  have rest : (blockFreed s b).cores = (zeroBlock s b).cores ∧ (blockFreed s b).tasks = (zeroBlock s b).tasks
      ∧ (blockFreed s b).que = (zeroBlock s b).que ∧ (blockFreed s b).lkt = (zeroBlock s b).lkt
      ∧ (blockFreed s b).mem.chans = (zeroBlock s b).mem.chans := by
    unfold blockFreed
    dsimp only
    split <;> exact ⟨rfl, rfl, rfl, rfl, rfl⟩
  obtain ⟨cores, tasks, que, lkt, chans⟩ := rest
  exact ⟨cores.trans (zeroBlock_const State.cores fun _ _ _ => rfl), tasks.trans (zeroBlock_const State.tasks fun _ _ _ => rfl),
    que.trans (zeroBlock_const State.que fun _ _ _ => rfl), lkt.trans (zeroBlock_const State.lkt fun _ _ _ => rfl), chans⟩

/-- The block leaves the list of a teardown, and a FREE command that asked for the clearing ends. -/
theorem blockFreed_pool : (blockFreed s b).pool.busy = (s.pool.busy && s.pool.clearing != some b)
    ∧ (blockFreed s b).pool.freeCmds = s.pool.freeCmds.filter (· != b) ∧ (s.pool.clearing = some b → (blockFreed s b).pool.result = 0) := by
  have pool := zeroBlock_pool (s := s) (b := b)
  unfold blockFreed
  dsimp only [State.setHomeRec]
  rw [pool]
  by_cases h : s.pool.clearing = some b
  · rw [if_pos h]
    exact ⟨by simp [poolResult, h], rfl, fun _ => rfl⟩
  · rw [if_neg h]
    exact ⟨by simp [h], rfl, fun e => absurd e h⟩

theorem teardownFreed_none (h : ∀ l t, (s.slot l).teardown = some t → t.step ≠ 5) : teardownFreed s = s := by
  unfold teardownFreed
  split
  · rw [List.filter_eq_nil_iff.2 fun l _ => ?_]
    · rfl
    · split
      · next t ht => simp [h l t ht]
      · exact Bool.false_ne_true
  · rfl

end

/-! ### The commands -/

section
variable {s : State} {l : SlotIx} {b : BitVec 19}

theorem poolCommands_answered (h : s.pfAnswers = true) : exec (.alloc l b) s = .next (poolCommand s b.toNat (.alloc l))
    ∧ exec (.revoke b) s = .next (poolCommand s b.toNat .revoke) ∧ exec (.free b) s = .next (poolCommand s b.toNat .free) :=
  ⟨congrArg Host.Outcome.next (if_pos h), congrArg Host.Outcome.next (if_pos h), congrArg Host.Outcome.next (if_pos h)⟩

theorem poolCommands_ignored (h : s.pfAnswers = false ∨ s.pool.busy = true) :
    exec (.alloc l b) s = .next s ∧ exec (.revoke b) s = .next s ∧ exec (.free b) s = .next s := by
  have stays (op : RecordOp) : (if s.pfAnswers = true then poolCommand s b.toNat op else s) = s := by
    obtain h | h := h
    · rw [h, if_neg Bool.false_ne_true]
    · rw [poolCommand_ignored h, ite_self]
  exact ⟨congrArg Host.Outcome.next (stays _), congrArg Host.Outcome.next (stays _), congrArg Host.Outcome.next (stays _)⟩

end

/-- Settles O24: the cases of `poolCommand` with what each operation makes of a record (`recordOp_alloc`, `recordOp_revoke`, `recordOp_free`), and
what the end of a clearing leaves (`blockFreed`). -/
theorem poolCommandsChangeRecords : Obligations.PoolCommandsChangeRecords := by
  refine ⟨fun s l b r hp hb hr g hg go hgo => ?commands, fun s l b => poolCommands_ignored, fun s b => ⟨?waits, ?frees, ?alone⟩,
    fun g => leaseGen_advances⟩
  case commands =>
    subst hr hg
    obtain ⟨alloc, revoke, free⟩ := poolCommands_answered (l := l) (b := b) hp
    refine ⟨by rw [alloc, hgo], by rw [revoke, hgo], by rw [free, hgo], fun hs op => by rw [hgo, poolCommand_noPool hb hs],
      fun hs => ⟨fun hx op => ?beyond, fun hr hx op => ?records, fun hr hx => ?exported⟩⟩
    case beyond => rw [hgo, poolCommand_unexported hb hs (.inr hx), if_neg (by omega)]
    case records => rw [hgo, poolCommand_unexported hb hs (.inl hr), if_pos hx]
    case exported =>
      have performs {op : RecordOp} {r : HomeRec} (h : recordOp s b.toNat op = recordSet s b.toNat r) :
          go op = poolPerformed (s.setHomeRec b.toNat r) b.toNat r op := (hgo op).trans (poolCommand_performs hb hs hr hx h)
      have refuses {op : RecordOp} (h : recordOp s b.toNat op = recordRefused s b.toNat) :
          go op = poolResult s 1 (s.homeRec b.toNat).word := (hgo op).trans (poolCommand_refuses hb hs hr hx h)
      refine ⟨fun h0 hl => ?_, fun h => ?_, fun h idle => ?_, fun h busy u hu => ?_, fun h2 h3 => ?_, fun h => ?_, fun h1 h2 h3 => ?_⟩
      · exact performs ((recordOp_alloc _ _ _).trans (if_pos ⟨h0, hl⟩))
      · refine refuses ((recordOp_alloc _ _ _).trans (if_neg fun ⟨h0, hl⟩ => ?_))
        exact h.elim (fun h => h h0) (fun h => Bool.eq_false_iff.1 h hl)
      · exact (performs ((recordOp_revoke _ _).trans (if_pos h))).trans (poolPerformed_revokeEnds idle)
      · obtain rfl := hu.trans ((performs ((recordOp_revoke _ _).trans (if_pos h))).trans (poolPerformed_revokeWaits busy))
        exact ⟨(poolRuns_homeRec _ _ _ _).trans (homeRec_setHomeRec_same _ _ _), rfl, rfl, rfl,
          fun k hk => (poolRuns_homeRec _ _ _ _).trans (homeRec_setHomeRec_other _ _ _ hk),
          fun v hv => poolProgress_revoked (congrArg Pool.revoking hv)⟩
      · exact refuses ((recordOp_revoke _ _).trans (if_neg (not_or.2 ⟨h2, h3⟩)))
      · exact ⟨_, performs ((recordOp_free _ _).trans (if_pos h)), (poolRuns_homeRec _ _ _ _).trans (homeRec_setHomeRec_same _ _ _), rfl, rfl, rfl,
          fun k hk => (poolRuns_homeRec _ _ _ _).trans (homeRec_setHomeRec_other _ _ _ hk)⟩
      · exact refuses ((recordOp_free _ _).trans (if_neg (by simp [h1, h2, h3])))
  case waits => exact fun h => congrArg Host.Outcome.next (blockCleared_waits h)
  case frees =>
    intro h4 idle
    obtain ⟨busy, freeCmds, result⟩ := blockFreed_pool (s := s) (b := b.toNat)
    obtain ⟨cores, tasks, que, -, chans⟩ := blockFreed_rest (s := s) (b := b.toNat)
    exact ⟨_, congrArg Host.Outcome.next (blockCleared_frees h4 idle), (blockFreed_homeRec _).trans (if_pos rfl), busy, freeCmds, result,
      cores, tasks, que, fun k hk => (blockFreed_homeRec k).trans (if_neg hk), chans⟩
  case alone =>
    intro h4 idle clears steps
    obtain ⟨busy, -, result⟩ := blockFreed_pool (s := s) (b := b.toNat)
    obtain ⟨cores, -, -, lkt, -⟩ := blockFreed_rest (s := s) (b := b.toNat)
    have slot (l : Nat) : (blockFreed s b.toNat).slot l = s.slot l := congrArg (fun x : Lkt => SMap.get slotD x.slots l) lkt
    have ended : teardownFreed (blockFreed s b.toNat) = blockFreed s b.toNat := teardownFreed_none fun l t h => steps l t (slot l ▸ h)
    exact ⟨_, congrArg Host.Outcome.next ((blockCleared_frees h4 idle).trans ended), (blockFreed_homeRec _).trans (if_pos rfl),
      busy.trans (by simp [clears]), result clears, cores, fun k hk => (blockFreed_homeRec k).trans (if_neg hk)⟩

end Sys2Proof.Machine
end

section
/-! The lease table and its commands (R418, R420, R421, R424, R425, R428, R455); and O25, which says what each command and the probe timeout make of
the table. -/

namespace Sys2Proof.Machine

/-! ### The lease table (R418) -/

section
variable {s u : State}

theorem leaseHit_of_leases (h : u.pool.leases = s.pool.leases) (m b l : Nat) : u.leaseHit m b l = s.leaseHit m b l :=
  congrArg (List.find? (fun e : Lease => e.is m b l)) h

/-- An entry that is hit names the module, the block and the Locket. -/
theorem is_of_leaseHit {m b l : Nat} {e : Lease} (h : s.leaseHit m b l = some e) : e.pool = m ∧ e.block = b ∧ e.locket = l := by
  have named := List.find?_some h
  simpa [and_assoc] using named

/-- An entry that is put in the table is the one that is hit. -/
theorem leaseHit_putLease (e : Lease) : (putLease s e).leaseHit e.pool e.block e.locket = some e := by
  have gone : (s.pool.leases.filter (fun x => !x.is e.pool e.block e.locket)).find? (fun x => x.is e.pool e.block e.locket) = none :=
    List.find?_eq_none.2 fun x hx => by simpa using (List.mem_filter.1 hx).2
  have own : e.is e.pool e.block e.locket = true := by simp [Lease.is]
  change (s.pool.leases.filter _ ++ [e]).find? (fun x => x.is e.pool e.block e.locket) = some e
  rw [List.find?_append, gone, Option.none_or, List.find?_singleton, if_pos own]

/-- An entry takes another state in its place. -/
theorem leaseHit_restated {m b l : Nat} {e : Lease} (h : s.leaseHit m b l = some e) (k : Nat) :
    (putLease u { e with state := k }).leaseHit m b l = some { e with state := k } := by
  obtain ⟨rfl, rfl, rfl⟩ := is_of_leaseHit h
  exact leaseHit_putLease { e with state := k }

end

/-! ### Operations that are sent, and requests that are given up -/

section
variable {s : State}

/-- A record operation that is sent leaves the table and BUSY as they are. -/
theorem leaseSend_pool (c : LeaseCmd) (op : Nat) :
    (leaseSend s c op).pool.leases = s.pool.leases ∧ (leaseSend s c op).pool.lbusy = s.pool.lbusy := by
  unfold leaseSend
  dsimp only
  split
  all_goals
    next h =>
      have kept := pool_of_apart (sendControl_apart h)
      exact ⟨congrArg (·.leases) kept, congrArg (·.lbusy) kept⟩

theorem releaseOne_apart (q : Nat) (t : Tracked) : (releaseOne s q t).apart = s.apart := ite_apart rfl (track_apart _ _ _)

theorem untrack_apart (r : Nat) : (untrack s r).apart = s.apart :=
  (forAll_const State.apart (fun _ _ => releaseOne_apart _ _) _ _).trans (forAll_const State.apart (fun _ _ => updDyn_apart _ _ _) _ _)

theorem orphanEvent_pool (e : Lease) (port op : Nat) : (orphanEvent s e port op).pool = s.pool :=
  pool_of_apart (postEvent_apart _ _)

end

/-! ### A lease command (R420, R421, R428, R455) -/

/-- The command of MEM_LEASE_CMD with MEM_LEASE_ARG as it stands, its operation about to be sent. -/
def State.leaseCmd (s : State) (op block : Nat) : LeaseCmd :=
  { op := op, block := block, pool := s.pool.argPool, locket := s.pool.argLocket, target := s.pool.argTarget, stage := 1 }

/-- The state in which command `c` has begun. -/
def leaseBegun (s : State) (c : LeaseCmd) : State := { s with pool := { s.pool with lbusy := true, lgen := 0, cmd := some c } }

/-- The state in which command `c` waits for the answers of its lease. -/
def leaseAwaits (s : State) (c : LeaseCmd) : State := { s with pool := { s.pool with cmd := some { c with stage := 0 } } }

/-- The state in which entry `e` is handed over: GRANTING, unless it is ORPHANED (R421, R424). -/
def leaseHanded (s : State) (e : Lease) : State := if e.state = 3 then s else putLease s { e with state := 1 }

/-- What ACCEPT, PROBE, GRANT and RELEASE come to for a Locket that is not torn down. -/
def leaseServed (s : State) (op block : Nat) : State :=
  let c := s.leaseCmd op block
  let hit := s.leaseHit s.pool.argPool block s.pool.argLocket
  if op = 1 then (if hit.isNone && decide (leaseEntries ≤ s.pool.leases.length) then leaseResult s 5 0 else leaseSend (leaseBegun s c) c 1)
  else if op = 4 then leaseSend (leaseBegun s c) c 4
  else hit.elim (leaseResult s 4 0) fun e => leaseProgress (leaseAwaits (leaseHanded (leaseBegun s c) e) c)

section
variable {s : State} {op block : Nat}

theorem leaseCommand_ignored (h : s.pool.lbusy = true) : leaseCommand s op block = s := if_pos h

section
variable (hb : s.pool.lbusy = false)
include hb

theorem leaseCommand_tornDown (h : 2 ≤ (s.slot s.pool.argLocket).state) : leaseCommand s op block = leaseResult s 4 0 := by
  unfold leaseCommand
  dsimp only
  rw [hb, if_neg Bool.false_ne_true, if_pos (decide_eq_true h)]

variable (hs : (s.slot s.pool.argLocket).state < 2)
include hs

theorem leaseCommand_open : leaseCommand s op block =
    if op = 5 then leaseResult (dropLease s s.pool.argPool block s.pool.argLocket) 7 0
    else if s.holdsLocket s.pool.argLocket = true then leaseServed s op block else leaseResult s 4 0 := by
  have running : ¬decide (2 ≤ (s.slot s.pool.argLocket).state) = true := by simpa using hs
  unfold leaseCommand
  dsimp only
  rw [hb, if_neg Bool.false_ne_true, if_neg running]
  unfold leaseServed
  dsimp only
  cases s.holdsLocket s.pool.argLocket
  · rfl
  · cases s.leaseHit s.pool.argPool block s.pool.argLocket <;> rfl

theorem leaseCommand_drop : leaseCommand s 5 block = leaseResult (dropLease s s.pool.argPool block s.pool.argLocket) 7 0 :=
  (leaseCommand_open hb hs).trans (if_pos rfl)

theorem leaseCommand_noLocket (hop : op ≠ 5) (hl : s.holdsLocket s.pool.argLocket = false) : leaseCommand s op block = leaseResult s 4 0 :=
  (leaseCommand_open hb hs).trans ((if_neg hop).trans (if_neg (Bool.eq_false_iff.1 hl)))

theorem leaseCommand_serves (hop : op ≠ 5) (hl : s.holdsLocket s.pool.argLocket = true) : leaseCommand s op block = leaseServed s op block :=
  (leaseCommand_open hb hs).trans ((if_neg hop).trans (if_pos hl))

end

theorem leaseServed_accept (h : (s.leaseHit s.pool.argPool block s.pool.argLocket).isSome ∨ s.pool.leases.length < leaseEntries) :
    leaseServed s 1 block = leaseSend (leaseBegun s (s.leaseCmd 1 block)) (s.leaseCmd 1 block) 1 := by
  refine if_neg ?_
  rw [Bool.and_eq_true, decide_eq_true_eq, Option.isNone_iff_eq_none]
  rintro ⟨none, full⟩
  exact h.elim (fun h => by rw [none] at h; cases h) (fun h => by omega)

theorem leaseServed_full (hn : s.leaseHit s.pool.argPool block s.pool.argLocket = none) (hf : leaseEntries ≤ s.pool.leases.length) :
    leaseServed s 1 block = leaseResult s 5 0 := if_pos (by rw [hn, decide_eq_true hf]; rfl)

section
variable (hop : op = 2 ∨ op = 3)
include hop

theorem leaseServed_other : leaseServed s op block = (s.leaseHit s.pool.argPool block s.pool.argLocket).elim (leaseResult s 4 0)
    fun e => leaseProgress (leaseAwaits (leaseHanded (leaseBegun s (s.leaseCmd op block)) e) (s.leaseCmd op block)) :=
  (if_neg (by omega)).trans (if_neg (by omega))

theorem leaseServed_unknown (h : s.leaseHit s.pool.argPool block s.pool.argLocket = none) : leaseServed s op block = leaseResult s 4 0 := by
  rw [leaseServed_other hop, h]
  rfl

theorem leaseServed_hands {e : Lease} (h : s.leaseHit s.pool.argPool block s.pool.argLocket = some e) : leaseServed s op block =
    leaseProgress (leaseAwaits (leaseHanded (leaseBegun s (s.leaseCmd op block)) e) (s.leaseCmd op block)) := by
  rw [leaseServed_other hop, h]
  rfl

end

/-- A command waits as long as a request under its lease is unanswered, and then sends (R421). -/
theorem leaseProgress_awaits (c : LeaseCmd) (hc : c.stage = 1) : leaseProgress (leaseAwaits s c) =
    if s.leaseUnanswered c = true then leaseAwaits s c else leaseSend (leaseAwaits s c) c c.op := by
  have same : (leaseAwaits s c).leaseUnanswered { c with stage := 0 } = s.leaseUnanswered c := rfl
  have sent : ({ c with stage := 1 } : LeaseCmd) = c := by rw [← hc]
  have eq : leaseProgress (leaseAwaits s c) =
      if (!(leaseAwaits s c).leaseUnanswered { c with stage := 0 }) = true then leaseSend (leaseAwaits s c) { c with stage := 1 } c.op
      else leaseAwaits s c := rfl
  rw [eq, same, sent]
  cases s.leaseUnanswered c <;> rfl

theorem leaseHanded_lbusy (e : Lease) : (leaseHanded s e).pool.lbusy = s.pool.lbusy := by
  unfold leaseHanded
  split <;> rfl

theorem leaseHanded_hit {u : State} {m b l : Nat} {e : Lease} (h : s.leaseHit m b l = some e) (hu : u.pool.leases = s.pool.leases) :
    (leaseHanded u e).leaseHit m b l = some (if e.state = 3 then e else { e with state := 1 }) := by
  unfold leaseHanded
  split
  · exact (leaseHit_of_leases hu m b l).trans h
  · exact leaseHit_restated h 1

theorem leaseHanded_unanswered (c : LeaseCmd) (e : Lease) : (leaseHanded (leaseBegun s c) e).leaseUnanswered c = s.leaseUnanswered c := by
  unfold leaseHanded
  split <;> rfl

/-- Whether it waits or has sent, a command on its way leaves the table and BUSY as they are. -/
theorem leaseProgress_pool (c : LeaseCmd) (hc : c.stage = 1) : (leaseProgress (leaseAwaits s c)).pool.leases = s.pool.leases
    ∧ (leaseProgress (leaseAwaits s c)).pool.lbusy = s.pool.lbusy := by
  rw [leaseProgress_awaits c hc]
  split
  · exact ⟨rfl, rfl⟩
  · exact leaseSend_pool (s := leaseAwaits s c) c c.op

/-! ### PROBE_US passes without an answer (R424, R425) -/

theorem leaseTimeout_idle (h : s.pool.cmd = none) : leaseTimeout s = s := by
  rw [leaseTimeout, h]

section
variable {k : LeaseCmd} (h : s.pool.cmd = some k)
include h

theorem leaseTimeout_probes (h1 : k.stage = 1) : leaseTimeout s = leaseSend (untrack s k.reqid) { k with stage := 2 } 4 := by
  rw [leaseTimeout, h]
  exact if_pos h1

theorem leaseTimeout_early (h0 : k.stage = 0 ∨ 2 < k.stage) : leaseTimeout s = s := by
  rw [leaseTimeout, h]
  exact (if_neg (by omega)).trans (if_neg (by omega))

/-- The entry that the lost command leaves: the one that was hit, or a new one, ORPHANED (R424). -/
def State.orphan (s : State) (k : LeaseCmd) : Lease :=
  { (s.leaseHit k.pool k.block k.locket).getD { pool := k.pool, block := k.block, locket := k.locket, gen := 0, state := 3 } with state := 3 }

theorem leaseTimeout_orphans (h2 : k.stage = 2) (hr : s.leaseHit k.pool k.block k.locket ≠ none ∨ s.pool.leases.length < leaseEntries) :
    leaseTimeout s = leaseResult (orphanEvent (putLease (untrack s k.reqid) (s.orphan k)) (s.orphan k) k.port k.op) 6 0 := by
  have room : ((s.leaseHit k.pool k.block k.locket).isSome || decide (s.pool.leases.length < leaseEntries)) = true := by
    rw [Bool.or_eq_true, decide_eq_true_eq, Option.isSome_iff_ne_none]
    exact hr
  unfold leaseTimeout State.orphan
  rw [h]
  dsimp only
  rw [if_neg (by omega), if_pos h2, if_pos room]
  cases s.leaseHit k.pool k.block k.locket <;> rfl

end

theorem orphan_of_hit {k : LeaseCmd} {e : Lease} (h : s.leaseHit k.pool k.block k.locket = some e) : s.orphan k = { e with state := 3 } := by
  rw [State.orphan, h]
  rfl

end

/-! ### The commands -/

section
variable {s : State} {b : BitVec 19}

theorem leaseCommands_answered (h : s.pfAnswers = true) : exec (.accept b) s = .next (leaseCommand s 1 b.toNat)
    ∧ exec (.grant b) s = .next (leaseCommand s 2 b.toNat) ∧ exec (.release b) s = .next (leaseCommand s 3 b.toNat)
    ∧ exec (.probe b) s = .next (leaseCommand s 4 b.toNat) ∧ exec (.drop b) s = .next (leaseCommand s 5 b.toNat) := by
  refine ⟨?_, ?_, ?_, ?_, ?_⟩ <;> exact congrArg Host.Outcome.next (if_pos h)

theorem leaseCommands_ignored (h : s.pfAnswers = false ∨ s.pool.lbusy = true) : exec (.accept b) s = .next s ∧ exec (.grant b) s = .next s
    ∧ exec (.release b) s = .next s ∧ exec (.probe b) s = .next s ∧ exec (.drop b) s = .next s := by
  have stays (op : Nat) : (if s.pfAnswers = true then leaseCommand s op b.toNat else s) = s := by
    obtain h | h := h
    · rw [h, if_neg Bool.false_ne_true]
    · rw [leaseCommand_ignored h, ite_self]
  refine ⟨?_, ?_, ?_, ?_, ?_⟩ <;> exact congrArg Host.Outcome.next (stays _)

end

/-- Settles O25: the cases of `leaseCommand` and of `leaseTimeout`, with the entry that is hit after a GRANT or RELEASE has begun
(`leaseHanded_hit`) and after a command is lost (`leaseHit_restated`). -/
theorem leaseCommandsUseTheTable : Obligations.LeaseCommandsUseTheTable := by
  rintro s b p l c rfl rfl hc
  refine ⟨fun hp hb => ?commands, leaseCommands_ignored, fun k hk h2 hr e he => ?orphans, fun k e hk h2 hit => ?orphaned,
    fun k hk h1 => congrArg Host.Outcome.next (leaseTimeout_probes hk h1), fun h => congrArg Host.Outcome.next (leaseTimeout_idle h),
    fun k hk h0 => congrArg Host.Outcome.next (leaseTimeout_early hk h0)⟩
  case commands =>
    obtain ⟨accept, grant, release, probe, drop⟩ := leaseCommands_answered (b := b) hp
    rw [accept, grant, release, probe, drop]
    refine ⟨fun h => ?_, fun hs => ⟨congrArg Host.Outcome.next (leaseCommand_drop hb hs), fun hl => ?_, fun hl w hw => ?_⟩⟩
    · have torn (op : Nat) : Host.Outcome.next (leaseCommand s op b.toNat) = (.next (leaseResult s 4 0) : Res) :=
        congrArg Host.Outcome.next (leaseCommand_tornDown hb h)
      exact ⟨torn 1, torn 2, torn 3, torn 4, torn 5⟩
    · have absent (op : Nat) (hop : op ≠ 5) : Host.Outcome.next (leaseCommand s op b.toNat) = (.next (leaseResult s 4 0) : Res) :=
        congrArg Host.Outcome.next (leaseCommand_noLocket hb hs hop hl)
      exact ⟨absent 1 (by decide), absent 2 (by decide), absent 3 (by decide), absent 4 (by decide)⟩
    · obtain rfl : w = leaseBegun s := hw
      have serves {op : Nat} {t : State} (hop : op ≠ 5) (h : leaseServed s op b.toNat = t) :
          Host.Outcome.next (leaseCommand s op b.toNat) = (.next t : Res) :=
        congrArg Host.Outcome.next ((leaseCommand_serves hb hs hop hl).trans h)
      subst hc
      refine ⟨serves (by decide) rfl, fun h => serves (by decide) (leaseServed_accept h), fun hn hf => serves (by decide) (leaseServed_full hn hf),
        fun hn => ⟨serves (by decide) (leaseServed_unknown (.inl rfl) hn), serves (by decide) (leaseServed_unknown (.inr rfl) hn)⟩,
        fun e he op hop go v k hgo hk hv => ?_⟩
      obtain rfl : k = s.leaseCmd op b.toNat := hk
      obtain rfl : v = leaseHanded (leaseBegun s (s.leaseCmd op b.toNat)) e := hv
      have goes : go = .next (leaseProgress (leaseAwaits (leaseHanded (leaseBegun s (s.leaseCmd op b.toNat)) e) (s.leaseCmd op b.toNat))) := by
        obtain rfl | rfl := hop
        · exact (hgo.trans (if_pos rfl)).trans (serves (by decide) (leaseServed_hands (.inl rfl) he))
        · exact (hgo.trans (if_neg (by decide))).trans (serves (by decide) (leaseServed_hands (.inr rfl) he))
      have unanswered : (leaseHanded (leaseBegun s (s.leaseCmd op b.toNat)) e).leaseUnanswered (s.leaseCmd op b.toNat)
          = s.leaseUnanswered (s.leaseCmd 1 b.toNat) := leaseHanded_unanswered _ _
      refine ⟨⟨_, goes, ?_⟩, fun wait => goes.trans (congrArg _ ?_), fun idle => goes.trans (congrArg _ ?_)⟩
      · obtain ⟨leases, lbusy⟩ := leaseProgress_pool (s := leaseHanded (leaseBegun s (s.leaseCmd op b.toNat)) e) (s.leaseCmd op b.toNat) rfl
        exact ⟨(leaseHit_of_leases leases _ _ _).trans (leaseHanded_hit he rfl), lbusy.trans (leaseHanded_lbusy e)⟩
      · exact (leaseProgress_awaits _ rfl).trans (if_pos (unanswered.trans wait))
      · exact (leaseProgress_awaits _ rfl).trans (if_neg (Bool.eq_false_iff.1 (unanswered.trans idle)))
  case orphans =>
    obtain rfl : e = s.orphan k := he
    exact congrArg Host.Outcome.next (leaseTimeout_orphans hk h2 hr)
  case orphaned =>
    refine ⟨_, congrArg Host.Outcome.next (leaseTimeout_orphans hk h2 (.inl (by rw [hit]; exact Option.some_ne_none e))), ?_, rfl, rfl, rfl⟩
    rw [orphan_of_hit hit]
    exact (leaseHit_of_leases (congrArg (·.leases) (orphanEvent_pool _ _ _)) _ _ _).trans (leaseHit_restated hit 3)

end Sys2Proof.Machine
end

section
/-! What a state says of its Lockets and contexts apart from what their work counts (`State.lives`): no report, packet, descriptor, fault or task that
ends changes it. -/

namespace Sys2Proof.Machine

/-! ### Lockets and contexts apart from their counters -/

/-- A slot without what the work of its Locket counts (R442, R446). -/
def Slot.unmetered (x : Slot) : Slot := { x with acct := {}, lat := [] }

/-- A context without what its work counts and without the save slots that its tasks have taken (R355, R446). -/
def Ctx.unmetered (c : Ctx) : Ctx := { c with acct := {}, used := [] }

/-- Every slot and every context, apart from what work changes of them. -/
def State.lives (s : State) : (Nat → Slot) × (Nat → Ctx) := (fun l => (s.slot l).unmetered, fun n => (s.ctx n).unmetered)

section
variable {s u : State} (h : u.lives = s.lives)
include h

theorem slot_of_lives (l : Nat) : (u.slot l).unmetered = (s.slot l).unmetered := congrArg (fun v => v.1 l) h
theorem slotState_of_lives (l : Nat) : (u.slot l).state = (s.slot l).state := (congrArg Slot.state (slot_of_lives h l) :)
theorem teardown_of_lives (l : Nat) : (u.slot l).teardown = (s.slot l).teardown := (congrArg Slot.teardown (slot_of_lives h l) :)
theorem ctx_of_lives (n : Nat) : (u.ctx n).unmetered = (s.ctx n).unmetered := congrArg (fun v => v.2 n) h
theorem ctxState_of_lives (n : Nat) : (u.ctx n).state = (s.ctx n).state := (congrArg Ctx.state (ctx_of_lives h n) :)
theorem ctxLocket_of_lives (n : Nat) : (u.ctx n).locket = (s.ctx n).locket := (congrArg Ctx.locket (ctx_of_lives h n) :)

end

theorem updSlot_lives {s : State} {l : Nat} {f : Slot → Slot} (h : (f (s.slot l)).unmetered = (s.slot l).unmetered) :
    (s.updSlot l f).lives = s.lives := by
  refine Prod.ext (funext fun k => ?_) rfl
  change ((s.setSlot l (f (s.slot l))).slot k).unmetered = (s.slot k).unmetered
  rw [State.slot_setSlot]
  split
  · next e => rw [h, e]
  · rfl

theorem updCtx_lives {s : State} {n : Nat} {f : Ctx → Ctx} (h : (f (s.ctx n)).unmetered = (s.ctx n).unmetered) :
    (s.updCtx n f).lives = s.lives := by
  refine Prod.ext rfl (funext fun k => ?_)
  change ((s.setCtx n (f (s.ctx n))).ctx k).unmetered = (s.ctx k).unmetered
  rw [State.ctx_setCtx]
  split
  · next e => rw [h, e]
  · rfl

theorem ite_lives {c : Prop} [Decidable c] {s t u : State} (ht : t.lives = s.lives) (hu : u.lives = s.lives) :
    (if c then t else u).lives = s.lives := by
  split
  · exact ht
  · exact hu

theorem forAll_lives {α : Type} {f : State → α → State} (hf : ∀ t x, (f t x).lives = t.lives) (l : List α) (s : State) :
    (s.forAll l f).lives = s.lives := forAll_const State.lives hf l s

@[simp] theorem fresh_lives (s : State) : s.fresh.2.lives = s.lives := rfl
@[simp] theorem updChan_lives (s : State) (c : Nat) (f : Chan → Chan) : (s.updChan c f).lives = s.lives := rfl
@[simp] theorem updDyn_lives (s : State) (p : Nat) (f : PortDyn → PortDyn) : (s.updDyn p f).lives = s.lives := rfl
@[simp] theorem updDesc_lives (s : State) (q idx : Nat) (f : Desc → Desc) : (s.updDesc q idx f).lives = s.lives := rfl
@[simp] theorem updJob_lives (s : State) (jid : Nat) (f : Job → Job) : (s.updJob jid f).lives = s.lives := rfl
@[simp] theorem raise_lives (s : State) (i : Nat) : (raise s i).lives = s.lives := ite_lives rfl rfl
@[simp] theorem stopQueue_lives (s : State) (q : Nat) : (stopQueue s q).lives = s.lives := ite_lives rfl rfl

/-! Counters, records and events -/

@[simp] theorem charge_lives (s : State) (ctx l : Nat) (f : Acct → Acct) : (charge s ctx l f).lives = s.lives := by
  have locket (t : State) : (chargeLocket t l f).lives = t.lives := ite_lives (updSlot_lives rfl) rfl
  exact (locket _).trans (ite_lives (updCtx_lives rfl) rfl)
@[simp] theorem grantPair_lives (s : State) (pair unit dir n : Nat) : (grantPair s pair unit dir n).lives = s.lives := by
  unfold grantPair
  dsimp only
  split
  · exact ite_lives (updSlot_lives rfl) rfl
  · rfl
@[simp] theorem noteGrant_lives (s : State) (l f set unit dir n : Nat) : (noteGrant s l f set unit dir n).lives = s.lives :=
  grantPair_lives _ _ _ _ _
@[simp] theorem notePcie_lives (s : State) (l f ctx dir n : Nat) : (notePcie s l f ctx dir n).lives = s.lives :=
  (noteGrant_lives _ _ _ _ _ _ _).trans (ite_lives (charge_lives _ _ _ _) rfl)
@[simp] theorem crossSeam_lives (s : State) (l f ctx a b n : Nat) : (crossSeam s l f ctx a b n).lives = s.lives :=
  ite_lives rfl ((noteGrant_lives _ _ _ _ _ _ _).trans (charge_lives _ _ _ _))
@[simp] theorem sendMsi_lives (s : State) (f v : Nat) : (sendMsi s f v).lives = s.lives :=
  ite_lives rfl (ite_lives rfl (ite_lives rfl rfl))
@[simp] theorem emit_lives (s : State) (f : Nat) (r : Ring) (irq : Bool) (x : Record) (facet : Nat) : (emit s f r irq x facet).lives = s.lives := by
  have sent : (hostSend (notePcie s x.locket facet x.ctx 0 32) (.record f r.addr r.prod.toNat r.phase x)).lives = s.lives :=
    notePcie_lives _ _ _ _ _ _
  exact ite_lives ((sendMsi_lives _ _ _).trans sent) sent
@[simp] theorem putEv_lives (s : State) (f : Nat) (x : Record) : (putEv s f x).lives = s.lives :=
  ite_lives (ite_lives rfl rfl) (ite_lives (emit_lives _ _ _ _ _ _) rfl)
@[simp] theorem platformEvent_lives (s : State) (m : PlatformMsg) : (platformEvent s m).lives = s.lives := by
  unfold platformEvent
  split <;> rfl
@[simp] theorem postEvent_lives (s : State) (x : Record) : (postEvent s x).lives = s.lives := by
  unfold postEvent
  extract_lets s1 s2 logged s3
  have own : s1.lives = s.lives := ite_lives (putEv_lives _ _ _) (putEv_lives _ _ _)
  have mirrored : s2.lives = s.lives := ite_lives ((putEv_lives _ _ _).trans own) own
  have kept : s3.lives = s.lives := ite_lives mirrored mirrored
  exact ite_lives ((platformEvent_lives _ _).trans kept) kept

/-! Packets -/

@[simp] theorem countExpired_lives (s : State) (p : Nat) : (countExpired s p).lives = s.lives := ite_lives (raise_lives _ _) rfl
@[simp] theorem txFlit_lives (s : State) (p wait k i : Nat) (q : Queued) : (txFlit s p wait k i q).lives = s.lives :=
  ite_lives (countExpired_lives _ _) (grantPair_lives _ _ _ _ _)
@[simp] theorem txPump_lives (s : State) (p wait fuel : Nat) : (txPump s p wait fuel).lives = s.lives := by
  induction fuel generalizing s with
  | zero => rfl
  | succ fuel ih =>
    unfold txPump
    refine ite_lives rfl ?_
    dsimp only
    split
    · rfl
    · split
      · rfl
      · exact (ih _).trans (txFlit_lives _ _ _ _ _ _)
@[simp] theorem enqueue_lives (s : State) (p vc budget resid pair : Nat) (bytes : List (BitVec 8)) :
    (enqueue s p vc budget resid pair bytes).lives = s.lives := txPump_lives _ _ _ _
theorem protect_lives {s t : State} {p : Nat} {k k1 : Packet} (h : protect s p k = some (t, k1)) : t.lives = s.lives := by
  unfold protect at h
  split at h
  · cases h
  · dsimp only at h
    split at h <;> cases h
    rfl
@[simp] theorem sendPacket_getD_lives (s : State) (p wait : Nat) (k : Packet) : ((sendPacket s p wait k).getD s).lives = s.lives := by
  unfold sendPacket
  split
  · rfl
  · next hp => exact (enqueue_lives _ _ _ _ _ _ _).trans ((charge_lives _ _ _ _).trans (protect_lives hp))
@[simp] theorem sendResponse_lives (s : State) (wait : Nat) (k : Packet) : (sendResponse s wait k).lives = s.lives := by
  refine ite_lives rfl ?_
  split
  · rfl
  · exact sendPacket_getD_lives _ _ _ _
@[simp] theorem track_lives (s : State) (p : Nat) (t : Tracked) : (track s p t).lives = s.lives := sendPacket_getD_lives _ _ _ _
@[simp] theorem sendRequest_lives (s : State) (k : Packet) (why : Purpose) : (sendRequest s k why).1.lives = s.lives := by
  unfold sendRequest
  dsimp only
  repeat' split
  all_goals simp
theorem sendControl_lives {s t : State} {l dst : Nat} {payload : List (BitVec 8)} {why : Purpose} {o : SendResult}
    (h : sendControl s l dst payload why = (t, o)) : t.lives = s.lives :=
  (congrArg (·.1.lives) h).symm.trans (sendRequest_lives _ _ _)
@[simp] theorem sendAway_lives (s : State) (w : Sender) (kind : ReqKind) (dpa len : Nat) (data : List (BitVec 8)) :
    (sendAway s w kind dpa len data).1.lives = s.lives := by
  unfold sendAway
  dsimp only
  split
  · rfl
  · split
    all_goals
      next h => exact (congrArg (·.1.lives) h).symm.trans ((sendRequest_lives _ _ _).trans (crossSeam_lives _ _ _ _ _ _ _))

/-! Fence records -/

@[simp] theorem settleXfer_lives (s : State) (c sec : Nat) (ch : Chan) (e : Xfer) (data : List (BitVec 8)) (w : Cause) :
    (settleXfer s c sec ch e data w).1.lives = s.lives := by
  have counted : (if w.counted then s.setChan c ch else (s.setChan c ch).updChan c (fun x => x.countPoison sec w.wr)).lives = s.lives :=
    ite_lives rfl rfl
  cases e with
  | ok => rfl
  | mark => exact (raise_lives _ _).trans counted
  | bond => exact (raise_lives _ _).trans ((postEvent_lives _ _).trans counted)
  | failed => exact (raise_lives _ _).trans (postEvent_lives _ _)
@[simp] theorem homeRead_lives (s : State) (c sec i : Nat) (x : Xmit) (w : Cause) : (homeRead s c sec i x w).1.lives = s.lives := by
  unfold homeRead
  split
  · exact ite_lives rfl rfl
  · exact settleXfer_lives _ _ _ _ _ _ _
@[simp] theorem noteOwn_lives (s : State) (l : Labels) (c n : Nat) (ok : Bool) : (noteOwn s l c n ok).lives = s.lives := by
  have granted : (noteGrant (crossSeam s l.locket l.facet l.ctx l.half (chanHalf c) n) l.locket l.facet 64 (chanUnit c) 0 n).lives = s.lives :=
    (noteGrant_lives _ _ _ _ _ _ _).trans (crossSeam_lives _ _ _ _ _ _ _)
  exact ite_lives ((charge_lives _ _ _ _).trans granted) granted
@[simp] theorem readRecord_lives (s : State) (l : Labels) (i : Nat) (x : Xmit) : (readRecord s l i x).1.lives = s.lives := by
  unfold readRecord
  dsimp only
  split <;> simp
@[simp] theorem registerWait_lives (s : State) (l : Labels) (i gen value : Nat) (who : WaitFor) (x : Xmit) :
    (registerWait s l i gen value who x).1.lives = s.lives := by
  have read := readRecord_lives s l i x
  unfold registerWait
  dsimp only
  split
  · rfl
  · split
    all_goals
      next h =>
        rw [h] at read
        repeat' split
        all_goals exact read

/-! Descriptors and their queues -/

@[simp] theorem launchReq_lives (s : State) (w : Sender) (kind : ReqKind) (place : Place) (dpa len : Nat) (data : List (BitVec 8))
    (set epoch : Nat) : (launchReq s w kind place dpa len data set epoch).lives = s.lives := ite_lives rfl rfl
@[simp] theorem completeDesc_lives (s : State) (q idx : Nat) : (completeDesc s q idx).lives = s.lives := by
  unfold completeDesc
  split
  · rfl
  · exact ite_lives rfl (emit_lives _ _ _ _ _ _)
@[simp] theorem signalAway_lives (s : State) (q : Nat) (d : Desc) : (signalAway s q d).lives = s.lives := by
  unfold signalAway
  dsimp only
  split
  all_goals
    next h => simpa using (congrArg (·.1.lives) h).symm
@[simp] theorem finishDesc_lives (s : State) (q idx status : Nat) (det : BitVec 128) : (finishDesc s q idx status det).lives = s.lives := by
  unfold finishDesc
  split
  · rfl
  · refine ite_lives (completeDesc_lives _ _ _) (ite_lives (ite_lives ?own (completeDesc_lives _ _ _)) (ite_lives (signalAway_lives _ _ _) ?asked))
    case own =>
      split
      · exact launchReq_lives _ _ _ _ _ _ _ _ _
      · exact completeDesc_lives _ _ _
    case asked =>
      split
      all_goals
        next h => simp [sendControl_lives h]
@[simp] theorem waitOutcome_lives (s : State) (q idx out : Nat) : (waitOutcome s q idx out).lives = s.lives := by
  unfold waitOutcome
  split <;> simp
@[simp] theorem startWait_lives (s : State) (q : Nat) (d : Desc) (x : Xmit) : (startWait s q d x).lives = s.lives := by
  refine ite_lives rfl (ite_lives ((waitOutcome_lives _ _ _ _).trans (registerWait_lives _ _ _ _ _ _ _)) ?_)
  split
  all_goals
    next h => simp [sendControl_lives h]
@[simp] theorem refuseDesc_lives (s : State) (q idx st : Nat) : (refuseDesc s q idx st).lives = s.lives := finishDesc_lives _ _ _ _ _
@[simp] theorem askFences_lives (s : State) (q idx l : Nat) (hs : List Nat) : (askFences s q idx l hs).lives = s.lives := by
  induction hs generalizing s with
  | nil => rfl
  | cons h hs ih =>
    unfold askFences
    split
    all_goals
      next e => simp [ih, sendControl_lives e]
theorem advanceQueue_lives (s : State) (q fuel : Nat) : (advanceQueue s q fuel).lives = s.lives := by
  induction fuel generalizing s with
  | zero => rfl
  | succ fuel ih =>
    unfold advanceQueue
    dsimp only
    repeat' split
    all_goals simp [ih]
@[simp] theorem settle_lives (s : State) (q : Nat) : (settle s q).lives = s.lives := advanceQueue_lives _ _ _
@[simp] theorem endDesc_lives (s : State) (q idx status : Nat) (det : BitVec 128) : (endDesc s q idx status det).lives = s.lives :=
  (settle_lives _ _).trans (finishDesc_lives _ _ _ _ _)
@[simp] theorem abortUnbegun_lives (s : State) (p : Sq → Desc → Bool) : (abortUnbegun s p).1.lives = s.lives :=
  (forAll_lives settle_lives _ _).trans (forAll_lives (fun _ _ => finishDesc_lives _ _ _ _ _) _ _)
@[simp] theorem abandonSwap_lives (s : State) (i status : Nat) (us : Option Nat) : (abandonSwap s i status us).lives = s.lives := by
  unfold abandonSwap
  extract_lets s0 lasted x ds _ s1 s2 s3
  have counted : s0.lives = s.lives := ite_lives rfl rfl
  split
  · exact counted
  · have undefined : s2.lives = s1.lives := forAll_lives (fun t c => updChan_lives t c Chan.undefine) _ _
    exact ite_lives counted ((endDesc_lives _ _ _ _ _).trans (undefined.trans counted))

/-! Faults -/

@[simp] theorem setPend_lives (s : State) (e : Nat) (v : Option Nat) : (s.setPend e v).lives = s.lives := ite_lives rfl rfl
@[simp] theorem runAgain_lives (s : State) (tid : Nat) : (runAgain s tid).lives = s.lives := ite_lives rfl rfl
@[simp] theorem undefer_lives (s : State) (e : Nat) : (undefer s e).lives = s.lives := forAll_lives runAgain_lives _ _
@[simp] theorem clearPend_lives (s : State) (e : Nat) : (clearPend s e).lives = s.lives :=
  (undefer_lives _ _).trans (setPend_lives _ _ _)
@[simp] theorem postFault_lives (s : State) (entry : Nat) : (postFault s entry).lives = s.lives := by
  unfold postFault
  split
  · rfl
  · exact (emit_lives _ _ _ _ _ _).trans (ite_lives rfl rfl)
@[simp] theorem holdFault_lives (s : State) (o : OutEnt) : (holdFault s o).lives = s.lives := by
  have held := setPend_lives s o.fault.engine (some o.fault.fid)
  exact ite_lives held ((postEvent_lives _ _).trans held)
@[simp] theorem raiseFault_lives (s : State) (f : FaultRec) : (raiseFault s f).1.lives = s.lives := by
  have raised := raise_lives s (0x178 + engineHalf f.engine)
  unfold raiseFault
  dsimp only
  split
  · exact raised
  · split
    · exact raised
    · split
      · exact (setPend_lives _ _ _).trans raised
      · split
        · exact (postFault_lives _ _).trans raised
        · exact (holdFault_lives _ _).trans raised
@[simp] theorem admitHeld_lives (s : State) (fuel : Nat) : (admitHeld s fuel).lives = s.lives := by
  induction fuel generalizing s with
  | zero => rfl
  | succ fuel ih =>
    unfold admitHeld
    split
    · rfl
    · have raised (t : State) (f : FaultRec) : (raiseFault (t.setPend f.engine none) f).1.lives = t.lives :=
        (raiseFault_lives _ _).trans (setPend_lives _ _ _)
      refine ite_lives rfl ((ih _).trans (ite_lives ((undefer_lives _ _).trans (raised _ _)) (raised _ _)))
@[simp] theorem endEntries_lives (s : State) (p : OutEnt → Bool) : (endEntries s p).lives = s.lives := by
  unfold endEntries
  extract_lets gone s1 held _ s2 s3 s4
  have cleared : s3.lives = s.lives := forAll_lives (fun t (h : Nat × Nat) => clearPend_lives t h.1) _ _
  exact (admitHeld_lives _ _).trans (ite_lives cleared ((raise_lives _ _).trans cleared))
@[simp] theorem endCtxFaults_lives (s : State) (n : Nat) : (endCtxFaults s n).lives = s.lives :=
  (endEntries_lives _ _).trans (forAll_lives (fun t (f : FaultRec) => clearPend_lives t f.engine) _ _)

/-! Tasks that end, and jobs that fail -/

@[simp] theorem dropReqs_lives (s : State) (p : Src → Bool) : (dropReqs s p).lives = s.lives := by
  unfold dropReqs
  refine forAll_lives ?_ _ _
  exact fun _ _ => rfl
@[simp] theorem clearCore_lives (s : State) (n : Nat) : (clearCore s n).lives = s.lives := rfl
@[simp] theorem passCycles_lives (s : State) (n : Nat) : (passCycles s n).lives = s.lives := by
  unfold passCycles
  split
  · rfl
  · exact ite_lives (charge_lives _ _ _ _) rfl
@[simp] theorem taskPart_lives (s : State) (q idx tidx status : Nat) (g : GuardSum) : (taskPart s q idx tidx status g).lives = s.lives := by
  unfold taskPart
  dsimp only
  split
  · exact ite_lives (endDesc_lives _ _ _ _ _) rfl
  · rfl
@[simp] theorem tellLauncher_lives (s : State) (e : Ending) : (tellLauncher s e).lives = s.lives := by
  unfold tellLauncher
  split
  · exact taskPart_lives _ _ _ _ _ _
  · exact sendResponse_lives _ _ _
@[simp] theorem settleEndings_lives (s : State) : (settleEndings s).lives = s.lives := by
  unfold settleEndings
  refine forAll_lives (fun t e => ?_) _ _
  exact ite_lives rfl (tellLauncher_lives _ _)
@[simp] theorem taskEnd_lives (s : State) (tid status : Nat) (g : GuardSum) : (taskEnd s tid status g).lives = s.lives := by
  unfold taskEnd
  split
  · rfl
  · next t _ =>
    extract_lets s1 s2 e
    have freed : s1.lives = s.lives := updCtx_lives (by split <;> rfl)
    exact (settleEndings_lives _).trans (ite_lives ((raise_lives _ _).trans freed) freed)
@[simp] theorem killTask_lives (s : State) (tid status : Nat) : (killTask s tid status).lives = s.lives := by
  have dropped := dropReqs_lives s (Src.ofTask tid)
  unfold killTask
  split
  · rfl
  · refine (taskEnd_lives _ _ _ _).trans ?_
    split
    · exact (clearCore_lives _ _).trans ((passCycles_lives _ _).trans dropped)
    · exact dropped
@[simp] theorem jobFail_lives (s : State) (jid st : Nat) : (jobFail s jid st).lives = s.lives := by
  unfold jobFail
  split
  · exact ite_lives rfl (raise_lives _ _)
  · rfl

end Sys2Proof.Machine
end

section
/-! Lockets that are torn down (R451 to R455): how a teardown begins, that it leaves the slot DRAINING with no context ACTIVE, and what takes it on; and
O19, which says so. -/

namespace Sys2Proof.Machine

/-! ### Contexts that abort (R374, R452) -/

/-- A key that reads otherwise than an unlisted one is listed with what it reads. -/
theorem mem_of_get_ne {α : Type} {d : Nat → α} {m : SMap α} {k : Nat} (h : SMap.get d m k ≠ d k) : (k, SMap.get d m k) ∈ m := by
  induction m with
  | nil => exact absurd rfl h
  | cons e m ih =>
    by_cases hk : e.1 = k
    · rw [SMap.get, if_pos hk, ← hk]
      exact .head _
    · rw [SMap.get, if_neg hk] at h ⊢
      exact .tail _ (ih h)

/-- A context whose abort has begun (step 1 of R374). -/
def Ctx.aborting (c : Ctx) : Ctx := { c with state := 2 }

section
variable {s : State} {l c : Nat}

theorem mem_ctxsOf {p : Ctx → Bool} (h0 : (s.ctx c).state ≠ 0) (hl : (s.ctx c).locket = l) (hp : p (s.ctx c) = true) : c ∈ s.ctxsOf l p := by
  have listed : (c, s.ctx c) ∈ s.fnc.ctxs := mem_of_get_ne fun e => h0 (congrArg Ctx.state e)
  exact List.mem_map.2 ⟨_, List.mem_filter.2 ⟨listed, by simp [h0, hl, hp]⟩, rfl⟩

/-- The start of an abort changes its context's STATE, and no other context and no slot. -/
theorem abortStart_lives (s : State) (n : Nat) : (abortStart s n).1.lives = (s.updCtx n Ctx.aborting).lives := by
  unfold abortStart
  extract_lets s1 s2
  have stopped : s2.lives = s1.lives := forAll_lives stopQueue_lives _ _
  have unbegun := abortUnbegun_lives s2 (fun q d => d.ofCtx q n)
  generalize abortUnbegun s2 (fun q d => d.ofCtx q n) = r at unbegun ⊢
  obtain ⟨s3, descs⟩ := r
  dsimp -zeta only
  extract_lets ts killed s4 faults s5 s6 s7
  have ended : s4.lives = s3.lives := forAll_lives (fun t n => killTask_lives t n stABORTED) _ _
  have faultless : s5.lives = s4.lives := endCtxFaults_lives _ _
  have failed : s6.lives = s5.lives := by
    refine forAll_lives (fun t j => ?_) _ _
    exact (updJob_lives _ _ _).trans (jobFail_lives _ _ _)
  have walked : s7.lives = s6.lives := by
    refine forAll_lives (fun t j => ?_) _ _
    exact ite_lives rfl rfl
  exact walked.trans (failed.trans (faultless.trans (ended.trans (unbegun.trans stopped))))

/-- Steps that each change the STATE of their own context alone. -/
theorem forAll_aborting {f : State → Nat → State} (hf : ∀ t n, (f t n).lives = (t.updCtx n Ctx.aborting).lives) (ns : List Nat) (s : State) :
    (∀ l, ((s.forAll ns f).slot l).unmetered = (s.slot l).unmetered)
    ∧ ∀ c, ((s.forAll ns f).ctx c).locket = (s.ctx c).locket ∧ ((s.forAll ns f).ctx c).state = if c ∈ ns then 2 else (s.ctx c).state := by
  induction ns generalizing s with
  | nil => exact ⟨fun _ => rfl, fun _ => ⟨rfl, rfl⟩⟩
  | cons n ns ih =>
    obtain ⟨slot, ctx⟩ := ih (f s n)
    refine ⟨fun l => (slot l).trans (slot_of_lives (hf s n) l), fun c => ?_⟩
    obtain ⟨locket, state⟩ := ctx c
    rw [State.forAll, locket, state, ctxLocket_of_lives (hf s n), ctxState_of_lives (hf s n)]
    by_cases hc : c = n
    · subst hc
      simp [Ctx.aborting]
    · simp [State.ctx_updCtx_other _ _ _ _ hc, hc]

/-! ### Steps 1 and 2 of a teardown (R452) -/

/-- A slot in a given STATE. -/
def Slot.inState (k : Nat) (x : Slot) : Slot := { x with state := k }

@[simp] theorem Slot.inState_state (k : Nat) (x : Slot) : (x.inState k).state = k := rfl
@[simp] theorem Slot.inState_teardown (k : Nat) (x : Slot) : (x.inState k).teardown = x.teardown := rfl

/-- The slot of a Locket is FENCED. -/
def slotFenced (s : State) (l : Nat) : State := s.updSlot l (Slot.inState 2)

/-- Step 2 of R452 makes the slot FENCED and starts the aborts of its contexts; its queues change no slot and no context. -/
theorem fenceLocket_lives (s : State) (l : Nat) : (fenceLocket s l).lives =
    ((slotFenced s l).forAll ((slotFenced s l).ctxsOf l (fun c => c.state == 1)) (fun s n => (abortStart s n).1)).lives :=
  (abortUnbegun_lives _ _).trans (forAll_lives stopQueue_lives _ _)

/-- A Locket that is fenced is torn down as before, and none of its contexts is ACTIVE. -/
theorem fenceLocket_fences (s : State) (l : Nat) : ((fenceLocket s l).slot l).teardown = (s.slot l).teardown
    ∧ ∀ c, ((fenceLocket s l).ctx c).locket = l → ((fenceLocket s l).ctx c).state ≠ 1 := by
  have view := fenceLocket_lives s l
  obtain ⟨slot, ctx⟩ := forAll_aborting abortStart_lives ((slotFenced s l).ctxsOf l (fun c => c.state == 1)) (slotFenced s l)
  refine ⟨?_, fun c => ?_⟩
  · rw [teardown_of_lives view]
    refine (congrArg Slot.teardown (slot l) :).trans ?_
    rw [slotFenced, State.slot_updSlot_same]
    rfl
  · obtain ⟨locket, state⟩ := ctx c
    rw [ctxLocket_of_lives view, ctxState_of_lives view, locket, state]
    intro hl h1
    split at h1
    · exact absurd h1 (by decide)
    · next out => exact out (mem_ctxsOf (by rw [h1]; decide) hl (beq_iff_eq.2 h1))

theorem tdiError_lives (s : State) (l : Nat) : (tdiError s l).lives = s.lives :=
  ite_lives ((abortUnbegun_lives _ _).trans (forAll_lives stopQueue_lives _ _)) rfl

/-- A slot whose teardown drains (step 3 of R452). -/
def Slot.torn (t : Teardown) (x : Slot) : Slot := { x with teardown := some { t with step := 3 }, resetting := false }

/-- Before step 2 the slot shows its teardown. -/
theorem beginTeardown_eq (s : State) (l : Nat) (t : Teardown) : ∃ v : State, beginTeardown s l t = (fenceLocket v l).updSlot l (Slot.inState 3)
    ∧ v.lives = (s.updSlot l (Slot.torn t)).lives := by
  unfold beginTeardown
  extract_lets s0 pre s1
  have abandoned : s1.lives = s0.lives := forAll_lives (fun t i => abandonSwap_lives t i stABORTED none) _ _
  exact ⟨tdiError s1 l, rfl, (tdiError_lives _ _).trans abandoned⟩

/-- A teardown that begins leaves its slot DRAINING at step 3, with no context ACTIVE. -/
theorem beginTeardown_begins (s : State) (l : Nat) (t : Teardown) : ((beginTeardown s l t).slot l).state = 3
    ∧ ((beginTeardown s l t).slot l).teardown = some { t with step := 3 }
    ∧ ∀ c, ((beginTeardown s l t).ctx c).locket = l → ((beginTeardown s l t).ctx c).state ≠ 1 := by
  obtain ⟨v, eq, view⟩ := beginTeardown_eq s l t
  obtain ⟨torn, fenced⟩ := fenceLocket_fences v l
  rw [eq, State.updSlot_eq]
  simp only [State.slot_setSlot_same, State.ctx_setSlot, Slot.inState_state, Slot.inState_teardown]
  refine ⟨trivial, torn.trans ((teardown_of_lives view l).trans ?_), fenced⟩
  rw [State.slot_updSlot_same]
  rfl

end

/-! ### LOCKET_TEARDOWN (R451, R453) -/

/-- A teardown that its home has left, as this module alone goes on with it for a descriptor. -/
def Teardown.alone (t : Teardown) (q idx : Nat) : Teardown := { t with
  desc := some (q, idx), msgHome := none, members := [], reported := [], home := false, step := if t.step = 4 then 3 else t.step }

section
variable {s : State} {q idx l : Nat} {t : Teardown}

theorem locketTeardown_runs (ht : (s.slot l).teardown = some t) (hr : t.runs s.freeCtr = true) :
    locketTeardown s q idx l = endDesc s.takeFree.2 q idx stBUSY 0 := by
  refine if_pos ?_
  change (s.slot l).teardown.any (fun t => t.runs s.freeCtr) = true
  rw [ht]
  exact hr

/-- A teardown that does not run is in nobody's way. -/
theorem locketTeardown_goesOn (hr : ∀ t, (s.slot l).teardown = some t → t.runs s.freeCtr = false) :
    ¬(s.slot l).teardown.any (fun t => t.runs s.freeCtr) = true := by
  cases h : (s.slot l).teardown with
  | none => exact Bool.false_ne_true
  | some t => exact Bool.eq_false_iff.1 (hr t h)

theorem locketTeardown_free (ht : (s.slot l).teardown = none) (h0 : (s.slot l).state = 0) :
    locketTeardown s q idx l = endDesc s.takeFree.2 q idx stOK 0 :=
  (if_neg (locketTeardown_goesOn fun t h => by rw [ht] at h; cases h)).trans (if_pos h0)

theorem locketTeardown_takesOver (ht : (s.slot l).teardown = some t) (hr : t.runs s.freeCtr = false) (h0 : (s.slot l).state ≠ 0) :
    locketTeardown s q idx l = takeOver s.takeFree.2 l { t with desc := some (q, idx) } := by
  refine (if_neg (locketTeardown_goesOn fun u h => ?_)).trans ((if_neg h0).trans ?_)
  · rw [ht] at h
    cases h
    exact hr
  · extract_lets home ms
    split
    · next h =>
      cases ht.symm.trans h
      rfl
    · next h => cases ht.symm.trans h

/-- The members that a home tears down with its own slot. -/
def tornMembers (s : State) (l : Nat) : List Nat :=
  if (s.slot l).active.home == s.trb.idModule then (s.slot l).active.member.filter (· != s.trb.idModule) else []

/-- The teardown that a LOCKET_TEARDOWN begins. -/
def newTeardown (s : State) (q idx l : Nat) : Teardown := {
  desc := some (q, idx), home := (s.slot l).active.home == s.trb.idModule, tag := (s.slot l).active.tag, members := tornMembers s l }

theorem locketTeardown_begins (ht : (s.slot l).teardown = none) (h0 : (s.slot l).state ≠ 0) : locketTeardown s q idx l =
    beginTeardown (s.takeFree.2.forAll (tornMembers s l) (fun u m => sendTeardown u l m 5 2 (s.slot l).active.tag)) l (newTeardown s q idx l) := by
  refine (if_neg (locketTeardown_goesOn fun t h => by rw [ht] at h; cases h)).trans ((if_neg h0).trans ?_)
  extract_lets home ms
  split
  · next h => cases ht.symm.trans h
  · rfl

/-- The slot drains and no context of its Locket is ACTIVE, also when the queue has gone on. -/
theorem locketTeardown_drains (ht : (s.slot l).teardown = none) (h0 : (s.slot l).state ≠ 0) {u : State}
    (hu : u = settle (locketTeardown s q idx l) q) :
    (u.slot l).state = 3 ∧ (u.slot l).teardown.isSome = true ∧ ∀ c, (u.ctx c).locket = l → (u.ctx c).state ≠ 1 := by
  rw [locketTeardown_begins ht h0] at hu
  generalize s.takeFree.2.forAll _ _ = v at hu
  obtain ⟨state, torn, fenced⟩ := beginTeardown_begins v l (newTeardown s q idx l)
  have kept : u.lives = (beginTeardown v l (newTeardown s q idx l)).lives := by rw [hu, settle_lives]
  refine ⟨(slotState_of_lives kept l).trans state, ?_, fun c => ?_⟩
  · rw [teardown_of_lives kept, torn, Option.isSome_some]
  · rw [ctxLocket_of_lives kept, ctxState_of_lives kept]
    exact fenced c

/-- A module that goes on alone waits for its own drain, for blocks that are cleared and for its scrubs; else its step has ended. -/
theorem takeOver_eq {w : State} (hw : w = updTeardown s l (fun _ => t.alone q idx)) : takeOver s l { t with desc := some (q, idx) } =
    if t.step = 3 ∨ w.pool.freeCmds ≠ [] ∨ t.scrubs ≠ [] then w
    else advanceTeardown (stepDone w l (if t.step = 4 then 3 else t.step)) l teardownFuel := by
  subst hw
  exact ite_congr (propext (by simp [Teardown.alone])) (fun _ => rfl) (fun _ => rfl)

/-! ### What takes a teardown on (R452, R453) -/

/-- The end of the drain on this module: what was unanswered has been answered, and counts (R455, R456). -/
def drainEnded (s : State) (l : Nat) : State := updTeardown (drainLocket s l true) l (fun t => { t with
  reqs := s.locketReqs l, step := if t.msgHome.isSome then 4 else 3 })

theorem teardownDrained_ends (ht : (s.slot l).teardown = some t) (hs : (s.slot l).state = 3) (h3 : t.step = 3)
    (hr : t.reported.contains s.trb.idModule = false) :
    teardownDrained s l = advanceTeardown (stepDone (drainEnded s l) l 3) l teardownFuel := by
  unfold teardownDrained
  rw [ht]
  exact if_pos (by rw [hs, h3, hr]; rfl)

theorem teardownDrained_waits (ht : (s.slot l).teardown = some t)
    (h : (s.slot l).state ≠ 3 ∨ t.step ≠ 3 ∨ t.reported.contains s.trb.idModule = true) : teardownDrained s l = s := by
  unfold teardownDrained
  rw [ht]
  refine if_neg ?_
  obtain h | h | h := h
  · simp [h]
  · simp [h]
  · rw [h, Bool.not_true, Bool.and_false]
    exact Bool.false_ne_true

theorem teardownDrained_none (ht : (s.slot l).teardown = none) : teardownDrained s l = s := by
  unfold teardownDrained
  rw [ht]

section
variable {m : Nat}

theorem memberMissing_dropped (ht : (s.slot l).teardown = some t) (hh : t.msgHome = none) (hm : t.members.contains m = true)
    (hr : t.reported.contains m = false) : memberMissing s l m = advanceTeardown (updTeardown s l (fun t => { t with
      members := t.members.filter (· != m), missing := t.missing + 1 })) l teardownFuel := by
  unfold memberMissing
  rw [ht]
  exact if_neg (by rw [hh, hm, hr]; decide)

theorem memberMissing_ignored (ht : (s.slot l).teardown = some t)
    (h : t.msgHome ≠ none ∨ t.members.contains m = false ∨ t.reported.contains m = true) : memberMissing s l m = s := by
  unfold memberMissing
  rw [ht]
  refine if_pos ?_
  obtain h | h | h := h
  · rw [Option.isSome_iff_ne_none.2 h]; rfl
  · rw [h, Bool.not_false, Bool.or_true]; rfl
  · rw [h, Bool.or_true]

theorem memberMissing_none (ht : (s.slot l).teardown = none) : memberMissing s l m = s := by
  unfold memberMissing
  rw [ht]

end

/-- Nothing goes on where no fence command, no revocation and no region that is left waits. -/
theorem progress_idle (hc : s.fnc.cmd = none) (hr : s.pool.revoking = none) (hp : s.pool.state ≠ 3) : poolProgress (fenceProgress s) = s := by
  have fences : fenceProgress s = s := by
    unfold fenceProgress
    rw [hc]
  rw [fences, poolProgress, hr]
  exact if_neg hp

end

/-! ### The command -/

section
variable {s : State} {q : SqIx} {l : SlotIx} {d : Desc} {t : Teardown} (hd : s.ready q 0x29 = some d) (hl : d.f 32 1 = l.val)
include hd hl

theorem locketTeardown_ready : exec (.locketTeardown q) s = .next (if (s.slot l).resetting then s
    else settle (locketTeardown (beginDesc s q d.idx) q d.idx l) q) :=
  congrArg Host.Outcome.next ((withReady_some hd).trans (by rw [hl]))

theorem locketTeardown_starts (hr : (s.slot l).resetting = false) :
    exec (.locketTeardown q) s = .next (settle (locketTeardown (beginDesc s q d.idx) q d.idx l) q) :=
  (locketTeardown_ready hd hl).trans (congrArg Host.Outcome.next (if_neg (Bool.eq_false_iff.1 hr)))

end

/-- Settles O19: the cases of `locketTeardown`, of `teardownDrained` and of `memberMissing`; the teardown that begins leaves the slot DRAINING and no
context ACTIVE (`beginTeardown_begins`), and its queue goes on without changing either (`settle_lives`). -/
theorem teardownsRun : Obligations.TeardownsRun := by
  refine fun s q l m => ⟨fun d b hd hl hb => ?command, fun h => congrArg _ (withReady_none h), fun t ht => ⟨fun hs h3 hr => ?_, fun h => ?_,
    fun hh hm hr => congrArg _ (memberMissing_dropped ht hh hm hr), fun h => congrArg _ (memberMissing_ignored ht h)⟩, progress_idle,
    fun ht => ⟨?_, congrArg _ (memberMissing_none ht)⟩⟩
  case command =>
    obtain rfl : b = (beginDesc s q d.idx).takeFree.2 := hb
    have starts := locketTeardown_starts hd hl
    refine ⟨fun hr => ?resets, fun hr ht h0 => ?free, fun t hr ht hruns => ?busy, fun t h hr ht hh gone h0 w hw => ?alone, fun hr ht h0 => ?begins⟩
    case resets => exact (locketTeardown_ready hd hl).trans (congrArg _ (if_pos hr))
    case free => rw [starts hr, locketTeardown_free (s := beginDesc s q d.idx) ht h0]
    case busy =>
      have runs : t.runs (beginDesc s q d.idx).freeCtr = true := by
        obtain none | home := hruns
        · rw [Teardown.runs, none]; rfl
        · exact Bool.or_eq_true_iff.2 (.inr (congrArg (!·) home))
      rw [starts hr, locketTeardown_runs (s := beginDesc s q d.idx) ht runs]
    case alone =>
      have left : t.runs (beginDesc s q d.idx).freeCtr = false := by
        rw [Teardown.runs, hh]
        exact congrArg (!·) gone
      rw [starts hr, locketTeardown_takesOver (s := beginDesc s q d.idx) ht left h0, takeOver_eq hw]
    case begins => exact ⟨_, starts hr, locketTeardown_drains (s := beginDesc s q d.idx) ht h0 rfl⟩
  all_goals refine congrArg (fun u => Host.Outcome.next (poolProgress (fenceProgress u))) ?_
  · exact teardownDrained_ends ht hs h3 hr
  · exact teardownDrained_waits ht h
  · exact teardownDrained_none ht

end Sys2Proof.Machine
end
